-- ==== Sys2Proof/Word.lean ====
section
/-! DEFINITION. The words of the Fjoine: bytes, 32-bit register words, 64-bit scalar words, 96-bit lane instructions
(R5, R19, R42, R64). -/

namespace Sys2Proof

/-- One byte of memory. -/
abbrev Byte := BitVec 8
/-- One v register of one thread, one mask register, one scalar instruction (R19, R36). -/
abbrev W32 := BitVec 32
/-- One scalar register or control register (R64, R82). -/
abbrev W64 := BitVec 64
/-- One lane instruction (R42). -/
abbrev W96 := BitVec 96
/-- A scalar register number, s0 to s63 (R36). -/
abbrev SReg := BitVec 6
/-- A v register number, v0 to v127 (R43). -/
abbrev VReg := BitVec 7

end Sys2Proof
end

