-- ==== Sys2Proof/Syntax.lean ====
section
/-! DEFINITION. The instructions of the Fjoine: one constructor for each row of spec/opcode_table.json. The scalar rows
are 32-bit instructions (R36 to R41), the lane rows 96-bit instructions (R42 to R52), the other rows the steps that the
hardware, the host and system software take (95_what_each_step_holds.md). -/

namespace Sys2Proof

/-- Formats: the type codes of R44 and the narrow formats of R46. -/
inductive Fmt where
  | none | s8 | s16 | s32 | s64 | z8 | z16 | z32 | z64 | f16 | bf16 | f32 | f64 | f16x2 | bf16x2
  | e4m3 | e5m2 | s4 | z4 | k8 | n4
  deriving DecidableEq, Repr

/-- Rounding modes (R46, R137). -/
inductive Rm where
  | rne | rtz | rup | rdn | sr
  deriving DecidableEq, Repr

/-- Compare conditions (R46). -/
inductive Cond where
  | eq | ne | lt | le | gt | ge | un
  deriving DecidableEq, Repr

/-- Ordering codes (R44). -/
inductive Ord where
  | rlx | acq | rel | acqrel
  deriving DecidableEq, Repr

/-- Scope codes (R44, R191). -/
inductive Scope where
  | strand | gang | core | cluster | die | package | domain | system
  deriving DecidableEq, Repr

/-- Access widths (R46). -/
inductive Width where
  | w8 | w16 | w32 | w64 | w128
  deriving DecidableEq, Repr

/-- Full/empty qualifiers of LDS and STS (R46): `one` is `.keep` or `.fill`, `two` is `.take` or `.wfill`. -/
inductive Qual where
  | plain | one | two
  deriving DecidableEq, Repr

/-- Operations of ATOM and RED (R214). -/
inductive AtomOp where
  | swap | cas | add | min | max | and | or | xor
  deriving DecidableEq, Repr

/-- Modes of SHFL (R121). -/
inductive ShflMode where
  | pick | rot | slide | pair
  deriving DecidableEq, Repr

/-- Operations of VOTE (R123). -/
inductive VoteOp where
  | anyOf | every | same | count | first
  deriving DecidableEq, Repr

/-- Operations of SCAN (R125). -/
inductive ScanOp where
  | add | min | max | and | or | xor
  deriving DecidableEq, Repr

/-- The special lane sources 192 to 199 (R43). -/
inductive Special where
  | tid | lane | sid | core | die | pkg | vd | nest
  deriving DecidableEq, Repr

/-- A lane source field (R43). -/
inductive Src where
  | v (n : VReg)
  | s (n : SReg)
  | special (x : Special)
  | imm
  deriving DecidableEq, Repr

/-- The mask field: mask register and sense (R45). -/
structure Mask where
  k : BitVec 3
  ks : Bool
  deriving DecidableEq, Repr

/-- Operands of the arithmetic class 0x01 to 0x2B but CMP (R99, R103); an unused source is `v 0`. -/
structure Arith where
  ty : Fmt
  rm : Rm
  ftz : Bool
  sat : Bool
  d : VReg
  a : Src
  b : Src
  c : Src
  m : Mask
  imm : W32
  deriving DecidableEq, Repr

/-- Operands of CMP (R101, R108). -/
structure Cmp where
  ty : Fmt
  ftz : Bool
  cond : Cond
  kd : BitVec 3
  a : Src
  b : Src
  m : Mask
  imm : W32
  deriving DecidableEq, Repr

/-- Operands of the conversion class (R145). -/
structure Conv where
  ty : Fmt
  nf : Fmt
  rm : Rm
  ftz : Bool
  sat : Bool
  d : VReg
  a : Src
  b : Src
  c : Src
  m : Mask
  imm : W32
  deriving DecidableEq, Repr

/-- Operands of the cross-thread class (R120). -/
structure Cross where
  ty : Fmt
  d : VReg
  a : Src
  b : Src
  m : Mask
  imm : W32
  deriving DecidableEq, Repr

/-- Operands of the lane loads, stores and prefetch (R171, R173). -/
structure LaneMem where
  width : Width
  sx : Bool
  qual : Qual
  ord : Ord
  scope : Scope
  ev : BitVec 3
  scale : BitVec 2
  d : VReg
  base : SReg
  off : Src
  data : Src
  m : Mask
  imm : W32
  deriving DecidableEq, Repr

/-- Operands of ATOM and RED (R213). -/
structure Atomic where
  op : AtomOp
  ty : Fmt
  ord : Ord
  scope : Scope
  ev : BitVec 3
  scale : BitVec 2
  d : VReg
  base : SReg
  off : Src
  data : Src
  m : Mask
  imm : W32
  deriving DecidableEq, Repr

/-- Operands of the inkwell instructions (R220). -/
structure Ink where
  ty : Fmt
  ord : Ord
  scope : Scope
  ev : BitVec 3
  d : VReg
  base : SReg
  off : Src
  data : Src
  m : Mask
  imm : W32
  deriving DecidableEq, Repr

/-- Operands of TLBSYNC (R173, R179). -/
structure TlbSync where
  scope : Scope
  ev : BitVec 3
  base : SReg
  data : SReg
  m : Mask
  imm : W32
  deriving DecidableEq, Repr

/-- Operands of QPUSH and QPOP (R240). -/
structure QOp where
  nb : Bool
  width : Width
  q : BitVec 5
  d : VReg
  data : Src
  m : Mask
  deriving DecidableEq, Repr

/-- Operands of FEWAIT (R233). -/
structure FeWait where
  full : Bool
  ord : Ord
  scope : Scope
  scale : BitVec 2
  base : SReg
  off : Src
  m : Mask
  imm : W32
  deriving DecidableEq, Repr

/-- Operands of SPAWNV (R269). -/
structure SpawnV where
  d : VReg
  handle : Src
  tmpl : SReg
  m : Mask
  imm : W32
  deriving DecidableEq, Repr

/-- Operands of FEED (R311). -/
structure Feed where
  a : Src
  m : Mask
  imm : W32
  deriving DecidableEq, Repr

/-- Operands of DRAIN (R312). -/
structure Drain where
  fmt : Fmt
  h : Bool
  clr : Bool
  rm : Rm
  ftz : Bool
  sat : Bool
  d : VReg
  tile : BitVec 4
  chart : BitVec 8
  m : Mask
  deriving DecidableEq, Repr

/-- What a request does (R163, R174 to R178, R215, R221, R233). -/
inductive ReqKind where
  | load | ldx | store | ntStore | lds | sts | fewait (full : Bool) | phase (one : Bool) | line | pref
  | atom (op : AtomOp) (ty : Fmt) (cmp : Nat) (ret : Bool)
  | inkAdd (ty : Fmt) | inkRead (ty : Fmt) | inkClr
  deriving DecidableEq, Repr

/-- A link flit (R384): sequence number, acknowledged number, credits, epoch, virtual device and payload, and the CRC-64 of its last 8
bytes. A request payload names one access of a peer, or the accesses of one line that go together: `wr` a write, `op` what it does, its physical
address, the bytes from there that it reaches (`mask`, R162) and the data of a write; it carries the eviction priority and the task priority of
the access (R160, R379). `more`: a further flit carries the rest of the data (R384). -/
structure Flit where
  seq : Nat
  ack : Nat
  nak : Bool
  creditReq : Nat
  creditRep : Nat
  epoch : Nat
  vd : Nat
  crc : W64
  wr : Bool
  op : ReqKind
  pa : Nat
  src : Nat
  tag : Nat
  ev : Nat
  prio : Nat
  mask : Nat
  more : Bool
  data : List Byte
  deriving DecidableEq, Repr

/-- Where a block of queue entries moves (R256). -/
inductive QMove where
  | coreUp (core : Nat)
  | clusterUp (cluster : Nat)
  | coreTake (core : Nat)
  | clusterTake (cluster : Nat)
  deriving DecidableEq, Repr

/-- One instruction or step of the part: one constructor per row of spec/opcode_table.json. -/
inductive Instr where
  -- scalar arithmetic (R66)
  | add (d a b : SReg) | sub (d a b : SReg) | and (d a b : SReg) | or (d a b : SReg) | xor (d a b : SReg)
  | shl (d a b : SReg) | shr (d a b : SReg) | sar (d a b : SReg) | mul (d a b : SReg) | mulh (d a b : SReg)
  | mulhu (d a b : SReg) | min (d a b : SReg) | max (d a b : SReg) | minu (d a b : SReg) | maxu (d a b : SReg)
  | slt (d a b : SReg) | sltu (d a b : SReg) | clz (d a : SReg) | popc (d a : SReg)
  -- immediate forms (R67)
  | addi (d a : SReg) (imm : BitVec 14) | andi (d a : SReg) (imm : BitVec 14) | ori (d a : SReg) (imm : BitVec 14)
  | xori (d a : SReg) (imm : BitVec 14) | slti (d a : SReg) (imm : BitVec 14) | sltiu (d a : SReg) (imm : BitVec 14)
  | lui (d : SReg) (imm : BitVec 20) | addpc (d : SReg) (imm : BitVec 20) | lhi (d : SReg) (imm : BitVec 20)
  | shli (d a : SReg) (amt : BitVec 6) | shri (d a : SReg) (amt : BitVec 6) | sari (d a : SReg) (amt : BitVec 6)
  | muli (d a : SReg) (imm : BitVec 14)
  -- branches, calls (R68, R69)
  | beq (a b : SReg) (off : BitVec 14) | bne (a b : SReg) (off : BitVec 14) | blt (a b : SReg) (off : BitVec 14)
  | bge (a b : SReg) (off : BitVec 14) | bltu (a b : SReg) (off : BitVec 14) | bgeu (a b : SReg) (off : BitVec 14)
  | jal (d : SReg) (off : BitVec 20) | jalr (d a : SReg) (imm : BitVec 14)
  -- scalar loads and stores (R71)
  | ldb (d a : SReg) (imm : BitVec 14) | ldh (d a : SReg) (imm : BitVec 14) | ldw (d a : SReg) (imm : BitVec 14)
  | ldd (d a : SReg) (imm : BitVec 14) | stb (d a : SReg) (imm : BitVec 14) | sth (d a : SReg) (imm : BitVec 14)
  | stw (d a : SReg) (imm : BitVec 14) | std (d a : SReg) (imm : BitVec 14) | ldbs (d a : SReg) (imm : BitVec 14)
  | ldhs (d a : SReg) (imm : BitVec 14) | ldws (d a : SReg) (imm : BitVec 14)
  -- synchronisation (08)
  | bar (d a : SReg) | arrive (d a : SReg) | arriveCb (a b : SReg) | lock (d a : SReg) | unlock (a : SReg)
  | join (d a : SReg) | leave (d a : SReg) | cbwait (d a b : SReg) | msend (d a b : SReg) | mrecv (d a b : SReg)
  -- runs, fences, control registers, yield (03)
  | lrun (count : BitVec 6) (sheet : BitVec 17) (slot : BitVec 3) | lrunr (a b : SReg) | ldrain
  | sfence (ord : BitVec 2) (scope : BitVec 3) | mfc (d : SReg) (cr : BitVec 12) | mtc (a : SReg) (cr : BitVec 12)
  | yield
  -- system (12)
  | trap (code : BitVec 12) | bkpt | haltInPlace (d a b : SReg) | haltRelease (d a b : SReg)
  | haltAndSuspend (d a b : SReg) | wfe (d a b : SReg) | rft | isync | resumeRestart (d a b : SReg)
  | resumePage (d a b : SReg) | resumeDeliverFault (d a b : SReg) | resumeFailTask (d a b : SReg)
  | csave (d a b : SReg) | crstr (d a b : SReg)
  -- engines (10, 11)
  | chart (d a b : SReg) | chartFree (d b : SReg) | wload (d a b : SReg) | mma (d a b : SReg) | mmaNs (d a b : SReg)
  | mmaBm (d a b : SReg) | mzero (d a : SReg) | mwait (d : SReg) | tcopy (d a b : SReg) | gcopy (d a b : SReg)
  | cwait (d : SReg)
  -- tasks (09)
  | spawn (d a b : SReg) | nodeput (d a b : SReg) | ffill (d a b : SReg) | ffillCancel (d a : SReg)
  | fwait (d a : SReg) | fwaitNb (d a : SReg) | fget (d a : SReg) | tdone (a : SReg) | cancel (d : SReg)
  | cancelJob (d a : SReg) | prio (d a : SReg)
  -- lane integer (R100 to R102)
  | laneAddInt (r : Arith) | laneSubInt (r : Arith) | laneMulInt (r : Arith) | laneMulh (r : Arith)
  | laneMad (r : Arith) | laneMinInt (r : Arith) | laneMaxInt (r : Arith) | laneAbsInt (r : Arith)
  | laneNegInt (r : Arith) | laneCmpInt (r : Cmp) | laneShl (r : Arith) | laneShr (r : Arith) | laneSar (r : Arith)
  | laneAnd (r : Arith) | laneOr (r : Arith) | laneXor (r : Arith) | laneNot (r : Arith) | lanePopc (r : Arith)
  | laneClz (r : Arith) | laneBrev (r : Arith) | laneSel (r : Arith) | laneMov (r : Arith)
  -- lane float (R106 to R109)
  | laneAddFloat (r : Arith) | laneSubFloat (r : Arith) | laneMulFloat (r : Arith) | laneFma (r : Arith)
  | laneMinFloat (r : Arith) | laneMaxFloat (r : Arith) | laneCmpFloat (r : Cmp) | laneSqrte (r : Arith)
  | laneRcpe (r : Arith) | laneRsqrte (r : Arith) | laneAbsFloat (r : Arith) | laneNegFloat (r : Arith)
  -- conversion (R145)
  | cvt (r : Conv) | qnt (r : Conv) | dqnt (r : Conv) | bscale (r : Conv)
  -- control (R113 to R115)
  | ifm (m : Mask) | elsem | endif | loop (imm : W32) | endloop (imm : W32) | brk (m : Mask) | cont (m : Mask)
  -- cross-thread (R121 to R126)
  | shfl (mode : ShflMode) (zf : Bool) (r : Cross) | gatherv (w : Width) (r : Cross) | vote (op : VoteOp) (r : Cross)
  | ballot (r : Cross) | scan (op : ScanOp) (excl : Bool) (r : Cross) | intersect (r : Cross)
  -- lane memory (06)
  | ld (r : LaneMem) | st (r : LaneMem) | ldl (r : LaneMem) | ldx (r : LaneMem) | stNt (r : LaneMem)
  | lds (r : LaneMem) | sts (r : LaneMem) | pref (r : LaneMem) | tlbsync (r : TlbSync)
  -- ordering, atomics (07)
  | fence (ord : Ord) (scope : Scope) (ev : BitVec 3) (m : Mask) | atom (r : Atomic) | red (r : Atomic)
  | inkAdd (r : Ink) | inkRead (r : Ink) | inkClr (r : Ink)
  -- queues, tasks, matrix from the lanes (08, 09, 10)
  | qpush (r : QOp) | qpop (r : QOp) | fewait (r : FeWait) | spawnv (r : SpawnV) | feed (r : Feed) | drain (r : Drain)
  -- steps of a strand, its memory and its faults
  | yielddlWrite (strand : Nat) (value : W64) | loadReply (id : Nat) | errorResponse (id : Nat)
  | pageWalk (party : Nat) | faultQueueHeldWrite (die : Nat) | trapEntry (strand : Nat)
  | coalescingEntrySend (id : Nat) | binSend (die home : Nat) | invalidationApply (die index : Nat)
  | lineRecall (core line : Nat) | edramRefresh (die bank : Nat)
  -- scheduling and tasks
  | deadlineExpiry (gang : Nat) | contextSave (gang : Nat) | dispatch (core : Nat) | queueBlockMove (mv : QMove)
  | dieQueueSteal (die : Nat) | rebalanceEpoch (gang : Nat) | strandMove (strand lane : Nat) | taskRetire (gang : Nat)
  | helping (strand : Nat) | binTimerExpiry (pa : Nat) | cancelStateArrival (job core : Nat)
  | lockParkReissue (strand : Nat) | messageArrival (index : Nat)
  -- engines
  | chartDescriptorRead (core : Nat) | wloadExecute (core : Nat) | mmaPass (core : Nat) | mmaClose (core : Nat)
  | mzeroExecute (core : Nat) | matrixWatchdog (core : Nat) | copyCommandStart (die engine core : Nat)
  | copyChunkComplete (die engine slot chunk : Nat)
  -- launch, dies, partitions, records
  | launch (vd : Nat) (value : W64) | launchCheck (vd : Nat) | dieFence (die : Nat) | partitionReset (part : Nat)
  | partitionResetComplete (part : Nat) | partitionRecordWrite (part off : Nat) (value : W64)
  | vdRecordWrite (vd off : Nat) (value : W64) | pkgnumWrite (value : BitVec 4) | npkgWrite (value : BitVec 4)
  | controlSpaceWrite (off : Nat) (value : W64)
  -- links
  | linkRequestFlit (port : Nat) (f : Flit) | linkReplyFlit (port : Nat) (f : Flit)
  | linkAckFlit (port : Nat) (f : Flit) | linkIdleFlit (port : Nat) (f : Flit) | linkAckTimeout (port : Nat)
  | linkRetrain (port : Nat) | linkTrainTimeout (port : Nat)
  -- clocks, power, host, management core
  | powerWindow (mean : Nat) | clockRelockEnd (die : Nat) | thermalTrip (die temp : Nat)
  | hostBar2Access (fn : Nat) (va : Nat) (wr : Bool) (data : List Byte)
  | attestationReport (fn : Nat) (seq : BitVec 16) (nonce : List Byte) | deviceCertificate (fn : Nat) (seq : BitVec 16)
  | stageFirmwareImage (fn : Nat) (seq : BitVec 16) (image : List Byte) | commitStagedImage (fn : Nat) (seq : BitVec 16)
  | readFenceList (fn : Nat) (seq : BitVec 16) | fenceUnit (fn : Nat) (seq : BitVec 16) (kind : BitVec 8) (unit : Nat)
  | haltOperation (fn : Nat) (seq : BitVec 16) (handle : BitVec 32) (vd : Nat) (op : BitVec 2)
  | telemetry (fn : Nat) (seq : BitVec 16) | packageReset
  | eccError (die : Nat) (addr : Nat) (correctable : Bool) (unit : Option (BitVec 8 × Nat))
  -- replies and arrivals
  | wfeTimeout (strand : Nat) | requestAtHomeSlice (id : Nat) | writeAcknowledgement (id : Nat)
  | linkRetrainComplete (port : Nat) (x8 : Bool) | fetchMissLineArrival (strand : Nat) (lane : Bool)
  deriving DecidableEq, Repr

end Sys2Proof
end

