-- ==== Sys2Proof/WellFormed.lean ====
section
/-! DEFINITION. What an encoding may hold: the static part of the legality of R37 to R39, R43 to R46, R51, R52 and of the
operand tables of each class. The register-budget part of R52 depends on the strand and stands in Machine/Operands.lean. -/

namespace Sys2Proof

/-- Integer formats that the arithmetic class permits (R51). -/
def Fmt.isInt : Fmt → Bool
  | .s8 | .s16 | .s32 | .s64 | .z8 | .z16 | .z32 | .z64 => true
  | _ => false

/-- Signed formats (R130). -/
def Fmt.isSigned : Fmt → Bool
  | .s4 | .s8 | .s16 | .s32 | .s64 => true
  | _ => false

/-- Unpaired wide float formats (R127). -/
def Fmt.isFloat : Fmt → Bool
  | .f16 | .bf16 | .f32 | .f64 => true
  | _ => false

/-- Paired formats (R44). -/
def Fmt.isPaired : Fmt → Bool
  | .f16x2 | .bf16x2 => true
  | _ => false

/-- Formats of 64 bits, which take an even/odd register pair (R44). -/
def Fmt.is64 : Fmt → Bool
  | .s64 | .z64 | .f64 => true
  | _ => false

/-- bf16 or bf16x2, the formats FTZ is legal with (R46). -/
def Fmt.isBf : Fmt → Bool
  | .bf16 | .bf16x2 => true
  | _ => false

/-- Element width in bits. -/
def Fmt.bits : Fmt → Nat
  | .s4 | .z4 | .n4 => 4
  | .s8 | .z8 | .e4m3 | .e5m2 | .k8 => 8
  | .s16 | .z16 | .f16 | .bf16 => 16
  | .s32 | .z32 | .f32 | .f16x2 | .bf16x2 => 32
  | .s64 | .z64 | .f64 => 64
  | .none => 0

/-- Access width in bytes (R46). -/
def Width.bytes : Width → Nat
  | .w8 => 1 | .w16 => 2 | .w32 => 4 | .w64 => 8 | .w128 => 16

/-- K = 0 with KS = 1 is illegal outside the control class (R45). -/
def Mask.wf (m : Mask) : Bool := !(m.k == 0 && m.ks)

/-- An unused source field is zero (R43). -/
def Src.unused (a : Src) : Bool := a == .v 0

/-- A v source whose operand takes `n` registers names a multiple of `n` (R44, R52). -/
def Src.aligned (n : Nat) : Src → Bool
  | .v r => r.toNat % n == 0
  | _ => true

/-- A v or s register: no special source, no IMM. -/
def Src.isReg : Src → Bool
  | .v _ | .s _ => true
  | _ => false

/-- A v register number that is a multiple of `n` (R52). -/
def regAligned (n : Nat) (r : VReg) : Bool := r.toNat % n == 0

/-- Registers of one operand of a format (R44). -/
def Fmt.regs (f : Fmt) : Nat := if f.is64 then 2 else 1

/-- Registers of one memory operand (R173). -/
def Width.regs : Width → Nat
  | .w64 => 2 | .w128 => 4 | _ => 1

/-- IMM is zero unless a source names it (R43). -/
def immOk (imm : W32) (srcs : List Src) : Bool := imm == 0 || srcs.any (· == .imm)

/-- Arithmetic instructions with `n` sources: unused fields, alignment, IMM, mask (R43, R52). -/
def Arith.shape (n : Nat) (r : Arith) : Bool :=
  (2 ≤ n || r.b.unused) && (3 ≤ n || r.c.unused) && regAligned r.ty.regs r.d &&
  r.a.aligned r.ty.regs && (n < 2 || r.b.aligned r.ty.regs) && (n < 3 || r.c.aligned r.ty.regs) &&
  immOk r.imm ([r.a, r.b, r.c].take n) && r.m.wf

/-- Integer arithmetic 0x01 to 0x09 (R51, R99, R100). -/
def Arith.wfInt (n : Nat) (satOk signedOnly : Bool) (r : Arith) : Bool :=
  r.ty.isInt && (!signedOnly || r.ty.isSigned) && r.rm == .rne && !r.ftz && (satOk || !r.sat) && r.shape n

/-- Bit instructions 0x10 to 0x1B (R51, R102). -/
def Arith.wfBit (n : Nat) (r : Arith) : Bool :=
  (r.ty == .z32 || r.ty == .z64) && r.rm == .rne && !r.ftz && !r.sat && r.shape n

/-- Float arithmetic 0x20 to 0x2B (R46, R51, R103). -/
def Arith.wfFloat (n : Nat) (paired rounds : Bool) (r : Arith) : Bool :=
  (r.ty.isFloat || (paired && r.ty.isPaired)) && r.rm != .sr && (rounds || r.rm == .rne) &&
  (!r.ftz || r.ty.isBf) && !r.sat && r.shape n

/-- CMP (R101, R108). -/
def Cmp.wf (float : Bool) (r : Cmp) : Bool :=
  (if float then r.ty.isFloat else r.ty.isInt && r.cond != .un) && (!r.ftz || r.ty.isBf) && r.kd != 0 &&
  r.a.aligned r.ty.regs && r.b.aligned r.ty.regs && immOk r.imm [r.a, r.b] && r.m.wf

/-- A type that CVT converts one element of (R147). -/
def Fmt.isWide (f : Fmt) : Bool := f.isInt || f.isFloat

/-- Registers of S1 and of D of a CVT: a 64-bit type, or the f32 side of a paired conversion, takes a pair (R147). -/
def cvtRegs (f other : Fmt) : Nat := if f.is64 || (f == .f32 && other.isPaired) then 2 else 1

/-- CVT (R147, R152). -/
def Conv.wfCvt (r : Conv) : Bool :=
  ((r.ty.isWide && r.nf.isWide) || (r.ty.isPaired && r.nf.isPaired) || (r.ty.isPaired && r.nf == .f32) ||
   (r.ty == .f32 && r.nf.isPaired)) &&
  (!(r.ty.isInt && r.nf.isInt) || r.rm == .rne) && (!r.ftz || r.ty.isBf || r.nf.isBf) &&
  (r.rm == .sr || r.b.unused) && r.c.unused &&
  r.a.aligned (cvtRegs r.nf r.ty) && regAligned (cvtRegs r.ty r.nf) r.d && immOk r.imm [r.a, r.b] && r.m.wf

/-- The wide types of the 8-bit narrow formats (R148, R150). -/
def Fmt.isNarrowWide : Fmt → Bool
  | .f16 | .bf16 | .f32 => true
  | _ => false

/-- TY and NF pairs of QNT and DQNT (R148, R150). -/
def narrowPair (ty nf : Fmt) : Bool :=
  match nf with
  | .e4m3 | .e5m2 | .k8 => ty.isNarrowWide
  | .s4 | .z4 | .n4 => ty.isPaired
  | _ => false

/-- QNT (R148, R152). The seed operand may be any register with every rounding, the others than SR too, which do not use it (DESIGN CHOICE,
log entry 84). -/
def Conv.wfQnt (r : Conv) : Bool :=
  narrowPair r.ty r.nf && (!r.ftz || r.ty.isBf) && (!r.sat || !(r.nf == .k8 || r.nf == .n4)) &&
  (r.nf == .n4 || r.c.unused) && immOk r.imm [r.a, r.b, r.c] && r.m.wf

/-- DQNT (R150, R152). -/
def Conv.wfDqnt (r : Conv) : Bool :=
  narrowPair r.ty r.nf && r.rm != .sr && (!r.ftz || r.ty.isBf) && !r.sat &&
  (r.nf == .k8 || r.nf == .n4 || r.b.unused) && (r.nf == .n4 || r.c.unused) &&
  immOk r.imm [r.a, r.b, r.c] && r.m.wf

/-- BSCALE (R151, R152). -/
def Conv.wfBscale (r : Conv) : Bool :=
  narrowPair r.ty r.nf && (r.nf == .k8 || r.nf == .n4) && r.rm == .rne && (!r.ftz || r.ty.isBf) && !r.sat &&
  (r.nf == .n4 || r.b.unused) && r.c.unused && immOk r.imm [r.a, r.b] && r.m.wf

/-- SHFL (R121): b of a z64 form is the even register of a pair. -/
def Cross.wfShfl (r : Cross) : Bool :=
  (r.ty == .z32 || r.ty == .z64) && regAligned r.ty.regs r.d && r.a.aligned r.ty.regs && r.b.aligned r.ty.regs &&
  immOk r.imm [r.a, r.b] && r.m.wf

/-- GATHERV (R122). -/
def Cross.wfGatherv (w : Width) (r : Cross) : Bool :=
  (r.ty == .z32 || r.ty == .s32) && (w == .w8 || w == .w16 || w == .w32) && immOk r.imm [r.a, r.b] && r.m.wf

/-- VOTE (R123): D names one register for both types. -/
def Cross.wfVote (r : Cross) : Bool :=
  (r.ty == .z32 || r.ty == .z64) && r.a.aligned r.ty.regs && r.b.unused && immOk r.imm [r.a] && r.m.wf

/-- BALLOT (R124). -/
def Cross.wfBallot (r : Cross) : Bool :=
  r.ty == .z32 && r.b.unused && immOk r.imm [r.a] && r.m.wf

/-- SCAN (R125). -/
def Cross.wfScan (op : ScanOp) (r : Cross) : Bool :=
  (match op with
   | .add | .min | .max =>
     r.ty == .s32 || r.ty == .z32 || r.ty == .s64 || r.ty == .z64 || r.ty == .f32 || r.ty == .f64
   | _ => r.ty == .z32 || r.ty == .z64) &&
  regAligned r.ty.regs r.d && r.a.aligned r.ty.regs && r.b.unused && immOk r.imm [r.a] && r.m.wf

/-- INTERSECT (R126). -/
def Cross.wfIntersect (r : Cross) : Bool :=
  r.ty == .z32 && regAligned 2 r.d && immOk r.imm [r.a, r.b] && r.m.wf

/-- With relaxed ordering the scope field is 000 (R173, R213, R220). -/
def scopeOk (ord : Ord) (scope : Scope) : Bool := ord != .rlx || scope == .strand

/-- Data of a store: v, or s for widths up to 64 (R173). -/
def storeData (w : Width) (d : Src) : Bool :=
  match d with
  | .v r => regAligned w.regs r
  | .s _ => w != .w128
  | _ => false

/-- LD, LDX, LDS (R173). -/
def LaneMem.wfLoad (maxW : Nat) (qualOk : Bool) (r : LaneMem) : Bool :=
  r.width.bytes ≤ maxW && (!r.sx || r.width == .w8 || r.width == .w16) && (qualOk || r.qual == .plain) &&
  (r.ord == .rlx || r.ord == .acq) && scopeOk r.ord r.scope && regAligned r.width.regs r.d && r.off.isReg &&
  r.data.unused && r.m.wf

/-- ST, ST.NT, STS (R173). -/
def LaneMem.wfStore (relOk qualOk : Bool) (r : LaneMem) : Bool :=
  !r.sx && (qualOk || r.qual == .plain) && (r.ord == .rlx || (relOk && r.ord == .rel)) && scopeOk r.ord r.scope &&
  r.d == 0 && r.off.isReg && storeData r.width r.data && r.m.wf

/-- LDL (R173, R175). -/
def LaneMem.wfLdl (r : LaneMem) : Bool :=
  r.width == .w8 && !r.sx && r.qual == .plain && (r.ord == .rlx || r.ord == .acq) && scopeOk r.ord r.scope &&
  (match r.off with | .s _ => true | _ => false) && r.data.unused && r.m.wf

/-- PREF (R173). -/
def LaneMem.wfPref (r : LaneMem) : Bool :=
  r.width == .w8 && !r.sx && r.qual == .plain && r.ord == .rlx && r.scope == .strand && r.d == 0 && r.off.isReg &&
  r.data.unused && r.m.wf

/-- TLBSYNC (R173). -/
def TlbSync.wf (r : TlbSync) : Bool :=
  (r.scope == .core || r.scope == .die || r.scope == .package) && r.m.wf

/-- Types of an atomic operation (R214). -/
def AtomOp.types (op : AtomOp) (ty : Fmt) : Bool :=
  match op with
  | .add | .min | .max =>
    ty == .s32 || ty == .z32 || ty == .s64 || ty == .z64 || ty == .f32 || ty == .f64
  | _ => ty == .z32 || ty == .z64

/-- The offset of a CAS names the group that holds the comparand (R216). -/
def casOff (ty : Fmt) : Src → Bool
  | .v r => regAligned (2 * ty.regs) r
  | _ => false

/-- Data of an atomic or INK.ADD (R213, R220). -/
def atomData (ty : Fmt) : Src → Bool
  | .v r => regAligned ty.regs r
  | .s _ => true
  | _ => false

/-- ATOM (R213, R214, R216). -/
def Atomic.wfAtom (r : Atomic) : Bool :=
  r.op.types r.ty && scopeOk r.ord r.scope && regAligned r.ty.regs r.d &&
  (if r.op == .cas then casOff r.ty r.off else r.off.isReg) && atomData r.ty r.data && r.m.wf

/-- RED (R213). -/
def Atomic.wfRed (r : Atomic) : Bool :=
  r.op.types r.ty && r.op != .swap && r.op != .cas && (r.ord == .rlx || r.ord == .rel) && scopeOk r.ord r.scope &&
  r.d == 0 && r.off.isReg && atomData r.ty r.data && r.m.wf

/-- INK.ADD (R220). -/
def Ink.wfAdd (r : Ink) : Bool :=
  (r.ty == .f32 || r.ty == .f64) && (r.ord == .rlx || r.ord == .rel) && scopeOk r.ord r.scope && r.d == 0 &&
  r.off.isReg && atomData r.ty r.data && r.m.wf

/-- INK.READ (R220). -/
def Ink.wfRead (r : Ink) : Bool :=
  (r.ty == .f32 || r.ty == .f64 || r.ty == .z64) && (r.ord == .rlx || r.ord == .acq) && scopeOk r.ord r.scope &&
  regAligned r.ty.regs r.d && r.off.isReg && r.data.unused && r.m.wf

/-- INK.CLR (R220). -/
def Ink.wfClr (r : Ink) : Bool :=
  r.ty == .none && (r.ord == .rlx || r.ord == .rel) && scopeOk r.ord r.scope && r.d == 0 && r.off.isReg &&
  r.data.unused && r.m.wf

/-- Widths of queue entries (R240). -/
def Width.isQueue : Width → Bool
  | .w32 | .w64 | .w128 => true
  | _ => false

/-- QPUSH (R240). -/
def QOp.wfPush (r : QOp) : Bool :=
  r.width.isQueue && (match r.data with | .v n => regAligned r.width.regs n | _ => false) && r.m.wf

/-- QPOP (R240). -/
def QOp.wfPop (r : QOp) : Bool :=
  r.width.isQueue && regAligned r.width.regs r.d && r.data.unused && r.m.wf

/-- FEWAIT (R233). -/
def FeWait.wf (r : FeWait) : Bool :=
  (r.ord == .rlx || r.ord == .acq) && scopeOk r.ord r.scope && r.off.isReg && r.m.wf

/-- SPAWNV (R269): the handle is a v register, an s register or a special source. -/
def SpawnV.wf (r : SpawnV) : Bool := r.handle != .imm && r.imm == 0 && r.m.wf

/-- FEED (R311). -/
def Feed.wf (r : Feed) : Bool :=
  (match r.a with | .special _ => false | _ => true) && immOk r.imm [r.a] && r.m.wf

/-- DRAIN (R312). -/
def Drain.wf (r : Drain) : Bool :=
  (match r.fmt with
   | .f32 => r.rm == .rne && !r.sat && !r.ftz
   | .f64 => r.rm == .rne && !r.sat && !r.ftz && regAligned 2 r.d && r.tile.toNat % 2 == 0
   | .f16x2 | .e4m3 | .e5m2 => !r.h && !r.ftz
   | .bf16x2 => !r.h
   | _ => false) && (r.rm == .sr || r.chart == 0) && r.m.wf

/-- The static legality of an instruction. Scalar fields are all valid (R36) but for what is said here: a count of 0 and
slots 5 to 7 are illegal in LRUN (R49), SFENCE is not relaxed (R38), ARRIVE_CB has a nonzero rb field (R232). -/
def Instr.wf : Instr → Bool
  | .lrun count _ slot => count != 0 && slot.toNat ≤ 4
  | .sfence ord _ => ord != 0
  | .arriveCb _ b => b != 0
  | .laneAddInt r | .laneSubInt r | .laneMulInt r => r.wfInt 2 true false
  | .laneMulh r | .laneMinInt r | .laneMaxInt r => r.wfInt 2 false false
  | .laneMad r => r.wfInt 3 true false
  | .laneAbsInt r | .laneNegInt r => r.wfInt 1 true true
  | .laneCmpInt r => r.wf false && !r.ftz
  | .laneShl r | .laneShr r | .laneSar r | .laneAnd r | .laneOr r | .laneXor r => r.wfBit 2
  | .laneNot r | .lanePopc r | .laneClz r | .laneBrev r | .laneMov r => r.wfBit 1
  | .laneSel r => r.wfBit 3
  | .laneAddFloat r | .laneSubFloat r | .laneMulFloat r => r.wfFloat 2 true true
  | .laneFma r => r.wfFloat 3 true true
  | .laneMinFloat r | .laneMaxFloat r => r.wfFloat 2 true false
  | .laneCmpFloat r => r.wf true
  | .laneSqrte r | .laneRcpe r | .laneRsqrte r => r.wfFloat 1 false true
  | .laneAbsFloat r | .laneNegFloat r => r.wfFloat 1 true false
  | .cvt r => r.wfCvt
  | .qnt r => r.wfQnt
  | .dqnt r => r.wfDqnt
  | .bscale r => r.wfBscale
  | .shfl _ _ r => r.wfShfl
  | .gatherv w r => r.wfGatherv w
  | .vote _ r => r.wfVote
  | .ballot r => r.wfBallot
  | .scan op _ r => r.wfScan op
  | .intersect r => r.wfIntersect
  | .ld r => r.wfLoad 16 false
  | .st r => r.wfStore true false
  | .ldl r => r.wfLdl
  | .ldx r => r.wfLoad 8 false
  | .stNt r => r.wfStore false false
  | .lds r => r.wfLoad 16 true
  | .sts r => r.wfStore true true
  | .pref r => r.wfPref
  | .tlbsync r => r.wf
  | .fence ord _ _ m => ord != .rlx && m.wf
  | .atom r => r.wfAtom
  | .red r => r.wfRed
  | .inkAdd r => r.wfAdd
  | .inkRead r => r.wfRead
  | .inkClr r => r.wfClr
  | .qpush r => r.wfPush
  | .qpop r => r.wfPop
  | .fewait r => r.wf
  | .spawnv r => r.wf
  | .feed r => r.wf
  | .drain r => r.wf
  | _ => true

end Sys2Proof
end

