-- ==== Sys2Proof/Machine/Formats.lean ====
section
/-! DEFINITION. Number formats, rounding and the arithmetic on them (R103 to R110, R127 to R140, R147 to R151): values are
exact dyadic numbers, rounded once. -/

namespace Sys2Proof.Machine

open Sys2Proof

/-- The value of a float or block element: ±m × 2^e, an infinity or a NaN. A zero keeps its sign. -/
inductive Num where
  | nan
  | inf (neg : Bool)
  | fin (neg : Bool) (m : Nat) (e : Int)
  deriving DecidableEq, Repr

/-- A float format: fraction bits, exponent bits, bias (R127). -/
structure FloatFmt where
  f : Nat
  eb : Nat
  bias : Int
  /-- E4M3 reads its all-ones exponent as finite values, but for F = 0b111 (R128) -/
  finiteTop : Bool
  deriving DecidableEq, Repr

def fmtF64 : FloatFmt := { f := 52, eb := 11, bias := 1023, finiteTop := false }
def fmtF32 : FloatFmt := { f := 23, eb := 8, bias := 127, finiteTop := false }
def fmtF16 : FloatFmt := { f := 10, eb := 5, bias := 15, finiteTop := false }
def fmtBf16 : FloatFmt := { f := 7, eb := 8, bias := 127, finiteTop := false }
def fmtE5M2 : FloatFmt := { f := 2, eb := 5, bias := 15, finiteTop := false }
def fmtE4M3 : FloatFmt := { f := 3, eb := 4, bias := 7, finiteTop := true }

/-- The float format of an element of a format. -/
def floatFmt : Fmt → FloatFmt
  | .f64 => fmtF64
  | .f16 | .f16x2 => fmtF16
  | .bf16 | .bf16x2 => fmtBf16
  | .e5m2 => fmtE5M2
  | .e4m3 => fmtE4M3
  | _ => fmtF32

/-- Bits in a number. -/
def bitLen (m : Nat) : Nat := if m = 0 then 0 else Nat.log2 m + 1

/-- m × 2^e as a natural number, for e ≥ 0; the low bits are dropped for e < 0. -/
def shiftBy (m : Nat) (e : Int) : Nat := if 0 ≤ e then m * 2 ^ e.toNat else m / 2 ^ (-e).toNat

/-- Exponent of the last fraction bit of a subnormal (R127). -/
def FloatFmt.qmin (x : FloatFmt) : Int := 1 - x.bias - x.f

/-- The value that bits hold (R127, R128). -/
def FloatFmt.decode (x : FloatFmt) (b : Nat) : Num :=
  let neg := b / 2 ^ (x.f + x.eb) % 2 == 1
  let E := b / 2 ^ x.f % 2 ^ x.eb
  let F := b % 2 ^ x.f
  if E = 2 ^ x.eb - 1 ∧ !x.finiteTop then (if F = 0 then .inf neg else .nan)
  else if E = 2 ^ x.eb - 1 ∧ F = 2 ^ x.f - 1 then .nan
  else if E = 0 then .fin neg F x.qmin
  else .fin neg (2 ^ x.f + F) ((E : Int) - x.bias - x.f)

/-- A subnormal value of the format. -/
def FloatFmt.isSub (x : FloatFmt) (b : Nat) : Bool := b / 2 ^ x.f % 2 ^ x.eb == 0 && b % 2 ^ x.f != 0

/-- Sign bit alone. -/
def FloatFmt.signBit (x : FloatFmt) (neg : Bool) : Nat := if neg then 2 ^ (x.f + x.eb) else 0

/-- The bits as an instruction with FTZ reads them: a subnormal is a zero of its sign (R104). -/
def FloatFmt.flush (x : FloatFmt) (ftz : Bool) (b : Nat) : Nat :=
  if ftz && x.isSub b then x.signBit (b / 2 ^ (x.f + x.eb) % 2 == 1) else b

/-- The default NaN (R105, R128). -/
def FloatFmt.defaultNaN (x : FloatFmt) : Nat :=
  if x.finiteTop then 2 ^ (x.f + x.eb) - 1 else (2 ^ x.eb - 1) * 2 ^ x.f + 2 ^ (x.f - 1)

/-- Bits of the largest finite value. -/
def FloatFmt.largest (x : FloatFmt) : Nat :=
  if x.finiteTop then 2 ^ (x.f + x.eb) - 2 else (2 ^ x.eb - 1) * 2 ^ x.f - 1

/-- Infinity, or the NaN of a format without one (R138). -/
def FloatFmt.infinity (x : FloatFmt) (neg : Bool) : Nat :=
  if x.finiteTop then x.defaultNaN else x.signBit neg + (2 ^ x.eb - 1) * 2 ^ x.f

/-- m1 × 2^e1 ≤ m2 × 2^e2. -/
def leDy (m1 : Nat) (e1 : Int) (m2 : Nat) (e2 : Int) : Bool :=
  let e := min e1 e2
  m1 * 2 ^ (e1 - e).toNat ≤ m2 * 2 ^ (e2 - e).toNat

/-- A magnitude beyond the largest finite value. -/
def FloatFmt.beyond (x : FloatFmt) (m : Nat) (e : Int) : Bool :=
  match x.decode x.largest with
  | .fin _ lm le => !leDy m e lm le
  | _ => false

/-- An overflowing result (R138). The largest finite value stands whole, that of an estimate too, whose low significand bits R109 gives as zero
(DEDUCED, log entry 80). -/
def FloatFmt.overflow (x : FloatFmt) (rm : Rm) (sat neg : Bool) : Nat :=
  let big := x.signBit neg + x.largest
  if sat then big
  else match rm with
    | .rne | .sr => x.infinity neg
    | .rtz => big
    | .rup => if neg then big else x.infinity neg
    | .rdn => if neg then x.infinity neg else big

/-- SRHash of R139. -/
def srHash (seed : BitVec 32) (pos : Nat) : BitVec 32 :=
  let h := seed ^^^ (BitVec.ofNat 32 pos * 0x9E3779B9)
  let h := h ^^^ (h >>> 15)
  let h := h * 0x2C1B3C6D
  let h := h ^^^ (h >>> 12)
  let h := h * 0x297A2D39
  h ^^^ (h >>> 15)

/-- Whether the stochastic rule takes the value of greater magnitude: f = num / den (R139). -/
def srFar (seed : BitVec 32) (pos num den : Nat) : Bool := (srHash seed pos).toNat % 65536 < num * 65536 / den

/-- m × 2^e as a whole number of 2^q, rounded in a mode (R137, R139). -/
def roundAt (rm : Rm) (seed : BitVec 32) (pos : Nat) (neg : Bool) (m : Nat) (e q : Int) : Nat :=
  if q ≤ e then m * 2 ^ (e - q).toNat
  else
    let sh := (q - e).toNat
    let n := m / 2 ^ sh
    let rem := m % 2 ^ sh
    if rem = 0 then n
    else
      let up : Bool := match rm with
        | .rne => 2 ^ sh < 2 * rem || (2 ^ sh == 2 * rem && n % 2 == 1)
        | .rtz => false
        | .rup => !neg
        | .rdn => neg
        | .sr => srFar seed pos rem (2 ^ sh)
      if up then n + 1 else n

/-- The bits of n × 2^q, exact in the format and within its range. -/
def FloatFmt.encode (x : FloatFmt) (neg : Bool) (n : Nat) (q : Int) : Nat :=
  if n = 0 then x.signBit neg
  else
    let ex := (Nat.log2 n : Int) + q
    if ex < 1 - x.bias then x.signBit neg + shiftBy n (q - x.qmin)
    else x.signBit neg + (ex + x.bias).toNat * 2 ^ x.f + (shiftBy n ((x.f : Int) - Nat.log2 n) - 2 ^ x.f)

/-- ±m × 2^e rounded to a significand of p bits of the format (R109, R137, R138, R139, R104). -/
def FloatFmt.roundP (x : FloatFmt) (p : Nat) (rm : Rm) (sat ftz : Bool) (seed : BitVec 32) (pos : Nat) (neg : Bool) (m : Nat)
    (e : Int) : Nat :=
  if m = 0 then x.signBit neg
  else if rm == .sr && x.beyond m e then x.overflow rm sat neg
  else
    let q := max x.qmin ((bitLen m : Int) + e - p)
    let n := roundAt rm seed pos neg m e q
    if x.beyond n q then x.overflow rm sat neg
    else if ftz && !leDy 1 (1 - x.bias) n q then x.signBit neg
    else x.encode neg n q

/-- RoundF of R147: a value to the bits of a format. -/
def FloatFmt.round (x : FloatFmt) (rm : Rm) (sat ftz : Bool) (seed : BitVec 32) (pos : Nat) : Num → Nat
  | .nan => x.defaultNaN
  | .inf neg => if sat then x.signBit neg + x.largest else x.infinity neg
  | .fin neg m e => x.roundP (x.f + 1) rm sat ftz seed pos neg m e

/-- Round in a mode, without saturation, of an arithmetic result (R103). -/
def FloatFmt.arith (x : FloatFmt) (rm : Rm) (ftz : Bool) (v : Num) : Nat := x.round rm false ftz 0 0 v

/-! ### Exact arithmetic -/

/-- A signed mantissa at an exponent not above the value's own. -/
def signedAt (neg : Bool) (m : Nat) (e e0 : Int) : Int :=
  let n : Int := (m * 2 ^ (e - e0).toNat : Nat)
  if neg then -n else n

/-- The exact sum; an exact zero from unlike signs is +0, or −0 toward −∞ (IEEE 754-2019, R103). -/
def Num.add (rm : Rm) : Num → Num → Num
  | .nan, _ => .nan
  | _, .nan => .nan
  | .inf a, .inf b => if a == b then .inf a else .nan
  | .inf a, .fin _ _ _ => .inf a
  | .fin _ _ _, .inf b => .inf b
  | .fin na ma ea, .fin nb mb eb =>
    let e := min ea eb
    let n := signedAt na ma ea e + signedAt nb mb eb e
    if n = 0 then .fin (if na == nb then na else rm == .rdn) 0 0
    else .fin (decide (n < 0)) n.natAbs e

def Num.neg : Num → Num
  | .nan => .nan
  | .inf a => .inf (!a)
  | .fin a m e => .fin (!a) m e

/-- The exact product. -/
def Num.mul : Num → Num → Num
  | .nan, _ => .nan
  | _, .nan => .nan
  | .inf a, .inf b => .inf (a != b)
  | .inf a, .fin b m _ => if m = 0 then .nan else .inf (a != b)
  | .fin a m _, .inf b => if m = 0 then .nan else .inf (a != b)
  | .fin a ma ea, .fin b mb eb => .fin (a != b) (ma * mb) (ea + eb)

def Num.isZero : Num → Bool
  | .fin _ m _ => m == 0
  | _ => false

def Num.isNaN : Num → Bool
  | .nan => true
  | _ => false

/-- Finite and above zero. -/
def Num.isPos : Num → Bool
  | .fin neg m _ => !neg && m != 0
  | _ => false

/-- A total key for comparing: infinities beyond every finite value, −0 equal to +0. -/
def Num.lt : Num → Num → Bool
  | .nan, _ => false
  | _, .nan => false
  | .inf a, .inf b => a && !b
  | .inf a, .fin _ _ _ => a
  | .fin _ _ _, .inf b => !b
  | .fin na ma ea, .fin nb mb eb =>
    let e := min ea eb
    signedAt na ma ea e < signedAt nb mb eb e

def Num.eq (a b : Num) : Bool := !a.isNaN && !b.isNaN && !a.lt b && !b.lt a

/-- The sign of a number. -/
def Num.sign : Num → Bool
  | .nan => false
  | .inf n => n
  | .fin n _ _ => n

/-! ### Float instructions on bits (R106 to R109) -/

def floatAdd (x : FloatFmt) (rm : Rm) (ftz : Bool) (a b : Nat) : Nat :=
  x.arith rm ftz ((x.decode (x.flush ftz a)).add rm (x.decode (x.flush ftz b)))

def floatSub (x : FloatFmt) (rm : Rm) (ftz : Bool) (a b : Nat) : Nat :=
  x.arith rm ftz ((x.decode (x.flush ftz a)).add rm (x.decode (x.flush ftz b)).neg)

def floatMul (x : FloatFmt) (rm : Rm) (ftz : Bool) (a b : Nat) : Nat :=
  x.arith rm ftz ((x.decode (x.flush ftz a)).mul (x.decode (x.flush ftz b)))

def floatFma (x : FloatFmt) (rm : Rm) (ftz : Bool) (a b c : Nat) : Nat :=
  x.arith rm ftz (((x.decode (x.flush ftz a)).mul (x.decode (x.flush ftz b))).add rm (x.decode (x.flush ftz c)))

/-- a < b with −0 below +0 (R107). -/
def Num.below (a b : Num) : Bool := a.lt b || (a.eq b && a.sign && !b.sign)

/-- MIN and MAX (R107). -/
def floatMin (x : FloatFmt) (ftz : Bool) (a b : Nat) : Nat :=
  let a := x.flush ftz a
  let b := x.flush ftz b
  match (x.decode a).isNaN, (x.decode b).isNaN with
  | true, true => x.defaultNaN
  | true, false => b
  | false, true => a
  | false, false => if (x.decode b).below (x.decode a) then b else a

def floatMax (x : FloatFmt) (ftz : Bool) (a b : Nat) : Nat :=
  let a := x.flush ftz a
  let b := x.flush ftz b
  match (x.decode a).isNaN, (x.decode b).isNaN with
  | true, true => x.defaultNaN
  | true, false => b
  | false, true => a
  | false, false => if (x.decode a).below (x.decode b) then b else a

/-- ABS and NEG change only the sign bit (R105). -/
def floatAbs (x : FloatFmt) (ftz : Bool) (a : Nat) : Nat := x.flush ftz a % 2 ^ (x.f + x.eb)
def floatNeg (x : FloatFmt) (ftz : Bool) (a : Nat) : Nat :=
  let a := x.flush ftz a
  if a / 2 ^ (x.f + x.eb) % 2 == 1 then a % 2 ^ (x.f + x.eb) else a % 2 ^ (x.f + x.eb) + 2 ^ (x.f + x.eb)

/-- Integer square root, n bits from the top. -/
def isqrt (m : Nat) : Nat → Nat → Nat
  | 0, r => r
  | i + 1, r => if (r + 2 ^ i) * (r + 2 ^ i) ≤ m then isqrt m i (r + 2 ^ i) else isqrt m i r

/-- Significand bits of an estimate (R109). -/
def FloatFmt.estP (x : FloatFmt) : Nat := min (x.f + 1) 14

/-- A positive value m × 2^e plus something below its last place if `sticky`, rounded as an estimate. -/
def FloatFmt.estimate (x : FloatFmt) (rm : Rm) (ftz neg : Bool) (m : Nat) (e : Int) (sticky : Bool) : Nat :=
  x.roundP x.estP rm false ftz 0 0 neg (2 * m + (if sticky then 1 else 0)) (e - 1)

/-- √a (R109). -/
def floatSqrte (x : FloatFmt) (rm : Rm) (ftz : Bool) (a : Nat) : Nat :=
  match x.decode (x.flush ftz a) with
  | .nan => x.defaultNaN
  | .inf neg => if neg then x.defaultNaN else x.infinity false
  | .fin neg m e =>
    if m = 0 then x.signBit neg
    else if neg then x.defaultNaN
    else
      let sh := 48 - bitLen m
      let sh := if (e - sh) % 2 = 0 then sh else sh + 1
      let m' := m * 2 ^ sh
      let r := isqrt m' 32 0
      x.estimate rm ftz false r ((e - sh) / 2) (r * r != m')

/-- 1/a (R109). -/
def floatRcpe (x : FloatFmt) (rm : Rm) (ftz : Bool) (a : Nat) : Nat :=
  match x.decode (x.flush ftz a) with
  | .nan => x.defaultNaN
  | .inf neg => x.signBit neg
  | .fin neg m e =>
    if m = 0 then x.infinity neg
    else
      let k := bitLen m + 24
      x.estimate rm ftz neg (2 ^ k / m) (-e - k) (2 ^ k % m != 0)

/-- 1/√a (R109). -/
def floatRsqrte (x : FloatFmt) (rm : Rm) (ftz : Bool) (a : Nat) : Nat :=
  match x.decode (x.flush ftz a) with
  | .nan => x.defaultNaN
  | .inf neg => if neg then x.defaultNaN else x.signBit false
  | .fin neg m e =>
    if m = 0 then x.infinity neg
    else if neg then x.defaultNaN
    else
      let k := bitLen m + 48
      let k := if (-e - k) % 2 = 0 then k else k + 1
      let r := isqrt (2 ^ k / m) 32 0
      x.estimate rm ftz false r ((-e - k) / 2) (r * r * m != 2 ^ k)

/-! ### Integers (R99, R130, R147) -/

/-- The value of the low bits of a word in an integer format. -/
def intVal (f : Fmt) (x : Nat) : Int :=
  let w := f.bits
  let n := x % 2 ^ w
  match f with
  | .s4 | .s8 | .s16 | .s32 | .s64 => if 2 ^ (w - 1) ≤ n then (n : Int) - 2 ^ w else n
  | _ => n

/-- The bit pattern of the low w bits. -/
def intBits (w : Nat) (x : Int) : Nat := (x % (2 ^ w : Nat)).toNat

def signedFmt : Fmt → Bool
  | .s4 | .s8 | .s16 | .s32 | .s64 => true
  | _ => false

def minInt (f : Fmt) : Int := if signedFmt f then -(2 ^ (f.bits - 1) : Nat) else 0
def maxInt (f : Fmt) : Int := if signedFmt f then (2 ^ (f.bits - 1) : Nat) - 1 else (2 ^ f.bits : Nat) - 1

def clampInt (f : Fmt) (x : Int) : Int := min (max x (minInt f)) (maxInt f)

/-- ±m × 2^e rounded to an integer (R137, R139). -/
def roundInt (rm : Rm) (seed : BitVec 32) (pos : Nat) (neg : Bool) (m : Nat) (e : Int) : Int :=
  let n : Int := roundAt rm seed pos neg m e 0
  if neg then -n else n

/-- RoundI of R147: the bits of an integer format. -/
def roundToInt (f : Fmt) (rm : Rm) (sat : Bool) (seed : BitVec 32) (pos : Nat) : Num → Nat
  | .nan => 0
  | .inf neg => if sat then intBits f.bits (if neg then minInt f else maxInt f) else 0
  | .fin neg m e =>
    let n := roundInt rm seed pos neg m e
    intBits f.bits (if sat then clampInt f n else n)

/-- An integer as a number. -/
def numOfInt (x : Int) : Num := .fin (decide (x < 0)) x.natAbs 0

/-! ### Block formats (R132 to R136, R149, R151) -/

/-- q of the N4 codebook (R136). -/
def n4q (c : Nat) : Int :=
  match c with
  | 0 => -256 | 1 => -190 | 2 => -146 | 3 => -112 | 4 => -83 | 5 => -57 | 6 => -33 | 7 => -11
  | 8 => 0 | 9 => 22 | 10 => 45 | 11 => 70 | 12 => 99 | 13 => 135 | 14 => 183 | _ => 256

/-- A K8 element (R132). -/
def k8Value (code b : Nat) : Num :=
  if b = 255 then .nan
  else match numOfInt (intVal .s8 code) with
    | .fin neg m _ => .fin neg m ((b : Int) - 127)
    | x => x

/-- An N4 element: codebook(code) × (s + 1) / 256 × S (R135); a zero code under a negative S is −0, and
under an infinite S it is a NaN (DEDUCED, log entry 83). -/
def n4Value (code s : Nat) (S : Num) : Num :=
  ((numOfInt (n4q code)).mul (.fin false (s + 1) (-16))).mul S

/-- The larger of two magnitudes; a NaN or an infinity counts as neither. -/
def maxMag (a b : Nat × Int) : Nat × Int := if leDy a.1 a.2 b.1 b.2 then b else a

/-- The K8 block scale of a set (R133). -/
def k8Scale (xs : List Num) : Nat :=
  if xs.any (fun x => match x with | .fin _ _ _ => false | _ => true) then 255
  else
    let m := xs.foldl (fun a x => match x with | .fin _ m e => maxMag a (m, e) | _ => a) (0, 0)
    if m.1 = 0 then 0
    else
      let e0 : Int := (bitLen m.1 : Int) + m.2 - 7
      let e := if leDy m.1 m.2 127 e0 then e0 else e0 + 1
      (max e (-127) + 127).toNat

/-- The K8 code of a value under a scale byte (R134). -/
def k8Code (rm : Rm) (seed : BitVec 32) (pos b : Nat) : Num → Int
  | .nan => 0
  | .inf neg => if b = 255 then 0 else if neg then -127 else 127
  | .fin neg m e =>
    if b = 255 then 0 else min (max (roundInt rm seed pos neg m (e + 127 - b)) (-127)) 127

/-- s of a set under a superscale (R151). -/
def n4Scale (xs : List Num) (S : Num) : Nat :=
  match S with
  | .fin false sm se =>
    if sm = 0 || xs.any (fun x => match x with | .fin _ _ _ => false | _ => true) then 255
    else
      let m := xs.foldl (fun a x => match x with | .fin _ m e => maxMag a (m, e) | _ => a) (0, 0)
      let e := min (m.2 + 8) se
      let num := m.1 * 2 ^ (m.2 + 8 - e).toNat
      let den := sm * 2 ^ (se - e).toNat
      min ((num + den - 1) / den - 1) 255
  | _ => 255

/-- A code of the codebook rounded in a mode: y = num / den × 256 with den > 0, in [−256, 256] (R149). -/
def n4Round (rm : Rm) (seed : BitVec 32) (pos : Nat) (num : Int) (den : Nat) : Nat :=
  let le (c : Nat) : Bool := n4q c * den ≤ num
  -- the greatest code whose value is at most y
  let lo := (((List.range 16).filter le).getLast?).getD 0
  if n4q lo * den = num then lo
  else
    let hi := lo + 1
    let dlo := (num - n4q lo * den).natAbs
    let dhi := (n4q hi * den - num).natAbs
    let farHi := decide ((n4q lo).natAbs < (n4q hi).natAbs)
    match rm with
    | .rdn => lo
    | .rup => hi
    | .rtz => if farHi then lo else hi
    | .rne => if dlo < dhi then lo else if dhi < dlo then hi else if farHi then lo else hi
    | .sr =>
      let far := if farHi then hi else lo
      let near := if farHi then lo else hi
      let dnear := if farHi then dlo else dhi
      if srFar seed pos dnear (dlo + dhi) then far else near

/-- QNT to N4 (R149). -/
def n4Code (rm : Rm) (seed : BitVec 32) (pos s : Nat) (S x : Num) : Nat :=
  match S with
  | .fin false sm se =>
    if sm = 0 then 8
    else
      match x with
      | .nan => 8
      | .inf neg => if neg then 0 else 15
      | .fin neg m e =>
        -- y × 256 = x × 2^16 / ((s + 1) × S)
        let e0 := min (e + 16) se
        let num := signedAt neg m (e + 16) e0
        let den := (s + 1) * sm * 2 ^ (se - e0).toNat
        let lim : Int := 256 * (den : Int)
        n4Round rm seed pos (min (max num (-lim)) lim) den
  | _ => 8

end Sys2Proof.Machine
end

