-- ==== Sys2Proof/Decode.lean ====
section
/-! DEFINITION. The decoder and, after it, the encoder: R36 to R39 for the scalar stream, R42 to R52 for the lanes. An
encoding that the tables do not give is rejected by name; the machine then takes the illegal-instruction trap. -/

namespace Sys2Proof

/-- Why an encoding is illegal (R37 to R39, R52). -/
inductive DecodeError where
  | opcode   -- no instruction has this major opcode or lane opcode (R38, R50)
  | minor    -- no instruction of the major has this minor or function byte (R39, R266, R305)
  | field    -- a field or bit required to be zero is not zero (R37, R52)
  | operand  -- a code, type or operand is not permitted (R43 to R46, R51, R52)
  deriving DecidableEq, Repr

/-! ### Codes -/

/-- TY codes (R44); 0xF is always illegal. -/
def Fmt.ofTy (c : BitVec 4) : Option Fmt :=
  match c.toNat with
  | 0 => some .none | 1 => some .s8 | 2 => some .s16 | 3 => some .s32 | 4 => some .s64 | 5 => some .z8
  | 6 => some .z16 | 7 => some .z32 | 8 => some .z64 | 9 => some .f16 | 10 => some .bf16 | 11 => some .f32
  | 12 => some .f64 | 13 => some .f16x2 | 14 => some .bf16x2 | _ => Option.none

/-- Narrow format codes (R46). -/
def Fmt.ofNf (c : BitVec 5) : Option Fmt :=
  match c.toNat with
  | 0x10 => some .e4m3 | 0x11 => some .e5m2 | 0x12 => some .s4 | 0x13 => some .z4 | 0x14 => some .k8 | 0x15 => some .n4
  | n => if n < 16 then Fmt.ofTy (BitVec.ofNat 4 n) else Option.none

/-- Rounding codes (R46). -/
def Rm.ofCode (c : BitVec 3) : Option Rm :=
  match c.toNat with
  | 0 => some .rne | 1 => some .rtz | 2 => some .rup | 3 => some .rdn | 4 => some .sr | _ => none

/-- Compare condition codes (R46). -/
def Cond.ofCode (c : BitVec 3) : Option Cond :=
  match c.toNat with
  | 0 => some .eq | 1 => some .ne | 2 => some .lt | 3 => some .le | 4 => some .gt | 5 => some .ge | 6 => some .un
  | _ => none

/-- Ordering codes (R44). -/
def Ord.ofCode (c : BitVec 2) : Ord :=
  match c.toNat with
  | 0 => .rlx | 1 => .acq | 2 => .rel | _ => .acqrel

/-- Scope codes (R44). -/
def Scope.ofCode (c : BitVec 3) : Scope :=
  match c.toNat with
  | 0 => .strand | 1 => .gang | 2 => .core | 3 => .cluster | 4 => .die | 5 => .package | 6 => .domain | _ => .system

/-- Width codes (R46). -/
def Width.ofCode (c : BitVec 3) : Option Width :=
  match c.toNat with
  | 0 => some .w8 | 1 => some .w16 | 2 => some .w32 | 3 => some .w64 | 4 => some .w128 | _ => none

/-- Full/empty qualifier codes (R46). -/
def Qual.ofCode (c : BitVec 2) : Option Qual :=
  match c.toNat with
  | 0 => some .plain | 1 => some .one | 2 => some .two | _ => none

/-- Atomic operation codes (R46, R214). -/
def AtomOp.ofCode (c : BitVec 4) : Option AtomOp :=
  match c.toNat with
  | 0 => some .swap | 1 => some .cas | 2 => some .add | 3 => some .min | 4 => some .max | 5 => some .and
  | 6 => some .or | 7 => some .xor | _ => none

/-- SHFL mode codes (R121). -/
def ShflMode.ofCode (c : BitVec 3) : Option ShflMode :=
  match c.toNat with
  | 0 => some .pick | 1 => some .rot | 2 => some .slide | 3 => some .pair | _ => none

/-- VOTE operation codes (R123). -/
def VoteOp.ofCode (c : BitVec 3) : Option VoteOp :=
  match c.toNat with
  | 0 => some .anyOf | 1 => some .every | 2 => some .same | 3 => some .count | 4 => some .first | _ => none

/-- SCAN operation codes (R125). -/
def ScanOp.ofCode (c : BitVec 3) : Option ScanOp :=
  match c.toNat with
  | 0 => some .add | 1 => some .min | 2 => some .max | 3 => some .and | 4 => some .or | 5 => some .xor | _ => none

/-- Special sources (R43). -/
def Special.ofCode (c : BitVec 3) : Special :=
  match c.toNat with
  | 0 => .tid | 1 => .lane | 2 => .sid | 3 => .core | 4 => .die | 5 => .pkg | 6 => .vd | _ => .nest

/-- A source field (R43): 201 to 255 name nothing. -/
def Src.ofField (c : BitVec 8) : Option Src :=
  if c.toNat < 128 then some (.v (c.extractLsb' 0 7))
  else if c.toNat < 192 then some (.s (c.extractLsb' 0 6))
  else if c.toNat < 200 then some (.special (Special.ofCode (c.extractLsb' 0 3)))
  else if c.toNat = 200 then some .imm else none

/-- A destination field (R43): 0 to 127. -/
def VReg.ofField (c : BitVec 8) : Option VReg := if c.toNat < 128 then some (c.extractLsb' 0 7) else none

/-! ### Scalar instructions (R36 to R39) -/

/-- The fields of a scalar word, all formats (R36). -/
structure ScalarFields where
  major : BitVec 6
  rd : SReg
  ra : SReg
  rb : SReg
  minor : BitVec 8
  imm14 : BitVec 14
  imm20 : BitVec 20

def scalarFields (w : W32) : ScalarFields :=
  { major := w.extractLsb' 26 6, rd := w.extractLsb' 20 6, ra := w.extractLsb' 14 6, rb := w.extractLsb' 8 6,
    minor := w.extractLsb' 0 8, imm14 := w.extractLsb' 0 14, imm20 := w.extractLsb' 0 20 }

/-- `i`, if the fields that the instruction does not use are zero (R37). -/
def ifZero (z : Bool) (i : Instr) : Except DecodeError Instr := if z then .ok i else .error .field


/-- SALU minors (R39, R66). -/
def decodeSalu (f : ScalarFields) : Except DecodeError Instr :=
  match f.minor.toNat with
  | 0x00 => .ok (.add f.rd f.ra f.rb)
  | 0x01 => .ok (.sub f.rd f.ra f.rb)
  | 0x02 => .ok (.and f.rd f.ra f.rb)
  | 0x03 => .ok (.or f.rd f.ra f.rb)
  | 0x04 => .ok (.xor f.rd f.ra f.rb)
  | 0x05 => .ok (.shl f.rd f.ra f.rb)
  | 0x06 => .ok (.shr f.rd f.ra f.rb)
  | 0x07 => .ok (.sar f.rd f.ra f.rb)
  | 0x08 => .ok (.mul f.rd f.ra f.rb)
  | 0x09 => .ok (.mulh f.rd f.ra f.rb)
  | 0x0A => .ok (.mulhu f.rd f.ra f.rb)
  | 0x0B => .ok (.min f.rd f.ra f.rb)
  | 0x0C => .ok (.max f.rd f.ra f.rb)
  | 0x0D => .ok (.minu f.rd f.ra f.rb)
  | 0x0E => .ok (.maxu f.rd f.ra f.rb)
  | 0x0F => .ok (.slt f.rd f.ra f.rb)
  | 0x10 => .ok (.sltu f.rd f.ra f.rb)
  | 0x11 => ifZero (f.rb == 0) (.clz f.rd f.ra)
  | 0x12 => ifZero (f.rb == 0) (.popc f.rd f.ra)
  | _ => .error .minor

/-- SYNC minors (R39, R227, R228, R231, R232, R235): a nonzero rb field selects the count-barrier form of 0x01. -/
def decodeSync (f : ScalarFields) : Except DecodeError Instr :=
  match f.minor.toNat with
  | 0x00 => ifZero (f.rb == 0) (.bar f.rd f.ra)
  | 0x01 => if f.rb == 0 then .ok (.arrive f.rd f.ra) else ifZero (f.rd == 0) (.arriveCb f.ra f.rb)
  | 0x02 => ifZero (f.rb == 0) (.lock f.rd f.ra)
  | 0x03 => ifZero (f.rd == 0 && f.rb == 0) (.unlock f.ra)
  | 0x04 => ifZero (f.rb == 0) (.join f.rd f.ra)
  | 0x05 => ifZero (f.rb == 0) (.leave f.rd f.ra)
  | 0x06 => .ok (.cbwait f.rd f.ra f.rb)
  | _ => .error .minor

/-- MSG minors (R39, R242). -/
def decodeMsg (f : ScalarFields) : Except DecodeError Instr :=
  match f.minor.toNat with
  | 0x00 => .ok (.msend f.rd f.ra f.rb)
  | 0x01 => .ok (.mrecv f.rd f.ra f.rb)
  | _ => .error .minor

/-- SYS minors (R39, R337). HALT and RESUME take their operation from a register, so one word stands for their rows. -/
def decodeSys (f : ScalarFields) : Except DecodeError Instr :=
  match f.minor.toNat with
  | 0x00 => ifZero (f.rd == 0) (.trap (f.ra ++ f.rb))
  | 0x01 => ifZero (f.rd == 0 && f.ra == 0 && f.rb == 0) .bkpt
  | 0x02 => .ok (.haltInPlace f.rd f.ra f.rb)
  | 0x03 => .ok (.wfe f.rd f.ra f.rb)
  | 0x04 => ifZero (f.rd == 0 && f.ra == 0 && f.rb == 0) .rft
  | 0x05 => ifZero (f.rd == 0 && f.ra == 0 && f.rb == 0) .isync
  | 0x06 => .ok (.resumeRestart f.rd f.ra f.rb)
  | 0x07 => .ok (.csave f.rd f.ra f.rb)
  | 0x08 => .ok (.crstr f.rd f.ra f.rb)
  | _ => .error .minor

/-- Function bytes of the engine majors 0x30 to 0x37 (R305, R324, R329, R331). -/
def decodeEngine (f : ScalarFields) : Except DecodeError Instr :=
  match f.major.toNat, f.minor.toNat with
  | 0x30, 0x00 => .ok (.chart f.rd f.ra f.rb)
  | 0x30, 0x01 => ifZero (f.ra == 0) (.chartFree f.rd f.rb)
  | 0x31, 0x00 => .ok (.wload f.rd f.ra f.rb)
  | 0x32, 0x00 => .ok (.mma f.rd f.ra f.rb)
  | 0x32, 0x01 => .ok (.mmaNs f.rd f.ra f.rb)
  | 0x32, 0x02 => .ok (.mmaBm f.rd f.ra f.rb)
  | 0x33, 0x00 => ifZero (f.rb == 0) (.mzero f.rd f.ra)
  | 0x34, 0x00 => ifZero (f.ra == 0 && f.rb == 0) (.mwait f.rd)
  | 0x35, 0x00 => .ok (.tcopy f.rd f.ra f.rb)
  | 0x36, 0x00 => .ok (.gcopy f.rd f.ra f.rb)
  | 0x37, 0x00 => ifZero (f.ra == 0 && f.rb == 0) (.cwait f.rd)
  | _, _ => .error .minor

/-- Function bytes of the task majors 0x38 to 0x3F (R266). -/
def decodeTask (f : ScalarFields) : Except DecodeError Instr :=
  match f.major.toNat, f.minor.toNat with
  | 0x38, 0x00 => .ok (.spawn f.rd f.ra f.rb)
  | 0x39, 0x00 => .ok (.nodeput f.rd f.ra f.rb)
  | 0x3A, 0x00 => .ok (.ffill f.rd f.ra f.rb)
  | 0x3A, 0x01 => ifZero (f.rb == 0) (.ffillCancel f.rd f.ra)
  | 0x3B, 0x00 => ifZero (f.rb == 0) (.fwait f.rd f.ra)
  | 0x3B, 0x01 => ifZero (f.rb == 0) (.fwaitNb f.rd f.ra)
  | 0x3C, 0x00 => ifZero (f.rb == 0) (.fget f.rd f.ra)
  | 0x3D, 0x00 => ifZero (f.rd == 0 && f.rb == 0) (.tdone f.ra)
  | 0x3E, 0x00 => ifZero (f.ra == 0 && f.rb == 0) (.cancel f.rd)
  | 0x3E, 0x01 => ifZero (f.rb == 0) (.cancelJob f.rd f.ra)
  | 0x3F, 0x00 => ifZero (f.rb == 0) (.prio f.rd f.ra)
  | _, _ => .error .minor

/-- The scalar major opcode map (R38). -/
def decodeFields (f : ScalarFields) : Except DecodeError Instr :=
  match f.major.toNat with
  | 0x01 => decodeSalu f
  | 0x02 => .ok (.addi f.rd f.ra f.imm14)
  | 0x03 => .ok (.andi f.rd f.ra f.imm14)
  | 0x04 => .ok (.ori f.rd f.ra f.imm14)
  | 0x05 => .ok (.xori f.rd f.ra f.imm14)
  | 0x06 => .ok (.slti f.rd f.ra f.imm14)
  | 0x07 => .ok (.sltiu f.rd f.ra f.imm14)
  | 0x0E => .ok (.muli f.rd f.ra f.imm14)
  | 0x08 => .ok (.lui f.rd f.imm20)
  | 0x09 => .ok (.addpc f.rd f.imm20)
  | 0x0A => .ok (.lhi f.rd f.imm20)
  | 0x0B => ifZero (f.imm14.extractLsb' 6 8 == 0) (.shli f.rd f.ra (f.imm14.extractLsb' 0 6))
  | 0x0C => ifZero (f.imm14.extractLsb' 6 8 == 0) (.shri f.rd f.ra (f.imm14.extractLsb' 0 6))
  | 0x0D => ifZero (f.imm14.extractLsb' 6 8 == 0) (.sari f.rd f.ra (f.imm14.extractLsb' 0 6))
  | 0x10 => .ok (.beq f.rd f.ra f.imm14)
  | 0x11 => .ok (.bne f.rd f.ra f.imm14)
  | 0x12 => .ok (.blt f.rd f.ra f.imm14)
  | 0x13 => .ok (.bge f.rd f.ra f.imm14)
  | 0x14 => .ok (.bltu f.rd f.ra f.imm14)
  | 0x15 => .ok (.bgeu f.rd f.ra f.imm14)
  | 0x16 => .ok (.jal f.rd f.imm20)
  | 0x17 => .ok (.jalr f.rd f.ra f.imm14)
  | 0x18 => .ok (.ldb f.rd f.ra f.imm14)
  | 0x19 => .ok (.ldh f.rd f.ra f.imm14)
  | 0x1A => .ok (.ldw f.rd f.ra f.imm14)
  | 0x1B => .ok (.ldd f.rd f.ra f.imm14)
  | 0x1C => .ok (.stb f.rd f.ra f.imm14)
  | 0x1D => .ok (.sth f.rd f.ra f.imm14)
  | 0x1E => .ok (.stw f.rd f.ra f.imm14)
  | 0x1F => .ok (.std f.rd f.ra f.imm14)
  | 0x20 => .ok (.ldbs f.rd f.ra f.imm14)
  | 0x21 => .ok (.ldhs f.rd f.ra f.imm14)
  | 0x22 => .ok (.ldws f.rd f.ra f.imm14)
  | 0x24 => decodeSync f
  | 0x25 => decodeMsg f
  | 0x28 => .ok (.lrun f.rd (f.imm20.extractLsb' 3 17) (f.imm20.extractLsb' 0 3))
  | 0x29 => if f.minor == 0 then ifZero (f.rd == 0) (.lrunr f.ra f.rb) else .error .minor
  | 0x2A => ifZero (f.rd == 0 && f.imm20 == 0) .ldrain
  | 0x2B => ifZero (f.rd == 0 && f.ra == 0 && f.imm14.extractLsb' 0 9 == 0)
              (.sfence (f.imm14.extractLsb' 12 2) (f.imm14.extractLsb' 9 3))
  | 0x2C => ifZero (f.ra == 0 && f.imm14.extractLsb' 12 2 == 0) (.mfc f.rd (f.imm14.extractLsb' 0 12))
  | 0x2D => ifZero (f.rd == 0 && f.imm14.extractLsb' 12 2 == 0) (.mtc f.ra (f.imm14.extractLsb' 0 12))
  | 0x2E => ifZero (f.rd == 0 && f.imm20 == 0) .yield
  | 0x2F => decodeSys f
  | 0x30 | 0x31 | 0x32 | 0x33 | 0x34 | 0x35 | 0x36 | 0x37 => decodeEngine f
  | 0x38 | 0x39 | 0x3A | 0x3B | 0x3C | 0x3D | 0x3E | 0x3F => decodeTask f
  | _ => .error .opcode

/-- `i`, if its operands are permitted. -/
def ifWf : Except DecodeError Instr → Except DecodeError Instr
  | .ok i => if i.wf then .ok i else .error .operand
  | .error e => .error e

/-- Decode a scalar instruction word (R36 to R39). -/
def decodeScalar (w : W32) : Except DecodeError Instr := ifWf (decodeFields (scalarFields w))

/-! ### Lane instructions (R42 to R52) -/

/-- The fields of a lane instruction (R42). -/
structure LaneFields where
  op : BitVec 8
  ty : BitVec 4
  d : BitVec 8
  s1 : BitVec 8
  s2 : BitVec 8
  s3 : BitVec 8
  k : BitVec 3
  ks : BitVec 1
  mod : BitVec 16
  imm : W32

def laneFields (w : W96) : LaneFields :=
  { op := w.extractLsb' 88 8, ty := w.extractLsb' 84 4, d := w.extractLsb' 76 8, s1 := w.extractLsb' 68 8,
    s2 := w.extractLsb' 60 8, s3 := w.extractLsb' 52 8, k := w.extractLsb' 49 3, ks := w.extractLsb' 48 1,
    mod := w.extractLsb' 32 16, imm := w.extractLsb' 0 32 }

/-- Bits hi down to lo of MOD, numbered as the instruction's bits 47 to 32 (R46). -/
def LaneFields.bits (f : LaneFields) (lo len : Nat) : BitVec len := f.mod.extractLsb' (lo - 32) len

/-- One bit of MOD, numbered as the instruction's bits 47 to 32. -/
def LaneFields.bit (f : LaneFields) (n : Nat) : Bool := f.mod.getLsbD (n - 32)

def LaneFields.mask (f : LaneFields) : Mask := { k := f.k, ks := f.ks == 1 }

/-- The value of an operand code, or the operand error. -/
def need {α : Type} (x : Option α) : Except DecodeError α :=
  match x with
  | some a => .ok a
  | none => .error .operand

/-- The bits of a field required to be zero are zero. -/
def zero (z : Bool) : Except DecodeError Unit := if z then .ok () else .error .field

/-- Arithmetic class 0x01 to 0x2B but CMP (R46): condition and [39:32] zero. -/
def decodeArith (f : LaneFields) (mk : Arith → Instr) : Except DecodeError Instr := do
  zero (f.bits 32 11 == 0)
  let ty ← need (Fmt.ofTy f.ty)
  let rm ← need (Rm.ofCode (f.bits 45 3))
  let d ← need (VReg.ofField f.d)
  let a ← need (Src.ofField f.s1)
  let b ← need (Src.ofField f.s2)
  let c ← need (Src.ofField f.s3)
  pure (mk { ty, rm, ftz := f.bit 44, sat := f.bit 43, d, a, b, c, m := f.mask, imm := f.imm })

/-- CMP (R46, R101, R108): rounding 000, SAT 0, S3 and [39:32] zero. -/
def decodeCmp (f : LaneFields) (mk : Cmp → Instr) : Except DecodeError Instr := do
  zero (f.bits 32 8 == 0 && f.bits 45 3 == 0 && !f.bit 43 && f.s3 == 0 && f.d.extractLsb' 3 5 == 0)
  let ty ← need (Fmt.ofTy f.ty)
  let cond ← need (Cond.ofCode (f.bits 40 3))
  let a ← need (Src.ofField f.s1)
  let b ← need (Src.ofField f.s2)
  pure (mk { ty, ftz := f.bit 44, cond, kd := f.d.extractLsb' 0 3, a, b, m := f.mask, imm := f.imm })

/-- Conversion class 0x30 to 0x33 (R46, R145). -/
def decodeConv (f : LaneFields) (mk : Conv → Instr) : Except DecodeError Instr := do
  zero (f.bits 32 6 == 0)
  let ty ← need (Fmt.ofTy f.ty)
  let nf ← need (Fmt.ofNf (f.bits 38 5))
  let rm ← need (Rm.ofCode (f.bits 45 3))
  let d ← need (VReg.ofField f.d)
  let a ← need (Src.ofField f.s1)
  let b ← need (Src.ofField f.s2)
  let c ← need (Src.ofField f.s3)
  pure (mk { ty, nf, rm, ftz := f.bit 44, sat := f.bit 43, d, a, b, c, m := f.mask, imm := f.imm })

/-- Control class 0x40 to 0x46 (R51, R112): TY, D, sources and MOD zero. -/
def LaneFields.controlZero (f : LaneFields) : Bool :=
  f.ty == 0 && f.d == 0 && f.s1 == 0 && f.s2 == 0 && f.s3 == 0 && f.mod == 0

/-- IF, BRK, CONT: the mask is the condition, IMM zero. -/
def decodeCond (f : LaneFields) (mk : Mask → Instr) : Except DecodeError Instr := do
  zero (f.controlZero && f.imm == 0)
  pure (mk f.mask)

/-- ELSE and ENDIF (`needImm` false), LOOP and ENDLOOP: K and KS zero. -/
def decodeLoop (f : LaneFields) (needImm : Bool) (mk : W32 → Instr) : Except DecodeError Instr := do
  zero (f.controlZero && f.k == 0 && f.ks == 0 && (needImm || f.imm == 0))
  pure (mk f.imm)

/-- Cross-thread class (R120): S3 zero; the bits of MOD below those that the entry names are zero. -/
def decodeCross (f : LaneFields) (modZero : Bool) : Except DecodeError Cross := do
  zero (modZero && f.s3 == 0)
  let ty ← need (Fmt.ofTy f.ty)
  let d ← need (VReg.ofField f.d)
  let a ← need (Src.ofField f.s1)
  let b ← need (Src.ofField f.s2)
  pure { ty, d, a, b, m := f.mask, imm := f.imm }

/-- An s register in a source field (R46, R173). -/
def sregField (c : BitVec 8) : Option SReg := if c.extractLsb' 6 2 == 2 then some (c.extractLsb' 0 6) else none

/-- LD, ST, LDL, LDX, ST.NT, LDS, STS, PREF (R46, R173): TY none. -/
def decodeMem (f : LaneFields) (mk : LaneMem → Instr) : Except DecodeError Instr := do
  zero (f.ty == 0)
  let width ← need (Width.ofCode (f.bits 37 3))
  let qual ← need (Qual.ofCode (f.bits 34 2))
  let d ← need (VReg.ofField f.d)
  let base ← need (sregField f.s1)
  let off ← need (Src.ofField f.s2)
  let data ← need (Src.ofField f.s3)
  pure (mk { width, sx := f.bit 36, qual, ord := Ord.ofCode (f.bits 46 2), scope := Scope.ofCode (f.bits 43 3),
             ev := f.bits 40 3, scale := f.bits 32 2, d, base, off, data, m := f.mask, imm := f.imm })

/-- TLBSYNC (R173): offset s0, data an s register, relaxed, [39:32] zero. -/
def decodeTlbSync (f : LaneFields) : Except DecodeError Instr := do
  zero (f.ty == 0 && f.d == 0 && f.bits 46 2 == 0 && f.bits 32 8 == 0)
  if f.s2 != 128 then throw .operand
  let base ← need (sregField f.s1)
  let data ← need (sregField f.s3)
  pure (.tlbsync { scope := Scope.ofCode (f.bits 43 3), ev := f.bits 40 3, base, data, m := f.mask, imm := f.imm })

/-- FENCE (R212). -/
def decodeFence (f : LaneFields) : Except DecodeError Instr := do
  zero (f.ty == 0 && f.d == 0 && f.s1 == 0 && f.s2 == 0 && f.s3 == 0 && f.imm == 0 && f.bits 32 8 == 0)
  pure (.fence (Ord.ofCode (f.bits 46 2)) (Scope.ofCode (f.bits 43 3)) (f.bits 40 3) f.mask)

/-- ATOM and RED (R213). -/
def decodeAtomic (f : LaneFields) (mk : Atomic → Instr) : Except DecodeError Instr := do
  zero (f.bits 34 2 == 0)
  let op ← need (AtomOp.ofCode (f.bits 36 4))
  let ty ← need (Fmt.ofTy f.ty)
  let d ← need (VReg.ofField f.d)
  let base ← need (sregField f.s1)
  let off ← need (Src.ofField f.s2)
  let data ← need (Src.ofField f.s3)
  pure (mk { op, ty, ord := Ord.ofCode (f.bits 46 2), scope := Scope.ofCode (f.bits 43 3), ev := f.bits 40 3,
             scale := f.bits 32 2, d, base, off, data, m := f.mask, imm := f.imm })

/-- INK.ADD, INK.READ, INK.CLR (R220): [39:32] zero. -/
def decodeInk (f : LaneFields) (mk : Ink → Instr) : Except DecodeError Instr := do
  zero (f.bits 32 8 == 0)
  let ty ← need (Fmt.ofTy f.ty)
  let d ← need (VReg.ofField f.d)
  let base ← need (sregField f.s1)
  let off ← need (Src.ofField f.s2)
  let data ← need (Src.ofField f.s3)
  pure (mk { ty, ord := Ord.ofCode (f.bits 46 2), scope := Scope.ofCode (f.bits 43 3), ev := f.bits 40 3, d, base, off,
             data, m := f.mask, imm := f.imm })

/-- QPUSH and QPOP (R240). -/
def decodeQueue (f : LaneFields) (mk : QOp → Instr) : Except DecodeError Instr := do
  zero (f.ty == 0 && f.s1 == 0 && f.s2 == 0 && f.imm == 0 && f.bits 40 7 == 0)
  let width ← need (Width.ofCode (f.bits 37 3))
  let d ← need (VReg.ofField f.d)
  let data ← need (Src.ofField f.s3)
  pure (mk { nb := f.bit 47, width, q := f.bits 32 5, d, data, m := f.mask })

/-- FEWAIT (R233). -/
def decodeFeWait (f : LaneFields) : Except DecodeError Instr := do
  zero (f.ty == 0 && f.d == 0 && f.s3 == 0 && f.bits 36 7 == 0)
  let full ← need (if f.bits 34 2 == 1 then some true else if f.bits 34 2 == 2 then some false else none)
  let base ← need (sregField f.s1)
  let off ← need (Src.ofField f.s2)
  pure (.fewait { full, ord := Ord.ofCode (f.bits 46 2), scope := Scope.ofCode (f.bits 43 3), scale := f.bits 32 2,
                  base, off, m := f.mask, imm := f.imm })

/-- SPAWNV (R269): TY z32; S3 and MOD zero. -/
def decodeSpawnV (f : LaneFields) : Except DecodeError Instr := do
  zero (f.s3 == 0 && f.mod == 0)
  if f.ty != 7 then throw .operand
  let d ← need (VReg.ofField f.d)
  let handle ← need (Src.ofField f.s1)
  let tmpl ← need (sregField f.s2)
  pure (.spawnv { d, handle, tmpl, m := f.mask, imm := f.imm })

/-- FEED (R311). -/
def decodeFeed (f : LaneFields) : Except DecodeError Instr := do
  zero (f.ty == 0 && f.d == 0 && f.s2 == 0 && f.s3 == 0 && f.mod == 0)
  let a ← need (Src.ofField f.s1)
  pure (.feed { a, m := f.mask, imm := f.imm })

/-- DRAIN (R312). -/
def decodeDrain (f : LaneFields) : Except DecodeError Instr := do
  zero (f.ty == 0 && f.s1 == 0 && f.s2 == 0 && f.s3 == 0 && f.bits 32 4 == 0 && f.imm.extractLsb' 16 16 == 0 &&
        f.imm.extractLsb' 4 4 == 0)
  let fmt ← need (Fmt.ofNf (f.bits 38 5))
  let rm ← need (Rm.ofCode (f.bits 45 3))
  let d ← need (VReg.ofField f.d)
  pure (.drain { fmt, h := f.bit 37, clr := f.bit 36, rm, ftz := f.bit 44, sat := f.bit 43, d,
                 tile := f.imm.extractLsb' 0 4, chart := f.imm.extractLsb' 8 8, m := f.mask })

/-- The lane opcode map (R50). -/
def decodeLaneFields (f : LaneFields) : Except DecodeError Instr :=
  match f.op.toNat with
  | 0x01 => decodeArith f .laneAddInt
  | 0x02 => decodeArith f .laneSubInt
  | 0x03 => decodeArith f .laneMulInt
  | 0x04 => decodeArith f .laneMulh
  | 0x05 => decodeArith f .laneMad
  | 0x06 => decodeArith f .laneMinInt
  | 0x07 => decodeArith f .laneMaxInt
  | 0x08 => decodeArith f .laneAbsInt
  | 0x09 => decodeArith f .laneNegInt
  | 0x0A => decodeCmp f .laneCmpInt
  | 0x10 => decodeArith f .laneShl
  | 0x11 => decodeArith f .laneShr
  | 0x12 => decodeArith f .laneSar
  | 0x13 => decodeArith f .laneAnd
  | 0x14 => decodeArith f .laneOr
  | 0x15 => decodeArith f .laneXor
  | 0x16 => decodeArith f .laneNot
  | 0x17 => decodeArith f .lanePopc
  | 0x18 => decodeArith f .laneClz
  | 0x19 => decodeArith f .laneBrev
  | 0x1A => decodeArith f .laneSel
  | 0x1B => decodeArith f .laneMov
  | 0x20 => decodeArith f .laneAddFloat
  | 0x21 => decodeArith f .laneSubFloat
  | 0x22 => decodeArith f .laneMulFloat
  | 0x23 => decodeArith f .laneFma
  | 0x24 => decodeArith f .laneMinFloat
  | 0x25 => decodeArith f .laneMaxFloat
  | 0x26 => decodeCmp f .laneCmpFloat
  | 0x27 => decodeArith f .laneSqrte
  | 0x28 => decodeArith f .laneRcpe
  | 0x29 => decodeArith f .laneRsqrte
  | 0x2A => decodeArith f .laneAbsFloat
  | 0x2B => decodeArith f .laneNegFloat
  | 0x30 => decodeConv f .cvt
  | 0x31 => decodeConv f .qnt
  | 0x32 => decodeConv f .dqnt
  | 0x33 => decodeConv f .bscale
  | 0x40 => decodeCond f .ifm
  | 0x41 => decodeLoop f false (fun _ => .elsem)
  | 0x42 => decodeLoop f false (fun _ => .endif)
  | 0x43 => decodeLoop f true .loop
  | 0x44 => decodeLoop f true .endloop
  | 0x45 => decodeCond f .brk
  | 0x46 => decodeCond f .cont
  | 0x50 => do
    let mode ← need (ShflMode.ofCode (f.bits 45 3))
    let r ← decodeCross f (f.bits 32 12 == 0)
    pure (.shfl mode (f.bit 44) r)
  | 0x51 => do
    let w ← need (Width.ofCode ((f.bits 46 2).setWidth 3))
    let r ← decodeCross f (f.bits 32 14 == 0)
    pure (.gatherv w r)
  | 0x52 => do
    let op ← need (VoteOp.ofCode (f.bits 45 3))
    let r ← decodeCross f (f.bits 32 13 == 0)
    pure (.vote op r)
  | 0x53 => do
    let r ← decodeCross f (f.mod == 0)
    pure (.ballot r)
  | 0x54 => do
    let op ← need (ScanOp.ofCode (f.bits 45 3))
    let r ← decodeCross f (f.bits 32 12 == 0)
    pure (.scan op (f.bit 44) r)
  | 0x55 => do
    let r ← decodeCross f (f.mod == 0)
    pure (.intersect r)
  | 0x60 => decodeMem f .ld
  | 0x61 => decodeMem f .st
  | 0x62 => decodeMem f .ldl
  | 0x63 => decodeMem f .ldx
  | 0x64 => decodeMem f .stNt
  | 0x65 => decodeMem f .lds
  | 0x66 => decodeMem f .sts
  | 0x67 => decodeMem f .pref
  | 0x68 => decodeTlbSync f
  | 0x70 => decodeFence f
  | 0x71 => decodeAtomic f .atom
  | 0x72 => decodeAtomic f .red
  | 0x73 => decodeInk f .inkAdd
  | 0x74 => decodeInk f .inkRead
  | 0x75 => decodeInk f .inkClr
  | 0x80 => decodeQueue f .qpush
  | 0x81 => decodeQueue f .qpop
  | 0x82 => decodeFeWait f
  | 0x90 => decodeSpawnV f
  | 0xA0 => decodeFeed f
  | 0xA1 => decodeDrain f
  | _ => .error .opcode

/-- Decode a lane instruction (R42 to R52, but for the register budget of R52). -/
def decodeLane (w : W96) : Except DecodeError Instr := ifWf (decodeLaneFields (laneFields w))

/-! ### Bytes (R5) -/

/-- A little-endian number from its bytes, the lowest address first (R5). -/
def leNat : List Byte → Nat
  | [] => 0
  | b :: bs => b.toNat + 256 * leNat bs

/-- The bytes of a little-endian number, `n` of them (R5). -/
def leBytes : Nat → Nat → List Byte
  | 0, _ => []
  | n + 1, x => BitVec.ofNat 8 x :: leBytes n (x / 256)

/-- Decode the scalar instruction that the first four bytes hold. -/
def decodeScalarBytes (bs : List Byte) : Except DecodeError Instr := decodeScalar (BitVec.ofNat 32 (leNat (bs.take 4)))

/-- Decode the lane instruction that the first twelve bytes hold (R5). -/
def decodeLaneBytes (bs : List Byte) : Except DecodeError Instr := decodeLane (BitVec.ofNat 96 (leNat (bs.take 12)))

/-- The instruction that the decoder reads from an instruction of `nbits` bits `w`, laid out as the hardware stores it:
four bytes for the scalar stream, twelve for the lanes. -/
def decodeTableWord (nbits w : Nat) : Option Instr :=
  match (if nbits ≤ 32 then decodeScalarBytes (leBytes 4 w) else decodeLaneBytes (leBytes 12 w)) with
  | .ok i => some i
  | .error _ => none

/-! ### The encoder -/

def Fmt.ty : Fmt → BitVec 4
  | .none => 0 | .s8 => 1 | .s16 => 2 | .s32 => 3 | .s64 => 4 | .z8 => 5 | .z16 => 6 | .z32 => 7 | .z64 => 8
  | .f16 => 9 | .bf16 => 10 | .f32 => 11 | .f64 => 12 | .f16x2 => 13 | .bf16x2 => 14 | _ => 15

def Fmt.nf : Fmt → BitVec 5
  | .e4m3 => 0x10 | .e5m2 => 0x11 | .s4 => 0x12 | .z4 => 0x13 | .k8 => 0x14 | .n4 => 0x15
  | f => f.ty.setWidth 5

def Rm.code : Rm → BitVec 3
  | .rne => 0 | .rtz => 1 | .rup => 2 | .rdn => 3 | .sr => 4

def Cond.code : Cond → BitVec 3
  | .eq => 0 | .ne => 1 | .lt => 2 | .le => 3 | .gt => 4 | .ge => 5 | .un => 6

def Ord.code : Ord → BitVec 2
  | .rlx => 0 | .acq => 1 | .rel => 2 | .acqrel => 3

def Scope.code : Scope → BitVec 3
  | .strand => 0 | .gang => 1 | .core => 2 | .cluster => 3 | .die => 4 | .package => 5 | .domain => 6 | .system => 7

def Width.code : Width → BitVec 3
  | .w8 => 0 | .w16 => 1 | .w32 => 2 | .w64 => 3 | .w128 => 4

def Qual.code : Qual → BitVec 2
  | .plain => 0 | .one => 1 | .two => 2

def AtomOp.code : AtomOp → BitVec 4
  | .swap => 0 | .cas => 1 | .add => 2 | .min => 3 | .max => 4 | .and => 5 | .or => 6 | .xor => 7

def ShflMode.code : ShflMode → BitVec 3
  | .pick => 0 | .rot => 1 | .slide => 2 | .pair => 3

def VoteOp.code : VoteOp → BitVec 3
  | .anyOf => 0 | .every => 1 | .same => 2 | .count => 3 | .first => 4

def ScanOp.code : ScanOp → BitVec 3
  | .add => 0 | .min => 1 | .max => 2 | .and => 3 | .or => 4 | .xor => 5

def Special.code : Special → BitVec 3
  | .tid => 0 | .lane => 1 | .sid => 2 | .core => 3 | .die => 4 | .pkg => 5 | .vd => 6 | .nest => 7

def Src.field : Src → BitVec 8
  | .v n => (0 : BitVec 1) ++ n
  | .s n => (2 : BitVec 2) ++ n
  | .special x => (24 : BitVec 5) ++ x.code
  | .imm => 200

/-- Format SR (R36). -/
def encSR (major : BitVec 6) (rd ra rb : SReg) (minor : BitVec 8) : W32 := major ++ rd ++ ra ++ rb ++ minor
/-- Formats SI and SB (R36). -/
def encSI (major : BitVec 6) (rd ra : SReg) (imm : BitVec 14) : W32 := major ++ rd ++ ra ++ imm
/-- Formats SU, SJ and SL (R36). -/
def encSU (major : BitVec 6) (rd : SReg) (imm : BitVec 20) : W32 := major ++ rd ++ imm

/-- The word of a scalar instruction (R36 to R39, R266, R305, R337); none for the others. -/
def encodeScalar : Instr → Option W32
  | .add d a b => some (encSR 0x01 d a b 0x00)
  | .sub d a b => some (encSR 0x01 d a b 0x01)
  | .and d a b => some (encSR 0x01 d a b 0x02)
  | .or d a b => some (encSR 0x01 d a b 0x03)
  | .xor d a b => some (encSR 0x01 d a b 0x04)
  | .shl d a b => some (encSR 0x01 d a b 0x05)
  | .shr d a b => some (encSR 0x01 d a b 0x06)
  | .sar d a b => some (encSR 0x01 d a b 0x07)
  | .mul d a b => some (encSR 0x01 d a b 0x08)
  | .mulh d a b => some (encSR 0x01 d a b 0x09)
  | .mulhu d a b => some (encSR 0x01 d a b 0x0A)
  | .min d a b => some (encSR 0x01 d a b 0x0B)
  | .max d a b => some (encSR 0x01 d a b 0x0C)
  | .minu d a b => some (encSR 0x01 d a b 0x0D)
  | .maxu d a b => some (encSR 0x01 d a b 0x0E)
  | .slt d a b => some (encSR 0x01 d a b 0x0F)
  | .sltu d a b => some (encSR 0x01 d a b 0x10)
  | .clz d a => some (encSR 0x01 d a 0 0x11)
  | .popc d a => some (encSR 0x01 d a 0 0x12)
  | .addi d a imm => some (encSI 0x02 d a imm)
  | .andi d a imm => some (encSI 0x03 d a imm)
  | .ori d a imm => some (encSI 0x04 d a imm)
  | .xori d a imm => some (encSI 0x05 d a imm)
  | .slti d a imm => some (encSI 0x06 d a imm)
  | .sltiu d a imm => some (encSI 0x07 d a imm)
  | .muli d a imm => some (encSI 0x0E d a imm)
  | .lui d imm => some (encSU 0x08 d imm)
  | .addpc d imm => some (encSU 0x09 d imm)
  | .lhi d imm => some (encSU 0x0A d imm)
  | .shli d a n => some (encSI 0x0B d a ((0 : BitVec 8) ++ n))
  | .shri d a n => some (encSI 0x0C d a ((0 : BitVec 8) ++ n))
  | .sari d a n => some (encSI 0x0D d a ((0 : BitVec 8) ++ n))
  | .beq a b off => some (encSI 0x10 a b off)
  | .bne a b off => some (encSI 0x11 a b off)
  | .blt a b off => some (encSI 0x12 a b off)
  | .bge a b off => some (encSI 0x13 a b off)
  | .bltu a b off => some (encSI 0x14 a b off)
  | .bgeu a b off => some (encSI 0x15 a b off)
  | .jal d off => some (encSU 0x16 d off)
  | .jalr d a imm => some (encSI 0x17 d a imm)
  | .ldb d a imm => some (encSI 0x18 d a imm)
  | .ldh d a imm => some (encSI 0x19 d a imm)
  | .ldw d a imm => some (encSI 0x1A d a imm)
  | .ldd d a imm => some (encSI 0x1B d a imm)
  | .stb d a imm => some (encSI 0x1C d a imm)
  | .sth d a imm => some (encSI 0x1D d a imm)
  | .stw d a imm => some (encSI 0x1E d a imm)
  | .std d a imm => some (encSI 0x1F d a imm)
  | .ldbs d a imm => some (encSI 0x20 d a imm)
  | .ldhs d a imm => some (encSI 0x21 d a imm)
  | .ldws d a imm => some (encSI 0x22 d a imm)
  | .bar d a => some (encSR 0x24 d a 0 0x00)
  | .arrive d a => some (encSR 0x24 d a 0 0x01)
  | .arriveCb a b => some (encSR 0x24 0 a b 0x01)
  | .lock d a => some (encSR 0x24 d a 0 0x02)
  | .unlock a => some (encSR 0x24 0 a 0 0x03)
  | .join d a => some (encSR 0x24 d a 0 0x04)
  | .leave d a => some (encSR 0x24 d a 0 0x05)
  | .cbwait d a b => some (encSR 0x24 d a b 0x06)
  | .msend d a b => some (encSR 0x25 d a b 0x00)
  | .mrecv d a b => some (encSR 0x25 d a b 0x01)
  | .lrun count sheet slot => some (encSU 0x28 count (sheet ++ slot))
  | .lrunr a b => some (encSR 0x29 0 a b 0x00)
  | .ldrain => some (encSU 0x2A 0 0)
  | .sfence ord scope => some (encSI 0x2B 0 0 (ord ++ scope ++ (0 : BitVec 9)))
  | .mfc d cr => some (encSI 0x2C d 0 ((0 : BitVec 2) ++ cr))
  | .mtc a cr => some (encSI 0x2D 0 a ((0 : BitVec 2) ++ cr))
  | .yield => some (encSU 0x2E 0 0)
  | .trap code => some (encSR 0x2F 0 (code.extractLsb' 6 6) (code.extractLsb' 0 6) 0x00)
  | .bkpt => some (encSR 0x2F 0 0 0 0x01)
  | .haltInPlace d a b | .haltRelease d a b | .haltAndSuspend d a b => some (encSR 0x2F d a b 0x02)
  | .wfe d a b => some (encSR 0x2F d a b 0x03)
  | .rft => some (encSR 0x2F 0 0 0 0x04)
  | .isync => some (encSR 0x2F 0 0 0 0x05)
  | .resumeRestart d a b | .resumePage d a b | .resumeDeliverFault d a b | .resumeFailTask d a b =>
    some (encSR 0x2F d a b 0x06)
  | .csave d a b => some (encSR 0x2F d a b 0x07)
  | .crstr d a b => some (encSR 0x2F d a b 0x08)
  | .chart d a b => some (encSR 0x30 d a b 0x00)
  | .chartFree d b => some (encSR 0x30 d 0 b 0x01)
  | .wload d a b => some (encSR 0x31 d a b 0x00)
  | .mma d a b => some (encSR 0x32 d a b 0x00)
  | .mmaNs d a b => some (encSR 0x32 d a b 0x01)
  | .mmaBm d a b => some (encSR 0x32 d a b 0x02)
  | .mzero d a => some (encSR 0x33 d a 0 0x00)
  | .mwait d => some (encSR 0x34 d 0 0 0x00)
  | .tcopy d a b => some (encSR 0x35 d a b 0x00)
  | .gcopy d a b => some (encSR 0x36 d a b 0x00)
  | .cwait d => some (encSR 0x37 d 0 0 0x00)
  | .spawn d a b => some (encSR 0x38 d a b 0x00)
  | .nodeput d a b => some (encSR 0x39 d a b 0x00)
  | .ffill d a b => some (encSR 0x3A d a b 0x00)
  | .ffillCancel d a => some (encSR 0x3A d a 0 0x01)
  | .fwait d a => some (encSR 0x3B d a 0 0x00)
  | .fwaitNb d a => some (encSR 0x3B d a 0 0x01)
  | .fget d a => some (encSR 0x3C d a 0 0x00)
  | .tdone a => some (encSR 0x3D 0 a 0 0x00)
  | .cancel d => some (encSR 0x3E d 0 0 0x00)
  | .cancelJob d a => some (encSR 0x3E d a 0 0x01)
  | .prio d a => some (encSR 0x3F d a 0 0x00)
  | _ => none

/-- The lane format (R42). -/
def encLane (op : BitVec 8) (ty : BitVec 4) (d s1 s2 s3 : BitVec 8) (m : Mask) (mod : BitVec 16) (imm : W32) : W96 :=
  op ++ ty ++ d ++ s1 ++ s2 ++ s3 ++ m.k ++ BitVec.ofBool m.ks ++ mod ++ imm

/-- A v register in a destination field (R43). -/
def VReg.field (r : VReg) : BitVec 8 := (0 : BitVec 1) ++ r
/-- An s register in a source field (R43). -/
def SReg.field (r : SReg) : BitVec 8 := (2 : BitVec 2) ++ r
/-- No mask (R45). -/
def Mask.all : Mask := { k := 0, ks := false }

def Arith.enc (op : BitVec 8) (r : Arith) : W96 :=
  encLane op r.ty.ty (VReg.field r.d) r.a.field r.b.field r.c.field r.m
    (r.rm.code ++ BitVec.ofBool r.ftz ++ BitVec.ofBool r.sat ++ (0 : BitVec 11)) r.imm

def Cmp.enc (op : BitVec 8) (r : Cmp) : W96 :=
  encLane op r.ty.ty ((0 : BitVec 5) ++ r.kd) r.a.field r.b.field 0 r.m
    ((0 : BitVec 3) ++ BitVec.ofBool r.ftz ++ (0 : BitVec 1) ++ r.cond.code ++ (0 : BitVec 8)) r.imm

def Conv.enc (op : BitVec 8) (r : Conv) : W96 :=
  encLane op r.ty.ty (VReg.field r.d) r.a.field r.b.field r.c.field r.m
    (r.rm.code ++ BitVec.ofBool r.ftz ++ BitVec.ofBool r.sat ++ r.nf.nf ++ (0 : BitVec 6)) r.imm

def Cross.enc (op : BitVec 8) (mod : BitVec 16) (r : Cross) : W96 :=
  encLane op r.ty.ty (VReg.field r.d) r.a.field r.b.field 0 r.m mod r.imm

def LaneMem.enc (op : BitVec 8) (r : LaneMem) : W96 :=
  encLane op 0 (VReg.field r.d) (SReg.field r.base) r.off.field r.data.field r.m
    (r.ord.code ++ r.scope.code ++ r.ev ++ r.width.code ++ BitVec.ofBool r.sx ++ r.qual.code ++ r.scale) r.imm

def Atomic.enc (op : BitVec 8) (r : Atomic) : W96 :=
  encLane op r.ty.ty (VReg.field r.d) (SReg.field r.base) r.off.field r.data.field r.m
    (r.ord.code ++ r.scope.code ++ r.ev ++ r.op.code ++ (0 : BitVec 2) ++ r.scale) r.imm

def Ink.enc (op : BitVec 8) (r : Ink) : W96 :=
  encLane op r.ty.ty (VReg.field r.d) (SReg.field r.base) r.off.field r.data.field r.m
    (r.ord.code ++ r.scope.code ++ r.ev ++ (0 : BitVec 8)) r.imm

def QOp.enc (op : BitVec 8) (r : QOp) : W96 :=
  encLane op 0 (VReg.field r.d) 0 0 r.data.field r.m
    (BitVec.ofBool r.nb ++ (0 : BitVec 7) ++ r.width.code ++ r.q) 0

/-- The words of a lane instruction (R42, R46, R50 and the entries of the classes); none for the others. -/
def encodeLane : Instr → Option W96
  | .laneAddInt r => some (r.enc 0x01)
  | .laneSubInt r => some (r.enc 0x02)
  | .laneMulInt r => some (r.enc 0x03)
  | .laneMulh r => some (r.enc 0x04)
  | .laneMad r => some (r.enc 0x05)
  | .laneMinInt r => some (r.enc 0x06)
  | .laneMaxInt r => some (r.enc 0x07)
  | .laneAbsInt r => some (r.enc 0x08)
  | .laneNegInt r => some (r.enc 0x09)
  | .laneShl r => some (r.enc 0x10)
  | .laneShr r => some (r.enc 0x11)
  | .laneSar r => some (r.enc 0x12)
  | .laneAnd r => some (r.enc 0x13)
  | .laneOr r => some (r.enc 0x14)
  | .laneXor r => some (r.enc 0x15)
  | .laneNot r => some (r.enc 0x16)
  | .lanePopc r => some (r.enc 0x17)
  | .laneClz r => some (r.enc 0x18)
  | .laneBrev r => some (r.enc 0x19)
  | .laneSel r => some (r.enc 0x1A)
  | .laneMov r => some (r.enc 0x1B)
  | .laneAddFloat r => some (r.enc 0x20)
  | .laneSubFloat r => some (r.enc 0x21)
  | .laneMulFloat r => some (r.enc 0x22)
  | .laneFma r => some (r.enc 0x23)
  | .laneMinFloat r => some (r.enc 0x24)
  | .laneMaxFloat r => some (r.enc 0x25)
  | .laneSqrte r => some (r.enc 0x27)
  | .laneRcpe r => some (r.enc 0x28)
  | .laneRsqrte r => some (r.enc 0x29)
  | .laneAbsFloat r => some (r.enc 0x2A)
  | .laneNegFloat r => some (r.enc 0x2B)
  | .laneCmpInt r => some (r.enc 0x0A)
  | .laneCmpFloat r => some (r.enc 0x26)
  | .cvt r => some (r.enc 0x30)
  | .qnt r => some (r.enc 0x31)
  | .dqnt r => some (r.enc 0x32)
  | .bscale r => some (r.enc 0x33)
  | .ifm m => some (encLane 0x40 0 0 0 0 0 m 0 0)
  | .brk m => some (encLane 0x45 0 0 0 0 0 m 0 0)
  | .cont m => some (encLane 0x46 0 0 0 0 0 m 0 0)
  | .elsem => some (encLane 0x41 0 0 0 0 0 Mask.all 0 0)
  | .endif => some (encLane 0x42 0 0 0 0 0 Mask.all 0 0)
  | .loop imm => some (encLane 0x43 0 0 0 0 0 Mask.all 0 imm)
  | .endloop imm => some (encLane 0x44 0 0 0 0 0 Mask.all 0 imm)
  | .shfl mode zf r => some (r.enc 0x50 (mode.code ++ BitVec.ofBool zf ++ (0 : BitVec 12)))
  | .gatherv wd r => some (r.enc 0x51 (wd.code.setWidth 2 ++ (0 : BitVec 14)))
  | .vote op r => some (r.enc 0x52 (op.code ++ (0 : BitVec 13)))
  | .ballot r => some (r.enc 0x53 0)
  | .scan op excl r => some (r.enc 0x54 (op.code ++ BitVec.ofBool excl ++ (0 : BitVec 12)))
  | .intersect r => some (r.enc 0x55 0)
  | .ld r => some (r.enc 0x60)
  | .st r => some (r.enc 0x61)
  | .ldl r => some (r.enc 0x62)
  | .ldx r => some (r.enc 0x63)
  | .stNt r => some (r.enc 0x64)
  | .lds r => some (r.enc 0x65)
  | .sts r => some (r.enc 0x66)
  | .pref r => some (r.enc 0x67)
  | .tlbsync r => some (encLane 0x68 0 0 (SReg.field r.base) 128 (SReg.field r.data) r.m
      ((0 : BitVec 2) ++ r.scope.code ++ r.ev ++ (0 : BitVec 8)) r.imm)
  | .fence ord scope ev m => some (encLane 0x70 0 0 0 0 0 m (ord.code ++ scope.code ++ ev ++ (0 : BitVec 8)) 0)
  | .atom r => some (r.enc 0x71)
  | .red r => some (r.enc 0x72)
  | .inkAdd r => some (r.enc 0x73)
  | .inkRead r => some (r.enc 0x74)
  | .inkClr r => some (r.enc 0x75)
  | .qpush r => some (r.enc 0x80)
  | .qpop r => some (r.enc 0x81)
  | .fewait r => some (encLane 0x82 0 0 (SReg.field r.base) r.off.field 0 r.m
      (r.ord.code ++ r.scope.code ++ (0 : BitVec 7) ++ (if r.full then (1 : BitVec 2) else 2) ++ r.scale) r.imm)
  | .spawnv r => some (encLane 0x90 7 (VReg.field r.d) r.handle.field (SReg.field r.tmpl) 0 r.m 0 r.imm)
  | .feed r => some (encLane 0xA0 0 0 r.a.field 0 0 r.m 0 r.imm)
  | .drain r => some (encLane 0xA1 0 (VReg.field r.d) 0 0 0 r.m
      (r.rm.code ++ BitVec.ofBool r.ftz ++ BitVec.ofBool r.sat ++ r.fmt.nf ++ BitVec.ofBool r.h ++ BitVec.ofBool r.clr ++
        (0 : BitVec 4)) ((0 : BitVec 16) ++ r.chart ++ (0 : BitVec 4) ++ r.tile))
  | _ => none

end Sys2Proof
end

