-- ==== Sys2Proof/Config.lean ====
section
/-! DEFINITION. What the part fixes (sizes and counts of R12 to R26 and the chapters) and the free values: opaque functions
without a body for what the spec leaves open. -/

namespace Sys2Proof.Config

/-- Dies of the package (R12). -/
def numDies : Nat := 9
/-- Cores of a die (R16). -/
def coresPerDie : Nat := 32
/-- Lanes of a core (R19). -/
def lanesPerCore : Nat := 64
/-- Strand slots of a lane (R22). -/
def slotsPerLane : Nat := 8
/-- Threads of a strand. -/
def threads : Nat := 32
/-- Bytes of a scratchpad (R19). -/
def spadBytes : Nat := 0x80000
/-- Places of a decision queue (R75). -/
def runDepth : Nat := 16
/-- Spare scalar register copies of a core (R77). -/
def spareCopies : Nat := 256
/-- Places of the matrix queue of a core (R80). -/
def matrixDepth : Nat := 8
/-- Places of the copy port of a core (R80). -/
def copyDepth : Nat := 16
/-- Places of a home slice's waiter table (R236). -/
def waiterTable : Nat := 1024
/-- Places of a scratchpad port's wait table (R169). -/
def waitTable : Nat := 128
/-- Places of the core, cluster and die queues (R255). -/
def coreQueue : Nat := 64
def clusterQueue : Nat := 256
def dieQueue : Nat := 4096
/-- Chart entries of a core's chart store (R294). -/
def chartStore : Nat := 512
/-- Inkwells of a home slice's store (R219). -/
def inkStore : Nat := 32
/-- HBM4 bytes of the full configuration (R156): 576 × 10^9. -/
def fullHbm : Nat := 576000000000
/-- Stepping B0 (R371). -/
def step : Nat := 0xB0

/-- FREE VALUE: the n-th value of 64 bits that the spec leaves open (log entry 6). -/
opaque freeWord : Nat → BitVec 64
/-- FREE VALUE: byte `off` of the n-th byte area whose layout the spec does not give (log entries 4 and 8). -/
opaque freeByte : Nat → Nat → BitVec 8
/-- FREE VALUE: the SHA3-512 digest of a byte string, R390, R391 (log entry 9: the function is a standard's, not the spec's). -/
opaque sha3 : List (BitVec 8) → List (BitVec 8)
/-- FREE VALUE: the ML-DSA-87 signature under the device identity key, R391 (log entry 9). -/
opaque deviceSign : List (BitVec 8) → List (BitVec 8)
/-- FREE VALUE: whether the key under which a firmware image is signed matches the digest in the boot ROM, and the ML-DSA-87 signature over
the digest of the rest of the image verifies under it, R390 (log entry 9). -/
opaque imageVerifies : List (BitVec 8) → Bool
/-- FREE VALUE: the rollback number, 0 to 63, that an image carries, R390 (the place in the image is not given, log entry 9). -/
opaque imageRollback : List (BitVec 8) → Nat
/-- FREE VALUE: the device certificate chain, R392 (log entry 9). -/
opaque deviceCertificates : List (BitVec 8)
/-- FREE VALUE: the package serial number, R391 (log entry 9). -/
opaque serialNumber : BitVec 64
/-- FREE VALUE: the firmware image that the package came with, R391 (log entry 9). -/
opaque factoryImage : List (BitVec 8)

/-- FREE VALUE: the CRC-64 of bytes 0 to 119 of a flit, R384 (the spec gives no polynomial, log entry 10). -/
opaque crc64 : List (BitVec 8) → BitVec 64
/-- FREE VALUE: bytes 2 to 7 of a flit from its acknowledged number, its sign, the two credits, EPOCH and virtual device, R384 (the places of
the fields are not given, log entry 10). -/
opaque flitFields : List Nat → BitVec 48
/-- FREE VALUE: the payload of a flit from what it says, R384 (its layout is not given, log entry 10). -/
opaque flitPayload : List Nat → BitVec 896
/-- FREE VALUE: whether, at the n-th issue, the results that a strand's next instruction reads have become readable (R61, R92, R93;
latencies are left out, log entry 7). -/
opaque latencyPast : Nat → Nat → Bool
/-- FREE VALUE: whether the host's IOMMU refuses an access of a function to a host address, at a time (R389; log entry 89). -/
opaque iommuRefuses : Nat → Nat → Nat → Bool

end Sys2Proof.Config
end

