-- ==== Sys2Proof/Machine/Sparse.lean ====
section
/-! DEFINITION. The two kinds of map that State is made of, as plain lists: `SMap`, words by number with 0 where nothing
is listed, in one canonical form (numbers strictly rising, no entry 0); `KMap`, records by key. -/

namespace Sys2Proof.Machine

/-- Words by number; a number that is not listed holds 0. -/
abbrev SMap (w : Nat) := List (Nat × BitVec w)

/-- The word at a number. -/
def SMap.get {w : Nat} : SMap w → Nat → BitVec w
  | [], _ => 0
  | (k, v) :: t, a => if a = k then v else SMap.get t a

/-- An entry put in its place by rising number. -/
def SMap.insert {w : Nat} : SMap w → Nat → BitVec w → SMap w
  | [], a, v => [(a, v)]
  | (k, x) :: t, a, v => if a < k then (a, v) :: (k, x) :: t else (k, x) :: SMap.insert t a v

/-- No entry for a number. -/
def SMap.erase {w : Nat} (m : SMap w) (a : Nat) : SMap w := m.filter (fun c => c.1 != a)

/-- A number takes a word: 0 is held by listing nothing. -/
def SMap.set {w : Nat} (m : SMap w) (a : Nat) (v : BitVec w) : SMap w :=
  if v = 0 then m.erase a else (m.erase a).insert a v

/-- Every number from `lo`, `len` of them, takes 0. -/
def SMap.clear {w : Nat} (m : SMap w) (lo len : Nat) : SMap w := m.filter (fun c => !(lo ≤ c.1 && c.1 < lo + len))

/-- The canonical form: numbers strictly rising, no entry 0. -/
def SMap.wf {w : Nat} : SMap w → Bool
  | [] => true
  | [(_, v)] => v != 0
  | (k, v) :: (k', v') :: t => v != 0 && k < k' && SMap.wf ((k', v') :: t)

/-- Records by key, keys rising. -/
abbrev KMap (α : Type) := List (Nat × α)

/-- The record of a key, or `d`. -/
def KMap.get {α : Type} (d : α) : KMap α → Nat → α
  | [], _ => d
  | (k, v) :: t, a => if a = k then v else KMap.get d t a

/-- Whether a key has a record. -/
def KMap.has {α : Type} (m : KMap α) (a : Nat) : Bool := m.any (fun c => c.1 == a)

def KMap.insert {α : Type} : KMap α → Nat → α → KMap α
  | [], a, v => [(a, v)]
  | (k, x) :: t, a, v => if a < k then (a, v) :: (k, x) :: t else (k, x) :: KMap.insert t a v

/-- No record for a key. -/
def KMap.erase {α : Type} (m : KMap α) (a : Nat) : KMap α := m.filter (fun c => c.1 != a)

/-- A key takes a record. -/
def KMap.set {α : Type} (m : KMap α) (a : Nat) (v : α) : KMap α := (m.erase a).insert a v

end Sys2Proof.Machine
end

