-- ==== Sys2Proof/Machine/State.lean ====
section
/-! DEFINITION. The state of one package, as plain data, its faults and refusals, and the machine after package reset
(R393). The log entries named in comments stand in notes/assumptions. -/

namespace Sys2Proof.Machine

/-- Faults: the machine stops. The spec stops no instruction of the part for good, so there is one, and no step answers it
after reset. -/
inductive Fault where
  /-- Raised by `step` when it is a strand's turn and no such strand is live: nothing can issue (safe). -/
  | noStrand
  deriving DecidableEq, Repr

/-- Refusals: the model has no meaning. -/
inductive Refusal where
  /-- Raised by an arm of `exec` that has no meaning yet (safe). -/
  | notModelled (mnemonic : String)
  deriving DecidableEq, Repr

/-! ### Memory in flight -/

/-- Where a request or its answer is. -/
inductive Stage where
  /-- in the coalescing window of its lane (R162) -/
  | window
  /-- in the write-combining buffer of its core (R176) -/
  | wc
  /-- in the binning network (R163) -/
  | bin
  /-- issued and not yet sent: a write behind an unbound load or an unready release, an LDX beyond its core's 512 (R163, R170, R190, R200) -/
  | held
  /-- a load that is to look for its line in L1 (R161) -/
  | l1
  /-- in a write-buffer bank of its core, or on its scratchpad path (R202) -/
  | bank
  /-- on its way to its home slice, or at its scratchpad port -/
  | home
  /-- at its home slice, before the arbiter or in a queue of a hot address (R209, R378) -/
  | queued
  /-- on the link to a peer package (R383) -/
  | link
  /-- in the wait table of a scratchpad port (R169) -/
  | waiting
  /-- performed; its reply is on the way -/
  | reply
  /-- performed; its acknowledgement is on the way -/
  | ack
  /-- an error response is on the way (R11) -/
  | err
  deriving DecidableEq, Repr

/-- The register a reply writes. -/
inductive Dest where
  | none
  | s (r : SReg)
  | v (r : VReg) (regs : Nat)
  deriving DecidableEq, Repr

/-- Who makes a request that is no strand's (R183, R206, R210, R383, R389). -/
inductive Asker where
  /-- a peer package, by a port of this one: the request as it came -/
  | peer (port : Nat) (f : Flit)
  /-- the command of a copy engine or a matrix engine, by its number -/
  | command (id : Nat)
  /-- a fetch of a stream of a strand -/
  | fetch (strand : Nat) (lane : Bool)
  /-- the page walker of a die -/
  | walker (die : Nat)
  /-- a host function -/
  | host (fn : Nat)
  deriving DecidableEq, Repr

/-- An agent that is no strand: its number as a source (R210), and the virtual device and the task priority that its requests have at an
arbiter (R379). -/
structure Agent where
  who : Asker
  src : Nat
  vd : Nat
  prio : Nat
  deriving DecidableEq, Repr

/-- A request of a strand and its answer. `key` is the memory key of the address, `inst` the number of the instruction in
its stream's issue order, `bound` the scalar accesses that precede a lane request (R188); `orphan`: its strand has ended (R211);
`entry` numbers the coalescing entry or the line access that it is part of, 0 for none (R162, R163); `tag` is its replay tag (R210);
`granted`: its scratchpad port has taken it (R155); `pbase` and `plog` the page of the translation it used (R179); `agent` makes the
request where no strand does, and `strand` then names none. -/
structure Flight where
  id : Nat
  strand : Nat
  lane : Bool
  inst : Nat
  bound : Nat
  thread : Nat
  kind : ReqKind
  va : W64
  key : Nat
  bytes : Nat
  data : Nat
  qual : Qual
  ord : Ord
  scope : Scope
  ev : Nat
  sx : Bool
  dest : Dest
  stage : Stage
  value : Nat
  vec : SMap 32
  watch : Bool
  pc : W64
  orphan : Bool
  entry : Nat
  tag : Nat
  granted : Bool
  pbase : Nat
  plog : Nat
  agent : Option Agent
  deriving DecidableEq, Repr

/-! ### Strands -/

/-- A renamed scalar value: the value that `reg` held for runs numbered up to `seq` (R77). -/
structure Ren where
  reg : SReg
  val : W64
  seq : Nat
  deriving DecidableEq, Repr

/-- A decision entry (R75, R76): its number, the lane PC of the next slot, the slots left, and how many scalar accesses of the
strand precede it in program order (R188). -/
structure Run where
  seq : Nat
  pc : W64
  left : Nat
  bound : Nat
  deriving DecidableEq, Repr

/-- An entry of the construct stack (R111). -/
inductive Construct where
  | ifE (elseSeen : Bool)
  | loopE (pc : W64) (imm : W32)
  deriving DecidableEq, Repr

/-- A membership of a constellation (R226, R228), with the scope and window taken at JOIN (R225, R227); `inBar`: a BAR has its arrival and waits
(R230). -/
structure Member where
  cn : Nat
  pending : Bool
  phase : Bool
  scope : Scope
  share : Bool
  woff : Nat
  wlen : Nat
  inBar : Bool := false
  deriving DecidableEq, Repr

/-- Error summary of copy commands, CSTAT (R331). -/
structure Cstat where
  cnt : Nat
  code : Nat
  engine : Nat
  die : Nat
  deriving DecidableEq, Repr

/-- A trap that is to be entered (R338, R342 to R346). `pc` is TRAPPC; `cb` the count barrier of a reporting copy command (R364). -/
structure TrapReq where
  code : Nat
  va : W64
  pc : W64
  lane : Bool
  tmaskf : W32
  tcode : Nat
  xkind : Nat
  wstep : Bool
  engv : Bool
  eng : Nat
  edie : Nat
  cb : Option Nat
  deriving DecidableEq, Repr

/-- A party parked on a fault (R350): its fault identifier, virtual address, kind, whether it was a fetch, whether of the lane
stream, the threads parked. -/
structure Parked where
  fid : Nat
  va : W64
  xkind : Nat
  fetch : Bool
  lane : Bool
  tmaskf : W32
  deriving DecidableEq, Repr

/-- What a strand that does not issue waits for. -/
inductive Wait where
  /-- nothing -/
  | none
  /-- an access of this instruction waits for the walks of these addresses (R63, R183); unit of its translations -/
  | walk (i : Instr) (vas : List W64) (unit : Nat)
  /-- the walks have ended; those of these 4 KiB pages failed, by kind (R181) -/
  | walked (fails : List (Nat × Nat))
  /-- parked on a future (R275), by the cell's address, its virtual address and rd -/
  | future (pa : Nat) (va : W64) (d : SReg)
  /-- parked on a lock (R235) -/
  | lock (pa : Nat) (va : W64) (d : SReg)
  /-- CBWAIT waits at a scratchpad port (R231) -/
  | port (d : SReg)
  /-- a park refused by a full waiter table (R236): the instruction is issued again -/
  | refused
  /-- waits at a named queue (R240): the operands, the thread that waits, whether a pop -/
  | queue (r : QOp) (thread : Nat) (pop : Bool)
  /-- waits in WFE (R368): events, word address and value, ticks left -/
  | wfe (mask : Nat) (pa : Nat) (word : W64) (ticks : Nat) (d : SReg)
  /-- MWAIT waits for the commands of its gang numbered below `n` (R310) -/
  | mwait (n : Nat)
  /-- CWAIT waits for the copy commands of its strand (R331) -/
  | cwait
  /-- waits for a posted receive (R244) -/
  | recv (d : SReg)
  /-- MSEND waits for the answer of its destination port (R243) -/
  | send (d : SReg)
  /-- CANCEL waits for the acknowledgement of its job's cancellation (R281) -/
  | cancelAck (job : Nat) (d : SReg)
  /-- a FENCE or TLBSYNC that has issued waits for its conditions (R179, R212) -/
  | fence
  /-- a parked FWAIT whose future was filled while its gang was saved: rd and the answer (R278) -/
  | answered (d : SReg) (v : W64)
  deriving DecidableEq, Repr

/-- The tag of a v register (R96): uniform; affine, written as a value of one register or as a pair; general. -/
inductive Tag where
  | uniform
  | affine (regs : Nat)
  | general
  deriving DecidableEq, Repr

/-- One strand (R20, R64, R65, R111, R344 to R346, R362). `owner` is the handle that its core received when it parked and has not
yet acted on (R276); `qdone` the threads of a queue instruction that are done (R240); `runsSaved` the runs that a trap interrupted
(R304, R342); `trapAt` is TRAPPC as the last trap entry wrote it (R363); `replyVec` the vector of the replies it has had, `ackVec` of the acknowledgements, `relVec` what its later writes
carry since a release fence (R193, R198, R200); `stampL` and `stampS` when its streams last issued (R60, R94), and `lastS` the PC of
the scalar instruction that issued last (R90). -/
structure Strand where
  live : Bool
  gang : Nat
  role : Nat
  idx : Nat
  core : Nat
  lane : Nat
  sid : Nat
  budget : Nat
  pc : W64
  sregs : SMap 64
  vregs : SMap 32
  kregs : SMap 32
  nest : SMap 8
  nestSaved : SMap 8
  stack : List Construct
  runs : List Run
  ren : List Ren
  nextRun : Nat
  accs : Nat
  insts : Nat
  lbase : W64
  members : List Member
  trapcause : W64
  trapva : W64
  trappc : W64
  tmaskp : W64
  tmaskf : W64
  handler : Bool
  pend : List TrapReq
  wp : SMap 64
  cstat : Cstat
  wait : Wait
  laneWait : Wait
  parked : Option Parked
  pendTrap : Option TrapReq
  redo : Option (W32 × Bool)
  wstep : Option W64
  loopBuf : List (Nat × W96)
  replyVec : SMap 32
  ackVec : SMap 32
  relVec : SMap 32
  stampL : Nat
  stampS : Nat
  lastS : W64
  qdone : W32
  removed : Bool
  frameVa : W64
  withdrawn : List Flight
  held : List Flight
  owner : Option Nat
  qsaved : W32
  pinned : Bool
  runsSaved : List Run
  trapAt : W64
  tags : KMap Tag
  issuing : List (Nat × Tag)
  deriving DecidableEq, Repr

/-! ### Charts and engine commands -/

/-- A chart entry: the 32 doublewords of the descriptor as CHART read them, and its address (R291, R294). -/
structure Chart where
  words : List W64
  va : W64
  deriving DecidableEq, Repr

/-- The forms of an MMA (R308). -/
inductive MmaForm where
  | dense | ns | bm
  deriving DecidableEq, Repr

/-- What a command of a matrix queue does (R303 to R309). -/
inductive MOp where
  | chart (entry : Nat) (va : W64)
  | chartFree (entry : Nat)
  | wload (entry : Nat) (chart : Chart) (w k k0 j0 : Nat)
  | mma (form : MmaForm) (tile w : Nat) (afmt : Fmt) (ascale amask : Nat)
  | mzero (mask : BitVec 16)
  deriving DecidableEq, Repr

/-- A command in a matrix queue: its number, gang, strand and PC, the scalar accesses of its strand before it (R81), and for
each strand of the gang the number of its next run at acceptance (R304). -/
structure MCmd where
  id : Nat
  gang : Nat
  strand : Nat
  pc : W64
  bound : Nat
  before : List (Nat × Nat)
  op : MOp
  deriving DecidableEq, Repr

/-- A weight slot (R295): elements as codes by position, scale bytes and superscales by position. -/
structure Slot where
  valid : Bool
  fmt : Fmt
  sparse : Nat
  n : Nat
  k : Nat
  v : Nat
  elems : SMap 64
  scales : SMap 8
  supers : SMap 32
  deriving DecidableEq, Repr

/-- An MMA in progress: the next pass and the two chains (R143, R308, R314). -/
structure MmaRun where
  pass : Nat
  used : Nat
  c0 : SMap 64
  c1 : SMap 64
  deriving DecidableEq, Repr

/-- The error summary of a gang's matrix commands, MSTAT (R310). -/
structure Mstat where
  cnt : Nat
  code : Nat
  tile : Nat
  slot : Nat
  chart : Nat
  deriving DecidableEq, Repr

/-- The matrix state of a core (R288): tiles hold element (i, j) of tile t at 4096 t + 64 i + j. `discard` are bytes of a failed
MMA still to arrive in a FIFO (R308); `await` the granule that the engine waits for, `waited` for how many cycles (R315), `seen`
the granules that it has read for the next pass (R299); `panel` are the elements that a WLOAD has read ahead of the others, by position (R187, R307). -/
structure Matrix where
  tiles : SMap 32
  slots : KMap Slot
  fifos : KMap (List Byte)
  run : Option MmaRun
  discard : KMap Nat
  await : Option Nat
  waited : Nat
  seen : List (Nat × Nat)
  panel : List (Nat × Nat)
  deriving DecidableEq, Repr

/-- What a copy command moves (R324, R329). -/
inductive CopyKind where
  | box (src dst : Chart) (ext sorg dorg : List Nat) (rm : Rm) (sat ftz : Bool)
  | gather (index table packed : Chart) (first n : Nat)
  | scatter (index table packed : Chart) (first n : Nat)
  deriving DecidableEq, Repr

/-- A copy command (R317 to R336): its number, port sequence number, core and strand, the scalar accesses of its strand before it
(R320); its units of work are numbered in iteration order: `next` is the next, and `busy`, `redo` and `parked` hold ranges of
units, those in progress, to be performed again, and stopped on a fault (R319, R332); `wps` the watchpoints taken at acceptance,
with their HLT (R364). `done` are units of the chunks in progress that have been performed ahead of the others (R187, R319), with the
virtual addresses and memory keys that they wrote; `idx` the indices with which the chunks of a scatter were cut (R319, R330), `late` the granules
that it has written and not yet made full, `stood` the unit at which a parked chunk stopped, by its first (R323); and `eng` the
engine that performs the command or has performed it last, 8 die + engine (R333). -/
structure Copy where
  id : Nat
  seq : Nat
  core : Nat
  strand : Nat
  gang : Nat
  vd : Nat
  pc : W64
  bound : Nat
  kind : CopyKind
  cb : Option W64
  next : Nat
  busy : List (Nat × Nat)
  redo : List (Nat × Nat)
  parked : List (Parked × Nat × Nat)
  ended : Bool
  wps : List (W64 × W64 × Bool)
  done : List (Nat × List (W64 × Nat))
  idx : List (Nat × Nat)
  late : List Nat
  stood : List (Nat × Nat)
  eng : Nat
  deriving DecidableEq, Repr

/-! ### Gangs, jobs, queues -/

/-- A queue entry (R255); `void` marks a slot of SPAWNV to be skipped (R269), `passed` how often it was passed over (R257). -/
structure QEntry where
  handle : Nat
  vd : Nat
  doomed : Bool
  resume : Bool
  prio : Nat
  void : Bool
  passed : Nat
  deriving DecidableEq, Repr

/-- Where a gang stands (R249, R258, R276, R277, R358). -/
inductive GangPlace where
  /-- resident on its core -/
  | resident
  /-- its collection has begun (R356): `cause` 0 forced, 1 cooperative, 2 halt, 3 saved for an adoption, 4 beneath a gang that is
  pre-empted (R278) -/
  | collecting (cause : Nat)
  /-- saved; a RESUME entry stands in a queue (R262) -/
  | saved
  /-- saved beneath an adoption, without a queue entry (R276) -/
  | beneath
  deriving DecidableEq, Repr

/-- The bookkeeping of a named queue beside its descriptor: pushed counts by strand, the pusher of each entry, the roles that
last pushed and popped (R240, R260), the strands that wait, in order, and whether to pop, and the gang it is bound to (R241). -/
structure QueueBook where
  gang : Nat
  pushers : List Nat
  lastPush : Nat
  lastPop : Nat
  waits : List (Nat × Bool)
  deriving DecidableEq, Repr

/-- One gang (R84, R238, R259, R276, R294, R358, R365). `locks` are the locks that it holds, with
their virtual addresses (R238); `taken` is the entry that its core holds while the gang is collected for an
adoption (R276); `due` is 0 while COUNT is not 0, 1 in the ac in which it has become 0, 2 from the next ac on (R86, R89); `vec` is what the
ended strands of the gang have released (R263, R264); `books` are the books of its saved queues (R240, R241). -/
structure Gang where
  live : Bool
  vd : Nat
  handle : Nat
  job : Nat
  core : Nat
  place : GangPlace
  prio : Nat
  count : W32
  depth : Nat
  adopter : Option Nat
  waitTask : Nat
  worst : Nat
  locks : List (Nat × W64)
  charts : KMap Chart
  halted : Bool
  hsusp : Bool
  matrix : Option Matrix
  mq : List MCmd
  copies : List Copy
  spad : List (Nat × SMap 8 × SMap 1)
  queues : List Nat
  rings : List (Nat × SMap 8)
  ctx : List Nat
  arg : W64
  noAdd : List Nat
  taken : Option QEntry
  mstat : Mstat
  due : Nat
  vec : SMap 32
  books : KMap QueueBook
  deriving DecidableEq, Repr

/-- A retirement whose ready successors do not all hold entries (R263, R264): its gang's key and record as it ended, and the successors not yet
decremented: inline, then those of the overflow list once it has been read. -/
structure Retiring where
  key : Nat
  gang : Gang
  inline : List Nat
  listed : Option (List Nat)
  deriving DecidableEq, Repr

/-- One active job (R251 to R254, R282). `left` are READY records whose entries wait for room in a die queue, with the die
(R253, R256, R285); `valid` is VALID of the entries of its constellation table as in force (R225); `master` is
the die of its master distributor (R253, R285). -/
structure Job where
  live : Bool
  kind : Nat
  prio : Nat
  dies : List Nat
  sbase : W64
  lsbase : W64
  ctab : W64
  ctabPa : List Nat
  donef : W64
  irq : Bool
  record : W64
  liveCnt : Nat
  waitCnt : Nat
  failed : Bool
  cancelling : Bool
  reached : List Nat
  left : List (Nat × Nat)
  valid : SMap 1
  master : Nat
  deriving DecidableEq, Repr

/-! ### Tables of homes and caches -/

/-- A waiter of a home slice's table (R236): kind 0 future, 1 lock, 2 word. -/
structure Waiter where
  pa : Nat
  strand : Nat
  kind : Nat
  deriving DecidableEq, Repr

/-- An inkwell in the store of its home slice, least recently used first: header and accumulator (R218, R219). -/
structure InkCell where
  pa : Nat
  header : W64
  acc : BitVec 3008
  deriving DecidableEq, Repr

/-- A cached translation (R182, R183): of a core, unit 0 to 3 a micro-TLB and 4 the core TLB; of a die, unit e that of copy engine e. -/
structure TlbEntry where
  unit : Nat
  vd : Nat
  page : Nat
  size : Nat
  pte : W64
  deriving DecidableEq, Repr

/-- A line of an L1 data cache (R161, R208): its 128 bytes, priority, whether owned and how many atomics it has served (R208); `vec` is the vector its fill carried. -/
structure L1Line where
  line : Nat
  bytes : List Byte
  ev : Nat
  owned : Bool
  served : Nat
  vec : SMap 32
  deriving DecidableEq, Repr

/-- A line of an instruction cache, by virtual device and virtual line (R396). -/
structure ILine where
  vd : Nat
  line : Nat
  bytes : List Byte
  deriving DecidableEq, Repr

/-- A table entry in the walk caches of a die's page walker (R183): the virtual device, the entry's address, the entry. -/
structure WalkEntry where
  vd : Nat
  ea : Nat
  entry : W64
  deriving DecidableEq, Repr

/-- A line in a shared cache slice (R159, R160, R380): its way, the virtual device that filled it, its priority. The lines of a set
stand in the order of their use, least recent first; the bytes are those of memory, of which the slice is the home. -/
structure SliceLine where
  line : Nat
  way : Nat
  vd : Nat
  ev : Nat
  deriving DecidableEq, Repr

/-- A token bucket (R378): its level in 1/1,024 token, at a fabric cycle of its die. -/
structure Bucket where
  level : Nat
  stamp : Nat
  deriving DecidableEq, Repr

/-- An invalidation on its way to a die, with the vector of its sender (R198); `core` made the write and keeps its copy. -/
structure Inval where
  src : Nat
  core : Nat
  line : Nat
  vec : SMap 32
  deriving DecidableEq, Repr

/-- A tag of the replay filters, with the cached reply (R210). -/
structure ReplayTag where
  src : Nat
  home : Nat
  tag : Nat
  reply : Nat
  deriving DecidableEq, Repr

/-! ### Messages and queues of a core -/

/-- A message (R242, R243): source and destination are the 12 bits package, die, cluster; `strand` sent it, none of this package's
for a message of a peer; `vec` is the vector it carries. -/
structure Msg where
  src : Nat
  dst : Nat
  tag : Nat
  units : Nat
  payload : List Byte
  strand : Option Nat
  va : W64
  vec : SMap 32
  deriving DecidableEq, Repr

/-- A posted receive (R244). -/
structure Posted where
  strand : Nat
  anySrc : Bool
  anyTag : Bool
  src : Nat
  tag : Nat
  units : Nat
  va : W64
  deriving DecidableEq, Repr

/-- One core (R19). -/
structure Core where
  queue : List QEntry
  icS : List ILine
  icL : List ILine
  tlb : List TlbEntry
  l1 : List L1Line
  predictor : List (Nat × Nat)
  books : KMap QueueBook
  port : List Copy
  portSeq : Nat
  holder : Option Nat
  matrix : Matrix
  mq : List MCmd
  deriving DecidableEq, Repr

/-- One cluster: its task queue and its message port (R16, R242, R255). -/
structure Cluster where
  queue : List QEntry
  posted : List Posted
  overflow : List Msg
  deriving DecidableEq, Repr

/-! ### Dies, partitions, virtual devices, package -/

/-- A fault-queue or error-log entry as its eight doublewords (R352). -/
abbrev LogEntry := List W64

/-- One die (R16, R352, R369, R371, R372, R386, R387). `due` is the MULT that it is to step to, 0 for none (R388); `held` are the entries
of its store and `source` those that wait at their sources, with their partitions (R351). -/
structure Die where
  present : Bool
  cores : W32
  slices : BitVec 16
  hbmg : BitVec 16
  ports : BitVec 4
  banks : W32
  fenced : Bool
  cyccnt : W64
  refcnt : W64
  mult : Nat
  relock : Nat
  due : Nat
  steps : Nat
  stepLog : KMap (List W64)
  errLog : KMap LogEntry
  errIdx : W64
  held : List (Nat × LogEntry)
  source : List (Nat × LogEntry)
  edramOwner : SMap 16
  ephem : SMap 64
  vc : SMap 32
  invals : List Inval
  queue : List QEntry
  engines : KMap (List Copy)
  refreshing : List Nat
  tlb : List TlbEntry
  walks : List WalkEntry
  deriving DecidableEq, Repr

/-- One partition: the first eight doublewords of its record, and its fault queue registers (R351, R374); `fqVec` is the vector
of the writes that FQTAIL releases (R368). -/
structure Part where
  regs : SMap 64
  rbusy : Bool
  fqbase : W64
  fqhead : W64
  fqtail : W64
  fqVec : SMap 32
  nextFid : Nat
  deriving DecidableEq, Repr

/-- One virtual device: the doublewords of its record, the LAUNCH writes not yet checked, what LSTATUS reports, and the
context blocks in use (R358, R377, R381). -/
structure Vd where
  regs : SMap 64
  launches : List W64
  result : Nat
  lastJob : Nat
  ctxUsed : List Nat
  deriving DecidableEq, Repr

/-- One link port (R384, R385); `replay` holds the flits not yet acknowledged, with their types; `partReq` and `partRep` are the data of a
request and of a reply of which further flits are to come. -/
structure Port where
  trained : Bool
  x8 : Bool
  resetting : Bool
  txSeq : Nat
  rxNext : Nat
  replay : List (Nat × Flit)
  acked : Nat
  fails : Nat
  creditReq : Nat
  creditRep : Nat
  usedReq : Nat
  usedRep : Nat
  partReq : List Byte
  partRep : List Byte
  deriving DecidableEq, Repr

/-- One mailbox (R392): the last doorbell accepted, MBSTAT's fields, the request and response areas. -/
structure Mailbox where
  doorbell : W64
  state : Nat
  err : Nat
  seq : BitVec 16
  req : List Byte
  resp : List Byte
  deriving DecidableEq, Repr

/-- The management core (R373, R388, R390 to R392); `running` is the firmware image that runs, none for the one the package
came with; `waiting` are the virtual functions whose reports are to be made, in the order of their doorbells (R392). -/
structure Mgmt where
  running : Option (List Byte)
  staged : Option (List Byte)
  committed : Option (List Byte)
  counter : Nat
  fenceList : List W64
  boxes : KMap Mailbox
  waiting : List Nat
  below : Nat
  means : List Nat
  temps : KMap Nat
  deriving DecidableEq, Repr

/-- A 4 KiB scratchpad block's owner (R360): the gang that owns it, or none, and the virtual device that last owned it. -/
structure Block where
  owner : Option Nat
  lastVd : Option Nat
  deriving DecidableEq, Repr

/-- What leaves the package (R11, R384, R389). -/
inductive Sent where
  /-- an access of a host function completes: the data read, and whether it was performed -/
  | completion (fn : Nat) (data : List Byte) (ok : Bool)
  /-- a flit of a type on a link port: 0 idle, 1 request, 2 reply, 3 acknowledgement and credit -/
  | flit (port type : Nat) (f : Flit)
  deriving DecidableEq, Repr

/-- Which agent acts next (log entry 3). -/
inductive Turn where
  /-- a step of the hardware, the host or system software -/
  | event (i : Instr)
  /-- a strand issues in its lane stream or its scalar stream -/
  | strand (key : Nat) (lane : Bool)
  /-- `ticks` of the 100 MHz reference pass on a die (R28, R372) -/
  | pass (die ticks : Nat)
  /-- the host or a peer package writes bytes of its own memory, as this package sees it (R156, log entry 12) -/
  | outside (pa : Nat) (data : List Byte)
  /-- a message of a peer package enters (R243, log entry 12) -/
  | message (m : Msg)
  /-- something is attached to a link port: 0 nothing, 1 a host adapter card, 2 a peer package or a switch; 4 more: it trains at ×8 (R15) -/
  | attach (port : Nat) (what : BitVec 8)
  /-- the answer to a request is lost on a link between dies or packages, and the request is delivered again (R210) -/
  | resend (id : Nat)
  /-- an access of a host function through BAR0, or of function 0 through BAR2: an offset, and data to write or as many bytes to read (R389) -/
  | host (fn : Nat) (bar2 : Bool) (off : Nat) (wr : Bool) (data : List Byte)
  /-- the management core's signed store takes a fence list (R373) -/
  | store (units : List W64)
  /-- units that a bring-up will find to fail their training or test: a die that no connection reaches, a group of HBM4, a core, a slice (R393);
  kind 6 is an eDRAM bank, 32 die + bank (log entry 45) -/
  | defects (units : List W64)
  /-- a copy engine performs one element of a chunk in progress ahead of the others (R187, R319) -/
  | element (die engine slot chunk unit : Nat)
  /-- the matrix engine of a core reads one element of the panel that it loads ahead of the others (R187, R307) -/
  | panel (core position : Nat)
  /-- the management core fails in the command of a mailbox (R392) -/
  | mgmtFailure (fn : Nat)
  deriving DecidableEq, Repr

/-- The state of the package. `bins` are the node bins whose timers run, by address and virtual device (R270); `launchOrder` the
virtual devices of the LAUNCH writes not yet checked, in order of arrival (R381); `irqs` the MSI-X vectors sent, by function
(R389); `outbox` what has left the package; `tags` the next replay tag of each source at each home (R210); `slices` the lines of the
shared cache slices, by set (R159); `buckets` the token buckets (R378); `ecc` the lines on which an uncorrectable error is met by the
access under way (R27); `burst` the lines that the engine's step under way has reached (R163); `attached` what stands at the other end of each link port (R15); `defects` the units that
fail at bring-up (R393); `issues` numbers the issues of strands (R60, R94);
`released` is what the start of a task acquires, by gang key (R259, R264); `retiring` the retirements that wait for room in a queue (R264). -/
structure State where
  mem : List Host.Cell
  fe : SMap 1
  blocks : KMap Block
  strands : KMap Strand
  gangs : KMap Gang
  jobs : KMap Job
  cores : KMap Core
  clusters : KMap Cluster
  dies : KMap Die
  parts : KMap Part
  vds : KMap Vd
  flights : List Flight
  msgs : List Msg
  waiters : List Waiter
  inks : KMap (List InkCell)
  replay : List ReplayTag
  tags : SMap 16
  slices : KMap (List SliceLine)
  buckets : KMap Bucket
  ecc : List Nat
  burst : List Nat
  pkgnum : BitVec 4
  npkg : BitVec 4
  cap : Nat
  route : SMap 64
  hbmBytes : Nat
  ports : KMap Port
  attached : SMap 8
  defects : List W64
  mgmt : Mgmt
  bins : List (Nat × Nat)
  irqs : List (Nat × Nat)
  outbox : List Sent
  launchOrder : List Nat
  turns : List Turn
  cur : Nat
  stream : Bool
  free : Nat
  nextId : Nat
  issues : Nat
  released : KMap (SMap 32)
  retiring : List Retiring
  deriving DecidableEq, Repr

/-! ### Reset -/

/-- A key that has no record reads as these. -/
def Cstat.zero : Cstat := { cnt := 0, code := 0, engine := 0, die := 0 }
def Mstat.zero : Mstat := { cnt := 0, code := 0, tile := 0, slot := 0, chart := 0 }
def Matrix.zero : Matrix :=
  { tiles := [], slots := [], fifos := [], run := none, discard := [], await := none, waited := 0, seen := [], panel := [] }
def Slot.zero : Slot :=
  { valid := false, fmt := .none, sparse := 0, n := 0, k := 0, v := 0, elems := [], scales := [], supers := [] }
def Block.zero : Block := { owner := none, lastVd := none }
/-- A queue before any push or pop: which role counts as the last to have done so is not given; role 0 (DESIGN CHOICE, log entry 86). -/
def QueueBook.zero : QueueBook := { gang := 0, pushers := [], lastPush := 0, lastPop := 0, waits := [] }

/-- A strand that is not there. -/
def Strand.zero : Strand :=
  { live := false, gang := 0, role := 0, idx := 0, core := 0, lane := 0, sid := 0, budget := 0, pc := 0, sregs := [],
    vregs := [], kregs := [], nest := [], nestSaved := [], stack := [], runs := [], ren := [], nextRun := 0, accs := 0, insts := 0,
    lbase := 0, members := [], trapcause := 0, trapva := 0, trappc := 0, tmaskp := 0, tmaskf := 0, handler := false,
    pend := [], wp := [], cstat := Cstat.zero, wait := .none, laneWait := .none, parked := none, pendTrap := none,
    redo := none, wstep := none, loopBuf := [], replyVec := [], ackVec := [], relVec := [], stampL := 0, stampS := 0, lastS := 0, qdone := 0, removed := false, frameVa := 0, withdrawn := [], held := [],
    owner := none, qsaved := 0, pinned := false, runsSaved := [], trapAt := 0, tags := [], issuing := [] }

/-- A gang that is not there. -/
def Gang.zero : Gang :=
  { live := false, vd := 0, handle := 0, job := 0, core := 0, place := .resident, prio := 0, count := 0, depth := 0,
    adopter := none, waitTask := 0, worst := 0, locks := [], charts := [], halted := false, hsusp := false,
    matrix := none, mq := [], copies := [], spad := [], queues := [], rings := [], ctx := [], arg := 0, noAdd := [],
    taken := none, mstat := Mstat.zero, due := 0, vec := [], books := [] }

/-- A job that is not active. -/
def Job.zero : Job :=
  { live := false, kind := 0, prio := 0, dies := [], sbase := 0, lsbase := 0, ctab := 0, ctabPa := [], donef := 0, irq := false,
    record := 0, liveCnt := 0, waitCnt := 0, failed := false, cancelling := false, reached := [], left := [], valid := [], master := 0 }

/-- A core after reset. -/
def Core.zero : Core :=
  { queue := [], icS := [], icL := [], tlb := [], l1 := [], predictor := [], books := [], port := [],
    portSeq := 0, holder := none, matrix := Matrix.zero, mq := [] }

def Cluster.zero : Cluster := { queue := [], posted := [], overflow := [] }

/-- HBM4 groups of a die's stacks: two stacks on the corner dies, one on the edge dies, none on die 4 (R14, R371). -/
def Die.fullHbmg (d : Nat) : BitVec 16 :=
  match d with
  | 0 | 2 | 6 | 8 => 0xFFFF
  | 1 | 3 | 5 | 7 => 0x00FF
  | _ => 0

/-- Die d after bring-up in the full configuration (R371, log entry 2); START of bank b is 200 b (log entry 5). -/
def Die.reset (d : Nat) : Die :=
  { present := d < 9, cores := 0xFFFFFFFF, slices := 0xFFFF, hbmg := Die.fullHbmg d, ports := 0, banks := 0xFFFFFFFF,
    fenced := false, cyccnt := 0, refcnt := 0, mult := 30, relock := 0, due := 0, steps := 0, stepLog := [], errLog := [],
    errIdx := 0, held := [], source := [], edramOwner := [], ephem := (List.range 31).map (fun b => (b + 1, BitVec.ofNat 64 (200 * (b + 1)))),
    vc := [], invals := [], queue := [], engines := [], refreshing := [], tlb := [], walks := [] }

/-- A partition after reset (R374, R351). -/
def Part.reset : Part := { regs := [], rbusy := false, fqbase := 0, fqhead := 0, fqtail := 0, fqVec := [], nextFid := 1 }

/-- A virtual device after reset: SLICE holds 0xFFFF_FFFF (R377). -/
def Vd.reset : Vd := { regs := [(0, 0xFFFFFFFF)], launches := [], result := 0, lastJob := 0, ctxUsed := [] }

/-- A link port that has not trained; the credits of a new link are not given (log entry 10). -/
def Port.reset : Port :=
  { trained := false, x8 := false, resetting := false, txSeq := 0, rxNext := 0, replay := [], acked := 0, fails := 0,
    creditReq := 0, creditRep := 0, usedReq := 0, usedRep := 0, partReq := [], partRep := [] }

def Mailbox.reset : Mailbox := { doorbell := 0, state := 0, err := 0, seq := 0, req := [], resp := [] }

/-- The management core after reset (R390 to R393). -/
def Mgmt.reset : Mgmt :=
  { running := none, staged := none, committed := none, counter := 0, fenceList := [], boxes := [], waiting := [],
    below := 0, means := [], temps := [] }

/-- The package after package reset and bring-up (R393), before system software enables a virtual device. -/
def State.reset : State :=
  { mem := [], fe := [], blocks := [], strands := [], gangs := [], jobs := [], cores := [], clusters := [],
    dies := (List.range 9).map (fun d => (d, Die.reset d)), parts := [], vds := [], flights := [], msgs := [],
    waiters := [], inks := [], replay := [], tags := [], slices := [], buckets := [], ecc := [], burst := [], pkgnum := 0, npkg := 0, cap := 1500, route := [], hbmBytes := Config.fullHbm,
    ports := [], attached := [], defects := [], mgmt := Mgmt.reset, bins := [], irqs := [], outbox := [], launchOrder := [], turns := [], cur := 0, stream := true, free := 0, nextId := 0, issues := 0, released := [], retiring := [] }

end Sys2Proof.Machine
end

