-- ==== Sys2Proof/Machine/Ops.lean ====
section
/-! DEFINITION. The named operations that the meanings share: reading and writing the records of State, memory and the
scratchpads, homes and regions, invalidations, translation, the error log and the fault queue, constellations, the end of a
strand, taking a trap and returning from one. -/

namespace Sys2Proof.Machine

open Sys2Proof

/-! ### Fields of words -/

/-- Bits [lo + n − 1 : lo] of a word, as a number. -/
def fieldOf {w : Nat} (x : BitVec w) (lo n : Nat) : Nat := (x.toNat / 2 ^ lo) % 2 ^ n

/-- A word with bits [lo + n − 1 : lo] replaced. -/
def setField {w : Nat} (x : BitVec w) (lo n v : Nat) : BitVec w :=
  BitVec.ofNat w (x.toNat - fieldOf x lo n * 2 ^ lo + (v % 2 ^ n) * 2 ^ lo)

/-- 1 for true. -/
def bitNat (b : Bool) : Nat := if b then 1 else 0

/-- The entries of a list with their places. -/
def indexed {α : Type} (l : List α) : List (Nat × α) := (List.range l.length).zip l

/-! ### Keys (log entry 3) -/

def coreKeyOf (die core : Nat) : Nat := 32 * die + core
def gangKeyOf (vd handle : Nat) : Nat := vd * 0x100000000 + handle
def strandKeyOf (gang role idx : Nat) : Nat := gang * 2048 + role * 512 + idx
def jobKeyOf (vd job : Nat) : Nat := vd * 65536 + job

/-! ### Records -/

def State.strand (s : State) (k : Nat) : Strand := s.strands.get Strand.zero k
def State.setStrand (s : State) (k : Nat) (t : Strand) : State := { s with strands := s.strands.set k t }
/-- The strand whose instruction is executed. -/
def State.me (s : State) : Strand := s.strand s.cur
def State.setMe (s : State) (t : Strand) : State := s.setStrand s.cur t
def State.gang (s : State) (k : Nat) : Gang := s.gangs.get Gang.zero k
def State.setGang (s : State) (k : Nat) (g : Gang) : State := { s with gangs := s.gangs.set k g }
def State.job (s : State) (k : Nat) : Job := s.jobs.get Job.zero k
def State.setJob (s : State) (k : Nat) (j : Job) : State := { s with jobs := s.jobs.set k j }
def State.core (s : State) (k : Nat) : Core := s.cores.get Core.zero k
def State.setCore (s : State) (k : Nat) (c : Core) : State := { s with cores := s.cores.set k c }
def State.cluster (s : State) (k : Nat) : Cluster := s.clusters.get Cluster.zero k
def State.setCluster (s : State) (k : Nat) (c : Cluster) : State := { s with clusters := s.clusters.set k c }
def State.die (s : State) (k : Nat) : Die := s.dies.get (Die.reset 9) k
def State.setDie (s : State) (k : Nat) (d : Die) : State := { s with dies := s.dies.set k d }
def State.part (s : State) (k : Nat) : Part := s.parts.get Part.reset k
def State.setPart (s : State) (k : Nat) (p : Part) : State := { s with parts := s.parts.set k p }
def State.vd (s : State) (k : Nat) : Vd := s.vds.get Vd.reset k
def State.setVd (s : State) (k : Nat) (v : Vd) : State := { s with vds := s.vds.set k v }

/-- The gang of a strand. -/
def State.gangOf (s : State) (k : Nat) : Gang := s.gang (s.strand k).gang
/-- The job of a strand. -/
def State.jobKey (s : State) (k : Nat) : Nat := jobKeyOf (s.gangOf k).vd (s.gangOf k).job
/-- The die of a strand's core. -/
def Strand.die (t : Strand) : Nat := t.core / 32

/-- The cancel state of its job has reached a strand's core (R224, R282). -/
def State.cancelled (s : State) (k : Nat) : Bool := (s.job (s.jobKey k)).reached.contains (s.strand k).core
/-- The arithmetic clock of a core's die runs (R386). -/
def State.clockOn (s : State) (core : Nat) : Bool := (s.die (core / 32)).relock == 0
/-- Nothing of a command is left to be started: it ends with the chunks that are in progress (R333, R336). -/
def Copy.cut (c : Copy) : Copy := { c with ended := true, redo := [], parked := [] }

/-- Copy commands wherever they stand change, or go. -/
def State.mapCopies (s : State) (f : Copy → Option Copy) : State :=
  { s with
    dies := s.dies.map (fun (d : Nat × Die) => (d.1, { d.2 with
      engines := d.2.engines.map (fun (e : Nat × List Copy) => (e.1, e.2.filterMap f)) })),
    cores := s.cores.map (fun (c : Nat × Core) => (c.1, { c.2 with port := c.2.port.filterMap f })),
    gangs := s.gangs.map (fun (g : Nat × Gang) => (g.1, { g.2 with copies := g.2.copies.filterMap f })) }

/-- The live strands of a gang. -/
def State.strandsOf (s : State) (gang : Nat) : List Nat :=
  (s.strands.filter (fun c => c.2.live && c.2.gang == gang)).map (·.1)

/-- A gang holds room on its core: it is resident, or in collection. -/
def Gang.present (g : Gang) : Bool :=
  g.live && (match g.place with | .resident | .collecting _ => true | .saved | .beneath => false)

/-! ### Scalar registers (R64, R77) -/

/-- A scalar register: s0 reads as zero. -/
def Strand.s (t : Strand) (r : SReg) : W64 := if r = 0 then 0 else t.sregs.get r.toNat

/-- Writes a scalar register without renaming; a write to s0 is discarded. -/
def Strand.putS (t : Strand) (r : SReg) (v : W64) : Strand :=
  if r = 0 then t else { t with sregs := t.sregs.set r.toNat v }

/-- The number of the youngest unfinished run. -/
def Strand.lastSeq (t : Strand) : Option Nat := (t.runs.getLast?).map (·.seq)

/-- The value that unfinished runs read of a register about to be written stays in a spare copy (R77). -/
def Strand.keepS (t : Strand) (r : SReg) : Strand :=
  match r == 0, t.lastSeq with
  | false, some q => { t with ren := t.ren ++ [{ reg := r, val := t.s r, seq := q }] }
  | _, _ => t

/-- A scalar instruction writes a register (R64, R77). -/
def Strand.writeS (t : Strand) (r : SReg) (v : W64) : Strand := (t.keepS r).putS r v

/-- The value that a lane instruction of run `seq` reads (R77): the one the register held when the run was enqueued. -/
def Strand.laneS (t : Strand) (seq : Nat) (r : SReg) : W64 :=
  match t.ren.find? (fun e => e.reg == r && seq ≤ e.seq) with
  | some e => e.val
  | none => t.s r

/-- The spare copies in use on a core (R77); those of a gang that has been saved went with its context (R90). -/
def State.copiesUsed (s : State) (core : Nat) : Nat :=
  (s.strands.map (fun c => if c.2.live && c.2.core == core &&
    (match (s.gang c.2.gang).place with | .saved | .beneath => false | _ => true) then c.2.ren.length else 0)).sum

/-- A load's value enters a register after later runs have been enqueued: they go on reading what the register held when they were
enqueued (R77, R93, log entry 11). A copy that holds that value already serves them as well. -/
def Strand.keepLate (t : Strand) (r : SReg) : Strand :=
  match t.lastSeq with
  | none => t
  | some q =>
    if t.ren.any (fun e => e.reg == r && q ≤ e.seq) then t
    else match t.ren.findIdx? (fun e => e.reg == r && e.val == t.s r && t.ren.all (fun x => x.reg != r || x.seq ≤ e.seq)) with
      | some i => { t with ren := (indexed t.ren).map (fun e => if e.1 == i then { e.2 with seq := q } else e.2) }
      | none => t.keepS r

/-- The scalar stream goes on after an instruction. -/
def Strand.advance (t : Strand) : Strand := { t with pc := t.pc + 4, wstep := none }

/-- Writes rd and goes on. -/
def State.scalarResult (s : State) (r : SReg) (v : W64) : State := s.setMe ((s.me.writeS r v).advance)

/-! ### Threads (R45, R111) -/

/-- A mask register; k0 reads as the active threads. -/
def Strand.activeSet (t : Strand) : W32 :=
  BitVec.ofNat 32 (((List.range 32).map (fun i => if t.nest.get i = 0 then 2 ^ i else 0)).sum)

def Strand.k (t : Strand) (n : BitVec 3) : W32 := if n = 0 then t.activeSet else t.kregs.get n.toNat

def Strand.putK (t : Strand) (n : BitVec 3) (v : W32) : Strand :=
  if n = 0 then t else { t with kregs := t.kregs.set n.toNat v }

/-- The threads a mask field selects (R45). -/
def Strand.selects (t : Strand) (m : Mask) : W32 := if m.ks then ~~~(t.k m.k) else t.k m.k

/-- The executing set X: active, selected, and, when RFT or a restart executes an instruction again, still to be executed
(R45, R184, R347). -/
def Strand.execSet (t : Strand) (m : Mask) : W32 :=
  match t.redo with
  | some (x, _) => t.activeSet &&& t.selects m &&& x
  | none => t.activeSet &&& t.selects m

/-- The threads of a set, ascending. -/
def threadsIn (x : W32) : List Nat := (List.range 32).filter (fun i => x.getLsbD i)

/-- The set of some threads. -/
def threadSet (ts : List Nat) : W32 := BitVec.ofNat 32 (((List.range 32).map (fun i => if ts.contains i then 2 ^ i else 0)).sum)

/-- v register r of thread t. -/
def Strand.v (t : Strand) (r thread : Nat) : W32 := t.vregs.get (32 * r + thread)
def Strand.putV (t : Strand) (r thread : Nat) (v : W32) : Strand :=
  { t with vregs := t.vregs.set (32 * r + thread) v }

/-- A little-endian value into `n` registers from r of a thread. -/
def Strand.putVs (t : Strand) (r thread : Nat) : Nat → Nat → Strand
  | 0, _ => t
  | n + 1, x => (t.putV r thread (BitVec.ofNat 32 x)).putVs (r + 1) thread n (x / 2 ^ 32)

/-- `n` registers from r of a thread, as a little-endian value (R5). -/
def Strand.getVs (t : Strand) (r thread : Nat) : Nat → Nat
  | 0 => 0
  | n + 1 => (t.v r thread).toNat + 2 ^ 32 * t.getVs (r + 1) thread n

/-! ### Runs (R48, R76, R77) -/

/-- next(p) of R48. -/
def nextLanePc (p : W64) : W64 := if p.toNat % 64 < 48 then p + 12 else p + 16

/-- bits [5:0] of a lane PC hold a slot offset (R48). -/
def lanePcOk (p : W64) : Bool := p.toNat % 64 % 12 == 0 && p.toNat % 64 ≤ 48

/-- `n` slots on from p. -/
def laneSlots : Nat → W64 → W64
  | 0, p => p
  | n + 1, p => laneSlots n (nextLanePc p)

/-- Spare copies that no unfinished run needs are freed (R77). -/
def Strand.freeRen (t : Strand) : Strand :=
  match t.runs with
  | [] => { t with ren := [] }
  | r :: _ => { t with ren := t.ren.filter (fun e => r.seq ≤ e.seq) }

/-- The lane instruction that has issued is complete: the registers that it writes take their tags (R98). -/
def Strand.settleTags (t : Strand) : Strand :=
  { t with tags := t.issuing.foldl (fun m e => m.set e.1 e.2) t.tags, issuing := [] }

/-- Every v register is tagged general (R98). -/
def Strand.general (t : Strand) : Strand := { t with tags := (List.range t.budget).map (fun r => (r, .general)), issuing := [] }

/-- The next slot of the lane stream; the entry leaves the queue after its last (R76). -/
def Strand.nextSlot (t : Strand) : Strand :=
  match t.runs with
  | [] => { t with redo := none }
  | r :: rs =>
    if r.left ≤ 1 then ({ t with runs := rs, redo := none } : Strand).freeRen
    else { t with runs := { r with pc := nextLanePc r.pc, left := r.left - 1 } :: rs, redo := none }

/-- The lane stream goes on to the next slot. -/
def Strand.laneAdvance (t : Strand) : Strand := t.settleTags.nextSlot

/-- The lane PC of the instruction that issues, 0 with no run. -/
def Strand.lanePc (t : Strand) : W64 := match t.runs with | [] => 0 | r :: _ => r.pc

/-- The number of the run whose instruction issues. -/
def Strand.runSeq (t : Strand) : Nat := match t.runs with | [] => t.nextRun | r :: _ => r.seq

/-- The scalar accesses before the run whose instruction issues. -/
def Strand.runBound (t : Strand) : Nat := match t.runs with | [] => t.accs | r :: _ => r.bound

/-! ### Memory: bytes by key. Keys below 2^52 are physical addresses (R156); the scratchpads follow (R19). -/

/-- Key of byte `off` of a core's scratchpad. -/
def spadKey (core off : Nat) : Nat := 0x10000000000000 + core * 0x80000 + off
def isSpad (key : Nat) : Bool := 0x10000000000000 ≤ key
def spadCore (key : Nat) : Nat := (key - 0x10000000000000) / 0x80000
def spadOff (key : Nat) : Nat := (key - 0x10000000000000) % 0x80000

/-- One byte; an unlisted byte reads 0 (log entry 1). -/
def State.byte (s : State) (a : Nat) : Byte := SMap.get s.mem a
def State.setByte (s : State) (a : Nat) (b : Byte) : State := { s with mem := SMap.set s.mem a b }
/-- Bytes from an address. -/
def State.bytes (s : State) (a : Nat) : Nat → List Byte
  | 0 => []
  | n + 1 => s.byte a :: s.bytes (a + 1) n
/-- A little-endian value of n bytes (R5). -/
def State.readLE (s : State) (a n : Nat) : Nat := leNat (s.bytes a n)
def State.putBytes (s : State) (a : Nat) : List Byte → State
  | [] => s
  | b :: bs => (s.setByte a b).putBytes (a + 1) bs

/-- A scratchpad key in the region of the queue descriptors (R239). -/
def inQueueDesc (key : Nat) : Bool := spadOff key / 512 == 1023

/-- Bytes of an access at a scratchpad port: the descriptors of named queues are read-only, and keep what they hold (R6, R239). -/
def State.storeSpad (s : State) (a : Nat) : List Byte → State
  | [] => s
  | b :: bs => (if inQueueDesc a then s else s.setByte a b).storeSpad (a + 1) bs

/-- Full/empty bit of a scratchpad byte's granule (R168). -/
def State.isFull (s : State) (key : Nat) : Bool := SMap.get s.fe (key / 16) == 1
def State.setFull (s : State) (key : Nat) (f : Bool) : State := { s with fe := SMap.set s.fe (key / 16) (if f then 1 else 0) }

/-! ### Regions and homes (R156 to R158) -/

inductive Region where
  | hbm | host | edram (die off : Nat) | control | nothing
  deriving DecidableEq, Repr

def pkgOf (pa : Nat) : Nat := pa / 0x1000000000000
def within (pa : Nat) : Nat := pa % 0x1000000000000

/-- The region of PA[47:0] (R156). The HBM4 of a peer package is as large as that peer's CONFIG says; the peer decides, and to this
package any address below the size of the full configuration counts as HBM4 there (log entry 60). -/
def State.region (s : State) (pa : Nat) : Region :=
  let a := within pa
  if a < (if pkgOf pa == s.pkgnum.toNat then s.hbmBytes else Config.fullHbm) then .hbm
  else if 0x800000000000 ≤ a && a < 0xC00000000000 then .host
  else if 0xFF0000000000 ≤ a then .control
  else if 0xF00000000000 ≤ a && a < 0xF00000000000 + 9 * 0x4000000 && (a - 0xF00000000000) % 0x4000000 < 0x3000000 then
    .edram ((a - 0xF00000000000) / 0x4000000) ((a - 0xF00000000000) % 0x4000000)
  else .nothing

/-- The stack of an HBM4 address, and its pseudo-channel group (R157). -/
def hbmStack (pa : Nat) : Nat := within pa / 4096 % 12
def hbmGroup (pa : Nat) : Nat := within pa / 4096 / 12 % 8

/-- Die, first slice and slices of a stack (R157); and whether it is the second stack of its die (R371). -/
def stackHome (st : Nat) : Nat × Nat × Nat :=
  match st with
  | 0 => (0, 0, 8) | 1 => (0, 8, 8) | 2 => (1, 0, 16) | 3 => (2, 0, 8) | 4 => (2, 8, 8) | 5 => (3, 0, 16)
  | 6 => (5, 0, 16) | 7 => (6, 0, 8) | 8 => (6, 8, 8) | 9 => (7, 0, 16) | 10 => (8, 0, 8) | _ => (8, 8, 8)

/-- The home slice of a physical address of its package: die and slice (R157, R158); of a control-space address the die whose management
agent orders it, die 4 for a die that is fenced (R369, R371). -/
def State.homeOf (s : State) (pa : Nat) : Nat × Nat :=
  match s.region pa with
  | .hbm =>
    let h := stackHome (hbmStack pa)
    (h.1, h.2.1 + ((pa / 128 % 32) ^^^ (pa / 4096 % 32)) % h.2.2)
  | .edram d o => (d, o / 128 % 16)
  | .control =>
    let d := (within pa - 0xFF0000000000) / 0x100000000
    (if d < 9 && (s.die d).present && !(s.die d).fenced then d else 4, pa / 128 % 16)
  | _ => (4, pa / 128 % 16)

/-- The number of a home slice of a package, for its tables. -/
def State.homeKey (s : State) (pa : Nat) : Nat := let h := s.homeOf pa; 16 * (9 * pkgOf pa + h.1) + h.2

/-- ROUTEq of the package record (R383): the ports usable toward package q, ascending. -/
def State.routes (s : State) (q : Nat) : List Nat :=
  ([1, 2, 3, 4].filter (fun p => (s.route.get 0).getLsbD (4 * q + (p - 1)))) ++
    (if (s.route.get 1).getLsbD q then [5] else [])

/-- Whether the domain holds package q, as this package sees it (R156). -/
def State.holdsPkg (s : State) (q : Nat) : Bool := q == s.pkgnum.toNat || !(s.routes q).isEmpty

/-- A pseudo-channel group is in use (R371, R35). -/
def State.groupUsed (s : State) (pa : Nat) : Bool :=
  let h := stackHome (hbmStack pa)
  (s.die h.1).hbmg.getLsbD ((if h.2.1 == 8 then 8 else 0) + hbmGroup pa)

/-- A home slice is in use: its die is present and not fenced, and the slice not disabled (R35, R371, R373). -/
def State.sliceUsed (s : State) (h : Nat × Nat) : Bool :=
  (s.die h.1).present && !(s.die h.1).fenced && (s.die h.1).slices.getLsbD h.2

/-- The access under way meets an uncorrectable error at this line (R27). -/
def State.eccBad (s : State) (pa : Nat) : Bool := s.ecc.contains (pa / 128)

/-- A physical address reaches a location (R156, R35): the region holds something, its package is of the domain, its home is in use,
its group not retired, its eDRAM bank present, and no uncorrectable error is met (R27). The control space is not memory. -/
def State.paOk (s : State) (pa : Nat) : Bool :=
  !s.eccBad pa &&
  if pkgOf pa == s.pkgnum.toNat then
    match s.region pa with
    | .hbm => s.groupUsed pa && s.sliceUsed (s.homeOf pa)
    | .host => (s.ports.get Port.reset 0).trained && s.sliceUsed (s.homeOf pa)
    | .edram d o => (s.die d).banks.getLsbD (o / 0x180000) && s.sliceUsed (s.homeOf pa)
    | _ => false
  else s.holdsPkg (pkgOf pa) && (match s.region pa with | .hbm | .host | .edram _ _ => true | _ => false)

/-! ### The records of the control space that the machine reads (R374, R377) -/

def State.vdReg (s : State) (v i : Nat) : W64 := (s.vd v).regs.get i
def State.vdEn (s : State) (v : Nat) : Bool := (s.vdReg v 0).getLsbD 63
def State.vdDebug (s : State) (v : Nat) : Bool := (s.vdReg v 0).getLsbD 62
def State.vdPart (s : State) (v : Nat) : Nat := fieldOf (s.vdReg v 0) 56 5
def State.vdSlice (s : State) (v : Nat) : W32 := (s.vdReg v 0).setWidth 32
def State.ptRoot (s : State) (v : Nat) : Nat := (s.vdReg v 1).toNat
def State.poolVa (s : State) (v : Nat) : W64 := s.vdReg v 2
def State.poolN (s : State) (v : Nat) : Nat := fieldOf (s.vdReg v 3) 0 32
def State.tentry (s : State) (v : Nat) : W64 := s.vdReg v 5
def State.tlbase (s : State) (v : Nat) : W64 := s.vdReg v 6
def State.tfbase (s : State) (v : Nat) : W64 := s.vdReg v 7

/-- What LBASE holds of an address: its BASE field (R83). -/
def lbaseOf (w : W64) : W64 := BitVec.ofNat 64 (fieldOf w 6 50 * 64)
def State.partEn (s : State) (p : Nat) : Bool := ((s.part p).regs.get 0).getLsbD 63
def State.supVd (s : State) (p : Nat) : Nat := fieldOf ((s.part p).regs.get 0) 16 9

/-- A supervisor strand (R337). -/
def State.isSup (s : State) (k : Nat) : Bool :=
  let v := (s.gangOf k).vd
  s.partEn (s.vdPart v) && s.supVd (s.vdPart v) == v

/-- A virtual device has an active job (R165). -/
def State.vdActive (s : State) (v : Nat) : Bool := s.jobs.any (fun j => j.2.live && j.1 / 65536 == v)

/-- The record of a handle (R245). -/
def State.recordVa (s : State) (v h : Nat) : W64 := s.poolVa v + BitVec.ofNat 64 (128 * h)

/-- The owner of an eDRAM block has an active job, so writes to it are refused (R165). -/
def State.edramHeld (s : State) (d o : Nat) : Bool :=
  s.vdActive ((s.die d).edramOwner.get (o / 65536)).toNat

/-- A pseudo-channel group, of this package, of another partition (R375). -/
def State.foreignGroup (s : State) (v : Nat) (pa : Nat) : Bool :=
  match s.region pa with
  | .hbm =>
    let bit := 8 * hbmStack pa + hbmGroup pa
    pkgOf pa == s.pkgnum.toNat && s.parts.any (fun p => p.1 != s.vdPart v && (p.2.regs.get 0).getLsbD 63 &&
      (p.2.regs.get (4 + bit / 64)).getLsbD (bit % 64))
  | _ => false

/-- The host's IOMMU refuses an access of a virtual device to the host window of this package: it comes as of the device's function, and PA[45:0]
is the host address (R389, log entry 89). -/
def State.iommuRefuses (s : State) (v : Nat) (pa : Nat) : Bool :=
  pkgOf pa == s.pkgnum.toNat && s.region pa == .host && Config.iommuRefuses (v + 1) (pa % 2 ^ 46) (s.dies.get (Die.reset 9) 4).refcnt.toNat

/-- An address of this package that is not a virtual device's to reach (R375, R389). -/
def State.vdRefused (s : State) (v : Nat) (pa : Nat) : Bool := s.foreignGroup v pa || s.iommuRefuses v pa

/-! ### Constellation-table bytes that stores do not change (R225) -/

/-- A byte of an RO field of a constellation table of an active job. -/
def State.roByte (s : State) (a : Nat) : Bool :=
  s.jobs.any (fun j => j.2.live && j.2.ctabPa.any (fun b => b ≤ a && a < b + 4096 && 8 ≤ (a - b) % 32))

/-- An address of the constellation table of an active launch: every access is performed at its home (R225). -/
def State.inTable (s : State) (a : Nat) : Bool := s.jobs.any (fun j => j.2.live && j.2.ctabPa.any (fun b => b ≤ a && a < b + 4096))

/-- Bytes of a store: those of RO fields of constellation tables are discarded. -/
def State.storeBytes (s : State) (a : Nat) : List Byte → State
  | [] => s
  | b :: bs => (if s.roByte a then s else s.setByte a b).storeBytes (a + 1) bs

/-! ### Vector clocks, L1 and invalidations (R198, R199, R161) -/

/-- The larger of two counters by serial-number arithmetic (R198). -/
def serialMax (a b : W32) : W32 := if (a - b).toInt < 0 then b else a
/-- a is at or after b by serial-number arithmetic (R198). -/
def serialGe (a b : W32) : Bool := 0 ≤ (a - b).toInt

/-- A vector holds nine counters at 0 to 8, and 1 at 9; the empty map is no vector, which orders nothing. -/
def isVec (a : SMap 32) : Bool := a.get 9 != 0

def vecJoin (a b : SMap 32) : SMap 32 :=
  if !isVec a then b
  else if !isVec b then a
  else SMap.set ((List.range 9).foldl (fun (m : SMap 32) i => m.set i (serialMax (a.get i) (b.get i))) []) 9 1
def vecCovers (a b : SMap 32) : Bool := !isVec b || (List.range 9).all (fun i => serialGe (a.get i) (b.get i))

/-- The vector that leaves a die: what it has applied, and what it has sent. -/
def State.sendVec (s : State) (d : Nat) : SMap 32 :=
  let x := s.die d
  (x.vc.set d (x.vc.get d + BitVec.ofNat 32 (x.invals.filter (fun m => m.src == d)).length)).set 9 1

/-- What the home slice of an address answers with: its die's vector; a message from another package carries none (R198). -/
def State.homeVec (s : State) (pa : Nat) : SMap 32 := if pkgOf pa == s.pkgnum.toNat then s.sendVec (s.homeOf pa).1 else []

/-- The conditions of a WFE that hold (R368): bit 0 the fault queue, bit 2 the word. -/
def State.wfeBits (s : State) (k mask pa : Nat) (word : W64) : W64 :=
  let p := s.part (s.vdPart (s.gangOf k).vd)
  BitVec.ofNat 64 ((if mask.testBit 0 && p.fqtail != p.fqhead then 1 else 0) +
    (if mask.testBit 2 && s.readLE pa 8 != word.toNat then 4 else 0))

/-- A WFE ends with a result and acquires at domain scope (R368, R199). -/
def State.endWfe (s : State) (k : Nat) (d : SReg) (v : W64) : State :=
  let t := s.strand k
  let c := s.core t.core
  let s := s.setCore t.core { c with l1 := c.l1.filter (fun l => pkgOf (128 * l.line) == s.pkgnum.toNat) }
  { s.setStrand k { (t.writeS d v).advance with wait := .none } with waiters := s.waiters.filter (fun w => w.strand != k) }

/-- What a WFE acquires with the conditions that ended it (R368): the release of FQTAIL, and that of the word's write. -/
def State.seeWfe (s : State) (k mask pa : Nat) : State :=
  let t := s.strand k
  let fq := if mask.testBit 0 then (s.part (s.vdPart (s.gangOf k).vd)).fqVec else []
  let word := if mask.testBit 2 then s.sendVec (if isSpad pa then spadCore pa / 32 else (s.homeOf pa).1) else []
  s.setStrand k { t with replyVec := vecJoin (vecJoin t.replyVec fq) word }

/-- The waits in WFE that end now, among those that a test picks. -/
def State.wakeWfe (s : State) (pick : Nat → Nat → Nat → Bool) : State :=
  (s.strands.filter (fun c => c.2.live)).foldl (fun s c =>
    match c.2.wait with
    | .wfe mask pa word _ d =>
      let v := s.wfeBits c.1 mask pa word
      if pick c.1 mask pa && v != 0 then (s.seeWfe c.1 mask pa).endWfe c.1 d v
      else s
    | _ => s) s

/-- Some core but `core` holds a line. -/
def State.heldElsewhere (s : State) (core line : Nat) : Bool :=
  s.cores.any (fun c => c.1 != core && c.2.l1.any (fun l => l.line == line))

/-- No counter runs 2^20 ahead of a die's copy of it (R198). -/
def State.clockRoom (s : State) (die : Nat) : Bool :=
  s.dies.all (fun d => d.2.fenced || !d.2.present || ((s.sendVec die).get die - d.2.vc.get die).toNat + 1 < 2 ^ 20)

/-- Every die applies all that is on its way to it: what a write waits for that would take a counter further ahead than 2^20 (R198). -/
def State.applyAll (s : State) : State :=
  { s with
    cores := s.cores.map (fun (c : Nat × Core) =>
      (c.1, { c.2 with l1 := c.2.l1.filter (fun l => !(s.die (c.1 / 32)).invals.any (fun m => m.line == l.line && m.core != c.1)) })),
    dies := s.dies.map (fun (d : Nat × Die) => (d.1, { d.2 with
      invals := [], vc := (d.2.invals.filter (fun m => m.src < 9)).foldl (fun v m => v.set m.src (serialMax (v.get m.src) (m.vec.get m.src))) d.2.vc })) }

/-- The invalidations that a write of a line causes: one to each die, before the acknowledgement (R198, R200). A home on
another package carries no vector: source 9. -/
def State.invalidate (s : State) (core line : Nat) : State :=
  if s.heldElsewhere core line then
    let pa := 128 * line
    let s := if s.clockRoom (s.homeOf pa).1 then s else s.applyAll
    let own := pkgOf pa == s.pkgnum.toNat
    let src := if own then (s.homeOf pa).1 else 9
    let v := s.sendVec src
    let vec := if own then v.set src (v.get src + 1) else []
    { s with dies := s.dies.map (fun d => (d.1, if d.2.fenced then d.2 else { d.2 with invals := d.2.invals ++ [{ src, core, line, vec }] })) }
  else s

/-- Bytes replaced in a list from an offset. -/
def patchBytes (l : List Byte) (off : Nat) (bs : List Byte) : List Byte :=
  l.take off ++ bs.take (l.length - off) ++ l.drop (off + bs.length)

/-- Whether a request has not yet been performed. -/
def Flight.unperformed (f : Flight) : Bool :=
  match f.stage with
  | .window | .wc | .bin | .held | .l1 | .bank | .home | .queued | .waiting | .link => true
  | .reply | .ack | .err => false

/-- A request has left its core (R200). -/
def Flight.sent (f : Flight) : Bool :=
  match f.stage with
  | .window | .wc | .bin | .held | .l1 | .bank => false
  | _ => true

/-- A plain store of a strand, which passes the L1 of its core on its way (R161). -/
def Flight.passesL1 (f : Flight) : Bool :=
  match f.kind with
  | .store | .ntStore | .sts => !isSpad f.key && f.agent.isNone
  | _ => false

/-- A line's copy in a core's L1 takes bytes that a store of the core carries, with the store's vector (R161, R198); it takes the
store's priority unless that is 0, and becomes the most recently used (R160). -/
def State.patchL1 (s : State) (core a ev : Nat) (vec : SMap 32) (bs : List Byte) : State :=
  let c := s.core core
  match c.l1.find? (fun l => l.line == a / 128) with
  | some l =>
    s.setCore core { c with l1 := c.l1.filter (fun x => x.line != a / 128) ++
      [{ l with bytes := patchBytes l.bytes (a % 128) bs, ev := if ev == 0 then l.ev else ev, vec := vecJoin l.vec vec }] }
  | none => s

/-- The stores of a core that have left it and are not yet performed at their homes stay in its copy of their line (R161, R200). -/
def State.overlayL1 (s : State) (core line : Nat) : State :=
  (s.flights.filter (fun f => f.passesL1 && f.sent && f.unperformed && f.key / 128 == line && (s.strand f.strand).core == core)).foldl
    (fun s f => s.patchL1 core f.key f.ev f.vec (leBytes f.bytes f.data)) s

/-! ### Ownership of lines (R208) -/

def Core.counter (c : Core) (line : Nat) : Nat := ((c.predictor.find? (fun p => p.1 == line)).map (·.2)).getD 0

/-- A counter changes or is looked up; its entry becomes the most recently used of 256. -/
def Core.setCounter (c : Core) (line n : Nat) : Core :=
  let rest := c.predictor.filter (fun p => p.1 != line)
  { c with predictor := (rest ++ [(line, n)]).drop (rest.length + 1 - 256) }

/-- A core other than `core` owns the line (R208). -/
def State.ownedElsewhere (s : State) (core line : Nat) : Bool :=
  s.cores.any (fun c => c.1 != core && c.2.l1.any (fun l => l.line == line && l.owned))

/-- The home recalls a line from its owners but `core`: each returns it and drops it, and its counter rises (R208). -/
def State.recall (s : State) (core line : Nat) : State :=
  { s with cores := s.cores.map (fun (c : Nat × Core) =>
      if c.1 != core && c.2.l1.any (fun l => l.line == line && l.owned) then
        (c.1, ({ c.2 with l1 := c.2.l1.filter (fun l => l.line != line) } : Core).setCounter line (min (c.2.counter line + 1) 3))
      else c) }

/-- An agent that is no core reads or writes n bytes at their home: owned lines are recalled first (R208). -/
def State.recallAll (s : State) (a n : Nat) : State :=
  if isSpad a then s else (List.range ((a % 128 + n + 127) / 128)).foldl (fun s i => s.recall 999 (a / 128 + i)) s

/-- A write of bytes within one line, performed at its home, by a core (or an agent: 999). A core that owned the line gives it up
first (R208). The copy of its own core takes the bytes with the vector of the home, which covers the invalidations that the write has sent
(R194, R198). -/
def State.writeLine (s : State) (core a : Nat) (bs : List Byte) : State :=
  if isSpad a then s.storeSpad a bs
  else
    let s := ((s.recall core (a / 128)).storeBytes a bs).invalidate core (a / 128)
    ((s.patchL1 core a 0 (s.homeVec a) bs).overlayL1 core (a / 128)).wakeWfe (fun _ mask pa => mask.testBit 2 && pa / 128 == a / 128)

/-- A write of bytes that may cross lines. `fuel` is the number of lines. -/
def State.writeLines (s : State) (core : Nat) : Nat → Nat → List Byte → State
  | 0, _, _ => s
  | n + 1, a, bs =>
    if bs.isEmpty then s
    else (s.writeLine core a (bs.take (128 - a % 128))).writeLines core n (a + (128 - a % 128)) (bs.drop (128 - a % 128))

def State.write (s : State) (core a : Nat) (bs : List Byte) : State := s.writeLines core (bs.length / 128 + 2) a bs

/-- A write of a little-endian value of n bytes. -/
def State.writeLE (s : State) (core a n v : Nat) : State := s.write core a (leBytes n v)

/-- The L1 line that holds an address. -/
def Core.line (c : Core) (a : Nat) : Option L1Line := c.l1.find? (fun l => l.line == a / 128)

/-- The victim of a fill: lowest priority first, least recently used first (R160); the lines stand in the order of their use. -/
def dropVictim (ls : List L1Line) : List L1Line :=
  let low := (ls.map (·.ev)).foldl min 7
  match ls.findIdx? (fun l => l.ev == low) with
  | some i => ls.eraseIdx i
  | none => ls

/-- A line is used: it becomes the most recently used, and takes the access's priority unless that is 0 (R160). -/
def State.touchL1 (s : State) (core a ev : Nat) : State := s.patchL1 core a ev [] []

/-- A line enters a core's L1 with a priority; priority 0 allocates nothing (R160, R161: 2,048 lines), nor does a line of a
constellation table in use (R225). A copy that stands there is replaced, and stays owned if it was (R208); what the core's stores
have passed stays in it. How the lines form sets is not given: all are candidates for the victim (DESIGN CHOICE, log entry 93). -/
def State.fillL1 (s : State) (core a ev : Nat) (vec : SMap 32) (owned : Bool) : State :=
  let c := s.core core
  let old := c.line a
  if (ev == 0 && old.isNone) || s.inTable a then s
  else
    let rest := c.l1.filter (fun l => l.line != a / 128)
    let rest := if rest.length < 2048 then rest else dropVictim rest
    let was := old.any (fun l => l.owned)
    (s.setCore core { c with l1 := rest ++ [{
      line := a / 128, bytes := s.bytes (a / 128 * 128) 128, ev := if ev == 0 then (old.map (·.ev)).getD 0 else ev,
      owned := owned || was, served := if was then (old.map (·.served)).getD 0 else 0, vec }] }).overlayL1 core (a / 128)

/-! ### Scratchpad: windows and block ownership (R154, R155, R239, R241, R360) -/

/-- The scratchpad reserve (R154). -/
def inReserve (va : W64) : Bool := 0xFFFF0000000000 ≤ va.toNat && va.toNat ≤ 0xFFFFFFFFFFFFFF
def apertureSel (va : W64) : Nat := fieldOf va 19 7
def apertureOff (va : W64) : Nat := fieldOf va 0 19
/-- An address of the aperture, the first 64 MiB of the reserve (R154). -/
def inAperture (va : W64) : Bool := inReserve va && va.toNat < 0xFFFF0000000000 + 0x4000000

/-- The scratchpad byte an aperture address names, or nothing (R154). -/
def State.spadTarget (s : State) (core : Nat) (va : W64) : Option Nat :=
  let sel := apertureSel va
  if !inAperture va then none
  else if sel == 0 then some (spadKey core (apertureOff va))
  else if 1 ≤ sel && sel ≤ 32 && (s.die (core / 32)).cores.getLsbD (sel - 1) then
    some (spadKey (core / 32 * 32 + (sel - 1)) (apertureOff va))
  else none

/-- A strand holds a sharing window onto a core that grants these bytes (R155). -/
def State.hasWindow (s : State) (k core off n : Nat) : Bool :=
  let t := s.strand k
  t.members.any (fun m => m.share && m.woff ≤ off && off + n ≤ m.woff + m.wlen &&
    s.strands.any (fun q => q.2.live && q.2.core == core && s.jobKey q.1 == s.jobKey k &&
      (s.gang q.2.gang).present && q.2.members.any (fun m' => m'.cn == m.cn)))

/-- The descriptor of a named queue (R239). -/
def queueKey (core q : Nat) : Nat := spadKey core (0x7FE00 + 16 * q)

/-- The ring of queue q of a core: first offset and bytes; valid or not (R239). -/
def State.ringOf (s : State) (core q : Nat) : Bool × Nat × Nat :=
  let d := s.readLE (queueKey core q) 16
  (d / 2 ^ 78 % 2 == 1, d / 2 ^ 84 % 4096 * 128, 4 * 2 ^ (d / 2 ^ 82 % 4) * 2 ^ (d / 2 ^ 79 % 8 + 1))

/-- The virtual device of the gang that a queue is bound to. -/
def State.queueVd (s : State) (core q : Nat) : Nat := (s.gang ((s.core core).books.get QueueBook.zero q).gang).vd

/-- Bytes of the ring area that a virtual device may reach (R241). -/
def State.ringOk (s : State) (vd core off n : Nat) : Bool :=
  (List.range 32).any (fun q => let r := s.ringOf core q
    r.1 && r.2.1 ≤ off && off + n ≤ r.2.1 + r.2.2 && s.queueVd core q == vd)

/-- A block is taken by a gang at its first access; a block of another virtual device is cleared first (R360). -/
def State.takeBlock (s : State) (gang blk : Nat) : State :=
  let b := s.blocks.get Block.zero blk
  let vd := (s.gang gang).vd
  let base := 0x10000000000000 + blk / 128 * 0x80000 + blk % 128 * 4096
  let s := if b.lastVd.isSome && b.lastVd != some vd then
      { s with mem := SMap.clear s.mem base 4096, fe := SMap.clear s.fe (base / 16) 256 } else s
  { s with blocks := s.blocks.set blk { owner := some gang, lastVd := some vd } }

/-- Number of the block of a scratchpad byte. -/
def blockOf (key : Nat) : Nat := spadCore key * 128 + spadOff key / 4096

/-- Whether a gang's access of n bytes at a scratchpad byte is performed, and the state after ownership is taken (R27, R154, R155,
R239, R241, R360). `viaWindow` for a selector other than 0; `k` the strand that holds windows. -/
def State.spadAccess (s : State) (k gang key n : Nat) (viaWindow write sup : Bool) : Option State :=
  let core := spadCore key
  let off := spadOff key
  let vd := (s.gang gang).vd
  if (viaWindow && !s.hasWindow k core off n) || s.eccBad key then none
  else if off + n ≤ 0x70000 then
    let b := s.blocks.get Block.zero (blockOf key)
    match b.owner with
    | some g => if (s.gang g).vd == vd then some s else none
    | none => if viaWindow then none else some (s.takeBlock gang (blockOf key))
  else if 0x7FE00 ≤ off then
    if write then (if sup then some s else none)
    else if sup then some s
    else
      let touched := (List.range ((off % 16 + n + 15) / 16)).map (fun i => (off - 0x7FE00) / 16 + i)
      if touched.all (fun q => !(s.ringOf core q).1 || s.queueVd core q == vd) then some s else none
  else if s.ringOk vd core off n then some s else none

/-! ### Translation (R180 to R183) -/

/-- log2 of the page size of a SIZE code (R180). -/
def pageLog (c : Nat) : Nat :=
  match c with
  | 0 => 12 | 1 => 14 | 2 => 16 | 3 => 18 | 4 => 20 | 5 => 21 | 6 => 22 | 7 => 24 | 8 => 26 | 9 => 28 | 10 => 30 | _ => 32

/-- Leaf sizes a level permits (R180). -/
def levelPermits (level c : Nat) : Bool :=
  match level with
  | 0 => c ≤ 4 | 1 => 5 ≤ c && c ≤ 9 | 2 => c == 10 || c == 11 | _ => false

/-- How a walk ends. -/
inductive WalkEnd where
  | leaf (pte : W64)
  | notMapped
  | malformed
  /-- an entry that no location holds: an error response to the access -/
  | error (pa : Nat)
  /-- an entry in an eDRAM bank in its refresh window: the walk waits (R167) -/
  | wait
  /-- an entry that a peer package holds: it is to be asked for over the link (R383) -/
  | ask (pa : Nat)
  deriving DecidableEq, Repr

/-- Levels of the walk: number, low bit of the index, entries (R180). -/
def walkLevels : List (Nat × Nat × Nat) := [(4, 48, 256), (3, 39, 512), (2, 30, 512), (1, 21, 512), (0, 12, 512)]

/-- The bank of an eDRAM address is in its refresh window (R167). -/
def State.refreshing (s : State) (pa : Nat) : Bool :=
  match s.region pa with
  | .edram d o => pkgOf pa == s.pkgnum.toNat && (s.die d).refreshing.contains (o / 0x180000)
  | _ => false

/-- Some of n bytes from a key lie in an eDRAM bank in its refresh window. -/
def State.anyRefreshing (s : State) (key n : Nat) : Bool :=
  !isSpad key && (List.range ((key % 128 + n + 127) / 128)).any (fun i => s.refreshing (max key (128 * (key / 128 + i))))

/-- A walk: its end, the table entries that it read and may keep, and the addresses of the entries that it read at their homes. -/
structure Walk where
  fin : WalkEnd
  kept : List WalkEntry
  read : List Nat
  deriving DecidableEq, Repr

/-- The answer to what a page walker has asked a peer package for. -/
def State.walkReply (s : State) (die ea : Nat) : Option Flight :=
  s.flights.find? (fun f => f.key == ea && (f.stage == .reply || f.stage == .err) &&
    (match f.agent with | some a => a.who == .walker die | none => false))

/-- A table entry as a walk reads it: from a walk cache, at its home here, or from a peer's answer; or why it cannot. A walk that the hardware
makes within a step of its own (`once`) reads every entry at once (log entries 5 and 19). -/
def State.walkEntry (s : State) (die vd ea : Nat) (once : Bool) : Except WalkEnd W64 :=
  match (s.die die).walks.find? (fun w => w.vd == vd && w.ea == ea) with
  | some w => .ok w.entry
  | none =>
    if !s.paOk ea then .error (.error ea)
    else if once || (pkgOf ea == s.pkgnum.toNat && !s.refreshing ea) then .ok (BitVec.ofNat 64 (s.readLE ea 8))
    else if pkgOf ea == s.pkgnum.toNat then .error .wait
    else match s.walkReply die ea with
      | some f => if f.stage == .err then .error (.error ea) else .ok (BitVec.ofNat 64 f.value)
      | none => .error (.ask ea)

/-- A walk reads each entry at its home, or takes a table entry from the walk caches of the die (R180 to R183). -/
def State.walk (s : State) (die vd va : Nat) (once : Bool) : Nat → List (Nat × Nat × Nat) → Walk
  | _, [] => { fin := .malformed, kept := [], read := [] }
  | table, (level, lo, n) :: rest =>
    let ea := table + 8 * (va / 2 ^ lo % n)
    let ends (fin : WalkEnd) : Walk := { fin, kept := [], read := [ea] }
    match s.walkEntry die vd ea once with
    | .error fin => ends fin
    | .ok e =>
      let size := fieldOf e 60 4
      if !e.getLsbD 0 then ends .notMapped
      else if fieldOf e 52 8 != 0 || fieldOf e 6 6 != 0 then ends .malformed
      else if e.getLsbD 1 then
        if size != 0 || level == 0 then ends .malformed
        else
          let w := s.walk die vd va once (fieldOf e 12 40 * 4096) rest
          { w with kept := { vd, ea, entry := e } :: w.kept, read := ea :: w.read }
      else if !levelPermits level size || fieldOf e 12 40 * 4096 % 2 ^ pageLog size != 0 then ends .malformed
      else ends (.leaf e)

/-- A walk of the page walker of a die. -/
def State.walkVa (s : State) (die vd : Nat) (va : W64) (once : Bool := false) : Walk :=
  s.walk die vd va.toNat once (s.ptRoot vd) walkLevels

/-- The walk caches of a die keep table entries, 512 of them (R183); the oldest leaves (log entry 54). -/
def State.keepWalks (s : State) (die : Nat) (ws : List WalkEntry) : State :=
  let d := s.die die
  let fresh := ws.filter (fun w => !d.walks.any (fun x => x.vd == w.vd && x.ea == w.ea))
  if fresh.isEmpty then s else s.setDie die { d with walks := (fresh ++ d.walks).take 512 }

/-- PA := FRAME base + (EA mod page size) (R181). -/
def leafPa (pte : W64) (va : W64) : Nat := fieldOf pte 12 40 * 4096 + va.toNat % 2 ^ pageLog (fieldOf pte 60 4)

/-- A cached translation of an address in one of some units (R182). Where entries of a group that differ are cached, the spec does not
determine which of them applies; the model takes the one cached last (log entry 61, DESIGN CHOICE). -/
def tlbLook (l : List TlbEntry) (units : List Nat) (vd : Nat) (va : W64) : Option TlbEntry :=
  l.find? (fun e => units.contains e.unit && e.vd == vd && e.page ≤ va.toNat && va.toNat < e.page + 2 ^ pageLog e.size)

def Core.tlbFind (c : Core) (units : List Nat) (vd : Nat) (va : W64) : Option TlbEntry := tlbLook c.tlb units vd va

/-- The cached copy of a leaf. -/
def tlbEntryOf (unit vd : Nat) (va : W64) (pte : W64) : TlbEntry :=
  let size := fieldOf pte 60 4
  { unit, vd, page := va.toNat / 2 ^ pageLog size * 2 ^ pageLog size, size, pte }

/-- Permissions: bits of a leaf (R180). -/
def needR : Nat := 4
def needW : Nat := 8
def needRW : Nat := 12
def needXS : Nat := 16
def needXL : Nat := 32

def permits (pte : W64) (need : Nat) : Bool := pte.toNat &&& need == need

/-- XKIND codes (R344). -/
def xkNotMapped : Nat := 1
def xkPerm : Nat := 2
def xkNonCanon : Nat := 3
def xkNotScratch : Nat := 4
def xkMalformed : Nat := 5

/-- The outcome of Check (R181). -/
inductive Trans where
  /-- passes: the memory key -/
  | key (k : Nat)
  /-- an error response, with the address logged -/
  | err
  /-- a translation fault -/
  | fault (xkind : Nat)
  /-- no cached translation: a walk is needed -/
  | miss
  deriving DecidableEq, Repr

/-- Check of an access of a core with a cached translation, where there is one (R181). -/
def State.checkWith (s : State) (core need : Nat) (va : W64) (found : Option TlbEntry) : Trans :=
  if fieldOf va 56 8 != 0 then .fault xkNonCanon
  else if inReserve va then
    match s.spadTarget core va with
    | some k => .key k
    | none => .err
  else
    match found with
    | some e => if permits e.pte need then .key (leafPa e.pte va) else .fault xkPerm
    | none => .miss

/-- Check with the translations a core has cached (R181, R183). -/
def State.check (s : State) (core : Nat) (units : List Nat) (vd need : Nat) (va : W64) : Trans :=
  s.checkWith core need va ((s.core core).tlbFind units vd va)

/-- A translation enters a unit that holds n entries; the oldest leaves (R183, log entry 54). -/
def tlbPut (l : List TlbEntry) (n : Nat) (e : TlbEntry) : List TlbEntry :=
  (e :: l.filter (fun x => x.unit == e.unit)).take n ++ l.filter (fun x => x.unit != e.unit)

/-- A core keeps a translation in some units: 64 entries of a micro-TLB, 2,048 of the core TLB (R183). -/
def State.tlbFill (s : State) (core : Nat) (units : List Nat) (vd : Nat) (va pte : W64) : State :=
  let c := s.core core
  s.setCore core { c with tlb := units.foldl (fun l u => tlbPut l (if u == 4 then 2048 else 64) (tlbEntryOf u vd va pte)) c.tlb }

/-- Check of an agent that walks within its step: no translation is kept, and every wait of the walk is over in that step. -/
def State.checkNow (s : State) (core vd need : Nat) (va : W64) : Trans :=
  match s.check core [] vd need va with
  | .miss =>
    match (s.walkVa (core / 32) vd va true).fin with
    | .leaf pte => if permits pte need then .key (leafPa pte va) else .fault xkPerm
    | .notMapped => .fault xkNotMapped
    | .malformed => .fault xkMalformed
    | .wait | .ask _ | .error _ => .err
  | r => r

/-- A memory key of a hardware access of a virtual device that neither faults nor is refused (HBM4, eDRAM, host window). -/
def State.hwKey (s : State) (core vd need : Nat) (va : W64) (write : Bool) : Option Nat :=
  match s.checkNow core vd need va with
  | .key k =>
    if isSpad k then some k
    else if !s.paOk k || s.vdRefused vd k then none
    else match s.region k with
      | .edram d o => if write && pkgOf k == s.pkgnum.toNat && s.edramHeld d o then none else some k
      | _ => some k
  | _ => none

/-- A unit of the machine reads n bytes of a virtual device at their homes: a core that owns a line returns it first (R208). -/
def State.recallVa (s : State) (vd n : Nat) (va : W64) : State :=
  match s.hwKey 128 vd needR va false with
  | some k => s.recallAll k n
  | none => s

/-! ### Error log and fault queue (R351, R352) -/

/-- What an entry of the fault queue or of the error log says (R352). -/
structure Report where
  kind : Nat
  xkind : Nat := 0
  wr : Bool := false
  fetch : Bool := false
  engv : Bool := false
  vd : Nat := 0
  fid : Nat := 0
  va : W64 := 0
  task : Nat := 0
  job : Nat := 0
  die : Nat := 0
  core : Nat := 0
  lane : Nat := 0
  sid : Nat := 0
  eng : Nat := 0
  tmaskf : W32 := 0
  pc : W64 := 0
  wtask : Nat := 0
  hdie : Nat := 0
  hcore : Nat := 0
  adopt : Bool := false
  detail : W64 := 0
  deriving DecidableEq, Repr

/-- The eight doublewords of an entry (R352). -/
def Report.entry (r : Report) (pkg : Nat) (time : W64) : LogEntry :=
  [BitVec.ofNat 64 (r.kind * 2 ^ 56 + r.xkind * 2 ^ 52 + bitNat r.wr * 2 ^ 51 + bitNat r.fetch * 2 ^ 50 +
      bitNat r.engv * 2 ^ 49 + r.vd * 2 ^ 40 + r.fid),
    r.va,
    BitVec.ofNat 64 (r.task * 2 ^ 32 + r.job * 2 ^ 16),
    BitVec.ofNat 64 (pkg * 2 ^ 60 + r.die * 2 ^ 56 + r.core * 2 ^ 51 + r.lane * 2 ^ 45 + r.sid * 2 ^ 42 + r.eng * 2 ^ 39 +
      r.tmaskf.toNat),
    r.pc,
    BitVec.ofNat 64 (r.wtask * 2 ^ 32 + r.hdie * 2 ^ 28 + r.hcore * 2 ^ 23 + bitNat r.adopt * 2 ^ 22),
    r.detail, time]

/-- The fields that name a gang: its task, job, virtual device, and, for an adopted gang, the waiting task and the helper core
(R280, R352). -/
def Report.ofGang (r : Report) (g : Gang) : Report :=
  match g.adopter with
  | some _ => { r with vd := g.vd, task := g.handle, job := g.job, adopt := true, wtask := g.waitTask, hdie := g.core / 32, hcore := g.core % 32 }
  | none => { r with vd := g.vd, task := g.handle, job := g.job }

/-- The fields that name a strand. -/
def Report.ofStrand (r : Report) (s : State) (k : Nat) : Report :=
  let t := s.strand k
  { r.ofGang (s.gang t.gang) with die := t.core / 32, core := t.core % 32, lane := t.lane, sid := t.sid }

/-- An entry enters a die's error log; a full log loses its oldest (R352, R369). -/
def State.logEntry (s : State) (die : Nat) (e : LogEntry) : State :=
  let d := s.die die
  s.setDie die { d with errLog := d.errLog.set (d.errIdx.toNat % 1024) e, errIdx := d.errIdx + 1 }

def State.log (s : State) (die : Nat) (r : Report) : State :=
  s.logEntry die (r.entry s.pkgnum.toNat (s.die die).refcnt)

/-- An error response to a strand is logged: KIND 0x10, with WR for a write, FETCH for a fetch, and the threads whose access it
answers (R11, R352, R355). -/
def State.logError (s : State) (k : Nat) (va pc : W64) (wr fetch : Bool := false) (tmaskf : W32 := 0) : State :=
  s.log (s.strand k).die ({ kind := 0x10, va, pc, wr, fetch, tmaskf : Report }.ofStrand s k)

/-- Entries of a partition's fault queue: 2^(LSIZE + 6), LSIZE at most 10 (R351). -/
def Part.fqSize (p : Part) : Nat := 2 ^ (min (fieldOf p.fqbase 0 4) 10 + 6)

/-- An entry is written at TAIL, through the supervisor virtual device, and its function's vector 1 is sent (R389); nothing when
the queue is full or the write fails Check (R351). TIME is REFCNT of the die that writes it (R352). -/
def State.fqWrite (s : State) (die p : Nat) (e : LogEntry) : Option State :=
  let q := s.part p
  let tail := q.fqtail.toNat % q.fqSize
  let next := (tail + 1) % q.fqSize
  if next == q.fqhead.toNat % q.fqSize then none
  else
    let va := BitVec.ofNat 64 (fieldOf q.fqbase 12 44 * 4096 + 64 * tail)
    match s.hwKey (4 * 32) (s.supVd p) needW va true with
    | some k =>
      let s := { s with irqs := s.irqs ++ [(s.supVd p + 1, 1)] }
      let s := s.write 999 k (((e.take 7 ++ [(s.die die).refcnt]).map (fun w => leBytes 8 w.toNat)).flatten)
      let vec := vecJoin q.fqVec (if isSpad k then [] else s.sendVec (s.homeOf k).1)
      some ((s.setPart p { q with fqtail := BitVec.ofNat 64 next, fqVec := vec }).wakeWfe
        (fun k mask _ => mask.testBit 0 && s.vdPart (s.gangOf k).vd == p))
    | none => none

/-- The store of a die holds 64 entries; those beyond them wait at their sources (R351). -/
def Die.store (d : Die) (l : List (Nat × LogEntry)) : Die := { d with held := l.take 64, source := l.drop 64 }

/-- The entries of a die that are not yet in a fault queue, in order. -/
def Die.unwritten (d : Die) : List (Nat × LogEntry) := d.held ++ d.source

/-- An entry enters the fault queue, or is held in order (R351). -/
def State.faultEntry (s : State) (die p : Nat) (e : LogEntry) : State :=
  let d := s.die die
  let hold := s.setDie die (d.store (d.unwritten ++ [(p, e)]))
  if d.unwritten.any (fun h => h.1 == p) then hold else (s.fqWrite die p e).getD hold

/-- The next fault identifier of a partition, from 1, skipping 0 (R352). -/
def State.takeFid (s : State) (p : Nat) : Nat × State :=
  let q := s.part p
  let f := q.nextFid % 2 ^ 32
  let f := if f == 0 then 1 else f
  (f, s.setPart p { q with nextFid := f + 1 })

/-- A strand parks on a fault: NOTMAPPED or PERM, fetches included (R350), and its entry is written. -/
def State.parkStrand (s : State) (k : Nat) (va : W64) (xkind : Nat) (wr fetch lane : Bool) (tmaskf : W32) (pc : W64) : State :=
  let p := s.vdPart (s.gangOf k).vd
  let (fid, s) := s.takeFid p
  let t := s.strand k
  let s := s.setStrand k { t with parked := some { fid, va := va.toNat, xkind, fetch, lane, tmaskf }, wait := (if lane then t.wait else .none), laneWait := (if lane then .none else t.laneWait) }
  let r : Report := { kind := 1, xkind, wr, fetch, fid, va, tmaskf, pc }
  s.faultEntry t.die p ((r.ofStrand s k).entry s.pkgnum.toNat (s.die t.die).refcnt)

/-! ### Constellations (R225 to R228) -/

/-- The table entry of a constellation of a job: 32 bytes (R225). -/
def Job.conPa (j : Job) (cn : Nat) : Nat := (j.ctabPa[cn / 128]?).getD 0 + 32 * (cn % 128)

/-- The low and high doublewords of an entry. -/
def State.conLo (s : State) (pa : Nat) : W64 := BitVec.ofNat 64 (s.readLE pa 8)
def State.conHi (s : State) (pa : Nat) : W64 := BitVec.ofNat 64 (s.readLE (pa + 8) 8)

/-- The Fjoine itself writes PHASE, ARRIVED and MEMBERS, at the home. -/
def State.setConHi (s : State) (pa : Nat) (w : W64) : State :=
  (s.putBytes (pa + 8) (leBytes 8 w.toNat)).invalidate 999 (pa / 128)

def conPhase (hi : W64) : Bool := hi.getLsbD 63
def conArrived (hi : W64) : Nat := fieldOf hi 24 20
def conMembers (hi : W64) : Nat := fieldOf hi 0 20

/-- CompleteCheck (R227): all members have arrived. -/
def completeCheck (hi : W64) : W64 :=
  if 0 < conMembers hi ∧ conArrived hi = conMembers hi then setField (setField hi 63 1 (bitNat !(conPhase hi))) 24 20 0 else hi

/-- A strand leaves a constellation (R227). -/
def State.leaveCon (s : State) (k : Nat) (m : Member) : State :=
  let pa := (s.job (s.jobKey k)).conPa m.cn
  let hi := s.conHi pa
  let hi := if m.pending && m.phase == conPhase hi then setField hi 24 20 (conArrived hi - 1) else hi
  let hi := completeCheck (setField hi 0 20 (conMembers hi - 1))
  let s := s.setConHi pa hi
  s.setStrand k { s.strand k with members := (s.strand k).members.filter (fun x => x.cn != m.cn) }

/-! ### The end of a strand and of a gang (R226, R263, R313) -/

/-- A strand's waits at homes and ports are withdrawn (R237, R244, R275, R368). -/
def State.withdraw (s : State) (k : Nat) : State :=
  let s := { s with waiters := s.waiters.filter (fun w => w.strand != k),
                    clusters := s.clusters.map (fun (c : Nat × Cluster) => (c.1, { c.2 with posted := c.2.posted.filter (fun p => p.strand != k) })) }
  let s := { s with cores := s.cores.map (fun (c : Nat × Core) => (c.1, { c.2 with
    books := c.2.books.map (fun (b : Nat × QueueBook) => (b.1, { b.2 with waits := b.2.waits.filter (fun w => w.1 != k) })) })) }
  s.setStrand k { s.strand k with wait := .none, laneWait := .none, owner := none }

/-- g stands before f in the program order of their strand (R188). -/
def Flight.before (g f : Flight) : Bool :=
  g.strand == f.strand && g.orphan == f.orphan &&
    ((g.lane == f.lane && g.inst < f.inst) || (!g.lane && f.lane && g.inst ≤ f.bound))

/-- Reads at a scratchpad port that may wait there, and hold what follows (R170). -/
def Flight.holds (g f : Flight) : Bool :=
  match g.kind with
  | .sts => g.key / 16 == f.key / 16
  | _ => true

/-- The accesses of one stream of a strand that wait at scratchpad ports, and those that are held unsent behind them: behind a read,
all that follow; behind a store, those to its granule (R170). -/
def State.heldAccess (s : State) (k : Nat) (lane : Bool) (f : Flight) : Bool :=
  f.strand == k && f.lane == lane && f.unperformed &&
    (f.stage == .waiting ||
      (!f.sent || f.stage == .home) && s.flights.any (fun g => g.strand == k && g.stage == .waiting && g.before f && g.holds f))

/-- Once a thread of ATOM, RED or an inkwell instruction has passed Check, its request is applied, whatever its strand meets (R211). -/
def Flight.once (f : Flight) : Bool :=
  match f.kind with
  | .atom _ _ _ _ | .inkAdd _ | .inkRead _ | .inkClr => true
  | _ => false

/-- What an instruction that releases at a home or port carries: its die's vector, what its strand has seen, and what its acknowledged
writes have sent (R198, R200). -/
def State.strandVec (s : State) (k : Nat) : SMap 32 :=
  let t := s.strand k
  vecJoin (vecJoin (s.sendVec t.die) t.replyVec) (vecJoin t.ackVec t.relVec)

/-- A gang keeps what its ended strands have released, for its retirement (R263, R264). -/
def State.keepVec (s : State) (g : Nat) (v : SMap 32) : State := s.setGang g { s.gang g with vec := vecJoin (s.gang g).vec v }

/-- A strand ends: it leaves its constellations, its waits are withdrawn, replies are discarded (R211, R226). What was held behind its
waits is not sent, but for atomics, which are applied (R211). -/
def State.endStrand (s : State) (k : Nat) : State :=
  let s := s.keepVec (s.strand k).gang (s.strandVec k)
  let s := (s.strand k).members.foldl (fun s m => s.leaveCon k m) s
  let s := s.withdraw k
  let gone := fun f => (s.heldAccess k false f || s.heldAccess k true f) && !f.once
  let back := ((s.strand k).withdrawn ++ (s.strand k).held).filter (·.once)
  let s := { s with flights := s.flights.filter (fun f => !gone f) ++ back }
  let s := { s with flights := s.flights.map (fun (f : Flight) => if f.strand == k then { f with dest := .none, orphan := true } else f) }
  s.setStrand k { s.strand k with live := false, runs := [], ren := [], pend := [], pendTrap := none, parked := none,
                                  withdrawn := [], held := [] }

/-- Every strand of a gang ends with a status (R263): 0 DONE, 1 CANCELLED, any other FAILED. -/
def State.endGang (s : State) (g status : Nat) : State :=
  let s := (s.strandsOf g).foldl State.endStrand s
  s.setGang g { s.gang g with worst := max (s.gang g).worst (min status 2) }

/-! ### Traps (R338 to R349) -/

/-- Cause codes (R338). -/
def cIllegal : Nat := 1
def cPriv : Nat := 2
def cNest : Nat := 3
def cLanePc : Nat := 4
def cMisfetch : Nat := 5
def cMisdata : Nat := 6
def cXlate : Nat := 7
def cFetch : Nat := 8
def cErrResp : Nat := 9
def cMatOwn : Nat := 10
def cTrap : Nat := 11
def cBkpt : Nat := 12
def cWatch : Nat := 13
def cWatchI : Nat := 14

/-- A scalar trap at the instruction the scalar PC names. -/
def Strand.scalarTrap (t : Strand) (code : Nat) (va : W64) : TrapReq :=
  { code, va, pc := t.pc, lane := false, tmaskf := 0, tcode := 0, xkind := 0, wstep := false, engv := false, eng := 0, edie := 0, cb := none }

/-- A lane trap at the instruction that issues. -/
def Strand.laneTrap (t : Strand) (code : Nat) (va : W64) (tmaskf : W32) : TrapReq :=
  { code, va, pc := t.lanePc, lane := true, tmaskf, tcode := 0, xkind := 0, wstep := false, engv := false, eng := 0, edie := 0, cb := none }

/-- TRAPCAUSE (R344). -/
def TrapReq.cause (r : TrapReq) : W64 :=
  BitVec.ofNat 64 (r.edie * 2 ^ 56 + r.eng * 2 ^ 53 + bitNat r.engv * 2 ^ 52 + r.tcode * 2 ^ 40 + r.xkind * 2 ^ 36 +
    bitNat r.wstep * 2 ^ 33 + bitNat r.lane * 2 ^ 32 + r.code)

/-- The frame's virtual address (R342). -/
def State.trapFrameVa (s : State) (k : Nat) : W64 :=
  let t := s.strand k
  s.tfbase (s.gangOf k).vd + BitVec.ofNat 64 (8192 * (16384 * (t.core / 32) + 512 * (t.core % 32) + 8 * t.lane + t.sid))

/-- One KINDS code: bit 0 LOOP, bit 1 else seen (R343). -/
def Construct.kind : Construct → Nat
  | .ifE e => 2 * bitNat e
  | .loopE _ _ => 1

def Construct.isLoop : Construct → Bool
  | .loopE _ _ => true
  | .ifE _ => false

/-- The frame of R343 as (offset, bytes, value); what is not listed is zero. -/
def Strand.frame (t : Strand) : List (Nat × Nat × Nat) :=
  let stack := t.stack.reverse
  let loops := stack.filter (·.isLoop)
  ((List.range 63).map (fun i => (8 * i, 8, (t.sregs.get (i + 1)).toNat))) ++
  [(0x1F8, 8, t.pc.toNat), (0x200, 8, t.lbase.toNat)] ++
  ((List.range 7).map (fun i => (0x208 + 4 * i, 4, (t.kregs.get (i + 1)).toNat))) ++
  ((List.range 32).map (fun i => (0x228 + i, 1, (t.nest.get i).toNat))) ++
  [(0x248, 8, loops.length * 256 + stack.length),
   (0x250, 64, ((indexed stack).map (fun e => e.2.kind * 4 ^ e.1)).sum)] ++
  ((indexed loops).map (fun e => match e.2 with
    | .loopE pc imm => (0x290 + 16 * e.1, 12, pc.toNat + 2 ^ 64 * imm.toNat)
    | .ifE _ => (0x290 + 16 * e.1, 12, 0))) ++
  ((indexed t.runs).map (fun e => (0x390 + 16 * e.1, 10, e.2.pc.toNat + 2 ^ 64 * (e.2.left % 65536)))) ++
  [(0x490, 8, t.ren.length % 512 * 256 + t.runs.length % 256)] ++
  ((indexed t.ren).map (fun e =>
    let entry := (t.runs.findIdx? (fun r => r.seq == e.2.seq)).getD 0
    (0x500 + 16 * e.1, 10, e.2.val.toNat + 2 ^ 64 * (e.2.reg.toNat + 64 * (entry % 16)))))

/-- The frame that a trap writes: SPC is where the scalar stream resumes, for a scalar trap TRAPPC (R343, R346). -/
def Strand.frameAt (t : Strand) (r : TrapReq) : List (Nat × Nat × Nat) := ({ t with pc := if r.lane then t.pc else r.pc } : Strand).frame

/-- The part of a frame in [lo, lo + 4096) written at a key; the rest of that page is zero. The lines' other copies are
invalidated; a core that owned one has returned it first (R208). -/
def State.writePage (s : State) (core key lo : Nat) (fields : List (Nat × Nat × Nat)) : State :=
  let s := { s with mem := SMap.clear s.mem key 4096 }
  let s := (fields.filter (fun f => lo ≤ f.1 && f.1 < lo + 4096 && f.2.2 != 0)).foldl
    (fun s f => s.putBytes (key + (f.1 - lo)) (leBytes f.2.1 f.2.2)) s
  if isSpad key then s
  else (List.range 32).foldl (fun s i =>
    let line := key / 128 + i
    let s := s.recall core line
    let s := s.setCore core { s.core core with l1 := (s.core core).l1.filter (fun l => l.line != line) }
    s.invalidate core line) s

/-- The key of a page of the frame for a write of the strand; nothing when Check fails or an error response comes (R348). -/
def State.framePage (s : State) (k : Nat) (va : W64) (write : Bool) : Option (Nat × State) :=
  let t := s.strand k
  match s.hwKey t.core (s.gangOf k).vd (if write then needW else needR) va write with
  | some key =>
    if isSpad key then
      (s.spadAccess k t.gang key 4096 (apertureSel va != 0) write (s.isSup k)).map (fun s => (key, s))
    else some (key, s)
  | none => none

/-- A double trap (R348): the task ends FAILED and the error log names it. -/
def State.doubleTrap (s : State) (k : Nat) (r : TrapReq) : State :=
  let s := s.log (s.strand k).die ({ kind := 0x12, xkind := r.xkind, va := r.va, tmaskf := r.tmaskf, pc := r.pc : Report }.ofStrand s k)
  s.endGang (s.strand k).gang 2

/-- A strand is owed a value: some reply will write one of its registers (R342 step 1). -/
def State.owed (s : State) (k : Nat) : Bool :=
  (match (s.strand k).wait with | .send _ => true | _ => false) || s.flights.any (fun f => f.strand == k && !f.orphan && f.dest != .none)

/-- A withdrawn access as it is sent again: a write behind what precedes it, a read to its port or its line. -/
def Flight.again (f : Flight) : Flight :=
  { f with granted := false, stage := match f.kind with
      | .store | .ntStore | .sts | .atom _ _ _ _ | .inkAdd _ | .inkClr => .held
      | _ => if f.stage == .waiting || isSpad f.key then .home else f.stage }

/-- They are withdrawn without effect (R170): what is to be executed again, and the state without it. A waiting CBWAIT is
abandoned with its instruction (R90, R340). -/
def State.withdrawWaiting (s : State) (k : Nat) : List Flight × State :=
  let gone := fun f => s.heldAccess k false f || s.heldAccess k true f
  (((s.flights.filter gone).filter (fun f => f.lane || f.dest == .none)).map Flight.again,
    { s with flights := s.flights.filter (fun f => !gone f) })

/-- What Check demands of the page of an access (R181, R213, R220). -/
def Flight.need (f : Flight) : Nat :=
  match f.kind with
  | .atom _ _ _ _ | .inkAdd _ => needRW
  | .store | .ntStore | .sts | .inkClr => needW
  | _ => needR

/-- Check of an access that is executed again: with a translation that its units hold, or after a walk (R90, R170, R179, R181). -/
def State.recheck (s : State) (k : Nat) (f : Flight) : Trans × State :=
  let t := s.strand k
  let vd := (s.gangOf k).vd
  let units := if f.lane then [t.lane / 16, 4] else [4]
  match s.check t.core units vd f.need f.va with
  | .miss =>
    match (s.walkVa t.die vd f.va true).fin with
    | .leaf pte =>
      let s := s.tlbFill t.core units vd f.va pte
      (s.check t.core units vd f.need f.va, s)
    | .notMapped => (.fault xkNotMapped, s)
    | .malformed => (.fault xkMalformed, s)
    | _ => (.err, s)
  | r => (r, s)

/-- Accesses that were withdrawn, or held behind one, are executed again (R90, R170): each passes Check anew. One that meets a recoverable fault parks its
strand, and is sent with those behind it after RESUME; another fault is answered by an error response (DESIGN CHOICE, log entry 88). A FEWAIT does
not wait again where the cancel state has come (R224). -/
def State.sendHeld (s : State) (k : Nat) : List Flight → State
  | [] => s
  | f :: fs =>
    if s.cancelled k && (match f.kind with | .fewait _ => true | _ => false) then s.sendHeld k fs
    else
      let t := s.strand k
      let put (s : State) (f : Flight) : State := { s with flights := s.flights ++ [f] }
      match s.recheck k f with
      | (.key key, s) =>
        let e := (s.core t.core).tlbFind (if f.lane then [t.lane / 16, 4] else [4]) (s.gangOf k).vd f.va
        (put s { f with key, pbase := (e.map (·.page)).getD 0, plog := (e.map (fun e => pageLog e.size)).getD 0 }).sendHeld k fs
      | (.fault x, s) =>
        if x ≤ 2 then
          (s.setStrand k { t with held := t.held ++ f :: fs }).parkStrand k f.va x (f.need.testBit 3) false f.lane (if f.lane then threadSet [f.thread] else 0) f.pc
        else (put s { f with stage := .err }).sendHeld k fs
      | (_, s) => (put s { f with stage := .err }).sendHeld k fs

/-- Taking a trap (R342 to R348): the frame and the trap registers are written and the handler entered; a trap in a handler,
with TENTRY 0, or whose frame cannot be written is a double trap. -/
def State.trapEnter (s : State) (k : Nat) (r : TrapReq) : State :=
  let t0 := s.strand k
  let vd := (s.gangOf k).vd
  if t0.handler || s.tentry vd == 0 then s.doubleTrap k r
  else
    let va := s.trapFrameVa k
    match s.framePage k va true with
    | none => s.doubleTrap k r
    | some (k0, s) =>
      let s := s.writePage t0.core k0 0 (t0.frameAt r)
      match s.framePage k (va + 4096) true with
      | none => s.doubleTrap k r
      | some (k1, s) =>
        let s := s.writePage t0.core k1 4096 (t0.frameAt r)
        let (wd, s) := s.withdrawWaiting k
        let s := s.withdraw k
        let t := s.strand k
        let base : SMap 64 := SMap.set (SMap.set (SMap.set (SMap.set [] 2 (s.recordVa vd (s.gang t.gang).handle)) 3
          (s.gang t.gang).arg) 4 (BitVec.ofNat 64 t.idx)) 5 va
        s.setStrand k { t with
          trapcause := r.cause, trapva := r.va, trappc := r.pc, tmaskp := t.activeSet.setWidth 64, tmaskf := r.tmaskf.setWidth 64,
          handler := true, pendTrap := none, redo := none, wstep := none, nestSaved := t.nest, nest := [], stack := [], runs := [],
          ren := [], sregs := base, pc := s.tentry vd, lbase := lbaseOf (s.tlbase vd), frameVa := va, trapAt := r.pc, issuing := [], withdrawn := wd,
          qsaved := t.qdone, qdone := 0, runsSaved := t.runs }

/-- A trap is due: a scalar trap waits for the runs in the decision queue (R340), every trap for the replies owed (R342). -/
def State.trapReady (s : State) (k : Nat) (lane : Bool) : Bool :=
  (lane || (s.strand k).runs.isEmpty) && !(s.withdrawWaiting k).2.owed k

/-- An instruction of strand k raises a trap. -/
def State.raise (s : State) (k : Nat) (r : TrapReq) : State :=
  if s.trapReady k r.lane then s.trapEnter k r
  else
    let t := s.strand k
    s.setStrand k { t with pendTrap := some r, wait := (if r.lane then t.wait else .none),
                           laneWait := (if r.lane then .none else t.laneWait) }

/-- A scalar instruction of the current strand raises a trap. -/
def State.raiseScalar (s : State) (code : Nat) (va : W64) : State := s.raise s.cur (s.me.scalarTrap code va)

/-- A lane instruction of the current strand raises a trap, with the threads of TMASKF. -/
def State.raiseLane (s : State) (code : Nat) (va : W64) (tmaskf : W32) : State :=
  s.raise s.cur (s.me.laneTrap code va tmaskf)

/-- TMASKF of ILLEGAL and PRIV for a lane instruction: X, or all 32 threads (R338). -/
def orAll (x : W32) : W32 := if x = 0 then 0xFFFFFFFF else x

/-- An asynchronous cause becomes pending (R341). -/
def State.pendCause (s : State) (k : Nat) (r : TrapReq) : State :=
  let t := s.strand k
  if t.live then s.setStrand k { t with pend := t.pend ++ [r] } else s

/-! ### Return from a trap (R347) -/

/-- Value of n bytes at an offset of a frame held in two pages. -/
def State.frameRead (s : State) (k0 k1 off n : Nat) : Nat :=
  if off < 4096 then s.readLE (k0 + off) n else s.readLE (k1 + (off - 4096)) n

/-- The construct stack of a frame, top first; nothing when KINDS and LOOPS do not agree, or a kind is 3: the frame is then malformed
(R347; DEDUCED, log entry 97). -/
def frameStack (kinds : List Nat) (loops : List (W64 × W32)) : Option (List Construct) :=
  let rec go : List Nat → List (W64 × W32) → List Construct → Option (List Construct)
    | [], [], acc => some acc
    | [], _ :: _, _ => none
    | 0 :: ks, ls, acc => go ks ls (.ifE false :: acc)
    | 2 :: ks, ls, acc => go ks ls (.ifE true :: acc)
    | 1 :: ks, l :: ls, acc => go ks ls (.loopE l.1 l.2 :: acc)
    | _ :: _, _, _ => none
  go kinds loops []

/-- E of a construct stack (R111). -/
def stackDepth (st : List Construct) : Nat := (st.map (fun c => if c.isLoop then 2 else 1)).sum

/-- A lane PC of a frame obeys R48. -/
def framePcOk (p : Nat) : Bool := lanePcOk (BitVec.ofNat 64 p) && p < 2 ^ 56

/-- The number that the first restored run takes: that of the first run that the trap interrupted (R304). -/
def Strand.restoredSeq (t : Strand) : Nat := ((t.runsSaved.head?).map (·.seq)).getD t.nextRun

/-- The strand as a frame restores it; nothing for a malformed frame (R347). -/
def Strand.restore (t : Strand) (rd : Nat → Nat → Nat) : Option Strand :=
  let nloop := rd 0x249 1
  let nent := rd 0x248 1
  let ndq := rd 0x490 1
  let nren := rd 0x491 2 % 512
  let kindsAll := rd 0x250 64
  let kinds := (List.range nent).map (fun e => kindsAll / 4 ^ e % 4)
  let loops := (List.range nloop).map (fun i => (rd (0x290 + 16 * i) 8, rd (0x298 + 16 * i) 4))
  let dq := (List.range ndq).map (fun i => (rd (0x390 + 16 * i) 8, rd (0x398 + 16 * i) 2))
  let reserved := rd 0x224 4 != 0 || rd 0x498 0x68 != 0 || rd 0x1500 0xB00 != 0 || rd 0x24A 6 != 0 || kindsAll / 4 ^ nent != 0 ||
    rd 0x491 7 / 512 != 0 || rd 0x200 1 % 64 != 0 ||
    (List.range nloop).any (fun i => rd (0x29C + 16 * i) 4 != 0) || (List.range ndq).any (fun i => rd (0x39A + 16 * i) 6 != 0) ||
    (List.range nren).any (fun i => rd (0x508 + 16 * i) 8 / 1024 != 0)
  let nest : SMap 8 := (List.range 32).foldl (fun m i => m.set i (BitVec.ofNat 8 (rd (0x228 + i) 1))) []
  match frameStack kinds (loops.map (fun l => (BitVec.ofNat 64 l.1, BitVec.ofNat 32 l.2))) with
  | none => none
  | some stack =>
    if reserved || 16 < ndq || 256 < nren || 16 < nloop || !loops.all (fun l => framePcOk l.1) || !dq.all (fun d => framePcOk d.1) ||
        255 < stackDepth stack || (List.range 32).any (fun i => stackDepth stack < (nest.get i).toNat) then none
    else
      some { t.general with
        sregs := (List.range 63).foldl (fun m i => m.set (i + 1) (BitVec.ofNat 64 (rd (8 * i) 8))) [],
        lbase := lbaseOf (BitVec.ofNat 64 (rd 0x200 8)),
        kregs := (List.range 7).foldl (fun m i => m.set (i + 1) (BitVec.ofNat 32 (rd (0x208 + 4 * i) 4))) [],
        nest, stack, nestSaved := [],
        runs := (indexed dq).map (fun d => { seq := t.restoredSeq + d.1, pc := BitVec.ofNat 64 d.2.1, left := d.2.2, bound := t.accs }),
        ren := (List.range nren).map (fun i =>
          let x := rd (0x508 + 16 * i) 2
          { reg := BitVec.ofNat 6 x, val := BitVec.ofNat 64 (rd (0x500 + 16 * i) 8), seq := t.restoredSeq + x / 64 % 16 }),
        nextRun := max t.nextRun (t.restoredSeq + ndq) }

/-- Return from a trap (R347): the frame is restored, the handler left, and the interrupted position taken up. -/
def State.trapReturn (s : State) (k : Nat) : State :=
  let t := s.strand k
  let bad : TrapReq := t.scalarTrap cIllegal 0
  match s.framePage k t.frameVa false, s.framePage k (t.frameVa + 4096) false with
  | some (k0, _), some (k1, _) =>
    let s := (s.recallAll k0 4096).recallAll k1 4096
    match t.restore (s.frameRead k0 k1) with
    | none => s.doubleTrap k bad
    | some u =>
      let lane := t.trapcause.getLsbD 32
      let ws := t.trapcause.getLsbD 33
      let spc : W64 := BitVec.ofNat 64 (s.frameRead k0 k1 0x1F8 8)
      let u := { u with handler := false, withdrawn := [], runsSaved := [], qdone := if u.runs.isEmpty then 0 else t.qsaved, qsaved := 0,
                        pc := if lane then spc else t.trappc,
                        redo := if lane && !u.runs.isEmpty then some (t.tmaskf.setWidth 32, ws) else none,
                        wstep := if !lane && ws && t.trappc == t.trapAt then some t.trappc else none }
      (s.setStrand k u).sendHeld k t.withdrawn
  | _, _ => s.doubleTrap k bad

end Sys2Proof.Machine
end

