-- ==== Sys2Proof/Machine/Operands.lean ====
section
/-! DEFINITION. The operands of lane instructions: sources (R43, R44, R99, R103, R110), the registers an instruction names
against the strand's budget (R52), and the frame that every lane instruction executes in. -/

namespace Sys2Proof

/-- The registers that a source of a format names: first and number. -/
def srcRegs (n : Nat) : Src → List (Nat × Nat)
  | .v r => [(r.toNat, n)]
  | _ => []

/-! ### The v registers that an instruction reads or writes (R52) -/

/-- The first `n` sources of an arithmetic instruction and its destination. -/
def Arith.vregs (r : Arith) (n : Nat) : List (Nat × Nat) :=
  (r.d.toNat, r.ty.regs) :: (([r.a, r.b, r.c].take n).map (srcRegs r.ty.regs)).flatten

def Cmp.vregs (r : Cmp) : List (Nat × Nat) := srcRegs r.ty.regs r.a ++ srcRegs r.ty.regs r.b

/-- CVT: one register or a pair on each side (R147). -/
def Conv.cvtRegs (r : Conv) : List (Nat × Nat) :=
  let a := if r.nf.is64 || (r.ty.isPaired && r.nf == .f32) then 2 else 1
  let d := if r.ty.is64 || (r.ty == .f32 && r.nf.isPaired) then 2 else 1
  (r.d.toNat, d) :: srcRegs a r.a ++ (if r.rm == .sr then srcRegs 1 r.b else [])

/-- QNT, DQNT and BSCALE: 32-bit sources (R148 to R152). -/
def Conv.blockRegs (r : Conv) (useB useC : Bool) : List (Nat × Nat) :=
  (r.d.toNat, 1) :: srcRegs 1 r.a ++ (if useB then srcRegs 1 r.b else []) ++ (if useC then srcRegs 1 r.c else [])

/-- Base and offset need no v register but the offset's; data of a store takes the width's registers (R171, R173). -/
def LaneMem.vregs (r : LaneMem) (reads writes : Bool) : List (Nat × Nat) :=
  srcRegs 1 r.off ++ (if reads then [(r.d.toNat, r.width.regs)] else []) ++ (if writes then srcRegs r.width.regs r.data else [])

/-- ATOM and RED; CAS names its comparand beside its offset (R213, R216). -/
def Atomic.vregs (r : Atomic) (ret : Bool) : List (Nat × Nat) :=
  srcRegs (if r.op == .cas then 2 * r.ty.regs else 1) r.off ++ srcRegs r.ty.regs r.data ++ (if ret then [(r.d.toNat, r.ty.regs)] else [])

def Ink.vregs (r : Ink) (reads writes : Bool) : List (Nat × Nat) :=
  srcRegs 1 r.off ++ (if reads then [(r.d.toNat, r.ty.regs)] else []) ++ (if writes then srcRegs r.ty.regs r.data else [])

/-- A queue instruction: status, and data at status + 1, + 2 or + 4 (R240). -/
def QOp.vregs (r : QOp) (pop : Bool) : List (Nat × Nat) :=
  if pop then [(r.d.toNat, 1), (r.d.toNat + r.width.regs, r.width.regs)]
  else (r.d.toNat, 1) :: srcRegs r.width.regs r.data

end Sys2Proof

namespace Sys2Proof.Machine

open Sys2Proof

/-- A special source (R43, R119). -/
def State.special (s : State) (k thread : Nat) : Special → Nat
  | .tid => thread
  | .lane => (s.strand k).lane
  | .sid => (s.strand k).sid
  | .core => (s.strand k).core % 32
  | .die => (s.strand k).core / 32
  | .pkg => s.pkgnum.toNat
  | .vd => (s.gangOf k).vd
  | .nest => if (s.strand k).handler then ((s.strand k).nestSaved.get thread).toNat else ((s.strand k).nest.get thread).toNat

/-- binary32 bits widened exactly to binary64 (R43). -/
def widenF32 (b : Nat) : Nat :=
  match fmtF32.decode b with
  | .nan => fmtF64.signBit (b / 2 ^ 31 % 2 == 1) + 2047 * 2 ^ 52 + b % 2 ^ 23 * 2 ^ 29
  | v => fmtF64.arith .rne false v

/-- IMM as an operand of a format (R43). -/
def immOperand (f : Fmt) (imm : W32) : Nat :=
  match f with
  | .s64 => (imm.signExtend 64).toNat
  | .f64 => widenF32 imm.toNat
  | _ => imm.toNat

/-- A source of a format, as the bits of its register, pair, s register, special source or IMM (R43, R44). -/
def State.src (s : State) (k thread : Nat) (f : Fmt) (imm : W32) : Src → Nat
  | .v r => (s.strand k).getVs r.toNat thread (if f.is64 then 2 else 1)
  | .s r =>
    let x := ((s.strand k).laneS (s.strand k).runSeq r).toNat
    if f.is64 then x else x % 2 ^ 32
  | .special x => s.special k thread x
  | .imm => immOperand f imm

/-- A source read as a 32-bit value. -/
def State.src32 (s : State) (k thread : Nat) (imm : W32) (a : Src) : W32 := BitVec.ofNat 32 (s.src k thread .z32 imm a)

/-- Every register named lies below the strand's budget (R52). -/
def Strand.budgetOk (t : Strand) (regs : List (Nat × Nat)) : Bool := regs.all (fun r => r.1 + r.2 ≤ t.budget)

/-- The frame of a lane instruction: the budget check of R52, with the illegal-instruction trap; passed over when no thread
executes (R91, R120); else its effect on the executing set. -/
def State.laneIssue (s : State) (regs : List (Nat × Nat)) (m : Mask) (body : W32 → State → State) : State :=
  let x := s.me.execSet m
  if !s.me.budgetOk regs then s.raiseLane cIllegal 0 (orAll x)
  else if x = 0 then s.setMe s.me.laneAdvance
  else body x s

/-- Writes one value per thread into n registers from d, and goes on. -/
def State.laneWrite (s : State) (x : W32) (d n : Nat) (val : Nat → Nat) : State :=
  s.setMe ((threadsIn x).foldl (fun t i => t.putVs d i n (val i)) s.me).laneAdvance

/-- A narrow result extended to its register: sign-extended for s types, zero-extended for others (R44). -/
def extendTo (f : Fmt) (x : Nat) : Nat :=
  if f.is64 then x % 2 ^ 64
  else if signedFmt f then intBits 32 (intVal f x) else x % 2 ^ f.bits

/-- The two 16-bit elements of a paired operand (R110). -/
def lowHalf (x : Nat) : Nat := x % 65536
def highHalf (x : Nat) : Nat := x / 65536 % 65536
def pairOf (a b : Nat) : Nat := a % 65536 + 65536 * (b % 65536)

end Sys2Proof.Machine
end

