-- ==== Sys2Proof/Machine/Flags.lean ====
section
/-! DEFINITION. Conditions and the masks that hold them (R101, R108, R123): the machine has no flags register; a compare
writes one bit per executing thread into k1 to k7. -/

namespace Sys2Proof.Machine

open Sys2Proof

/-- A condition between two integers (R101). UN is illegal there. -/
def condInt (c : Cond) (a b : Int) : Bool :=
  match c with
  | .eq => a == b
  | .ne => a != b
  | .lt => a < b
  | .le => a ≤ b
  | .gt => b < a
  | .ge => b ≤ a
  | .un => false

/-- A condition between two float values (R108). -/
def condNum (c : Cond) (a b : Num) : Bool :=
  let un := a.isNaN || b.isNaN
  match c with
  | .eq => !un && a.eq b
  | .ne => !(!un && a.eq b)
  | .lt => !un && a.lt b
  | .le => !un && !b.lt a
  | .gt => !un && b.lt a
  | .ge => !un && !a.lt b
  | .un => un

/-- A mask with the bits of the executing threads replaced (R101). -/
def maskWith (old x : W32) (f : Nat → Bool) : W32 :=
  (old &&& ~~~x) ||| threadSet ((threadsIn x).filter f)

/-- A compare writes its bits into kd and goes on. -/
def State.laneCompare (s : State) (x : W32) (kd : BitVec 3) (f : Nat → Bool) : State :=
  s.setMe (s.me.putK kd (maskWith (s.me.k kd) x f)).laneAdvance

end Sys2Proof.Machine
end

