-- ==== Sys2Proof/Machine/Scalar.lean ====
section
/-! DEFINITION. Scalar arithmetic, immediate forms, branches and calls (R64 to R70, R40). -/

namespace Sys2Proof.Machine

open Sys2Proof

/-- An outcome of an instruction: the next state. -/
abbrev Out := Host.Outcome State Fault Refusal

/-- rd := f(ra, rb) (R66). -/
def State.alu (s : State) (d a b : SReg) (f : W64 → W64 → W64) : Out := .next (s.scalarResult d (f (s.me.s a) (s.me.s b)))

/-- rd := f(ra) (R66, R67). -/
def State.alu1 (s : State) (d a : SReg) (f : W64 → W64) : Out := .next (s.scalarResult d (f (s.me.s a)))

/-- A truth value as a result. -/
def truth (b : Bool) : W64 := if b then 1 else 0

/-- i14 and u14: the immediate sign-extended and zero-extended (R67). -/
def i14 (imm : BitVec 14) : W64 := imm.signExtend 64
def u14 (imm : BitVec 14) : W64 := imm.zeroExtend 64

/-- A shift amount: bits [5:0] (R66). -/
def shiftOf (b : W64) : Nat := b.toNat % 64

/-- High halves of the 128-bit products (R66). -/
def mulHigh (a b : W64) : W64 := BitVec.ofInt 64 (a.toInt * b.toInt / 2 ^ 64)
def mulHighU (a b : W64) : W64 := BitVec.ofNat 64 (a.toNat * b.toNat / 2 ^ 64)

/-- Leading zeros, 64 for 0 (R66). -/
def leadingZeros (a : W64) : W64 := BitVec.ofNat 64 (if a = 0 then 64 else 63 - Nat.log2 a.toNat)

/-- How many bits are 1 (R66). -/
def popCount (a : W64) : W64 := BitVec.ofNat 64 ((List.range 64).filter (fun i => a.getLsbD i)).length

/-- ADD (R66). -/
def execAdd (d a b : SReg) (s : State) : Out := s.alu d a b (fun a b => a + b)

/-- SUB (R66). -/
def execSub (d a b : SReg) (s : State) : Out := s.alu d a b (fun a b => a - b)

/-- AND (R66). -/
def execAnd (d a b : SReg) (s : State) : Out := s.alu d a b (fun a b => a &&& b)

/-- OR (R66). -/
def execOr (d a b : SReg) (s : State) : Out := s.alu d a b (fun a b => a ||| b)

/-- XOR (R66). -/
def execXor (d a b : SReg) (s : State) : Out := s.alu d a b (fun a b => a ^^^ b)

/-- SHL (R66). -/
def execShl (d a b : SReg) (s : State) : Out := s.alu d a b (fun a b => a <<< shiftOf b)

/-- SHR (R66). -/
def execShr (d a b : SReg) (s : State) : Out := s.alu d a b (fun a b => a >>> shiftOf b)

/-- SAR (R66). -/
def execSar (d a b : SReg) (s : State) : Out := s.alu d a b (fun a b => a.sshiftRight (shiftOf b))

/-- MUL (R66). -/
def execMul (d a b : SReg) (s : State) : Out := s.alu d a b (fun a b => a * b)

/-- MULH (R66). -/
def execMulh (d a b : SReg) (s : State) : Out := s.alu d a b (fun a b => mulHigh a b)

/-- MULHU (R66). -/
def execMulhu (d a b : SReg) (s : State) : Out := s.alu d a b (fun a b => mulHighU a b)

/-- MIN (R66). -/
def execMin (d a b : SReg) (s : State) : Out := s.alu d a b (fun a b => if a.slt b then a else b)

/-- MAX (R66). -/
def execMax (d a b : SReg) (s : State) : Out := s.alu d a b (fun a b => if a.slt b then b else a)

/-- MINU (R66). -/
def execMinu (d a b : SReg) (s : State) : Out := s.alu d a b (fun a b => if a.ult b then a else b)

/-- MAXU (R66). -/
def execMaxu (d a b : SReg) (s : State) : Out := s.alu d a b (fun a b => if a.ult b then b else a)

/-- SLT (R66). -/
def execSlt (d a b : SReg) (s : State) : Out := s.alu d a b (fun a b => truth (a.slt b))

/-- SLTU (R66). -/
def execSltu (d a b : SReg) (s : State) : Out := s.alu d a b (fun a b => truth (a.ult b))

/-- CLZ (R66). -/
def execClz (d a : SReg) (s : State) : Out := s.alu1 d a leadingZeros

/-- POPC (R66). -/
def execPopc (d a : SReg) (s : State) : Out := s.alu1 d a popCount

/-- ADDI (R67). -/
def execAddi (d a : SReg) (imm : BitVec 14) (s : State) : Out := s.alu1 d a (fun a => a + i14 imm)

/-- ANDI (R67). -/
def execAndi (d a : SReg) (imm : BitVec 14) (s : State) : Out := s.alu1 d a (fun a => a &&& u14 imm)

/-- ORI (R67). -/
def execOri (d a : SReg) (imm : BitVec 14) (s : State) : Out := s.alu1 d a (fun a => a ||| u14 imm)

/-- XORI (R67). -/
def execXori (d a : SReg) (imm : BitVec 14) (s : State) : Out := s.alu1 d a (fun a => a ^^^ u14 imm)

/-- SLTI (R67). -/
def execSlti (d a : SReg) (imm : BitVec 14) (s : State) : Out := s.alu1 d a (fun a => truth (a.slt (i14 imm)))

/-- SLTIU (R67). -/
def execSltiu (d a : SReg) (imm : BitVec 14) (s : State) : Out := s.alu1 d a (fun a => truth (a.ult (i14 imm)))

/-- LUI (R67). -/
def execLui (d : SReg) (imm : BitVec 20) (s : State) : Out :=
  .next (s.scalarResult d ((imm.zeroExtend 32 <<< 12).signExtend 64))

/-- ADDPC (R67): PC is the instruction's own address. -/
def execAddpc (d : SReg) (imm : BitVec 20) (s : State) : Out :=
  .next (s.scalarResult d (s.me.pc + (imm.signExtend 64 <<< 12)))

/-- LHI (R67). -/
def execLhi (d : SReg) (imm : BitVec 20) (s : State) : Out :=
  s.alu1 d d (fun a => (imm.zeroExtend 64 <<< 32) ||| (a &&& 0xFFFFFFFF))

/-- SHLI (R67). -/
def execShli (d a : SReg) (amt : BitVec 6) (s : State) : Out := s.alu1 d a (fun a => a <<< amt.toNat)

/-- SHRI (R67). -/
def execShri (d a : SReg) (amt : BitVec 6) (s : State) : Out := s.alu1 d a (fun a => a >>> amt.toNat)

/-- SARI (R67). -/
def execSari (d a : SReg) (amt : BitVec 6) (s : State) : Out := s.alu1 d a (fun a => a.sshiftRight amt.toNat)

/-- MULI (R67). -/
def execMuli (d a : SReg) (imm : BitVec 14) (s : State) : Out := s.alu1 d a (fun a => a * i14 imm)

/-! ### Branches and calls (R68 to R70) -/

/-- A branch: taken to PC + off14 × 4, else on to the next instruction (R68). -/
def State.branch (s : State) (a b : SReg) (off : BitVec 14) (cond : W64 → W64 → Bool) : Out :=
  .next (s.setMe (if cond (s.me.s a) (s.me.s b) then { s.me with pc := s.me.pc + off.signExtend 64 * 4, wstep := none } else s.me.advance))

/-- BEQ (R68). -/
def execBeq (a b : SReg) (off : BitVec 14) (s : State) : Out := s.branch a b off (fun a b => a == b)

/-- BNE (R68). -/
def execBne (a b : SReg) (off : BitVec 14) (s : State) : Out := s.branch a b off (fun a b => a != b)

/-- BLT (R68). -/
def execBlt (a b : SReg) (off : BitVec 14) (s : State) : Out := s.branch a b off (fun a b => a.slt b)

/-- BGE (R68). -/
def execBge (a b : SReg) (off : BitVec 14) (s : State) : Out := s.branch a b off (fun a b => !a.slt b)

/-- BLTU (R68). -/
def execBltu (a b : SReg) (off : BitVec 14) (s : State) : Out := s.branch a b off (fun a b => a.ult b)

/-- BGEU (R68). -/
def execBgeu (a b : SReg) (off : BitVec 14) (s : State) : Out := s.branch a b off (fun a b => !a.ult b)

/-- JAL (R69). -/
def execJal (d : SReg) (off : BitVec 20) (s : State) : Out :=
  .next (s.setMe { s.me.writeS d (s.me.pc + 4) with pc := s.me.pc + off.signExtend 64 * 4, wstep := none })

/-- JALR (R69, R40): a target that is no multiple of 4 raises the misaligned-fetch trap at the target, with rd written. -/
def execJalr (d a : SReg) (imm : BitVec 14) (s : State) : Out :=
  let target := s.me.s a + i14 imm
  let s := s.setMe { s.me.writeS d (s.me.pc + 4) with pc := target, wstep := none }
  if target.toNat % 4 = 0 then .next s else .next (s.raiseScalar cMisfetch target)

end Sys2Proof.Machine
end

