-- ==== Sys2Proof/Machine/LaneArith.lean ====
section
/-! DEFINITION. Lane arithmetic: integer and bit instructions (R99 to R102), float instructions (R103 to R110). -/

namespace Sys2Proof.Machine

open Sys2Proof

/-- An arithmetic instruction: its frame, and one result for each executing thread from its sources. -/
def State.laneOp (s : State) (r : Arith) (n : Nat) (f : Nat → Nat → Nat → Nat) : Out :=
  .next (s.laneIssue (r.vregs n) r.m (fun x s => s.laneWrite x r.d.toNat r.ty.regs (fun t =>
    f (s.src s.cur t r.ty r.imm r.a) (s.src s.cur t r.ty r.imm r.b) (s.src s.cur t r.ty r.imm r.c))))

/-! ### Integers (R99 to R101) -/

/-- The result of an exact integer value (R100): clamped with SAT, else its low bits; extended to its register (R44). -/
def intResult (ty : Fmt) (sat : Bool) (x : Int) : Nat := extendTo ty (intBits ty.bits (if sat then clampInt ty x else x))

/-- An integer instruction of up to three sources. -/
def State.laneInt (s : State) (r : Arith) (n : Nat) (f : Int → Int → Int → Int) : Out :=
  s.laneOp r n (fun a b c => intResult r.ty r.sat (f (intVal r.ty a) (intVal r.ty b) (intVal r.ty c)))

/-- ADD (R100). -/
def execLaneAddInt (r : Arith) (s : State) : Out := s.laneInt r 2 (fun a b _ => a + b)

/-- SUB (R100). -/
def execLaneSubInt (r : Arith) (s : State) : Out := s.laneInt r 2 (fun a b _ => a - b)

/-- MUL (R100). -/
def execLaneMulInt (r : Arith) (s : State) : Out := s.laneInt r 2 (fun a b _ => a * b)

/-- MULH: the upper w bits of the product (R100). -/
def execLaneMulh (r : Arith) (s : State) : Out := s.laneInt r 2 (fun a b _ => a * b / 2 ^ r.ty.bits)

/-- MAD (R100). -/
def execLaneMad (r : Arith) (s : State) : Out := s.laneInt r 3 (fun a b c => a * b + c)

/-- MIN (R100). -/
def execLaneMinInt (r : Arith) (s : State) : Out := s.laneInt r 2 (fun a b _ => min a b)

/-- MAX (R100). -/
def execLaneMaxInt (r : Arith) (s : State) : Out := s.laneInt r 2 (fun a b _ => max a b)

/-- ABS (R100). -/
def execLaneAbsInt (r : Arith) (s : State) : Out := s.laneInt r 1 (fun a _ _ => |a|)

/-- NEG (R100). -/
def execLaneNegInt (r : Arith) (s : State) : Out := s.laneInt r 1 (fun a _ _ => -a)

/-- CMP on integers (R101). -/
def execLaneCmpInt (r : Cmp) (s : State) : Out :=
  .next (s.laneIssue r.vregs r.m (fun x s => s.laneCompare x r.kd (fun t =>
    condInt r.cond (intVal r.ty (s.src s.cur t r.ty r.imm r.a)) (intVal r.ty (s.src s.cur t r.ty r.imm r.b)))))

/-! ### Bits (R102): z32 and z64 -/

/-- The signed type of a width. -/
def signedOf (ty : Fmt) : Fmt := if ty.is64 then .s64 else .s32

/-- Bit i moved to bit w − 1 − i. -/
def reverseBits (w a : Nat) : Nat := ((List.range w).map (fun i => if a.testBit i then 2 ^ (w - 1 - i) else 0)).sum

def countBits (w a : Nat) : Nat := ((List.range w).filter (fun i => a.testBit i)).length

/-- SHL (R102). -/
def execLaneShl (r : Arith) (s : State) : Out := s.laneOp r 2 (fun a b _ => a * 2 ^ (b % r.ty.bits) % 2 ^ r.ty.bits)

/-- SHR (R102). -/
def execLaneShr (r : Arith) (s : State) : Out := s.laneOp r 2 (fun a b _ => a / 2 ^ (b % r.ty.bits))

/-- SAR (R102). -/
def execLaneSar (r : Arith) (s : State) : Out := s.laneOp r 2 (fun a b _ => intBits r.ty.bits (intVal (signedOf r.ty) a / 2 ^ (b % r.ty.bits)))

/-- AND (R102). -/
def execLaneAnd (r : Arith) (s : State) : Out := s.laneOp r 2 (fun a b _ => a &&& b)

/-- OR (R102). -/
def execLaneOr (r : Arith) (s : State) : Out := s.laneOp r 2 (fun a b _ => a ||| b)

/-- XOR (R102). -/
def execLaneXor (r : Arith) (s : State) : Out := s.laneOp r 2 (fun a b _ => a ^^^ b)

/-- NOT (R102). -/
def execLaneNot (r : Arith) (s : State) : Out := s.laneOp r 1 (fun a _ _ => 2 ^ r.ty.bits - 1 - a)

/-- POPC (R102). -/
def execLanePopc (r : Arith) (s : State) : Out := s.laneOp r 1 (fun a _ _ => countBits r.ty.bits a)

/-- CLZ (R102). -/
def execLaneClz (r : Arith) (s : State) : Out := s.laneOp r 1 (fun a _ _ => r.ty.bits - bitLen a)

/-- BREV (R102). -/
def execLaneBrev (r : Arith) (s : State) : Out := s.laneOp r 1 (fun a _ _ => reverseBits r.ty.bits a)

/-- SEL (R102). -/
def execLaneSel (r : Arith) (s : State) : Out := s.laneOp r 3 (fun a b c => if c != 0 then a else b)

/-- MOV (R102). -/
def execLaneMov (r : Arith) (s : State) : Out := s.laneOp r 1 (fun a _ _ => a)

/-! ### Floats (R103 to R110) -/

/-- A float function on the sources of a format, for each element of a paired type (R110); a 16-bit source is its register's low
half. -/
def floatLane (ty : Fmt) (g : FloatFmt → Nat → Nat → Nat → Nat) (a b c : Nat) : Nat :=
  let x := floatFmt ty
  if ty.isPaired then
    pairOf (g x (lowHalf a) (lowHalf b) (lowHalf c)) (g x (highHalf a) (highHalf b) (highHalf c))
  else g x (a % 2 ^ ty.bits) (b % 2 ^ ty.bits) (c % 2 ^ ty.bits)

def State.laneFloat (s : State) (r : Arith) (n : Nat) (g : FloatFmt → Nat → Nat → Nat → Nat) : Out :=
  s.laneOp r n (floatLane r.ty g)

/-- ADD (R106). -/
def execLaneAddFloat (r : Arith) (s : State) : Out := s.laneFloat r 2 (fun x a b _ => floatAdd x r.rm r.ftz a b)

/-- SUB (R106). -/
def execLaneSubFloat (r : Arith) (s : State) : Out := s.laneFloat r 2 (fun x a b _ => floatSub x r.rm r.ftz a b)

/-- MUL (R106). -/
def execLaneMulFloat (r : Arith) (s : State) : Out := s.laneFloat r 2 (fun x a b _ => floatMul x r.rm r.ftz a b)

/-- FMA: one rounding (R106). -/
def execLaneFma (r : Arith) (s : State) : Out := s.laneFloat r 3 (fun x a b c => floatFma x r.rm r.ftz a b c)

/-- MIN (R107). -/
def execLaneMinFloat (r : Arith) (s : State) : Out := s.laneFloat r 2 (fun x a b _ => floatMin x r.ftz a b)

/-- MAX (R107). -/
def execLaneMaxFloat (r : Arith) (s : State) : Out := s.laneFloat r 2 (fun x a b _ => floatMax x r.ftz a b)

/-- SQRTE (R109). -/
def execLaneSqrte (r : Arith) (s : State) : Out := s.laneFloat r 1 (fun x a _ _ => floatSqrte x r.rm r.ftz a)

/-- RCPE (R109). -/
def execLaneRcpe (r : Arith) (s : State) : Out := s.laneFloat r 1 (fun x a _ _ => floatRcpe x r.rm r.ftz a)

/-- RSQRTE (R109). -/
def execLaneRsqrte (r : Arith) (s : State) : Out := s.laneFloat r 1 (fun x a _ _ => floatRsqrte x r.rm r.ftz a)

/-- ABS (R105, R106). -/
def execLaneAbsFloat (r : Arith) (s : State) : Out := s.laneFloat r 1 (fun x a _ _ => floatAbs x r.ftz a)

/-- NEG (R105, R106). -/
def execLaneNegFloat (r : Arith) (s : State) : Out := s.laneFloat r 1 (fun x a _ _ => floatNeg x r.ftz a)

/-- CMP on floats (R108). -/
def execLaneCmpFloat (r : Cmp) (s : State) : Out :=
  let x := floatFmt r.ty
  let val (a : Nat) : Num := x.decode (x.flush r.ftz (a % 2 ^ r.ty.bits))
  .next (s.laneIssue r.vregs r.m (fun e s => s.laneCompare e r.kd (fun t =>
    condNum r.cond (val (s.src s.cur t r.ty r.imm r.a)) (val (s.src s.cur t r.ty r.imm r.b)))))

end Sys2Proof.Machine
end

