-- ==== Sys2Proof/Machine/Convert.lean ====
section
/-! DEFINITION. Conversion instructions (R145 to R152). -/

namespace Sys2Proof.Machine

open Sys2Proof

/-- FTZ acts on the elements of bf16 alone (R145). -/
def ftzOf (ftz : Bool) (f : Fmt) : Bool := ftz && f.isBf

/-- The exact value of an element read as a format: a float, or an integer (R127, R130). -/
def elemNum (f : Fmt) (ftz : Bool) (x : Nat) : Num :=
  if f.isFloat || f.isPaired then let y := floatFmt f; y.decode (y.flush (ftzOf ftz f) (x % 2 ^ (1 + y.f + y.eb)))
  else numOfInt (intVal f x)

/-- An element converted to a format (R147). -/
def elemBits (f : Fmt) (rm : Rm) (sat ftz : Bool) (seed : W32) (pos : Nat) (v : Num) : Nat :=
  if f.isFloat || f.isPaired then (floatFmt f).round rm sat (ftzOf ftz f) seed pos v
  else extendTo f (roundToInt f rm sat seed pos v)

/-- CVT of one thread (R147): the elements of a pair lie in halves of one register, or in two registers for f32. -/
def cvtThread (r : Conv) (thread : Nat) (a : Nat) (seed : W32) : Nat :=
  let el (e : Nat) (x : Nat) : Nat := elemBits r.ty r.rm r.sat r.ftz seed (2 * thread + e) (elemNum r.nf r.ftz x)
  if r.ty.isPaired && r.nf == .f32 then pairOf (el 0 (a % 2 ^ 32)) (el 1 (a / 2 ^ 32))
  else if r.ty == .f32 && r.nf.isPaired then el 0 (lowHalf a) + 2 ^ 32 * el 1 (highHalf a)
  else if r.ty.isPaired then pairOf (el 0 (lowHalf a)) (el 1 (highHalf a))
  else el 0 (a % 2 ^ r.nf.bits)

/-- CVT (R147). A pair of f32 is read as a 64-bit operand. -/
def execCvt (r : Conv) (s : State) : Out :=
  let wide := r.ty.isPaired && r.nf == .f32
  let dn := if r.ty.is64 || (r.ty == .f32 && r.nf.isPaired) then 2 else 1
  .next (s.laneIssue r.cvtRegs r.m (fun x s => s.laneWrite x r.d.toNat dn (fun t =>
    cvtThread r t (s.src s.cur t (if wide then .z64 else r.nf) r.imm r.a) (s.src32 s.cur t r.imm r.b))))

/-- QNT of one thread (R148, R149). -/
def qntThread (r : Conv) (thread : Nat) (a : Nat) (b c : W32) : Nat :=
  let v (x : Nat) : Num := elemNum r.ty r.ftz x
  let two (f : Nat → Nat → Nat) : Nat := f 0 (lowHalf a) % 16 + 16 * (f 1 (highHalf a) % 16)
  match r.nf with
  | .k8 => intBits 32 (k8Code r.rm (b >>> 8) (2 * thread) (b.toNat % 256) (v a))
  | .n4 => two (fun e x => n4Code r.rm (b >>> 8) (2 * thread + e) (b.toNat % 256) (fmtF32.decode c.toNat) (v x))
  | .s4 | .z4 => two (fun e x => roundToInt r.nf r.rm r.sat b (2 * thread + e) (v x))
  | _ => (floatFmt r.nf).round r.rm r.sat false b (2 * thread) (v a)

/-- QNT (R148). -/
def execQnt (r : Conv) (s : State) : Out :=
  .next (s.laneIssue (r.blockRegs true (r.nf == .n4)) r.m (fun x s => s.laneWrite x r.d.toNat 1 (fun t =>
    qntThread r t (s.src s.cur t r.ty r.imm r.a) (s.src32 s.cur t r.imm r.b) (s.src32 s.cur t r.imm r.c))))

/-- DQNT of one thread (R150). -/
def dqntThread (r : Conv) (thread : Nat) (a b c : W32) : Nat :=
  let w (e : Nat) (v : Num) : Nat := (floatFmt r.ty).round r.rm false (ftzOf r.ftz r.ty) 0 (2 * thread + e) v
  let x := a.toNat % 256
  match r.nf with
  | .k8 => w 0 (k8Value x (b.toNat % 256))
  | .n4 => pairOf (w 0 (n4Value (x % 16) (b.toNat % 256) (fmtF32.decode c.toNat)))
      (w 1 (n4Value (x / 16) (b.toNat % 256) (fmtF32.decode c.toNat)))
  | .s4 | .z4 => pairOf (w 0 (numOfInt (intVal r.nf (x % 16)))) (w 1 (numOfInt (intVal r.nf (x / 16))))
  | _ => w 0 ((floatFmt r.nf).decode x)

/-- DQNT (R150). -/
def execDqnt (r : Conv) (s : State) : Out :=
  .next (s.laneIssue (r.blockRegs (r.nf == .k8 || r.nf == .n4) (r.nf == .n4)) r.m (fun x s => s.laneWrite x r.d.toNat 1 (fun t =>
    dqntThread r t (s.src32 s.cur t r.imm r.a) (s.src32 s.cur t r.imm r.b) (s.src32 s.cur t r.imm r.c))))

/-- The elements of a thread's register (R151). -/
def elemsOf (f : Fmt) (ftz : Bool) (a : Nat) : List Num :=
  if f.isPaired then [elemNum f ftz (lowHalf a), elemNum f ftz (highHalf a)] else [elemNum f ftz a]

/-- BSCALE (R151): one scale over the elements of X; S is b of the lowest thread of X. -/
def execBscale (r : Conv) (s : State) : Out :=
  .next (s.laneIssue (r.blockRegs (r.nf == .n4) false) r.m (fun x s =>
    let xs := ((threadsIn x).map (fun t => elemsOf r.ty r.ftz (s.src s.cur t r.ty r.imm r.a))).flatten
    let S := fmtF32.decode (s.src32 s.cur ((threadsIn x).headD 0) r.imm r.b).toNat
    s.laneWrite x r.d.toNat 1 (fun _ => if r.nf == .k8 then k8Scale xs else n4Scale xs S)))

end Sys2Proof.Machine
end

