-- ==== Sys2Proof/Machine/Control.lean ====
section
/-! DEFINITION. The control space as it reads (R369 to R374, R377, R381, R383, R387). -/

namespace Sys2Proof.Machine

open Sys2Proof

/-- The die record (R371). -/
def Die.record (d : Die) : W64 :=
  BitVec.ofNat 64 (d.slices.toNat * 2 ^ 48 + d.hbmg.toNat * 2 ^ 32 + d.ports.toNat * 2 ^ 24 + ((List.range 32).filter (fun b => d.banks.getLsbD b)).length * 2 ^ 16 + bitNat d.fenced)

/-- The first doubleword of a partition record: RBUSY is the machine's (R374). -/
def Part.record (p : Part) (i : Nat) : W64 :=
  if i == 0 then setField (setField (p.regs.get 0) 61 1 (bitNat p.rbusy)) 62 1 0 else if i < 8 then p.regs.get i else 0

/-- LSTATUS (R381). -/
def Vd.lstatus (v : Vd) : W64 := BitVec.ofNat 64 (v.result % 4 * 2 ^ 62 + v.launches.length % 64 * 2 ^ 56 + v.lastJob % 65536)

/-- A virtual-device record: LAUNCH is write-only (R377). -/
def Vd.record (v : Vd) (i : Nat) : W64 := if i == 16 then 0 else if i == 17 then v.lstatus else if i < 18 then v.regs.get i else 0

/-- The package record (R383). -/
def State.packageRecord (s : State) (i : Nat) : W64 :=
  if i == 0 then BitVec.ofNat 64 (s.pkgnum.toNat * 2 ^ 60 + s.npkg.toNat * 2 ^ 56 + s.cap % 2048 * 2 ^ 32)
  else if i < 3 then s.route.get (i - 1) else 0

/-- CONFIG as a die reports it (R371). -/
def State.config (s : State) (d : Nat) : W64 :=
  let dies := ((List.range 9).map (fun i => if (s.die i).present && !(s.die i).fenced then 2 ^ i else 0)).sum
  BitVec.ofNat 64 (0xB0 * 2 ^ 56 + s.pkgnum.toNat * 2 ^ 52 + s.npkg.toNat * 2 ^ 48 + dies * 2 ^ 39 + (s.die d).mult % 32 * 2 ^ 32 +
    (s.die d).cores.toNat)

/-- What stands at a control-space address. -/
inductive CsItem where
  | value (w : W64)
  /-- not initialised: a free value (R8, log entry 4) -/
  | free
  | nothing
  deriving DecidableEq, Repr

def CsItem.ofOption : Option W64 → CsItem
  | some w => .value w
  | none => .free

/-- Owner entries of eDRAM, four to a doubleword (R369). -/
def Die.ownerWord (d : Die) (i : Nat) : W64 :=
  BitVec.ofNat 64 (((List.range 4).map (fun j => (d.edramOwner.get (4 * i + j)).toNat * 2 ^ (16 * j))).sum)

/-- The area of a die at an offset (R369). -/
def Die.area (d : Die) (o : Nat) : CsItem :=
  if o == 0 then .value d.record
  else if 0x1000 ≤ o && o < 0x1200 then .ofOption (((d.stepLog.get [] ((o - 0x1000) / 32))[(o - 0x1000) % 32 / 8]?))
  else if 0x2000 ≤ o && o < 0x2600 then .value (d.ownerWord ((o - 0x2000) / 8))
  else if 0x10000 ≤ o && o < 0x20000 then .ofOption (((d.errLog.get [] ((o - 0x10000) / 64))[(o - 0x10000) % 64 / 8]?))
  else if o == 0x20000 then .value d.errIdx
  else .nothing

/-- Reads a doubleword of the control space of this package, by PA[47:0] (R369). -/
def State.csRead (s : State) (a : Nat) : CsItem :=
  if 0xFF0000000000 ≤ a && a < 0xFF0900000000 then
    (s.die ((a - 0xFF0000000000) / 0x100000000)).area ((a - 0xFF0000000000) % 0x100000000)
  else if 0xFF1000000000 ≤ a && a < 0xFF1000000000 + 0x1000 * 32 then
    .value ((s.part ((a - 0xFF1000000000) / 4096)).record (a % 4096 / 8))
  else if 0xFF2000000000 ≤ a && a < 0xFF2000000000 + 0x1000 * 384 then
    .value ((s.vd ((a - 0xFF2000000000) / 4096)).record (a % 4096 / 8))
  else if 0xFF3000000000 ≤ a && a < 0xFF3000001000 then .value (s.packageRecord (a % 4096 / 8))
  else .nothing

/-- A supervisor strand may read its own partition's records, those of the partition's virtual devices, the die records, step
logs and error logs (R370). -/
def State.csMayRead (s : State) (k a : Nat) : Bool :=
  let p := s.vdPart (s.gangOf k).vd
  s.isSup k &&
    (if 0xFF0000000000 ≤ a && a < 0xFF0900000000 then
      !(0x2000 ≤ (a - 0xFF0000000000) % 0x100000000 && (a - 0xFF0000000000) % 0x100000000 < 0x2600)
    else if 0xFF1000000000 ≤ a && a < 0xFF1000000000 + 0x1000 * 32 then (a - 0xFF1000000000) / 4096 == p
    else if 0xFF2000000000 ≤ a && a < 0xFF2000000000 + 0x1000 * 384 then s.vdPart ((a - 0xFF2000000000) / 4096) == p
    else false)

end Sys2Proof.Machine
end

