-- ==== Sys2Proof/Machine/Debug.lean ====
section
/-! DEFINITION. Halting and watchpoints (R362 to R367). -/

namespace Sys2Proof.Machine

open Sys2Proof

/-! ### Halting (R365, R367) -/

/-- A gang and the gangs adopted beneath it. `fuel` bounds the depth. -/
def State.stackUnder (s : State) (g : Nat) : Nat → List Nat
  | 0 => [g]
  | n + 1 => g :: ((s.gangs.filter (fun c => c.2.live && c.2.adopter == some g)).map (fun c => s.stackUnder c.1 n)).flatten

def State.stackOf (s : State) (g : Nat) : List Nat := s.stackUnder g 8

/-- A gang, with every gang adopted beneath it, is halted in place or released (R365). -/
def State.haltStack (s : State) (g : Nat) (h : Bool) : State :=
  (s.stackOf g).foldl (fun s x => s.setGang x { s.gang x with halted := h }) s

/-- A debug stop: the gang halts, and a fault-queue entry of KIND 0x04 is written (R367). The spec gives the entry's PC alone;
its VA and TMASKF are zero (DESIGN CHOICE, log entry 98). -/
def State.debugStop (s : State) (k : Nat) (pc : W64) : State :=
  let t := s.strand k
  let p := s.vdPart (s.gang t.gang).vd
  let (fid, s) := (s.haltStack t.gang true).takeFid p
  s.faultEntry t.die p (({ kind := 4, fid, pc : Report }.ofStrand s k).entry s.pkgnum.toNat (s.die t.die).refcnt)

/-! ### Watchpoints (R362, R363) -/

/-- Watchpoint n matches a byte of an access of a kind. -/
def Strand.watches (t : Strand) (n bit : Nat) (va : W64) (bytes : Nat) : Bool :=
  let ctl := t.wp.get (8 + n)
  ctl.getLsbD 0 && ctl.getLsbD bit &&
    (List.range bytes).any (fun i => (va.toNat + i) / 16 == fieldOf (t.wp.get n) 4 52 && (t.wp.get (4 + n)).getLsbD ((va.toNat + i) % 16))

/-- Some watchpoint matches. -/
def Strand.watched (t : Strand) (bit : Nat) (va : W64) (bytes : Nat) : Bool :=
  (List.range 4).any (fun n => t.watches n bit va bytes)

/-- Some matching watchpoint halts: HLT reads as 0 with debugging off. -/
def State.watchHalts (s : State) (k bit : Nat) (va : W64) (bytes : Nat) : Bool :=
  s.vdDebug (s.gangOf k).vd && (List.range 4).any (fun n => (s.strand k).watches n bit va bytes && ((s.strand k).wp.get (8 + n)).getLsbD 5)

/-- Bits of WPCTL. -/
def wpLd : Nat := 1
def wpSt : Nat := 2
def wpAt : Nat := 3
def wpEw : Nat := 4
/-- Of no bit: no watchpoint matches. -/
def wpNone : Nat := 63

/-- A report of a watched atomic (R364). -/
def watchReport (va : W64) : TrapReq :=
  { code := cWatchI, va, pc := 0, lane := false, tmaskf := 0, tcode := 0, xkind := 0, wstep := false, engv := false, eng := 0, edie := 0, cb := none }

/-- The report of a watched atomic whose strand has ended writes an error-log entry of KIND 0x16 instead (R364). -/
def State.reportEnded (s : State) (f : Flight) : State :=
  s.log (s.strand f.strand).die ({ kind := 0x16, va := f.va, pc := f.pc : Report }.ofStrand s f.strand)

/-- An imprecise match is reported: it becomes pending, or halts the gang (R364, R367). -/
def State.reportWatch (s : State) (k bit : Nat) (va : W64) (bytes : Nat) (pc : W64) (r : TrapReq) : State :=
  if !(s.strand k).live then s
  else if s.watchHalts k bit va bytes then s.debugStop k pc
  else s.pendCause k r

end Sys2Proof.Machine
end

