-- ==== Sys2Proof/Machine/Shares.lean ====
section
/-! DEFINITION. Guaranteed shares: the token buckets of the arbiters (R29, R378, R379) and the ways of the shared cache slices (R159,
R160, R380). -/

namespace Sys2Proof.Machine

open Sys2Proof

/-! ### Token buckets (R378) -/

/-- The resources: issue slots at a core's arbiter, memory bandwidth at a home slice or at a die's copy engines, fabric send at a link
port. The arbiters of the on-die routers and of the UCIe modules order packets that the model does not hold (log entry 7). -/
inductive Share where
  | issue | memory | fabric
  deriving DecidableEq, Repr

def Share.num : Share → Nat
  | .issue => 0 | .memory => 1 | .fabric => 2

/-- An arbiter: its die and its number there: a core, a slice, the copy engines as 32, a port as 40 + p. -/
structure Arbiter where
  share : Share
  die : Nat
  unit : Nat
  deriving DecidableEq, Repr

def issueArbiter (core : Nat) : Arbiter := { share := .issue, die := core / 32, unit := core % 32 }
def copyArbiter (die : Nat) : Arbiter := { share := .memory, die, unit := 32 }

/-- Keys of the buckets of a virtual device; number 63 of a die holds what the buckets that have not been charged there hold. -/
def bucketKey (a : Arbiter) (vd : Nat) : Nat := ((a.share.num * 512 + vd) * 16 + a.die) * 64 + a.unit

/-- RATE and DEPTH of a virtual device at an arbiter (R377, R378): the copy engines' bucket is eight times that of a slice. -/
def State.shareOf (s : State) (a : Arbiter) (vd : Nat) : Nat × Nat :=
  let w := s.vdReg vd (8 + a.share.num)
  let n := if a.share == .memory && a.unit == 32 then 8 else 1
  (n * fieldOf w 32 32, n * fieldOf w 0 32)

/-- Fabric cycles of a die since reset: 15 in a tick of the reference (R3, R372). -/
def State.fabricCycles (s : State) (die : Nat) : Nat := 15 * (s.die die).refcnt.toNat

/-- The level of a bucket now, in 1/1,024 token: it has filled at its rate up to its depth (R379). -/
def State.level (s : State) (a : Arbiter) (vd : Nat) : Nat :=
  let b := s.buckets.get (s.buckets.get { level := 0, stamp := 0 } (bucketKey { a with unit := 63 } vd)) (bucketKey a vd)
  let r := s.shareOf a vd
  min (b.level + r.1 * (s.fabricCycles a.die - b.stamp)) (1024 * r.2)

/-- A requester holds the tokens of a grant that costs n (R379); with RATE 0 it never does. -/
def State.holdsTokens (s : State) (a : Arbiter) (vd n : Nat) : Bool := (s.shareOf a vd).1 != 0 && 1024 * n ≤ s.level a vd

/-- n grants of one token each: those for which the requester holds a token are charged, the others are lent (R379). -/
def State.charge (s : State) (a : Arbiter) (vd n : Nat) : State :=
  if s.holdsTokens a vd 1 then
    { s with buckets := s.buckets.set (bucketKey a vd) {
        level := s.level a vd - 1024 * min n (s.level a vd / 1024), stamp := s.fabricCycles a.die } }
  else s

/-- The order of requesters at an arbiter (R379): a holder of tokens by its task priority; then a requester of a partition that has there
a bucket with tokens and no request, by its priority; then any other. `asking` are the virtual devices that request. -/
def State.rankAt (s : State) (a : Arbiter) (asking : List Nat) (vd prio : Nat) : Nat :=
  if s.holdsTokens a vd 1 then 200 + prio
  else if s.vds.any (fun v => s.vdPart v.1 == s.vdPart vd && s.vdEn v.1 && !asking.contains v.1 && s.holdsTokens a v.1 1) then 100 + prio
  else prio

/-- A change of RATE or DEPTH takes effect at every arbiter at once: each bucket keeps its level, clamped to the new depth (R378). The
state holds the old record. -/
def State.rebase (s : State) (share : Share) (vd newDepth : Nat) : State :=
  let fresh (a : Arbiter) : Bucket :=
    { level := min (s.level a vd) (1024 * newDepth * (if a.share == .memory && a.unit == 32 then 8 else 1)), stamp := s.fabricCycles a.die }
  let mine := s.buckets.filter (fun b => b.1 / 1024 == share.num * 512 + vd)
  let keys := mine.map (fun b => (b.1 / 64 % 16, b.1 % 64)) ++ (List.range 9).map (fun d => (d, 63)) ++ (List.range 9).map (fun d => (d, 32))
  { s with buckets := (keys.eraseDups.filter (fun k => k.2 != 32 || share == .memory)).foldl (fun m k =>
      m.set (bucketKey { share, die := k.1, unit := k.2 } vd) (fresh { share, die := k.1, unit := k.2 })) s.buckets }

/-! ### Shared cache slices (R159, R160, R380) -/

/-- The set of a line in its home slice: 1,024 sets; which bits choose it is not given (log entry 64, DESIGN CHOICE). -/
def State.setKey (s : State) (pa : Nat) : Nat := 1024 * s.homeKey pa + pa / 2048 % 1024

/-- WAYS of a partition that exists (R374). -/
def State.waysOf (s : State) (p : Nat) : BitVec 16 := if s.partEn p then BitVec.ofNat 16 (fieldOf ((s.part p).regs.get 0) 0 16) else 0

/-- The ways of a mask. -/
def waysIn (w : BitVec 16) : List Nat := (List.range 16).filter (fun i => w.getLsbD i)

/-- The guarantee of a virtual device in a set: GWAYS, as far as the earlier-numbered of its partition leave ways (R380). -/
def State.gways (s : State) (vd : Nat) : Nat :=
  let p := s.vdPart vd
  let before := ((s.vds.filter (fun v => v.1 < vd && s.vdEn v.1 && s.vdPart v.1 == p)).map (fun v => fieldOf (s.vdReg v.1 0) 32 5)).sum
  min (fieldOf (s.vdReg vd 0) 32 5) ((waysIn (s.waysOf p)).length - before)

/-- The line of lowest priority, among equals the least recently used (R160). -/
def worstLine (ls : List SliceLine) : Option SliceLine :=
  ls.find? (fun l => l.ev == (ls.map (·.ev)).foldl min 7)

/-- The way that a fill by a virtual device takes in a set (R380): a way of its partition that holds nothing; when all of them hold lines of
the partition, one of another partition that holds nothing; else a victim among its partition's ways. -/
def State.fillWay (s : State) (vd : Nat) (ls : List SliceLine) : Option Nat :=
  let p := s.vdPart vd
  let own := waysIn (s.waysOf p)
  let empty (w : Nat) : Bool := !ls.any (fun l => l.way == w)
  let lent := (List.range 16).find? (fun w => empty w && !own.contains w && s.parts.any (fun q => q.1 != p && (s.waysOf q.1).getLsbD w))
  let inOwn := ls.filter (fun l => own.contains l.way)
  let foreign := inOwn.filter (fun l => l.vd != vd)
  match own.find? empty with
  | some w => some w
  | none =>
    match inOwn.all (fun l => s.vdPart l.vd == p), lent with
    | true, some w => if own.isEmpty then none else some w
    | _, _ =>
      if (ls.filter (fun l => l.vd == vd)).length < s.gways vd && !foreign.isEmpty then (foreign.head?).map (·.way)
      else (worstLine inOwn).map (·.way)

/-- An access of a virtual device reaches a line in its home slice with a priority (R160): a hit takes the priority unless that is 0;
a miss allocates unless it is 0. -/
def State.touchSlice (s : State) (vd pa ev : Nat) : State :=
  let k := s.setKey pa
  let ls := s.slices.get [] k
  match ls.find? (fun l => l.line == pa / 128) with
  | some l =>
    { s with slices := s.slices.set k (ls.filter (fun x => x.line != pa / 128) ++ [{ l with ev := if ev == 0 then l.ev else ev }]) }
  | none =>
    if ev == 0 then s
    else match s.fillWay vd ls with
      | some w => { s with slices := s.slices.set k (ls.filter (fun x => x.way != w) ++ [{ line := pa / 128, way := w, vd, ev }]) }
      | none => s

/-- Lines leave the slices: written back and invalidated (R376). -/
def State.dropSliceLines (s : State) (p : Nat → SliceLine → Bool) : State :=
  { s with slices := (s.slices.map (fun (c : Nat × List SliceLine) => (c.1, c.2.filter (fun l => !p c.1 l)))).filter (fun c => !c.2.isEmpty) }

end Sys2Proof.Machine
end

