-- ==== Sys2Proof/Machine/Flight.lean ====
section
/-! DEFINITION. Requests in flight: how they leave a strand, when they may be performed, what performing them does, and how
their answers arrive (R162 to R170, R172, R187 to R211, R215, R221). -/

namespace Sys2Proof

/-- Acquire and release orderings, and scopes by width (R44, R191). -/
def Ord.isAcq : Ord → Bool
  | .acq | .acqrel => true
  | _ => false

def Ord.isRel : Ord → Bool
  | .rel | .acqrel => true
  | _ => false

def Scope.num : Scope → Nat
  | .strand => 0 | .gang => 1 | .core => 2 | .cluster => 3 | .die => 4 | .package => 5 | .domain => 6 | .system => 7


/-- Counts as a load for the preserved order (R187, R190). A prefetch is no access of the memory model (R178). -/
def ReqKind.reads : ReqKind → Bool
  | .load | .ldx | .lds | .line | .fewait _ | .phase _ => true
  | .atom _ _ _ ret => ret
  | .inkRead _ => true
  | _ => false

/-- Counts as a store (R187, R190). -/
def ReqKind.writes : ReqKind → Bool
  | .store | .ntStore | .sts | .atom _ _ _ _ | .inkAdd _ | .inkClr => true
  | _ => false

/-- An access of a full/empty wait: FEWAIT and CBWAIT (R231, R233). -/
def ReqKind.feWaits : ReqKind → Bool
  | .fewait _ | .phase _ => true
  | _ => false

end Sys2Proof

namespace Sys2Proof.Machine

open Sys2Proof

/-! ### Order (R172, R188 to R192, R200) -/

def Flight.overlaps (f g : Flight) : Bool := f.key < g.key + g.bytes && g.key < f.key + f.bytes

/-- Two accesses of one strand that take effect in issue order: those of one byte (R172); a `.wfill` that waits holds its granule (R170). -/
def Flight.clash (f g : Flight) : Bool :=
  g.kind != .pref && (f.overlaps g || (g.stage == .waiting && g.kind == .sts && f.key / 16 == g.key / 16))

/-- g is an earlier thread of the instruction of f. -/
def Flight.earlierThread (g f : Flight) : Bool :=
  g.strand == f.strand && g.lane == f.lane && g.inst == f.inst && g.orphan == f.orphan && g.id < f.id

/-- The core of a request; 999 for that of an agent. -/
def State.flightCore (s : State) (f : Flight) : Nat := if f.agent.isSome then 999 else (s.strand f.strand).core

/-- The value of a load has not yet reached its strand (R190, R198). -/
def Flight.unbound (f : Flight) : Bool := f.kind.reads && (f.unperformed || f.stage == .reply)

/-- An earlier access has reached the point that a release at a scope needs (R200). At gang and core scope a store must have left the
write-buffer banks; one to a scratchpad must have been performed at its port, so that no strand of the core reads around it (R192, R193, log
entry 62). -/
def Flight.releasedAt (f : Flight) (sc : Scope) : Bool :=
  if sc.num == 0 then true
  else if f.unbound then false
  else if sc.num ≤ 2 then !f.kind.writes || (if isSpad f.key then !f.unperformed else f.sent)
  else !f.kind.writes || f.stage == .err

/-- The bytes that a line of the write-combining buffer holds are seen by the strand's own later loads (R176). -/
def Flight.forwards (g f : Flight) : Bool := g.stage == .wc && !f.kind.writes

/-- f may not be performed while g stands as it does: an earlier access of its strand to the same byte, or an earlier thread of its
instruction to the same byte or, unless it waits at the port already, the same granule (R169, R172); an earlier load (R190); what a
release waits for (R192, R200); an earlier access that finds the wait table of the same scratchpad full (R169, `full`); a store of
the same core that has left it, for a load (R161, R200), or that left it before, for a write (`ahead`). -/
def Flight.blockedBy (f g : Flight) (sameCore ahead full : Bool) : Bool :=
  g.id != f.id &&
    ((g.unperformed && g.before f && f.clash g && !g.forwards f) ||
      (g.unperformed && g.stage != .waiting && g.earlierThread f &&
        (f.overlaps g || (isSpad f.key && f.key / 16 == g.key / 16))) ||
      (g.unperformed && g.before f && g.kind.reads) ||
      (f.ord.isRel && f.kind.writes && g.before f && !g.releasedAt f.scope) ||
      (full && g.unperformed && g.before f && isSpad f.key && isSpad g.key && spadCore f.key == spadCore g.key) ||
      (sameCore && g.unperformed && g.sent && g.kind.writes && f.overlaps g && !f.before g && (ahead || !f.kind.writes)))

/-- An access that may wait at its port. -/
def Flight.mayWait (f : Flight) : Bool :=
  match f.kind, f.qual with
  | .lds, .plain => false
  | .lds, _ => true
  | .sts, .two => true
  | .fewait _, _ => true
  | .phase _, _ => true
  | _, _ => false

/-- Places taken in the wait table of a core's port (R169). -/
def State.waitCount (s : State) (core : Nat) : Nat :=
  (s.flights.filter (fun g => g.stage == .waiting && spadCore g.key == core)).length + bitNat (s.core core).matrix.await.isSome

/-- An access that waits for a place in the wait table of its port (R169). -/
def State.tableWaits (s : State) (g : Flight) : Bool :=
  g.stage == .home && g.mayWait && isSpad g.key && Config.waitTable ≤ s.waitCount (spadCore g.key)

/-- g left its core before f: requests stand in the order in which they left. -/
def State.leftBefore (s : State) (g f : Flight) : Bool := (s.flights.takeWhile (fun x => x.id != f.id)).any (fun x => x.id == g.id)

/-- Requests of the same core (R161, R200). -/
def State.sameCore (s : State) (f g : Flight) : Bool := f.agent.isNone && g.agent.isNone && s.flightCore g == s.flightCore f

/-- Nothing holds a request back in its strand or core, but for some other requests. -/
def State.unblockedBut (s : State) (f : Flight) (but : Flight → Bool) : Bool :=
  s.flights.all (fun g => but g ||
    !f.blockedBy g (s.sameCore f g && !isSpad f.key) (!f.sent || s.leftBefore g f) (s.tableWaits g))

def State.unblocked (s : State) (f : Flight) : Bool := s.unblockedBut f (fun _ => false)

/-! ### L1 (R161, R190, R198, R199) -/

/-- Relaxed loads, and acquires at gang or core scope, may hit L1 (R199); LDX and scratchpad accesses do not (R164). -/
def Flight.mayHit (f : Flight) : Bool :=
  (f.kind == .load || f.kind == .line || f.kind == .pref) && !isSpad f.key && (!f.ord.isAcq || f.scope.num ≤ 2)

/-- A load binds in its turn (R190): the earlier loads of its strand have bound, its own earlier stores to its bytes, and those of its core that
have passed its L1, have been performed at their homes (R189, R194; log entry 63), and the die has applied what the strand's replies
cover (R198). -/
def State.mayBind (s : State) (f : Flight) : Bool :=
  s.flights.all (fun g => !(g.id != f.id && ((g.before f && g.unbound) ||
    (f.clash g && g.unperformed && g.kind.writes && !g.forwards f &&
      (g.before f || g.earlierThread f || (g.sent && s.sameCore f g && !f.before g)))))) &&
    vecCovers (s.die (s.flightCore f / 32)).vc (s.strand f.strand).replyVec

/-- A line of L1 that a load may use at all (R199, R225). -/
def State.l1Line (s : State) (f : Flight) : Option L1Line :=
  if f.mayHit && !s.inTable f.key then (s.core (s.flightCore f)).line f.key else none

def State.setFlight (s : State) (f : Flight) : State :=
  { s with flights := s.flights.map (fun (g : Flight) => if g.id == f.id then f else g) }
def State.dropFlight (s : State) (id : Nat) : State := { s with flights := s.flights.filter (fun f => f.id != id) }
def State.flight? (s : State) (id : Nat) : Option Flight := s.flights.find? (fun f => f.id == id)

/-- A request goes on to a stage where the order of arrival counts: it stands last. -/
def State.moveFlight (s : State) (f : Flight) : State :=
  let s := s.dropFlight f.id
  { s with flights := s.flights ++ [f] }

/-- Bytes of a read with those that the write-combining buffer holds of the strand's own earlier stores (R176); a byte that no store changes
reads as it stands (R225). -/
def State.ownBytes (s : State) (f : Flight) (v : Nat) : Nat :=
  let own := s.flights.filter (fun g => g.stage == .wc && g.before f && f.overlaps g)
  leNat ((List.range f.bytes).map (fun i => own.foldl (fun b g =>
    if g.key ≤ f.key + i && f.key + i < g.key + g.bytes && !s.roByte (f.key + i) then BitVec.ofNat 8 (g.data / 2 ^ (8 * (f.key + i - g.key))) else b)
    (BitVec.ofNat 8 (v / 2 ^ (8 * i)))))

/-- A load binds the value of an L1 line, which becomes the most recently used (R160), unless an uncorrectable error meets it (R27). A prefetch
ends (R178). -/
def State.bindL1 (s : State) (f : Flight) (l : L1Line) : State :=
  let s := s.touchL1 (s.flightCore f) f.key f.ev
  if f.kind == .pref then s.dropFlight f.id
  else if s.eccBad f.key then s.setFlight { f with stage := .err }
  else s.setFlight { f with stage := .reply, vec := l.vec,
                            value := s.ownBytes f (leNat ((l.bytes.drop (f.key % 128)).take f.bytes)) }

/-- A load looks for its line in L1: a line that stands there it binds in its turn; else it goes to its home (R161, R162, R190). -/
def State.lookL1 (s : State) (f : Flight) : State :=
  match s.l1Line f with
  | some l => if s.mayBind f then s.bindL1 f l else s
  | none => s.moveFlight { f with stage := .home }

/-- The first stage of a request after its window or buffer: a load looks in L1, a write waits to be sent, any other read goes to its
home or port. -/
def Flight.firstStage (f : Flight) : Stage :=
  if f.kind.writes then .held
  else if f.mayHit then .l1
  else .home

/-! ### Windows, write-combining buffer (R162, R176) -/

/-- The requests of one coalescing entry: same strand, line and direction (R162); of one line of the write-combining buffer: same core
and line (R176). -/
def State.sameEntry (s : State) (f g : Flight) : Bool :=
  f.stage == g.stage && f.key / 128 == g.key / 128 &&
    (if f.stage == .wc then s.flightCore f == s.flightCore g
    else f.strand == g.strand && f.kind.writes == g.kind.writes)

/-- The entry of a request is sent: its requests go on as one (R162). -/
def State.sendEntry (s : State) (f : Flight) : State :=
  { s with flights := s.flights.map (fun (g : Flight) =>
      if s.sameEntry f g then { g with stage := g.firstStage, entry := f.id + 1 } else g) }

/-- Every entry of a strand is sent at an acquire or release, FENCE or LDRAIN (R162); at all of them but an acquire (`wc`), every line of the
write-combining buffer that it has written too (R176). -/
def State.sendAll (s : State) (k : Nat) (wc : Bool := true) : State :=
  let due (g : Flight) : Bool := g.stage == .window || (wc && g.stage == .wc)
  (s.flights.filter (fun g => g.strand == k && due g)).foldl (fun s g =>
    match s.flight? g.id with
    | some h => if due h then s.sendEntry h else s
    | none => s) s

/-- The lines of the write-combining buffer that hold bytes of a later store or atomic of their strand are sent before it: two writes
of one byte stay in program order (R189, log entry 63). -/
def State.sendWc (s : State) (f : Flight) : State :=
  (s.flights.filter (fun g => g.stage == .wc && g.strand == f.strand && f.overlaps g)).foldl (fun s g =>
    match s.flight? g.id with
    | some h => if h.stage == .wc then s.sendEntry h else s
    | none => s) s

/-- The first requests of each open entry of a lane, oldest first. -/
def State.entryHeads (s : State) : List Flight → List Flight → List Flight
  | [], acc => acc
  | f :: fs, acc => if acc.any (fun g => s.sameEntry g f) then s.entryHeads fs acc else s.entryHeads fs (acc ++ [f])

/-- The eight entries of a lane's window: the oldest is sent before a ninth opens (R162). -/
def State.makeRoom (s : State) (f : Flight) : State :=
  let core := s.flightCore f
  let lane := (s.strand f.strand).lane
  let heads := s.entryHeads (s.flights.filter (fun g => g.stage == .window && s.flightCore g == core && (s.strand g.strand).lane == lane)) []
  if heads.any (fun g => s.sameEntry g f) || heads.length < 8 then s
  else match heads with | g :: _ => s.sendEntry g | [] => s

/-- The sixteen lines of the write-combining buffer: a line all of whose bytes are written is sent, and the oldest when the buffer needs
the place (R176; which line leaves is not given: DESIGN CHOICE, log entry 94). -/
def State.tidyWc (s : State) (f : Flight) : State :=
  let core := s.flightCore f
  let mine := s.flights.filter (fun g => s.sameEntry f g)
  let covered := (List.range 128).all (fun i =>
    mine.any (fun g => g.key ≤ f.key / 128 * 128 + i && f.key / 128 * 128 + i < g.key + g.bytes))
  let s := if covered then s.sendEntry f else s
  let heads := s.entryHeads (s.flights.filter (fun g => g.stage == .wc && s.flightCore g == core)) []
  if heads.length ≤ 16 then s else match heads with | g :: _ => s.sendEntry g | [] => s

/-! ### The binning network (R163) -/

/-- The LDX elements that a core has in flight. -/
def State.ldxCount (s : State) (core : Nat) : Nat :=
  (s.flights.filter (fun f => f.kind == .ldx && f.stage != .held && s.flightCore f == core)).length

/-- The elements of a bin: of the requesting die, for one home slice. -/
def State.binOf (s : State) (die home : Nat) (f : Flight) : Bool :=
  f.stage == .bin && s.flightCore f / 32 == die && s.homeKey f.key == home

/-- A bin is sent; the elements of one line become one line access (R163). -/
def State.sendBin (s : State) (die home : Nat) : State :=
  { s with flights := s.flights.map (fun (f : Flight) =>
      if s.binOf die home f then
        { f with stage := .home, entry := ((s.flights.find? (fun g => s.binOf die home g && g.key / 128 == f.key / 128)).map (·.id)).getD f.id + 1 }
      else f) }

/-- An element enters its bin, which leaves with the sixty-fourth; beyond 512 of its core it waits (R163). -/
def State.enterBin (s : State) (f : Flight) : State :=
  if isSpad f.key then s.moveFlight { f with stage := .home }
  else if 512 ≤ s.ldxCount (s.flightCore f) then s.setFlight { f with stage := .held }
  else
    let s := s.moveFlight { f with stage := .bin }
    let die := s.flightCore f / 32
    let home := s.homeKey f.key
    if 64 ≤ (s.flights.filter (s.binOf die home)).length then s.sendBin die home else s

/-- A request starts: it takes its number, and enters the window, the write-combining buffer, the binning network, or its first stage. -/
def State.launchFlight (s : State) (f : Flight) (at_ : Stage) : State :=
  let f := { f with id := s.nextId }
  let f := { f with stage := if at_ == .home then f.firstStage else at_ }
  let s := if f.kind.writes && at_ != .wc then s.sendWc f else s
  let s := if at_ == .window then s.makeRoom f else s
  let s := { s with flights := s.flights ++ [f], nextId := s.nextId + 1 }
  match at_ with
  | .wc => s.tidyWc f
  | .bin => s.enterBin f
  | _ => s

/-! ### Leaving the core (R198, R200, R202, R210) -/

/-- A write may enter its bank or path: the earlier loads of its strand have bound, its earlier accesses to the same bytes have been
sent, and what a release waits for has come about (R170, R190, R192, R200). -/
def State.mayEnter (s : State) (f : Flight) : Bool :=
  s.flights.all (fun g => !(g.id != f.id && ((g.before f && (g.unbound || (f.clash g && !g.sent) ||
    (f.ord.isRel && !g.releasedAt f.scope))) || (g.earlierThread f && f.clash g && !g.sent && g.stage != .bank))))

/-- The bank of a store, by its home slice, or the scratchpad path of its core, as number 8 (R202). -/
def State.bankOf (s : State) (f : Flight) : Nat := if isSpad f.key then 8 else (s.homeOf f.key).2 % 8

/-- A bank drains in arrival order (R202). -/
def State.bankHead (s : State) (f : Flight) : Bool :=
  !(s.flights.takeWhile (fun x => x.id != f.id)).any (fun g =>
    g.stage == .bank && s.flightCore g == s.flightCore f && s.bankOf g == s.bankOf f)

/-- The number of a core or agent of this package as a source of requests. -/
def State.srcOf (s : State) (core : Nat) : Nat := 512 * s.pkgnum.toNat + core

/-- The source of a request (R210). -/
def State.flightSrc (s : State) (f : Flight) : Nat :=
  match f.agent with
  | some a => a.src
  | none => s.srcOf (s.flightCore f)

/-- A request of a peer package, which has come with its tag (R210, R383). -/
def Flight.ofPeer (f : Flight) : Bool :=
  match f.agent with
  | some { who := .peer _ _, .. } => true
  | _ => false

/-- Requests that write carry a tag (R210); an INK.READ, whose reply the filter holds, carries one too. -/
def Flight.tagged (f : Flight) : Bool :=
  f.kind.writes || (match f.kind with | .inkRead _ => true | _ => false)

/-- Tag n + 256 leaves for a home only after the answer to tag n (R210). -/
def State.tagFree (s : State) (f : Flight) : Bool :=
  let home := s.homeKey f.key
  let tag := (s.tags.get (4096 * s.flightSrc f + home)).toNat
  !s.flights.any (fun g => g.tagged && g.sent && !(g.agent.isSome && !g.unperformed) && !isSpad g.key && s.flightSrc g == s.flightSrc f && s.homeKey g.key == home &&
    (g.tag + 256) % 65536 == tag)

/-- A request of this package takes the next tag of its source at its home; the accesses of one entry or line access are one request, with one
tag (R162, R163). -/
def State.takeTag (s : State) (f : Flight) : Flight × State :=
  let k := 4096 * s.flightSrc f + s.homeKey f.key
  if !f.tagged || isSpad f.key || f.ofPeer then (f, s)
  else match s.flights.find? (fun g => g.id != f.id && g.entry == f.entry && f.entry != 0 && g.stage == .home && g.tagged && s.flightSrc g == s.flightSrc f) with
    | some g => ({ f with tag := g.tag }, s)
    | none => ({ f with tag := (s.tags.get k).toNat }, { s with tags := s.tags.set k (s.tags.get k + 1) })

/-- The vector that a write carries (R198): the die's, and what its strand has seen; a release at cluster scope or wider, and every
write after a release fence, carries what the strand's acknowledged writes have sent (R192, R193, R200). -/
def State.leaveVec (s : State) (f : Flight) : SMap 32 :=
  let t := s.strand f.strand
  let v := vecJoin (vecJoin (s.sendVec (t.core / 32)) t.replyVec) t.relVec
  if f.ord.isRel && 3 ≤ f.scope.num then vecJoin v t.ackVec else v

/-! ### Performing -/

/-- A watchpoint report of a command bound to a count barrier has not been taken (R364). -/
def State.reportPending (s : State) (granule : Nat) : Bool :=
  s.strands.any (fun t => t.2.live && t.2.pend.any (fun r => r.cb == some granule))

/-- An acquiring read observes a count barrier whose command has a report that has not been taken (R206, R364): it is not performed yet. A strand's
own read does not wait for its own trap (DEDUCED, log entry 77). -/
def State.reportHeld (s : State) (f : Flight) : Bool :=
  f.ord.isAcq && (match f.kind with | .load | .ldx | .lds | .atom _ _ _ _ => true | _ => false) &&
    s.strands.any (fun t => t.1 != f.strand && t.2.live && t.2.pend.any (fun r => r.cb == some (f.key / 16)))

/-- The full/empty condition of an access (R168). -/
def State.feReady (s : State) (f : Flight) : Bool :=
  match f.kind, f.qual with
  | .lds, .one => s.isFull f.key
  | .lds, .two => s.isFull f.key
  | .sts, .two => !s.isFull f.key
  | .fewait full, _ => s.isFull f.key == full
  | .phase one, _ => (s.readLE f.key 16 / 2 ^ 127 == 1) == one && !s.reportPending (f.key / 16)
  | _, _ => true

/-- g, which waits earlier on the same granule, is served before f (R169). -/
def Flight.behind (f g : Flight) : Bool :=
  f.key / 16 == g.key / 16 &&
    match f.kind, f.qual, g.kind, g.qual with
    | .lds, .two, .lds, _ => true
    | .lds, .one, .lds, .two => true
    | .sts, .two, .sts, .two => true
    | _, _, _, _ => false

/-- The waiting requests that stand before f in the port's table: those ahead of it in the list, or all when f arrives. -/
def State.waitersAhead (s : State) (f : Flight) : List Flight :=
  let ws := s.flights.filter (fun g => g.stage == .waiting && g.id != f.id)
  if f.stage == .waiting then (s.flights.takeWhile (fun g => g.id != f.id)).filter (fun g => g.stage == .waiting) else ws

def State.feServed (s : State) (f : Flight) : Bool := s.feReady f && !(s.waitersAhead f).any (fun g => f.behind g)

/-- Whether this package performs a request: one to a peer crosses the link, and the peer performs it (R383). -/
def State.performsHere (s : State) (f : Flight) : Bool := isSpad f.key || pkgOf f.key == s.pkgnum.toNat

/-- The core of a request owns its line (R208). -/
def State.ownsLine (s : State) (f : Flight) : Bool := (s.core (s.flightCore f)).l1.any (fun l => l.line == f.key / 128 && l.owned)

/-- An atomic before the home's queues of hot addresses (R209). -/
def Flight.atomic (f : Flight) : Bool :=
  match f.kind with
  | .atom _ _ _ _ => true
  | _ => false

/-- The atomics that a home has taken for the 8-byte word of a request: the one in progress, then its queue (R209). -/
def State.hotQueue (s : State) (f : Flight) : List Flight :=
  s.flights.filter (fun g => g.atomic && g.stage == .queued && !isSpad g.key && g.key / 8 == f.key / 8)

/-- The hot addresses of a home slice: words that another atomic waits for while one is in progress (R209). -/
def State.hotWords (s : State) (home : Nat) : Nat :=
  (((s.flights.filter (fun g => g.atomic && g.stage == .queued && s.homeKey g.key == home && 2 ≤ (s.hotQueue g).length)).map (fun g => g.key / 8)).eraseDups).length

/-- A home slice takes a request: an atomic only where its word's queue, or one of the 64 queues, has room (R209). -/
def State.mayJoin (s : State) (f : Flight) : Bool :=
  let n := (s.hotQueue f).length
  !f.atomic || s.ownsLine f || n == 0 || (n ≤ 128 && (2 ≤ n || s.hotWords (s.homeKey f.key) < 64))

/-- The queue of an address drains in arrival order (R209). -/
def State.hotTurn (s : State) (f : Flight) : Bool := !f.atomic || s.ownsLine f || ((s.hotQueue f).head?).map (·.id) == some f.id

/-- A request that reads what its home holds: a load, a prefetch, an atomic. -/
def Flight.looks (f : Flight) : Bool := f.kind.reads || f.kind == .pref || f.atomic

/-- A request that its home slice or port may perform, were it alone there. A write waits for what its vector covers (R198), a read for
its bank (R167), every access for the recall of an owned line (R208). -/
def State.ableAt (s : State) (f : Flight) : Bool :=
  s.performsHere f && s.unblocked f &&
    (if isSpad f.key then s.feServed f && !s.reportHeld f && (!f.kind.writes || vecCovers (s.sendVec (spadCore f.key / 32)) f.vec)
    else f.stage == .queued && s.hotTurn f && !s.ownedElsewhere (s.flightCore f) (f.key / 128) && !(f.looks && s.refreshing f.key) &&
      (!f.kind.writes || (vecCovers (s.sendVec (s.homeOf f.key).1) f.vec && s.clockRoom (s.homeOf f.key).1)))

/-- The arbiter of a home slice (R378). -/
def State.sliceArbiter (s : State) (pa : Nat) : Arbiter := { share := .memory, die := (s.homeOf pa).1, unit := (s.homeOf pa).2 }

/-- The virtual device and the task priority of a request. -/
def State.vdOf (s : State) (f : Flight) : Nat :=
  match f.agent with
  | some a => a.vd
  | none => (s.gangOf f.strand).vd
def State.prioOf (s : State) (f : Flight) : Nat :=
  match f.agent with
  | some a => a.prio
  | none => (s.gangOf f.strand).prio

/-- No request that the slice of an address could perform is before one of a virtual device with a priority at its arbiter (R379). -/
def State.sliceTurn (s : State) (pa vd prio : Nat) : Bool :=
  let rivals := s.flights.filter (fun g => g.stage == .queued && !isSpad g.key && s.homeKey g.key == s.homeKey pa)
  let a := s.sliceArbiter pa
  let asking := vd :: rivals.map s.vdOf
  rivals.all (fun g => s.rankAt a asking (s.vdOf g) (s.prioOf g) ≤ s.rankAt a asking vd prio || !s.ableAt g)

def State.winsSlice (s : State) (f : Flight) : Bool := s.sliceTurn f.key (s.vdOf f) (s.prioOf f)

/-- A grant of the slice of an address: it takes a token, and the line a way with an eviction priority (R160, R378, R380). -/
def State.sliceGrant (s : State) (pa vd ev : Nat) : State := (s.charge (s.sliceArbiter pa) vd 1).touchSlice vd pa ev

/-- The entries that a walk of a die for a virtual device reads at home slices of this package, where a walk cache does not hold them. -/
def State.walkReads (s : State) (die vd : Nat) (w : Walk) : List Nat :=
  w.read.filter (fun ea => pkgOf ea == s.pkgnum.toNat && s.paOk ea && !(s.die die).walks.any (fun x => x.vd == vd && x.ea == ea))

/-- The slices serve a walk's reads; its requests have task priority 0 (R379; DESIGN CHOICE, log entry 90). -/
def State.walkTurn (s : State) (die vd : Nat) (w : Walk) : Bool := (s.walkReads die vd w).all (fun ea => s.sliceTurn ea vd 0)

/-- What a walk leaves: its reads are granted with eviction priority 0 (log entry 90), owned lines recalled (R208), the table entries cached,
the answers of peers used. -/
def State.afterWalk (s : State) (die vd : Nat) (w : Walk) : State :=
  let s := (s.walkReads die vd w).foldl (fun s ea => (s.recall 999 (ea / 128)).sliceGrant ea vd 0) s
  let s := s.keepWalks die w.kept
  { s with flights := s.flights.filter (fun f => !(w.read.contains f.key && (f.stage == .reply || f.stage == .err) &&
      (match f.agent with | some a => a.who == .walker die | none => false))) }

/-- Whether a request at its home slice, or at its port, may be performed now. -/
def State.mayPerform (s : State) (f : Flight) : Bool := s.ableAt f && (isSpad f.key || s.winsSlice f)

/-- The new value of an atomic (R214), on bits of its type. -/
def atomNew (op : AtomOp) (ty : Fmt) (o d : Nat) : Nat :=
  let w := ty.bits
  match op with
  | .swap => d
  | .cas => d
  | .add => if ty.isFloat then floatAdd (floatFmt ty) .rne false o d else (o + d) % 2 ^ w
  | .min => if ty.isFloat then floatMin (floatFmt ty) false o d else if intVal ty d < intVal ty o then d else o
  | .max => if ty.isFloat then floatMax (floatFmt ty) false o d else if intVal ty o < intVal ty d then d else o
  | .and => o &&& d
  | .or => o ||| d
  | .xor => o ^^^ d

/-- Whether an atomic writes: a failing CAS does not (R187, R215). -/
def atomWrites (op : AtomOp) (o cmp : Nat) : Bool := op != .cas || o == cmp

/-- The host adapter card forwards SWAP, CAS and integer ADD (R217). -/
def hostAtomOk (op : AtomOp) (ty : Fmt) : Bool :=
  match op with
  | .swap | .cas => true
  | .add => !ty.isFloat
  | _ => false

/-! #### Inkwells (R218 to R223) -/

/-- The inkwell of an address in its home's store, read from memory when absent; the least recently used is written back to
make room (R219). The reserved header bits of the memory image are taken as they stand (DESIGN CHOICE, log entry 85). -/
def State.inkFetch (s : State) (pa : Nat) : InkCell × State :=
  let h := s.homeKey pa
  let cells := s.inks.get [] h
  match cells.find? (fun c => c.pa == pa) with
  | some c => (c, s)
  | none =>
    let (cells, s) := if cells.length < Config.inkStore then (cells, s)
      else match cells with
        | [] => (cells, s)
        | v :: rest => (rest, s.write 999 v.pa (leBytes 8 v.header.toNat ++ leBytes 376 v.acc.toNat))
    let c : InkCell := { pa, header := BitVec.ofNat 64 (s.readLE pa 8), acc := BitVec.ofNat 3008 (s.readLE (pa + 8) 376) }
    (c, { s with inks := s.inks.set h (cells ++ [c]) })

/-- The inkwell as the most recently used of its store. -/
def State.inkPut (s : State) (c : InkCell) : State :=
  let h := s.homeKey c.pa
  { s with inks := s.inks.set h ((s.inks.get [] h).filter (fun x => x.pa != c.pa) ++ [c]) }

/-- INK.ADD (R221): bit 63 NAN, 62 PINF, 61 NINF, 60 OVF, [47:0] COUNT. -/
def InkCell.add (c : InkCell) (x : Num) : InkCell :=
  let c := match x with
    | .nan => { c with header := setField c.header 63 1 1 }
    | .inf false => { c with header := setField c.header 62 1 1 }
    | .inf true => { c with header := setField c.header 61 1 1 }
    | .fin neg m e => { c with acc := c.acc + BitVec.ofInt 3008 (signedAt neg m (e + 1080) 0) }
  if fieldOf c.header 0 48 = 2 ^ 48 - 1 then { c with header := setField c.header 60 1 1 }
  else { c with header := setField c.header 0 48 (fieldOf c.header 0 48 + 1) }

/-- INK.READ (R221). -/
def InkCell.read (c : InkCell) (ty : Fmt) : Nat :=
  if ty == .z64 then c.header.toNat
  else
    let x := floatFmt ty
    let pinf := c.header.getLsbD 62
    let ninf := c.header.getLsbD 61
    if c.header.getLsbD 63 || (pinf && ninf) then x.defaultNaN
    else if pinf then x.infinity false
    else if ninf then x.infinity true
    else if c.acc = 0 then 0
    else x.arith .rne false (.fin (decide (c.acc.toInt < 0)) c.acc.toInt.natAbs (-1080))

/-! #### The replay filter (R210) -/

/-- A performed write enters the filter, which keeps 256 tags of a source at a home. -/
def State.recordTag (s : State) (src home tag reply : Nat) : State :=
  let mine := s.replay.filter (fun t => t.src == src && t.home == home)
  let others := s.replay.filter (fun t => !(t.src == src && t.home == home))
  let mine := if mine.length < 256 then mine else mine.drop (mine.length - 255)
  { s with replay := others ++ mine ++ [{ src, home, tag, reply }] }

/-- The reply that the filter holds for a tag of a source, when it holds it. -/
def State.replayed (s : State) (src home tag : Nat) : Option Nat :=
  (s.replay.find? (fun t => t.src == src && t.home == home && t.tag == tag)).map (·.reply)

/-- A write that an agent performs at a home of this package within its own step takes the next tag of its source there (R210). -/
def State.tagWrite (s : State) (src pa : Nat) : State :=
  let home := s.homeKey pa
  let k := 4096 * src + home
  { s.recordTag src home (s.tags.get k).toNat 0 with tags := s.tags.set k (s.tags.get k + 1) }

/-- The answer to a request is lost on a link, and the request arrives again: the home finds its tag and answers as before (R210). -/
def State.resend (s : State) (id : Nat) : State :=
  match s.flight? id with
  | some f =>
    if (f.stage == .reply || f.stage == .ack) && f.tagged && !isSpad f.key then
      match s.replayed (s.flightSrc f) (s.homeKey f.key) f.tag with
      | some v => if f.stage == .reply then s.setFlight { f with value := v } else s
      | none => s
    else s
  | none => s

/-! #### The contention predictor (R208) -/

/-- The core takes a line into L1 as its owner; the atomic that took it is the first it serves. -/
def State.takeLine (s : State) (core pa ev : Nat) : State :=
  let s := s.fillL1 core pa ev (s.sendVec (s.homeOf pa).1) true
  s.setCore core { s.core core with l1 := (s.core core).l1.map (fun x => if x.line == pa / 128 then { x with served := 1 } else x) }

/-- A quiet atomic takes ownership of its line, unless its priority lets it allocate nothing (R161); an owned line counts the atomics it
serves (R208). The look-up makes the predictor's entry the most recently used. A watched atomic is always performed at its home
(R364). -/
def State.atomPlace (s : State) (core pa ev : Nat) (watch : Bool) : State :=
  let line := pa / 128
  let c := s.core core
  let s := if c.predictor.any (fun p => p.1 == line) then s.setCore core (c.setCounter line (c.counter line)) else s
  let c := s.core core
  if watch then s
  else match c.line pa with
    | some l =>
      if l.owned then
        let n := l.served + 1
        let c' := if n == 16 then c.setCounter line (c.counter line - 1) else c
        (s.setCore core { c' with l1 := c.l1.map (fun x => if x.line == line then { x with served := n % 16 } else x) }).touchL1 core pa ev
      else if c.counter line ≤ 1 then s.takeLine core pa ev else s
    | none => if c.counter line ≤ 1 && ev != 0 then s.takeLine core pa ev else s

/-! #### Performing at a scratchpad port -/

/-- The matrix engine of a core reads the granule that it waits for, once it is full (R299). -/
def State.engineSees (s : State) (key : Nat) : State :=
  let c := s.core (spadCore key)
  let m := c.matrix
  if isSpad key && m.await == some (key / 16) && s.isFull key then
    s.setCore (spadCore key) { c with matrix := { m with
      await := none, waited := 0, seen := m.seen ++ [(key / 16, s.readLE (key / 16 * 16) 16)] } }
  else s

/-- The waits of FEWAIT, CBWAIT and the matrix engine on a granule that the change of its bit satisfies (R231, R233, R299), and
those of WFE on its words (R368). -/
def State.satisfy (s : State) (key : Nat) : State :=
  let s := (s.engineSees key).wakeWfe (fun _ mask pa => mask.testBit 2 && isSpad pa && pa / 16 == key / 16)
  { s with flights := s.flights.map (fun (g : Flight) =>
      if g.stage == .waiting && g.key / 16 == key / 16 && isSpad g.key &&
          (match g.kind with | .fewait _ | .phase _ => s.feReady g | _ => false) then
        { g with stage := .reply, value := 0, vec := s.sendVec (spadCore key / 32) }
      else g) }

/-- A granule's bit changes, and the waits that every change satisfies end (R231). -/
def State.changeFe (s : State) (key : Nat) (full : Bool) : State :=
  if s.isFull key == full then s else (s.setFull key full).satisfy key

/-- The steps of an access at a scratchpad port (R168, R215). -/
def State.atPort (s : State) (f : Flight) : State :=
  let reply (s : State) (v : Nat) : State := s.setFlight { f with stage := .reply, value := v, vec := s.sendVec (spadCore f.key / 32) }
  let done (s : State) : State := s.setFlight { f with stage := .ack, vec := s.sendVec (spadCore f.key / 32) }
  match f.kind with
  | .load | .ldx | .lds | .line =>
    let v := s.readLE f.key f.bytes
    let s := if f.kind == .lds && f.qual == .two then s.changeFe f.key false else s
    reply s v
  | .store | .ntStore | .sts =>
    let s := s.storeSpad f.key (leBytes f.bytes f.data)
    let s := (if f.kind == .sts && f.qual != .plain then s.changeFe f.key true else s).satisfy f.key
    done s
  | .fewait _ | .phase _ => reply s 0
  | .pref => s.dropFlight f.id
  | .atom op ty cmp ret =>
    let o := s.readLE f.key f.bytes
    let s := if atomWrites op o cmp then (s.storeSpad f.key (leBytes f.bytes (atomNew op ty o f.data))).satisfy f.key else s
    if ret then reply s o else done s
  | .inkAdd _ | .inkRead _ | .inkClr => s.setFlight { f with stage := .err }

/-- The accesses that wait on a granule are served in their order, as long as its bit lets one: each fill one `.take` and the `.keep`s
ahead of it, each empty state one `.wfill` (R169). `fuel` bounds them by their number. -/
def State.serveGranule (s : State) (key : Nat) : Nat → State
  | 0 => s
  | n + 1 =>
    match s.flights.find? (fun g => g.stage == .waiting && isSpad g.key && g.key / 16 == key / 16 && !g.kind.feWaits && s.feServed g) with
    | some g => (s.atPort g).serveGranule key n
    | none => s

/-- The waits on a granule are served. -/
def State.serve (s : State) (key : Nat) : State :=
  s.serveGranule key (s.flights.filter (fun g => g.stage == .waiting && g.key / 16 == key / 16)).length

/-- A granule's bit changes, and what waits for the change is served in the same step (R169). -/
def State.setFe (s : State) (key : Nat) (full : Bool) : State := (s.changeFe key full).serve key

/-- An access is performed at a scratchpad port, and what waited for it is served. -/
def State.performSpad (s : State) (f : Flight) : State := (s.atPort f).serve f.key

/-! #### Performing at a home slice -/

/-- The access is refused at its home: an error response (R156, R165, R217, R219, R375, R389). The virtual device of a peer's request is one of
the peer's. -/
def State.paRefused (s : State) (f : Flight) : Bool :=
  let own := pkgOf f.key == s.pkgnum.toNat
  let host := s.region f.key == .host
  !s.paOk f.key || (!f.ofPeer && s.vdRefused (s.vdOf f) f.key) ||
    (match s.region f.key with
      | .edram d o => own && f.kind.writes && s.edramHeld d o
      | _ => false) ||
    (match f.kind with
      | .inkAdd _ | .inkRead _ | .inkClr => s.region f.key != .hbm
      | .atom op ty _ _ => host && !hostAtomOk op ty
      | _ => false)

/-- The copy of a line in a core's L1 is joined with a vector. -/
def State.noteVec (s : State) (core a : Nat) (vec : SMap 32) : State :=
  let c := s.core core
  if c.l1.any (fun l => l.line == a / 128) then
    s.setCore core { c with l1 := c.l1.map (fun l => if l.line == a / 128 then { l with vec := vecJoin l.vec vec } else l) }
  else s

/-- A plain store of a core is performed at its home (R189). Its own L1 has had it as it passed (R161), and the copy there is covered from now on
by what the home has sent (R194, R198). -/
def State.storeLine (s : State) (core a : Nat) (bs : List Byte) : State :=
  let s := ((s.recall core (a / 128)).storeBytes a bs).invalidate core (a / 128)
  (s.noteVec core a (s.homeVec a)).wakeWfe (fun _ mask pa => mask.testBit 2 && pa / 128 == a / 128)

/-- A request that writes enters the filter of its home slice, with its reply; a peer keeps the filters of its own (R210). -/
def State.noteTag (s : State) (f : Flight) (reply : Nat) : State :=
  if s.performsHere f && (s.replayed (s.flightSrc f) (s.homeKey f.key) f.tag).isNone then
    s.recordTag (s.flightSrc f) (s.homeKey f.key) f.tag reply
  else s

/-- An answer with a value, and one without. -/
def State.replyWith (s : State) (f : Flight) (v : Nat) : State := s.setFlight { f with stage := .reply, value := v, vec := s.homeVec f.key }
def State.ackWith (s : State) (f : Flight) : State := s.setFlight { f with stage := .ack, vec := s.homeVec f.key }

/-- The steps of an access at its home slice (R189, R196, R199, R215, R221). A line enters the L1 of a strand's core only. -/
def State.performHome (s : State) (f : Flight) : State :=
  let core := s.flightCore f
  let fill (s : State) : State := if f.mayHit && f.agent.isNone then s.fillL1 core f.key f.ev (s.homeVec f.key) false else s
  match f.kind with
  | .load | .ldx | .lds | .line | .fewait _ | .phase _ =>
    let v := s.ownBytes f (s.readLE f.key f.bytes)
    (fill s).replyWith f v
  | .pref => if f.agent.isNone then (fill s).dropFlight f.id else s.replyWith f (s.readLE f.key f.bytes)
  | .store | .ntStore | .sts => ((s.storeLine core f.key (leBytes f.bytes f.data)).noteTag f 0).ackWith f
  | .atom op ty cmp ret =>
    let o := s.readLE f.key f.bytes
    let s := if atomWrites op o cmp then s.write core f.key (leBytes f.bytes (atomNew op ty o f.data)) else s
    let s := if s.region f.key == .host || f.agent.isSome then s else s.atomPlace core f.key f.ev f.watch
    let s := s.noteTag f o
    if ret || f.agent.isSome then s.replyWith f o else s.ackWith f
  | .inkAdd ty =>
    let (c, s) := s.inkFetch f.key
    ((s.inkPut (c.add ((floatFmt ty).decode f.data))).noteTag f 0).ackWith f
  | .inkRead ty =>
    let (c, s) := s.inkFetch f.key
    ((s.inkPut c).noteTag f (c.read ty)).replyWith f (c.read ty)
  | .inkClr =>
    let (c, s) := s.inkFetch f.key
    ((s.inkPut { c with header := 0, acc := 0 }).noteTag f 0).ackWith f

/-- An error response to a request; a prefetch ends without one (R178). A store that is refused leaves nothing in the L1 that it has passed
(R165, R166). -/
def State.refuse (s : State) (f : Flight) : State :=
  if f.kind == .pref && f.agent.isNone then s.dropFlight f.id
  else
    let c := s.flightCore f
    let s := if f.passesL1 && f.sent then s.setCore c { s.core c with l1 := (s.core c).l1.filter (fun l => l.line != f.key / 128) } else s
    s.setFlight { f with stage := .err }

/-- A control-space access of a strand: a load of 64 bits that a supervisor strand may make, at the agent that orders it (R369, R370). -/
def State.performControl (s : State) (f : Flight) : State :=
  let vec := s.homeVec f.key
  if (f.kind == .load || f.kind == .ldx) && f.bytes == 8 && pkgOf f.key == s.pkgnum.toNat && s.csMayRead f.strand (within f.key) then
    match s.csRead (within f.key) with
    | .value w => s.setFlight { f with stage := .reply, value := w.toNat, vec }
    | .free => { s.setFlight { f with stage := .reply, value := (Config.freeWord s.free).toNat, vec } with free := s.free + 1 }
    | .nothing => s.setFlight { f with stage := .err }
  else s.refuse f

/-- An address that the requester's die decodes to nothing from its own configuration (R156). -/
def State.nowhere (s : State) (pa : Nat) : Bool :=
  if pkgOf pa == s.pkgnum.toNat then s.region pa != .control && !s.paOk pa
  else !s.holdsPkg (pkgOf pa)

/-- A scratchpad port takes an access, or refuses it (R154, R155, R360). -/
def State.portTakes (s : State) (f : Flight) : Option State :=
  s.spadAccess f.strand (s.strand f.strand).gang f.key f.bytes (apertureSel f.va != 0) f.kind.writes (s.isSup f.strand)

/-- A request is performed at its home (R189), or refused there. -/
def State.perform (s : State) (f : Flight) : State := if s.paRefused f then s.refuse f else s.performHome f

/-- The requests that go on as one: those of an entry or of a line access of a bin (R162, R163). -/
def State.mates (s : State) (f : Flight) : List Flight :=
  if f.entry == 0 then [f] else s.flights.filter (fun g => g.entry == f.entry && g.stage == f.stage)

/-- What an entry could not take along goes on as a request of its own (R190; log entry 63). -/
def State.leaveBehind (s : State) (f : Flight) : State :=
  let left := (s.mates f).filter (fun g => g.id != f.id || f.entry != 0)
  if f.entry == 0 || left.isEmpty then s
  else { s with nextId := s.nextId + 1,
                flights := s.flights.map (fun (g : Flight) => if g.entry == f.entry && g.stage == f.stage then { g with entry := s.nextId + 1 } else g) }

/-- The home answers a request whose tag its replay filter holds as it did before (R210); to an agent an atomic always answers with the old value. -/
def State.answerAgain (s : State) (f : Flight) (v : Nat) : State :=
  match f.kind with
  | .atom _ _ _ ret => if ret || f.agent.isSome then s.replyWith f v else s.ackWith f
  | .inkRead _ => s.replyWith f v
  | _ => s.ackWith f

/-- A home slice performs a request of one or more accesses of a line: one grant, one tag (R162, R163, R210, R378). What another access
still holds back goes as a request of its own. -/
def State.performGroup (s : State) (f : Flight) : State :=
  match (s.mates f).find? s.ableAt with
  | none => s
  | some h =>
    if !s.winsSlice h then s
    else
      let again := if h.tagged then s.replayed (s.flightSrc h) (s.homeKey h.key) h.tag else none
      let s := if again.isSome || s.paRefused h then s else s.sliceGrant h.key (s.vdOf h) h.ev
      ((s.mates f).foldl (fun s g => match s.flight? g.id with
        | some x => if x.stage == .queued && s.ableAt x then (match again with | some v => s.answerAgain x v | none => s.perform x) else s
        | none => s) s).leaveBehind f

/-! ### Answers -/

/-- A little-endian value extended to its registers (R44, R173). -/
def extendLoad (bytes : Nat) (sx : Bool) (v : Nat) : Nat :=
  if sx then
    match bytes with
    | 1 => intBits 64 (intVal .s8 v)
    | 2 => intBits 64 (intVal .s16 v)
    | 4 => intBits 64 (intVal .s32 v)
    | _ => v
  else v

/-- A strand acquires at a scope (R199): at domain and system scope the lines homed on other packages leave L1. -/
def State.acquireAt (s : State) (k : Nat) (sc : Scope) : State :=
  if 6 ≤ sc.num then
    let c := (s.strand k).core
    s.setCore c { s.core c with l1 := (s.core c).l1.filter (fun l => pkgOf (128 * l.line) == s.pkgnum.toNat) }
  else s

/-- The value enters the register of its destination (R174). A scalar load kept the copies that earlier runs read when it issued
(R77, log entry 11). -/
def Strand.deliver (t : Strand) (f : Flight) (v : Nat) : Strand :=
  match f.dest with
  | .none => t
  | .s r =>
    if f.kind == .load then (t.keepLate r).putS r (BitVec.ofNat 64 (extendLoad f.bytes f.sx v))
    else t.writeS r (BitVec.ofNat 64 v)
  | .v r n =>
    if f.kind == .line then
      (List.range 32).foldl (fun t i => if f.data.testBit i then t.putV r.toNat i (BitVec.ofNat 32 (v / 2 ^ (32 * i))) else t) t
    else t.putVs r.toNat f.thread n (extendLoad f.bytes f.sx v)

/-- A reply of a peer package's memory, which carries no vector, supersedes the copy of its line that the core holds (R189, R198, log
entry 65). -/
def State.supersede (s : State) (f : Flight) : State :=
  if isSpad f.key || pkgOf f.key == s.pkgnum.toNat || f.mayHit then s
  else
    let c := s.flightCore f
    s.setCore c { s.core c with l1 := (s.core c).l1.filter (fun l => l.line != f.key / 128) }

/-- The other accesses of an instruction are still to bind (R177, R192). -/
def State.instOpen (s : State) (f : Flight) : Bool :=
  s.flights.any (fun g => g.strand == f.strand && g.lane == f.lane && g.inst == f.inst && g.orphan == f.orphan && g.unbound)

/-- A reply reaches its strand (R198, R199, R215); an acquire takes effect with the last reply of its instruction (R177). The reply to a
strand that has ended is discarded (R211); a watched atomic of it is reported (R364). -/
def State.reply (s : State) (f : Flight) : State :=
  let s := s.dropFlight f.id
  if f.orphan then (let s := s.keepVec (s.strand f.strand).gang f.vec; if f.watch then s.reportEnded f else s)
  else
    let t := s.strand f.strand
    let t := { t.deliver f (if f.kind.feWaits then 0 else f.value) with replyVec := vecJoin t.replyVec f.vec }
    let t := match f.kind, f.dest, t.wait with
      | .fewait _, .s _, .port _ => { t.advance with wait := .none }
      | .phase _, .s _, .port _ => { t.advance with wait := .none }
      | _, _, _ => t
    let s := (s.setStrand f.strand t).supersede f
    let s := if f.ord.isAcq && !s.instOpen f then s.acquireAt f.strand f.scope else s
    if f.watch then s.reportWatch f.strand wpAt f.va f.bytes f.pc (watchReport f.va) else s

/-- An acknowledgement reaches its strand, with the vector of the home, whose invalidations were sent before it (R200). -/
def State.acknowledge (s : State) (f : Flight) : State :=
  let s := s.dropFlight f.id
  if f.orphan then (let s := s.keepVec (s.strand f.strand).gang f.vec; if f.watch then s.reportEnded f else s)
  else
    let t := s.strand f.strand
    let s := s.setStrand f.strand { t with ackVec := vecJoin t.ackVec f.vec }
    if f.watch then s.reportWatch f.strand wpAt f.va f.bytes f.pc (watchReport f.va) else s

/-- An error response reaches its strand: a load's destination takes zero, the address is logged, with WR where Check needed W (R352), ERRRESP
becomes pending (R11, R184, R355); CBWAIT takes ERROR in rd instead (R231). The instruction's acquire takes effect with its last answer (R199). -/
def State.errorReply (s : State) (f : Flight) : State :=
  let s := s.dropFlight f.id
  let s := s.logError f.strand f.va f.pc f.kind.writes false (if !f.lane then 0 else if f.kind == .line then BitVec.ofNat 32 f.data else threadSet [f.thread])
  let s := if !f.orphan && f.ord.isAcq && !s.instOpen f then s.acquireAt f.strand f.scope else s
  let t := s.strand f.strand
  if f.orphan then s
  else if t.wait != .none && !f.lane && (match f.kind with | .fewait _ | .phase _ => true | _ => false) then
    match f.dest with
    | .s d => s.setStrand f.strand { (t.writeS d 3).advance with wait := .none }
    | _ => s
  else
    let s := s.setStrand f.strand ((s.strand f.strand).deliver f 0)
    s.pendCause f.strand { watchReport f.va with code := cErrResp }

/-! ### What instructions wait for -/

/-- The accesses of a strand that precede an instruction of one of its streams (R74, R188). -/
def State.earlier (s : State) (k : Nat) (lane : Bool) : List Flight :=
  s.flights.filter (fun f => f.strand == k && !f.orphan && (f.lane == lane || (lane && f.inst ≤ (s.strand k).runBound)))

/-- LDRAIN's conditions (R78): the queue is empty, and every lane access has been performed and its loads returned. -/
def State.drained (s : State) (k : Nat) : Bool :=
  (s.strand k).runs.isEmpty && !s.flights.any (fun f => f.strand == k && f.lane && !f.orphan && f.kind != .pref)

/-- The release part of a fence or instruction holds (R200). -/
def State.releaseReady (s : State) (k : Nat) (lane : Bool) (sc : Scope) : Bool :=
  (s.earlier k lane).all (fun f => f.releasedAt sc)

/-- The acquire part of a fence (R193, R212): every earlier load has bound, and at cluster scope or wider the die has applied what the
replies cover. -/
def State.acquireReady (s : State) (k : Nat) (lane : Bool) (sc : Scope) : Bool :=
  (s.earlier k lane).all (fun f => !f.unbound) &&
    (sc.num ≤ 2 || vecCovers (s.die (s.strand k).die).vc (s.strand k).replyVec)

/-- Every earlier store is performed with respect to every strand in a scope: at gang and core scope it has left the banks (R200), and
the core's loads observe it; wider, the invalidations of the core's writes have been applied (R193). -/
def State.storesSeen (s : State) (k : Nat) (sc : Scope) : Bool :=
  let t := s.strand k
  (sc.num ≤ 2 || s.dies.all (fun d => (sc.num ≤ 4 && d.1 != t.die) || !d.2.invals.any (fun m => m.core == t.core)))

/-- The conditions of FENCE and SFENCE (R193, R212). -/
def State.fenceReady (s : State) (k : Nat) (lane : Bool) (o : Ord) (sc : Scope) : Bool :=
  match o with
  | .rlx => true
  | .acq => s.acquireReady k lane sc
  | .rel => s.releaseReady k lane sc
  | .acqrel => s.acquireReady k lane sc && s.releaseReady k lane sc && s.storesSeen k sc

/-- A step at the home of an address sees, and carries on, what the strand has seen and released (R198). -/
def State.homeReady (s : State) (k pa : Nat) : Bool :=
  pkgOf pa != s.pkgnum.toNat || vecCovers (s.sendVec (s.homeOf pa).1) (s.strandVec k)

/-- The strand has the answer of a step at the home of an address. -/
def State.sawHome (s : State) (k pa : Nat) : State :=
  s.setStrand k { s.strand k with replyVec := vecJoin (s.strand k).replyVec (s.homeVec pa) }

end Sys2Proof.Machine
end

