-- ==== Sys2Proof/Machine/Tags.lean ====
section
/-! DEFINITION. The scalarisation unit: the tags of v registers (R96, R98), and which instructions it executes (R97). Tags are no state
that a program can read; they decide issue cycles (R91) and how addresses enter the coalescing window (R162). -/

namespace Sys2Proof

/-- The v registers that a lane instruction writes: first and number. -/
def Instr.laneDest : Instr → List (Nat × Nat)
  | .laneAddInt r | .laneSubInt r | .laneMulInt r | .laneMulh r | .laneMad r | .laneMinInt r | .laneMaxInt r | .laneAbsInt r
  | .laneNegInt r | .laneShl r | .laneShr r | .laneSar r | .laneAnd r | .laneOr r | .laneXor r | .laneNot r | .lanePopc r
  | .laneClz r | .laneBrev r | .laneSel r | .laneMov r | .laneAddFloat r | .laneSubFloat r | .laneMulFloat r | .laneFma r
  | .laneMinFloat r | .laneMaxFloat r | .laneSqrte r | .laneRcpe r | .laneRsqrte r | .laneAbsFloat r | .laneNegFloat r => [(r.d.toNat, r.ty.regs)]
  | .cvt r => r.cvtRegs.take 1
  | .qnt r | .dqnt r | .bscale r => [(r.d.toNat, 1)]
  | .shfl _ _ r | .scan _ _ r => [(r.d.toNat, r.ty.regs)]
  | .gatherv _ r | .vote _ r | .ballot r => [(r.d.toNat, 1)]
  | .intersect r => [(r.d.toNat, 2)]
  | .ld r | .lds r | .ldx r => [(r.d.toNat, r.width.regs)]
  | .ldl r => [(r.d.toNat, 1)]
  | .atom r => [(r.d.toNat, r.ty.regs)]
  | .inkRead r => [(r.d.toNat, r.ty.regs)]
  | .qpush r => [(r.d.toNat, 1)]
  | .qpop r => [(r.d.toNat, 1), (r.d.toNat + r.width.regs, r.width.regs)]
  | .spawnv r => [(r.d.toNat, 1)]
  | .drain r => [(r.d.toNat, if r.fmt == .f64 then 2 else 1)]
  | _ => []

/-- The types in which sums, products and negations of affine values are affine (R97). -/
def Fmt.isLinear : Fmt → Bool
  | .s32 | .z32 | .s64 | .z64 => true
  | _ => false

/-- The source of the offset of a lane access. -/
def Instr.offsetSrc : Instr → Src
  | .ld r | .ldl r | .ldx r | .lds r | .st r | .stNt r | .sts r | .pref r => r.off
  | _ => .special .nest

end Sys2Proof

namespace Sys2Proof.Machine

open Sys2Proof

/-- Not general. -/
def Tag.flat : Tag → Bool
  | .general => false
  | _ => true

/-- The tag of a source of n registers (R96): an affine value of stride 0 counts as uniform. A register of an affine pair alone, and a pair of
registers that were not written as one and are not both uniform, are general (DESIGN CHOICE, log entry 100). -/
def Strand.tagOf (t : Strand) (n : Nat) : Src → Tag
  | .v r =>
    let a := t.tags.get .uniform r.toNat
    if n != 1 && a != t.tags.get .uniform (r.toNat + 1) then .general
    else match a with
      | .affine m => if m != n then .general
        else if (List.range n).all (fun i => t.v (r.toNat + i) 0 == t.v (r.toNat + i) 1) then .uniform else .affine n
      | x => x
  | .special .nest => .general
  | .special .tid => .affine n
  | _ => .uniform

/-- A sum of values: uniform where all are, affine in the types that allow it. -/
def sumTag (ty : Fmt) (ts : List Tag) : Tag :=
  if ts.all (· == .uniform) then .uniform else if ty.isLinear && ts.all Tag.flat then .affine ty.regs else .general

/-- A product of two values: affine where one is, and the other uniform. -/
def productTag (ty : Fmt) (a b : Tag) : Tag := if a == .uniform || b == .uniform then sumTag ty [a, b] else .general

/-- Uniform where every source is. -/
def uniformTag (ts : List Tag) : Tag := if ts.all (· == .uniform) then .uniform else .general

/-- The tag that R97 gives the result of an instruction that all 32 threads execute; general where it is not scalarised. For SHFL the conditions are
those of R121. -/
def Strand.resultTag (t : Strand) : Instr → Tag
  | .laneAddInt r | .laneSubInt r => if r.sat then .general else sumTag r.ty [t.tagOf r.ty.regs r.a, t.tagOf r.ty.regs r.b]
  | .laneMulInt r => if r.sat then .general else productTag r.ty (t.tagOf r.ty.regs r.a) (t.tagOf r.ty.regs r.b)
  | .laneMad r => if r.sat then .general
    else sumTag r.ty [productTag r.ty (t.tagOf r.ty.regs r.a) (t.tagOf r.ty.regs r.b), t.tagOf r.ty.regs r.c]
  | .laneShl r =>
    let a := t.tagOf r.ty.regs r.a
    if r.sat || t.tagOf r.ty.regs r.b != .uniform then .general else if r.ty == .z32 || r.ty == .z64 then a else uniformTag [a]
  | .laneMov r =>
    let a := t.tagOf r.ty.regs r.a
    if r.sat then .general else if r.ty == .z32 || r.ty == .z64 then a else uniformTag [a]
  | .laneNegInt r =>
    let a := t.tagOf r.ty.regs r.a
    if r.sat then .general else if r.ty == .s32 || r.ty == .s64 then a else uniformTag [a]
  | .laneMulh r | .laneMinInt r | .laneMaxInt r | .laneShr r | .laneSar r | .laneAnd r | .laneOr r | .laneXor r | .laneAddFloat r
  | .laneSubFloat r | .laneMulFloat r | .laneMinFloat r | .laneMaxFloat r =>
    if r.sat then .general else uniformTag [t.tagOf r.ty.regs r.a, t.tagOf r.ty.regs r.b]
  | .laneSel r | .laneFma r => if r.sat then .general else uniformTag ([r.a, r.b, r.c].map (t.tagOf r.ty.regs))
  | .laneAbsInt r | .laneNot r | .lanePopc r | .laneClz r | .laneBrev r | .laneSqrte r | .laneRcpe r | .laneRsqrte r
  | .laneAbsFloat r | .laneNegFloat r => if r.sat then .general else uniformTag [t.tagOf r.ty.regs r.a]
  | .laneCmpInt r | .laneCmpFloat r =>
    if (t.tagOf r.ty.regs r.a).flat && (t.tagOf r.ty.regs r.b).flat then .uniform else .general
  | .cvt r => if r.rm == .sr then .general
    else uniformTag [t.tagOf (if r.nf.is64 || (r.ty.isPaired && r.nf == .f32) then 2 else 1) r.a]
  | .qnt r => if r.rm == .sr then .general else uniformTag (t.tagOf 1 r.a :: t.tagOf 1 r.b :: if r.nf == .n4 then [t.tagOf 1 r.c] else [])
  | .dqnt r => if r.rm == .sr then .general
    else uniformTag (t.tagOf 1 r.a :: (if r.nf == .k8 || r.nf == .n4 then [t.tagOf 1 r.b] else []) ++ (if r.nf == .n4 then [t.tagOf 1 r.c] else []))
  | .bscale r => uniformTag [t.tagOf 1 r.a]
  | .shfl mode zf r => if zf && mode == .slide then .general else uniformTag [t.tagOf r.ty.regs r.a]
  | .vote _ r | .ballot r => uniformTag [t.tagOf r.ty.regs r.a]
  | _ => .general

/-- The scalarisation unit executes an instruction whose executing set is x (R97). -/
def Strand.scalarises (t : Strand) (x : W32) (i : Instr) : Bool := x == 0xFFFFFFFF && (t.resultTag i).flat

/-- The tags that the registers an instruction writes take (R98, R146). -/
def Strand.newTags (t : Strand) (x : W32) (i : Instr) : List (Nat × Tag) :=
  let all := x == 0xFFFFFFFF
  let over32 : Tag := if all then .uniform else .general
  match i with
  | .vote _ r | .ballot r => [(r.d.toNat, over32)]
  | .bscale r => [(r.d.toNat, over32)]
  | .intersect r => [(r.d.toNat, .general), (r.d.toNat + 1, over32)]
  | _ => (i.laneDest.map (fun r => (List.range r.2).map (fun j => (r.1 + j, if all then t.resultTag i else .general)))).flatten

end Sys2Proof.Machine
end

