-- ==== Sys2Proof/Machine/Issue.lean ====
section
/-! DEFINITION. Issue: the bytes of the next instruction, the scoreboard, and what a strand does in its turn (R59, R76, R77,
R91, R93, R117, R185, R340, R341, R347, R364, R396); time passing (R28, R85, R372). -/

namespace Sys2Proof

/-! ### The registers of an instruction -/

/-- Scalar registers that a scalar instruction reads. -/
def Instr.sReads : Instr → List SReg
  | .add _ a b | .sub _ a b | .and _ a b | .or _ a b | .xor _ a b | .shl _ a b | .shr _ a b | .sar _ a b | .mul _ a b
  | .mulh _ a b | .mulhu _ a b | .min _ a b | .max _ a b | .minu _ a b | .maxu _ a b | .slt _ a b | .sltu _ a b => [a, b]
  | .clz _ a | .popc _ a | .addi _ a _ | .andi _ a _ | .ori _ a _ | .xori _ a _ | .slti _ a _ | .sltiu _ a _ | .shli _ a _
  | .shri _ a _ | .sari _ a _ | .muli _ a _ | .jalr _ a _ | .ldb _ a _ | .ldh _ a _ | .ldw _ a _ | .ldd _ a _ | .ldbs _ a _
  | .ldhs _ a _ | .ldws _ a _ => [a]
  | .lhi d _ => [d]
  | .beq a b _ | .bne a b _ | .blt a b _ | .bge a b _ | .bltu a b _ | .bgeu a b _ => [a, b]
  | .stb d a _ | .sth d a _ | .stw d a _ | .std d a _ => [d, a]
  | .bar _ a | .arrive _ a | .lock _ a | .unlock a | .join _ a | .leave _ a => [a]
  | .arriveCb a b | .cbwait _ a b | .msend _ a b | .mrecv _ a b | .lrunr a b => [a, b]
  | .mtc a _ => [a]
  | .haltInPlace _ a b | .haltRelease _ a b | .haltAndSuspend _ a b | .wfe _ a b | .resumeRestart _ a b | .resumePage _ a b
  | .resumeDeliverFault _ a b | .resumeFailTask _ a b | .csave _ a b | .crstr _ a b => [a, b]
  | .chart _ a b => [a, b]
  | .chartFree _ b => [b]
  | .wload _ a b | .mma _ a b | .mmaNs _ a b | .mmaBm _ a b | .tcopy _ a b | .gcopy _ a b => [a, b]
  | .mzero _ a => [a]
  | .spawn _ a b | .nodeput _ a b | .ffill _ a b => [a, b]
  | .ffillCancel _ a | .fwait _ a | .fwaitNb _ a | .fget _ a | .cancelJob _ a | .prio _ a => [a]
  | .tdone a => [a]
  | _ => []

/-- The scalar register that a scalar instruction writes. -/
def Instr.sDest : Instr → Option SReg
  | .add d _ _ | .sub d _ _ | .and d _ _ | .or d _ _ | .xor d _ _ | .shl d _ _ | .shr d _ _ | .sar d _ _ | .mul d _ _
  | .mulh d _ _ | .mulhu d _ _ | .min d _ _ | .max d _ _ | .minu d _ _ | .maxu d _ _ | .slt d _ _ | .sltu d _ _ => some d
  | .clz d _ | .popc d _ | .addi d _ _ | .andi d _ _ | .ori d _ _ | .xori d _ _ | .slti d _ _ | .sltiu d _ _ | .shli d _ _
  | .shri d _ _ | .sari d _ _ | .muli d _ _ | .jalr d _ _ | .ldb d _ _ | .ldh d _ _ | .ldw d _ _ | .ldd d _ _ | .ldbs d _ _
  | .ldhs d _ _ | .ldws d _ _ => some d
  | .lui d _ | .addpc d _ | .lhi d _ | .jal d _ => some d
  | .bar d _ | .arrive d _ | .lock d _ | .join d _ | .leave d _ => some d
  | .cbwait d _ _ | .msend d _ _ | .mrecv d _ _ => some d
  | .mfc d _ => some d
  | .haltInPlace d _ _ | .haltRelease d _ _ | .haltAndSuspend d _ _ | .wfe d _ _ | .resumeRestart d _ _ | .resumePage d _ _
  | .resumeDeliverFault d _ _ | .resumeFailTask d _ _ | .csave d _ _ | .crstr d _ _ => some d
  | .chart d _ _ | .chartFree d _ | .wload d _ _ | .mma d _ _ | .mmaNs d _ _ | .mmaBm d _ _ | .tcopy d _ _ | .gcopy d _ _ => some d
  | .mzero d _ | .mwait d | .cwait d => some d
  | .spawn d _ _ | .nodeput d _ _ | .ffill d _ _ => some d
  | .ffillCancel d _ | .fwait d _ | .fwaitNb d _ | .fget d _ | .cancelJob d _ | .prio d _ => some d
  | .cancel d => some d
  | _ => none

/-- Kinds of operands of a lane instruction: its v registers, its s registers, its mask. -/
structure LaneUse where
  v : List (Nat × Nat)
  s : List SReg
  m : Mask
  deriving DecidableEq, Repr

/-- The s registers among some sources. -/
def sOf (l : List Src) : List SReg :=
  l.filterMap (fun a => match a with | .s r => some r | _ => none)

def Arith.use (r : Arith) (n : Nat) : LaneUse := { v := r.vregs n, s := sOf ([r.a, r.b, r.c].take n), m := r.m }
def Cmp.use (r : Cmp) : LaneUse := { v := r.vregs, s := sOf [r.a, r.b], m := r.m }
def Conv.use (r : Conv) (v : List (Nat × Nat)) : LaneUse := { v, s := sOf [r.a, r.b, r.c], m := r.m }
def Cross.vregs (r : Cross) (useB : Bool) (dn bn : Nat) : List (Nat × Nat) :=
  (r.d.toNat, dn) :: srcRegs r.ty.regs r.a ++ (if useB then srcRegs bn r.b else [])
def Cross.use (r : Cross) (useB : Bool) (dn bn : Nat) : LaneUse := { v := r.vregs useB dn bn, s := sOf [r.a, r.b], m := r.m }
def LaneMem.use (r : LaneMem) (reads writes : Bool) : LaneUse :=
  { v := r.vregs reads writes, s := r.base :: sOf [r.off, r.data], m := r.m }
def Atomic.use (r : Atomic) (ret : Bool) : LaneUse := { v := r.vregs ret, s := r.base :: sOf [r.off, r.data], m := r.m }
def Ink.use (r : Ink) (reads writes : Bool) : LaneUse := { v := r.vregs reads writes, s := r.base :: sOf [r.off, r.data], m := r.m }
def noMask : Mask := { k := 0, ks := false }

/-- DRAIN's destination (R312). -/
def Drain.vregs (r : Drain) : List (Nat × Nat) := [(r.d.toNat, if r.fmt == .f64 then 2 else 1)]
def SpawnV.vregs (r : SpawnV) : List (Nat × Nat) := (r.d.toNat, 1) :: srcRegs 1 r.handle
def Feed.vregs (r : Feed) : List (Nat × Nat) := srcRegs 1 r.a
def FeWait.vregs (r : FeWait) : List (Nat × Nat) := srcRegs 1 r.off

/-- What a lane instruction names. -/
def Instr.laneUse : Instr → LaneUse
  | .laneAddInt r | .laneSubInt r | .laneMulInt r | .laneMulh r | .laneMinInt r | .laneMaxInt r | .laneShl r | .laneShr r
  | .laneSar r | .laneAnd r | .laneOr r | .laneXor r | .laneAddFloat r | .laneSubFloat r | .laneMulFloat r | .laneMinFloat r
  | .laneMaxFloat r => r.use 2
  | .laneMad r | .laneSel r | .laneFma r => r.use 3
  | .laneAbsInt r | .laneNegInt r | .laneNot r | .lanePopc r | .laneClz r | .laneBrev r | .laneMov r | .laneSqrte r
  | .laneRcpe r | .laneRsqrte r | .laneAbsFloat r | .laneNegFloat r => r.use 1
  | .laneCmpInt r | .laneCmpFloat r => r.use
  | .cvt r => r.use r.cvtRegs
  | .qnt r => r.use (r.blockRegs true (r.nf == .n4))
  | .dqnt r => r.use (r.blockRegs (r.nf == .k8 || r.nf == .n4) (r.nf == .n4))
  | .bscale r => r.use (r.blockRegs (r.nf == .n4) false)
  | .shfl _ _ r => r.use true r.ty.regs r.ty.regs
  | .gatherv _ r => r.use true 1 1
  | .vote _ r => r.use false 1 1
  | .ballot r => r.use false 1 1
  | .scan _ _ r => r.use false r.ty.regs 1
  | .intersect r => r.use true 2 1
  | .ld r | .ldl r | .ldx r | .lds r => r.use true false
  | .st r | .stNt r | .sts r => r.use false true
  | .pref r => r.use false false
  | .tlbsync r => { v := [], s := [r.base, r.data], m := r.m }
  | .fence _ _ _ m => { v := [], s := [], m }
  | .atom r => r.use true
  | .red r => r.use false
  | .inkAdd r => r.use false true
  | .inkRead r => r.use true false
  | .inkClr r => r.use false false
  | .qpush r => { v := r.vregs false, s := sOf [r.data], m := r.m }
  | .qpop r => { v := r.vregs true, s := [], m := r.m }
  | .fewait r => { v := r.vregs, s := r.base :: sOf [r.off], m := r.m }
  | .spawnv r => { v := r.vregs, s := r.tmpl :: sOf [r.handle], m := r.m }
  | .feed r => { v := r.vregs, s := sOf [r.a], m := r.m }
  | .drain r => { v := r.vregs, s := [], m := r.m }
  | _ => { v := [], s := [], m := noMask }

/-- Held back while a watched atomic's reply is outstanding (R364): release, FENCE, LDRAIN, ATOM, RED, INK, engine commands. -/
def Instr.watchGate : Instr → Bool
  | .fence _ _ _ _ | .atom _ | .red _ | .inkAdd _ | .inkRead _ | .inkClr _ | .ldrain | .sfence _ _ | .chart _ _ _ | .chartFree _ _
  | .wload _ _ _ | .mma _ _ _ | .mmaNs _ _ _ | .mmaBm _ _ _ | .mzero _ _ | .mwait _ | .tcopy _ _ _ | .gcopy _ _ _ | .cwait _
  | .unlock _ | .arrive _ _ | .arriveCb _ _ | .bar _ _ | .msend _ _ _ | .qpush _ => true
  | .st r | .sts r | .stNt r => r.ord.isRel
  | _ => false

/-- The control class, which the scalarisation unit executes whatever threads are active (R91). -/
def Instr.control : Instr → Bool
  | .ifm _ | .elsem | .endif | .loop _ | .endloop _ | .brk _ | .cont _ => true
  | _ => false

/-- Executed by the scalarisation unit or once for the strand: one issue cycle (R91, R175, R179, R212). -/
def Instr.once (i : Instr) : Bool :=
  i.control || match i with
    | .ldl _ | .tlbsync _ | .fence _ _ _ _ => true
    | _ => false

/-- Cross-thread instructions (R120). -/
def Instr.crossThread : Instr → Bool
  | .shfl _ _ _ | .gatherv _ _ | .vote _ _ | .ballot _ | .scan _ _ _ | .intersect _ => true
  | _ => false

/-- Issue cycles of each executing thread: more than one for float SCAN with ADD (R125). -/
def Instr.cyclesEach : Instr → Nat
  | .scan .add _ r => if r.ty == .f32 then 4 else if r.ty == .f64 then 6 else 1
  | _ => 1

end Sys2Proof

namespace Sys2Proof.Machine

open Sys2Proof

/-! ### The scoreboard (R59, R93) -/

/-- A scalar register is owed a value by a scalar request in flight. -/
def State.owesS (s : State) (k : Nat) (r : SReg) (bound : Nat) : Bool :=
  s.flights.any (fun f => f.strand == k && !f.orphan && !f.lane && f.dest == .s r && f.inst ≤ bound)

/-- Some of `n` v registers from r is owed a value in a thread of x. -/
def State.owesV (s : State) (k : Nat) (x : W32) (r n : Nat) : Bool :=
  s.flights.any (fun f => f.strand == k && !f.orphan &&
    match f.dest with
    | .v d m => d.toNat < r + n && r < d.toNat + m && (if f.kind == .line then x &&& BitVec.ofNat 32 f.data != 0 else x.getLsbD f.thread)
    | _ => false)

/-- A watched atomic's reply is outstanding (R364). -/
def State.watchOwed (s : State) (k : Nat) : Bool := s.flights.any (fun f => f.strand == k && f.watch && !f.orphan)

/-- A scalar instruction may issue: its registers are ready, a spare copy is free where it needs one (R59, R77). A YIELD whose gang's
deadline has expired before does not commit until the expiry has been taken (R89). -/
def State.scalarReady (s : State) (k : Nat) (i : Instr) : Bool :=
  let t := s.strand k
  (i.sReads ++ i.sDest.toList).all (fun r => !s.owesS k r t.accs) &&
    (i.sDest.isNone || t.runs.isEmpty || s.copiesUsed t.core < Config.spareCopies) &&
    !(i.watchGate && s.watchOwed k) && !(i == .yield && (s.gangOf k).due == 2)

/-- A lane instruction that no thread executes and that has no scalarised effect is passed over, and claims no issue slot (R91, R120, R212). -/
def Strand.passesOver (t : Strand) (i : Instr) : Bool := !i.control && t.execSet i.laneUse.m == 0

/-- The threads in which an instruction's registers must be readable: those that execute it, or for a cross-thread instruction all
(R93, R120); one that is passed over reads none. -/
def Strand.mustRead (t : Strand) (i : Instr) : W32 :=
  if t.passesOver i then 0 else if i.crossThread then 0xFFFFFFFF else t.execSet i.laneUse.m

/-- A lane instruction may issue (R93): its v registers are ready, and an s register always is. A FEWAIT holds the next instruction until
all its threads are satisfied (R233), an LDX whose elements wait for a place holds it too (R163). -/
def State.laneReady (s : State) (k : Nat) (i : Instr) : Bool :=
  let t := s.strand k
  i.laneUse.v.all (fun r => !s.owesV k (t.mustRead i) r.1 r.2) &&
    !s.flights.any (fun f => f.strand == k && !f.orphan && f.lane &&
      ((match f.kind with | .fewait _ => true | _ => false) || (f.kind == .ldx && f.stage == .held))) &&
    !(i.watchGate && !t.passesOver i && s.watchOwed k)

/-! ### Fetch (R5, R47, R117, R185, R396) -/

/-- The line of an instruction cache. -/
def iLine (ls : List ILine) (vd : Nat) (va : W64) : Option ILine := ls.find? (fun l => l.vd == vd && l.line == va.toNat / 128)

/-- n bytes at an address from a cache line. -/
def ILine.at (l : ILine) (va : W64) (n : Nat) : Nat := leNat ((l.bytes.drop (va.toNat % 128)).take n)

/-- The innermost open loop's body is short enough for the loop buffer (R117). -/
def Strand.buffers (t : Strand) : Bool :=
  match t.stack.find? (fun c => c.isLoop) with
  | some (.loopE _ imm) => imm.toNat ≤ 41
  | _ => false

/-- What a fetch finds. -/
inductive Fetched where
  /-- the line is not there: its arrival is awaited -/
  | absent
  /-- a lane slot of a sheet whose word at offset 60 is not zero (R47) -/
  | badSheet (w : Nat)
  | word (w : Nat)
  deriving DecidableEq, Repr

def State.fetchScalar (s : State) (k : Nat) : Fetched :=
  let t := s.strand k
  match iLine (s.core t.core).icS (s.gangOf k).vd t.pc with
  | some l => .word (l.at t.pc 4)
  | none => .absent

def State.fetchLane (s : State) (k : Nat) : Fetched :=
  let t := s.strand k
  match t.loopBuf.find? (fun e => e.1 == t.lanePc.toNat) with
  | some e => .word e.2.toNat
  | none =>
    match iLine (s.core t.core).icL (s.gangOf k).vd t.lanePc with
    | some l =>
      if l.at (BitVec.ofNat 64 (t.lanePc.toNat / 64 * 64 + 60)) 4 != 0 then .badSheet (l.at t.lanePc 12) else .word (l.at t.lanePc 12)
    | none => .absent

/-- The loop buffer keeps a slot of the innermost loop (R117). -/
def Strand.keepSlot (t : Strand) (w : Nat) : Strand :=
  if t.buffers && !t.loopBuf.any (fun e => e.1 == t.lanePc.toNat) then
    { t with loopBuf := t.loopBuf ++ [(t.lanePc.toNat, BitVec.ofNat 96 w)] }
  else t

/-- The loop buffer of a lane holds the loop of the strand that issues; those of its other strands leave it (R19, R117). -/
def State.keepLoop (s : State) (k w : Nat) : State :=
  let t := s.strand k
  let s := if !t.buffers then s else
    { s with strands := s.strands.map (fun (c : Nat × Strand) =>
        if c.1 != k && c.2.core == t.core && c.2.lane == t.lane then (c.1, { c.2 with loopBuf := [] }) else c) }
  s.setStrand k (t.keepSlot w)

/-! ### A strand's turn -/

/-- What a strand does in its turn. -/
inductive Choice where
  /-- executes an instruction at a state -/
  | run (i : Instr) (s : State)
  /-- no instruction issues -/
  | rest (s : State)
  /-- there is no such strand -/
  | absent
  deriving DecidableEq, Repr

/-- The gang of a strand is on its core and not stopped, the strand is not parked on a fault (R350, R356, R365), and the clock runs
(R386). -/
def State.mayIssue (s : State) (k : Nat) : Bool :=
  let g := s.gangOf k
  g.place == .resident && !g.halted && (s.strand k).parked.isNone && s.clockOn (s.strand k).core

/-- No wait holds a stream but one whose instruction tests for its end in its turns. -/
def Wait.idle : Wait → Bool
  | .none | .walked _ | .mwait _ | .cwait | .fence => true
  | _ => false

/-- A blocked QPOP parks its strand (R240). -/
def Wait.pops : Wait → Bool
  | .queue _ _ pop => pop
  | _ => false

/-- The executing set that R338 names for an illegal encoding, from its mask field, which selects no threads in the control class
(R45); when it is executed again, within the threads still to be executed (R347). -/
def Strand.rawSet (t : Strand) (w : Nat) : W32 :=
  let op := w / 2 ^ 88
  let x := if 0x40 ≤ op && op ≤ 0x4F then t.activeSet
    else t.activeSet &&& t.selects { k := BitVec.ofNat 3 (w / 2 ^ 49), ks := w / 2 ^ 48 % 2 == 1 }
  match t.redo with
  | some (r, _) => x &&& r
  | none => x

/-- A control instruction's executing set is the active threads; any other's is that of its mask (R45, R347). -/
def Strand.setOf (t : Strand) (i : Instr) : W32 := t.execSet i.laneUse.m

/-- A slot that holds no instruction: the illegal-instruction trap with X, or all threads where X is empty (R47, R52, R338); executed again
in no thread, it is skipped (R347). -/
def State.badSlot (s : State) (k w : Nat) : Choice :=
  let t := s.strand k
  if t.redo.isSome && t.rawSet w = 0 then .rest (s.setStrand k t.laneAdvance)
  else .rest (s.raise k (t.laneTrap cIllegal 0 (orAll (t.rawSet w))))

/-- What the lane stream does when its strand is chosen. -/
def State.laneTurn (s : State) (k : Nat) : Choice :=
  let t := s.strand k
  if t.runs.isEmpty || !t.laneWait.idle then .rest s
  else if t.redo.map (·.1) == some 0 then .rest (s.setStrand k t.laneAdvance)
  else
    match s.fetchLane k with
    | .absent => .rest s
    | .badSheet w => s.badSlot k w
    | .word w =>
      match decodeLane (BitVec.ofNat 96 w) with
      | .error _ => s.badSlot k w
      | .ok i =>
        if t.redo.isSome && t.setOf i = 0 then .rest (s.setStrand k t.laneAdvance)
        else if s.laneReady k i then .run i (s.keepLoop k w)
        else .rest s

/-- What the scalar stream does when its strand is chosen. -/
def State.scalarTurn (s : State) (k : Nat) : Choice :=
  let t := s.strand k
  if !t.wait.idle || t.laneWait.pops then .rest s
  else if t.pc.toNat % 4 != 0 then .rest (s.raise k (t.scalarTrap cMisfetch t.pc))
  else
    match s.fetchScalar k with
    | .absent | .badSheet _ => .rest s
    | .word w =>
      match decodeScalar (BitVec.ofNat 32 w) with
      | .error _ => .rest (s.raise k (t.scalarTrap cIllegal 0))
      | .ok i => if s.scalarReady k i then .run i s else .rest s

/-- A trap is to be entered: a pending one, or an asynchronous cause outside a handler, when no instruction is being executed
again (R340, R341). -/
def Strand.trapDue (t : Strand) : Bool :=
  t.pendTrap.isSome || (!t.pend.isEmpty && !t.handler && t.redo.isNone && t.wstep.isNone)

/-- The replies that a trap entry waits for have come (R340, R342). -/
def State.trapAble (s : State) (k : Nat) : Bool :=
  match (s.strand k).pendTrap with
  | some r => s.trapReady k r.lane
  | none => s.trapReady k true

/-- The lane stream runs on before a pending trap: the trap is scalar and runs remain (R340). -/
def Strand.lanesFirst (t : Strand) : Bool :=
  match t.pendTrap with
  | some r => !r.lane && !t.runs.isEmpty
  | none => false

/-! ### Which strand issues (R60, R94) -/

/-- A strand that could begin an instruction in a stream: one that is passed over begins none (R91), nor does a FENCE or TLBSYNC that has issued
and waits (R212). -/
def State.starts (s : State) (k : Nat) (lane : Bool) : Bool :=
  let t := s.strand k
  t.live && s.mayIssue k && !(t.trapDue && !t.lanesFirst) && (lane || t.pendTrap.isNone) && !(lane && t.laneWait == .fence) &&
    (match (if lane then s.laneTurn k else s.scalarTurn k) with | .run i _ => !(lane && t.passesOver i) | _ => false)

/-- The strands that ask for the same issue: of the lane, or of the core's front end. Whether the latencies that one waits for have passed
is a free value (log entry 7). -/
def State.rivals (s : State) (k : Nat) (lane : Bool) : List Nat :=
  let t := s.strand k
  (s.strands.filter (fun c => c.1 != k && c.2.live && c.2.core == t.core && (!lane || c.2.lane == t.lane) &&
    s.starts c.1 lane && Config.latencyPast s.issues c.1)).map (·.1)

/-- The place of a strand at the arbiter of its core's issue slots: tokens, then task priority (R60, R94, R379). -/
def State.issueRank (s : State) (k : Nat) (rivals : List Nat) : Nat :=
  let vdAt (j : Nat) : Nat := (s.gangOf j).vd
  s.rankAt (issueArbiter (s.strand k).core) ((k :: rivals).map vdAt) (vdAt k) (s.gangOf k).prio

/-- The position of a strand in the strand table of its core. -/
def Strand.position (t : Strand) : Nat := 8 * t.lane + t.sid

/-- The position of the strand whose scalar stream has issued last on a core. -/
def State.lastPosition (s : State) (core : Nat) : Nat :=
  ((s.strands.filter (fun c => c.2.core == core && c.2.live)).foldl (fun (m : Nat × Nat) c =>
    if m.1 < c.2.stampS then (c.2.stampS, c.2.position) else m) (0, 511)).2

/-- Strand j comes before strand k: by rank; in a lane the one that began an instruction least recently, then the lower sid (R94); at the
front end in turn by position (R60). -/
def State.issuesBefore (s : State) (lane : Bool) (all : List Nat) (j k : Nat) : Bool :=
  let a := s.strand j
  let b := s.strand k
  let ra := s.issueRank j all
  let rb := s.issueRank k all
  let last := s.lastPosition b.core
  let dist (t : Strand) : Nat := (t.position + 1024 - last - 1) % 512
  rb < ra || (ra == rb && (if lane then a.stampL < b.stampL || (a.stampL == b.stampL && a.sid < b.sid) else dist a < dist b))

/-- A strand is chosen: by its lane, which issues one instruction at a time (R94), or among the four of the front end (R59, R60). An
instruction that no thread executes is passed over and claims no slot (R91). -/
def State.chosen (s : State) (k : Nat) (lane : Bool) : Bool :=
  let rivals := s.rivals k lane
  (rivals.filter (fun j => s.issuesBefore lane (k :: rivals) j k)).length < (if lane then 1 else 4)

/-- The issue cycles of a lane instruction (R91, R97, R125). -/
def State.issueCycles (s : State) (k : Nat) (i : Instr) : Nat :=
  let x := (s.strand k).setOf i
  if i.once then 1
  else if (s.strand k).scalarises x i then 1
  else i.cyclesEach * (threadsIn x).length

/-- A strand issues: the moment is noted (R60, R94), and lane issue cycles are charged (R378). -/
def State.noteIssue (s : State) (k : Nat) (lane : Bool) (cycles : Nat) : State :=
  let t := s.strand k
  let n := s.issues + 1
  let s := if lane then s.charge (issueArbiter t.core) (s.gangOf k).vd cycles else s
  { s.setStrand k (if lane then { t with stampL := n } else { t with stampS := n, lastS := t.pc }) with issues := n }

/-- The tags that a lane instruction gives its registers once it is complete (R98). -/
def State.noteTags (s : State) (k : Nat) (lane : Bool) (i : Instr) : State :=
  if lane then s.setStrand k { s.strand k with issuing := (s.strand k).newTags ((s.strand k).setOf i) i } else s

/-- A stream issues what it has, where its strand is chosen; what is passed over, or has issued before and waits, claims no slot. -/
def State.issueOf (s : State) (lane : Bool) : Choice → Choice
  | .run i t =>
    if lane && (s.me.passesOver i || s.me.laneWait == .fence) then .run i t
    else if s.chosen s.cur lane then .run i ((t.noteIssue s.cur lane (s.issueCycles s.cur i)).noteTags s.cur lane i)
    else .rest s
  | c => c

/-- The turn of the current strand in one of its streams. -/
def State.turn (s : State) (lane : Bool) : Choice :=
  let t := s.me
  if !t.live then .absent
  else if !s.mayIssue s.cur then .rest s
  else if t.trapDue && !t.lanesFirst then (if s.trapAble s.cur then .run (.trapEntry s.cur) s else .rest s)
  else if lane then s.issueOf true (s.laneTurn s.cur)
  else if t.pendTrap.isSome then .rest s
  else s.issueOf false (s.scalarTurn s.cur)

/-! ### Time -/

/-- COUNT goes down while the gang is on its core, its collection included, and not halted, and stops at 0 (R85). The tick in which it
becomes 0 stands for the ac in which the deadline expires; from the next on it has expired before (R86, R89). -/
def Gang.tickCount (g : Gang) (die cycles : Nat) : Gang :=
  if g.present && g.core / 32 == die && !g.halted && g.count != 0xFFFFFFFF && cycles != 0 then
    let left := g.count.toNat - cycles
    { g with count := BitVec.ofNat 32 left, due := if g.count != 0 && left == 0 then 1 else if g.due == 1 then 2 else g.due }
  else g

/-- START of a bank advances by 6,400 when REFCNT reaches START + 120 (R167). -/
def ephemAt (start now : Nat) : Nat := if now < start + 120 then start else start + 6400 * ((now - start - 120) / 6400 + 1)

/-- A wait in WFE comes nearer to its timeout (R368). -/
def Wait.tick (n : Nat) : Wait → Wait
  | .wfe m p w t d => .wfe m p w (t - n) d
  | x => x

/-- The banks whose refresh window stands now (R167). -/
def Die.inWindow (d : Die) (b : Nat) : Bool :=
  (d.ephem.get b).toNat ≤ d.refcnt.toNat && d.refcnt.toNat < (d.ephem.get b).toNat + 120

/-- The matrix engine's wait on a granule grows (R315). -/
def Core.tickWait (c : Core) (cycles : Nat) : Core :=
  if c.matrix.await.isSome then { c with matrix := { c.matrix with waited := c.matrix.waited + cycles } } else c

/-- A bank enters or leaves its refresh window. -/
def Die.refreshBank (d : Die) (b : Nat) : Die :=
  let rest := d.refreshing.filter (fun x => x != b)
  { d with refreshing := if d.inWindow b then rest ++ [b] else rest }

/-- A step of a die's clock to a MULT (R386, R387): an entry of the step log, and a relock of 1 to 200 ticks, whose length is not
given: a free value (log entry 6). -/
def State.stepDie (s : State) (d mult : Nat) : State :=
  let x := s.die d
  if !x.present || x.fenced || x.mult == mult then s.setDie d { x with due := 0 }
  else
    let n := (Config.freeWord s.free).toNat % 200 + 1
    let e : List W64 := [x.refcnt, x.cyccnt, BitVec.ofNat 64 (n * 2 ^ 16 + mult % 32), BitVec.ofNat 64 (x.steps + 1)]
    { s.setDie d { x with mult, due := 0, relock := n, steps := x.steps + 1, stepLog := x.stepLog.set ((x.steps + 1) % 16) e } with free := s.free + 1 }

/-- The step that a die owes is taken in its own time, when no relock is under way: those of different dies are not simultaneous (R388). -/
def State.takeStep (s : State) (d : Nat) : State :=
  if (s.die d).due != 0 && (s.die d).relock == 0 then s.stepDie d (s.die d).due else s

/-- n ticks of the 100 MHz reference on a die: the step that it owes, then REFCNT, CYCCNT unless the clock is stopped for relock, COUNT,
EPHEM and WFE (R85, R167, R368, R372, R386). -/
def State.pass (s : State) (die n : Nat) : State :=
  let s := s.takeStep die
  let d := s.die die
  let cycles := (n - d.relock) * d.mult
  let now := d.refcnt + BitVec.ofNat 64 n
  let d : Die := { d with
    refcnt := now, cyccnt := d.cyccnt + BitVec.ofNat 64 cycles, relock := d.relock - n,
    ephem := (List.range 32).foldl (fun m b => SMap.set m b (BitVec.ofNat 64 (ephemAt (m.get b).toNat now.toNat))) d.ephem }
  let s := s.setDie die ((List.range 32).foldl Die.refreshBank d)
  { s with gangs := s.gangs.map (fun (g : Nat × Gang) => (g.1, g.2.tickCount die cycles)),
           cores := s.cores.map (fun (c : Nat × Core) => if c.1 / 32 == die then (c.1, c.2.tickWait cycles) else c),
           strands := s.strands.map (fun (t : Nat × Strand) =>
             if t.2.live && t.2.core / 32 == die then (t.1, { t.2 with wait := t.2.wait.tick n }) else t) }

/-- With no turn given, the two streams of every live strand issue in rotation; a tick passes on every die at each round (log
entry 3). -/
def State.rotate (s : State) : State :=
  if s.stream then { s with stream := false }
  else
    let live := (s.strands.filter (fun c => c.2.live)).map (·.1)
    match live.find? (fun k => s.cur < k) with
    | some k => { s with cur := k, stream := true }
    | none => { (List.range 9).foldl (fun s d => s.pass d 1) s with cur := live.headD s.cur, stream := true }

/-- The turn that comes in the rotation; nothing issues where no strand is live. -/
def State.autoTurn (s : State) : Choice :=
  match s.turn s.stream with
  | .absent => .rest s
  | c => c

/-! ### Placing an instruction where the next step fetches it (log entry 13) -/

/-- A line of an instruction cache that holds some bytes at an address, and zeros. -/
def iLineWith (vd : Nat) (va : W64) (bs : List Byte) : ILine :=
  { vd, line := va.toNat / 128, bytes := (List.replicate (va.toNat % 128) 0 ++ bs ++ List.replicate 128 0).take 128 }

/-- The current strand is resident, free to issue, and owed nothing, and its clock runs. -/
def State.readyMe (s : State) : State :=
  let t := s.me
  let s := { s with flights := s.flights.filter (fun f => f.strand != s.cur) }
  let s := s.setGang t.gang { s.gang t.gang with live := true, place := .resident, halted := false }
  let s := s.setDie t.die { s.die t.die with relock := 0 }
  s.setMe { t with live := true, budget := 128, wait := .none, laneWait := .none, parked := none, pendTrap := none, pend := [],
                   redo := none, runs := [], ren := [], loopBuf := [] }

/-- A scalar instruction stands at the scalar PC of the current strand. -/
def State.placeScalar (s : State) (w : Nat) : State :=
  let s := s.readyMe
  let c := s.core s.me.core
  let l := iLineWith (s.gangOf s.cur).vd s.me.pc (leBytes 4 w)
  { s.setCore s.me.core { c with icS := l :: c.icS } with turns := [.strand s.cur false] }

/-- A lane instruction stands alone in the decision queue of the current strand, in the first slot of the sheet at LBASE. -/
def State.placeLane (s : State) (w : Nat) : State :=
  let s := s.readyMe
  let t := s.me
  let c := s.core t.core
  let pc : W64 := BitVec.ofNat 64 (t.lbase.toNat / 64 * 64)
  let l := iLineWith (s.gangOf s.cur).vd pc (leBytes 12 w)
  let s := s.setCore t.core { c with icL := l :: c.icL }
  { s.setMe { t with runs := [{ seq := t.nextRun, pc, left := 1, bound := t.accs }], nextRun := t.nextRun + 1 } with
    turns := [.strand s.cur true] }

/-- The host or a peer package writes bytes of its own memory (R156, log entry 12). -/
def State.outsideWrite (s : State) (pa : Nat) (data : List Byte) : State :=
  if (List.range data.length).all (fun i => !isSpad (pa + i) && (pkgOf (pa + i) != s.pkgnum.toNat || s.region (pa + i) == .host)) then
    s.write 999 pa data
  else s

end Sys2Proof.Machine
end

