-- ==== Sys2Proof/Machine/Access.lean ====
section
/-! DEFINITION. A memory access instruction: the checks of each of its accesses, its faults and traps, and the
start of the accesses that pass (R63, R72, R171 to R174, R181, R184, R338, R339, R350, R363, R367). -/

namespace Sys2Proof.Machine

open Sys2Proof

/-! ### The accesses of one instruction -/

/-- What the accesses of an instruction have in common: bytes and alignment, the permission, whether only the aperture serves,
whether it is an inkwell (R218), the watchpoint bit, whether a match traps, and the fields of the instruction. -/
structure AccForm where
  bytes : Nat
  align : Nat
  need : Nat
  spadOnly : Bool := false
  ink : Bool := false
  wp : Nat
  precise : Bool := true
  qual : Qual := .plain
  ord : Ord := .rlx
  scope : Scope := .strand
  ev : Nat := 0
  sx : Bool := false
  stage : Stage := .home
  deriving DecidableEq, Repr

/-- One access; `also` are further threads that it serves (R175). -/
structure Acc where
  thread : Nat
  also : W32 := 0
  va : W64
  kind : ReqKind
  data : Nat := 0
  dest : Dest := .none
  deriving DecidableEq, Repr

/-- The outcome of the checks of one access. -/
inductive Checked where
  | pass (key : Nat)
  /-- an error response -/
  | err
  /-- a trap -/
  | trap (code xkind : Nat)
  /-- a recoverable fault -/
  | park (xkind : Nat)
  | watch
  | miss
  deriving DecidableEq, Repr

/-- The stream's wait. -/
def Strand.waitOf (t : Strand) (lane : Bool) : Wait := if lane then t.laneWait else t.wait

def Strand.setWait (t : Strand) (lane : Bool) (w : Wait) : Strand :=
  if lane then { t with laneWait := w } else { t with wait := w }

/-- The translation units of a stream: the lane's micro-TLB and the core TLB (R183). -/
def Strand.units (t : Strand) (lane : Bool) : List Nat := if lane then [t.lane / 16, 4] else [4]

/-- Check of an access of a stream, with the walks that it waited for (R181, R183). -/
def State.translate (s : State) (k : Nat) (lane : Bool) (need : Nat) (va : W64) : Trans :=
  let t := s.strand k
  match s.check t.core (t.units lane) (s.gangOf k).vd need va with
  | .miss =>
    match t.waitOf lane with
    | .walked fails =>
      match fails.find? (fun f => f.1 == va.toNat / 4096) with
      | some (_, 0) => .err
      | some (_, x) => .fault x
      | none => .miss
    | _ => .miss
  | r => r

/-- Exempt from watchpoints: in a handler, or executed again with WSTEP (R342, R347, R363). -/
def Strand.exempt (t : Strand) (lane : Bool) : Bool :=
  t.handler || (if lane then t.redo.any (fun r => r.2) else t.wstep == some t.pc)

def State.checkAcc (s : State) (k : Nat) (lane : Bool) (f : AccForm) (a : Acc) : Checked :=
  let t := s.strand k
  let hit := f.precise && !t.exempt lane && t.watched f.wp a.va f.bytes
  if a.va.toNat % f.align != 0 || (f.ink && 3712 < a.va.toNat % 4096) then .trap cMisdata 0
  else if f.spadOnly && fieldOf a.va 56 8 == 0 && !inAperture a.va then .trap cXlate xkNotScratch
  else match s.translate k lane f.need a.va with
    | .miss => .miss
    | .fault x => if x ≤ 2 then .park x else .trap cXlate x
    | .err => if hit then .watch else .err
    | .key key => if hit then .watch else .pass key

/-- The translation that an access of a stream has used, by its page; none in the scratchpad reserve (R179). -/
def State.pageUsed (s : State) (k : Nat) (lane : Bool) (va : W64) : Nat × Nat :=
  let t := s.strand k
  match (s.core t.core).tlbFind (t.units lane) (s.gangOf k).vd va with
  | some e => if inReserve va then (0, 0) else (e.page, pageLog e.size)
  | none => (0, 0)

/-- A translation that the core TLB holds, and the lane's micro-TLB does not, enters the micro-TLB (R178, R183). -/
def State.loadMicro (s : State) (k : Nat) (lane : Bool) (va : W64) : State :=
  let t := s.strand k
  let vd := (s.gangOf k).vd
  if lane && ((s.core t.core).tlbFind [t.lane / 16] vd va).isNone then
    match (s.core t.core).tlbFind [4] vd va with
    | some e => s.tlbFill t.core [t.lane / 16] vd va e.pte
    | none => s
  else s

/-- An access that passed starts; one that no location holds gets its error response (R11, R162, R176). A watched atomic carries its
match, outside a handler and unless it is executed again with WSTEP (R342, R347, R364). -/
def State.launchAcc (s : State) (k : Nat) (lane : Bool) (f : AccForm) (a : Acc) (key : Option Nat) : State :=
  let t := s.strand k
  let stage : Stage := match key with
    | none => .err
    | some x => if isSpad x then .home else f.stage
  let page := s.pageUsed k lane a.va
  (s.loadMicro k lane a.va).launchFlight
    { id := 0, strand := k, lane, inst := if lane then t.insts else t.accs, bound := if lane then t.runBound else 0,
      thread := a.thread, kind := a.kind, va := a.va, key := key.getD 0, bytes := f.bytes, data := a.data, qual := f.qual,
      ord := f.ord, scope := f.scope, ev := f.ev, sx := f.sx, dest := a.dest, stage, value := 0, vec := [],
      watch := !f.precise && !t.exempt lane && t.watched f.wp a.va f.bytes, pc := if lane then t.lanePc else t.pc, orphan := false,
      entry := 0, tag := 0, granted := false, pbase := page.1, plog := page.2, agent := none } stage

/-- The accesses of one LD or ST to one line that do not wait in the window go on as one: those with an ordering open their own
entries, sent together, and those of affine addresses in all threads are computed and sent at once (R162). -/
def State.joinLines (s : State) (k inst : Nat) : State :=
  let joins (f : Flight) : Bool := f.strand == k && f.lane && f.inst == inst && !f.orphan && !isSpad f.key &&
    (f.kind == .load || f.kind == .store) && (f.stage == .l1 || f.stage == .held || f.stage == .home)
  { s with flights := s.flights.map (fun (f : Flight) =>
      if joins f then
        { f with entry := ((s.flights.find? (fun g => joins g && g.key / 128 == f.key / 128)).map (·.id)).getD f.id + 1 }
      else f) }

/-- All 32 threads access memory at addresses that are uniform or affine by the tags of their operands (R96, R162). -/
def Strand.flatVas (t : Strand) (i : Instr) (accs : List Acc) : Bool := accs.length == 32 && (t.tagOf 1 i.offsetSrc).flat

/-- Threads of the accesses whose check answers a test. -/
def checkedThreads (r : List (Acc × Checked)) (p : Checked → Bool) : W32 :=
  (r.filter (fun x => p x.2)).foldl (fun w x => w ||| threadSet [x.1.thread] ||| x.1.also) 0

def Checked.isTrap : Checked → Bool
  | .trap _ _ => true
  | _ => false
def Checked.isPark : Checked → Bool
  | .park _ => true
  | _ => false
def Checked.fails : Checked → Bool
  | .trap _ _ | .park _ | .watch => true
  | _ => false

/-- The accesses that failed or matched: a trap, a park or a debug stop (R338, R350, R363, R367). `done` is what follows when
none did. -/
def State.settle (s : State) (k : Nat) (lane : Bool) (f : AccForm) (r : List (Acc × Checked)) (done : State → State) : State :=
  let t := s.strand k
  let bad := checkedThreads r Checked.fails
  let tmaskf := if lane then bad else 0
  let pc := if lane then t.lanePc else t.pc
  let ws := t.redo.any (fun x => x.2)
  let req (code xkind : Nat) (va : W64) : TrapReq :=
    { (if lane then t.laneTrap code va tmaskf else t.scalarTrap code va) with xkind }
  match r.find? (fun x => x.2.isTrap) with
  | some (a, .trap code xkind) => s.raise k (req code xkind a.va)
  | _ =>
    match r.find? (fun x => x.2.isPark) with
    | some (a, .park xkind) =>
      let s := if lane then s.setStrand k { t with redo := some (bad, ws) } else s
      s.parkStrand k a.va xkind (f.need.testBit 3) false lane tmaskf pc
    | _ =>
      match r.find? (fun x => x.2 == .watch) with
      | some (a, _) =>
        if r.any (fun x => x.2 == .watch && s.watchHalts k f.wp x.1.va f.bytes) then
          (s.setStrand k (if lane then { t with redo := some (bad, true) } else { t with wstep := some t.pc })).debugStop k pc
        else s.raise k { req cWatch 0 a.va with wstep := true }
      | none => done s

/-- A memory access instruction: it waits for the walks of the addresses that miss (R63, R183); then the accesses that pass
start, and the others settle. -/
def State.issueAccs (s : State) (k : Nat) (lane : Bool) (i : Instr) (f : AccForm) (accs : List Acc) (done : State → State) : State :=
  let r := accs.map (fun a => (a, s.checkAcc k lane f a))
  let t := s.strand k
  let missing := (r.filter (fun x => x.2 == .miss)).map (·.1.va)
  if !missing.isEmpty then s.setStrand k (t.setWait lane (.walk i missing (if lane then t.lane / 16 else 4)))
  else
    let s := s.setStrand k (let t := t.setWait lane .none
                            if lane then { t with insts := t.insts + 1 } else { t with accs := t.accs + 1 })
    let s := if f.ord == .rlx then s else s.sendAll k f.ord.isRel
    let f := if f.stage == .window && t.flatVas i accs then { f with stage := .home } else f
    let s := r.foldl (fun s x => match x.2 with
      | .pass key => s.launchAcc k lane f x.1 (some key)
      | .err => s.launchAcc k lane f x.1 none
      | _ => s) s
    let s := if lane then s.joinLines k (t.insts + 1) else s
    s.settle k lane f r done

end Sys2Proof.Machine
end

