-- ==== Sys2Proof/Machine/Records.lean ====
section
/-! DEFINITION. Task records (R245 to R250), parked strands and their answers (R235 to R238, R249, R273 to R275), ready queues
and their moves (R255, R256), the checks of a record (R268), the record step of a spawn (R267), successors (R264) and the
counts and end of a job (R254). -/

namespace Sys2Proof.Machine

open Sys2Proof

/-! ### Records (R245, R246) -/

/-- The record of a handle; handle 0, a handle at or above P, and a record that no location holds name no task (R245). -/
def State.recKey (s : State) (vd h : Nat) : Option Nat :=
  if h == 0 || s.poolN vd ≤ h then none
  else match s.hwKey 128 vd needR (s.recordVa vd h) false with
    | some k => if isSpad k then none else some k
    | none => none

/-- Doubleword i of a record, 0 of no record. -/
def State.recWord (s : State) (vd h i : Nat) : W64 :=
  match s.recKey vd h with
  | some k => BitVec.ofNat 64 (s.readLE (k + 8 * i) 8)
  | none => 0

/-- The Fjoine writes doubleword i of a record at its home. -/
def State.setRecWord (s : State) (vd h i : Nat) (w : W64) : State :=
  match s.recKey vd h with
  | some k => s.writeLE 999 (k + 8 * i) 8 w.toNat
  | none => s

def State.setRecField (s : State) (vd h i lo n v : Nat) : State := s.setRecWord vd h i (setField (s.recWord vd h i) lo n v)

def State.recState (s : State) (vd h : Nat) : Nat := fieldOf (s.recWord vd h 0) 60 4
def State.setRecState (s : State) (vd h st : Nat) : State := s.setRecField vd h 0 60 4 st
def State.recPrio (s : State) (vd h : Nat) : Nat := fieldOf (s.recWord vd h 0) 54 4
def State.recVd (s : State) (vd h : Nat) : Nat := fieldOf (s.recWord vd h 0) 45 9
def State.recJob (s : State) (vd h : Nat) : Nat := fieldOf (s.recWord vd h 0) 16 16
def State.recTries (s : State) (vd h : Nat) : Nat := fieldOf (s.recWord vd h 0) 38 4
def State.recRestart (s : State) (vd h : Nat) : Bool := (s.recWord vd h 0).getLsbD 59

/-- State codes (R249). -/
def stFree : Nat := 0
def stWaiting : Nat := 1
def stReady : Nat := 2
def stRunning : Nat := 3
def stParked : Nat := 4
def stSuspended : Nat := 5
def stRetired : Nat := 6
def stCancelled : Nat := 7
def stFailed : Nat := 8

/-- A short pointer's address (R246). -/
def shortVa (p : Nat) : W64 := BitVec.ofNat 64 (64 * p)

/-- LOC of a record: die, unit, level (R246). -/
def State.setLoc (s : State) (vd h die unit lvl : Nat) : State :=
  s.setRecField vd h 7 48 16 (s.pkgnum.toNat * 4096 + die * 256 + unit * 8 + lvl)

/-- The location "nowhere" (R249). -/
def State.setNowhere (s : State) (vd h : Nat) : State := s.setRecField vd h 7 48 16 7

/-- The end of a task in its record (R249): state, location nowhere, ADOPTED, BKIND and BVA zero. -/
def State.endRecord (s : State) (vd h st : Nat) : State :=
  let s := s.setRecWord vd h 0 (setField (setField (s.recWord vd h 0) 60 4 st) 58 1 0)
  (s.setRecWord vd h 2 0).setNowhere vd h

/-! ### Parked strands (R249) -/

/-- A strand is parked on a future, a lock or a named queue. -/
def Strand.blocked (t : Strand) : Bool :=
  (match t.wait with | .future _ _ _ | .lock _ _ _ => true | _ => false) ||
    (match t.laneWait with | .queue _ _ pop => pop | _ => false)

/-- A gang has live strands, and all of them are parked. -/
def State.allParked (s : State) (g : Nat) : Bool := !(s.strandsOf g).isEmpty && (s.strandsOf g).all (fun k => (s.strand k).blocked)

/-- A running gang is PARKED while every live strand is parked, and RUNNING otherwise. -/
def State.settleTask (s : State) (g : Nat) : State :=
  let x := s.gang g
  let st := s.recState x.vd x.handle
  if x.live && st == stRunning && s.allParked g then s.setRecState x.vd x.handle stParked
  else if x.live && st == stParked && !s.allParked g then s.setRecState x.vd x.handle stRunning
  else s

/-- A strand parks on an object: kind and address enter the record, and its core receives the owner (R249, R276). -/
def State.parkOn (s : State) (k kind bva owner : Nat) : State :=
  let g := s.gangOf k
  let s := s.setRecWord g.vd g.handle 2 (BitVec.ofNat 64 (kind * 2 ^ 61 + bva % 2 ^ 56))
  (s.setStrand k { s.strand k with owner := some owner }).settleTask (s.strand k).gang

/-- A waiting scalar instruction of a strand ends with a status or value; DONE and ABANDONED acquire at domain scope (R235, R275). -/
def State.answer (s : State) (k : Nat) (d : SReg) (v : W64) : State :=
  if !(s.gangOf k).present then s.setStrand k { s.strand k with wait := .answered d v, owner := none }
  else
  let s := s.setStrand k { ((s.strand k).writeS d v).advance with wait := .none, owner := none }
  let s := if v = 0 ∨ v = 4 then s.acquireAt k .domain else s
  s.settleTask (s.strand k).gang

/-! ### Locks (R234 to R238) -/

/-- The bits of a cell that name its holder, with HELD. -/
def lockOwn (handle role idx : Nat) : Nat := 1 + handle % 2 ^ 32 * 2 ^ 32 + idx % 512 * 2 ^ 64 + role % 4 * 2 ^ 73

def lockOwner (cell : Nat) : Nat := cell / 2 ^ 32 % 2 ^ 32

/-- A held lock is released: it passes to the earliest waiter, or becomes free (R235, R238). -/
def State.handOff (s : State) (pa : Nat) (abandoned : Bool) : State :=
  match s.waiters.find? (fun w => w.pa == pa && w.kind == 1) with
  | some w =>
    let t := s.strand w.strand
    let g := s.gang t.gang
    let s := { s with waiters := s.waiters.filter (fun x => !(x.kind == 1 && x.strand == w.strand)) }
    let s := s.writeLE 999 pa 16 (lockOwn g.handle t.role t.idx)
    let va : W64 := match t.wait with | .lock _ va _ => va | _ => 0
    let s := s.setGang t.gang { g with locks := g.locks ++ [(pa, va)] }
    match t.wait with
    | .lock _ _ d => (s.sawHome w.strand pa).answer w.strand d (if abandoned then 4 else 0)
    | _ => s
  | none => s.writeLE 999 pa 16 (if abandoned then 2 else s.readLE pa 16 / 2 % 2 * 2)

/-- A gang that ends releases its locks without release ordering (R238). -/
def State.abandonLocks (s : State) (g : Nat) : State :=
  let s' := (s.gang g).locks.foldl (fun s l => s.handOff l.1 true) s
  s'.setGang g { s'.gang g with locks := [] }

/-! ### Futures (R273, R274) -/

def futureOwner (cell : Nat) : Nat := cell / 2 ^ 64 % 2 ^ 32

/-- A fill, or a cancel, of a future: nothing where it is full or cancelled; its waiters wake in the order they parked. -/
def State.fillFuture (s : State) (pa : Nat) (value : W64) (cancel : Bool) : Option State :=
  let c := s.readLE pa 16
  if c.testBit 96 || c.testBit 97 then none
  else
    let s := s.writeLE 999 pa 16 (if cancel then c % 2 ^ 96 + 2 ^ 97 else value.toNat + futureOwner c * 2 ^ 64 + 2 ^ 96)
    let ws := s.waiters.filter (fun w => w.pa == pa && w.kind == 0)
    let s := { s with waiters := s.waiters.filter (fun w => !(w.pa == pa && w.kind == 0)) }
    some (ws.foldl (fun s w => match (s.strand w.strand).wait with
      | .future _ _ d => (s.sawHome w.strand pa).answer w.strand d (if cancel then 1 else 0)
      | _ => s) s)

/-! ### Ready queues (R255, R256) -/

/-- A ready queue: of a core, a cluster, a die. -/
inductive QPlace where
  | core (k : Nat) | cluster (k : Nat) | die (k : Nat)
  deriving DecidableEq, Repr

def QPlace.size : QPlace → Nat
  | .core _ => Config.coreQueue | .cluster _ => Config.clusterQueue | .die _ => Config.dieQueue

/-- The queue that a full queue moves its blocks to. -/
def QPlace.up : QPlace → Option QPlace
  | .core k => some (.cluster (k / 2)) | .cluster k => some (.die (k / 16)) | .die _ => none

/-- The unit that receives the cancel state: cores 0 to 287, clusters from 288, dies from 432 (R282). -/
def QPlace.unit : QPlace → Nat
  | .core k => k | .cluster k => 288 + k | .die k => 432 + k

def State.queueAt (s : State) : QPlace → List QEntry
  | .core k => (s.core k).queue
  | .cluster k => (s.cluster k).queue
  | .die k => (s.die k).queue

def State.setQueueAt (s : State) (p : QPlace) (q : List QEntry) : State :=
  match p with
  | .core k => s.setCore k { s.core k with queue := q }
  | .cluster k => s.setCluster k { s.cluster k with queue := q }
  | .die k => s.setDie k { s.die k with queue := q }

/-- LOC of an entry in a queue (R246). -/
def State.setLocAt (s : State) (vd h : Nat) : QPlace → State
  | .core k => s.setLoc vd h (k / 32) (k % 32) 0
  | .cluster k => s.setLoc vd h (k / 16) (k % 16) 1
  | .die k => s.setLoc vd h k 0 2

/-- The cancel state of a task's job has reached a unit. -/
def State.unitReached (s : State) (vd h unit : Nat) : Bool := (s.job (jobKeyOf vd (s.recJob vd h))).reached.contains unit

/-- An entry enters a queue; one of a job whose cancel state has reached the queue is doomed, unless it resumes a gang (R282). -/
def State.addEntry (s : State) (p : QPlace) (e : QEntry) : State :=
  if e.void then s.setQueueAt p (s.queueAt p ++ [e])
  else
    let e := if !e.resume && s.unitReached e.vd e.handle p.unit then { e with doomed := true } else e
    (s.setQueueAt p (s.queueAt p ++ [e])).setLocAt e.vd e.handle p

/-- The eight entries of lowest priority, oldest first. -/
def lowestEight (q : List QEntry) : List QEntry :=
  (((List.range 16).map (fun p => q.filter (fun e => e.prio == p))).flatten).take 8

/-- The eight entries of highest priority, oldest first. -/
def highestEight (q : List QEntry) : List QEntry :=
  (((List.range 16).map (fun p => q.filter (fun e => e.prio == 15 - p))).flatten).take 8

/-- A block leaves one queue and enters another in one step at each. -/
def State.moveBlock (s : State) (src dst : QPlace) (block : List QEntry) : State :=
  let s := s.setQueueAt src ((s.queueAt src).filter (fun e => !block.contains e))
  block.foldl (fun s e => s.addEntry dst e) s

/-- Room for n entries, made by moving blocks of eight up; nothing when the queues above lack it too. `fuel` is the number of
levels. -/
def State.roomFor (s : State) (p : QPlace) (n : Nat) : Nat → Option State
  | 0 => none
  | fuel + 1 =>
    if (s.queueAt p).length + n ≤ p.size then some s
    else match p.up with
      | none => none
      | some u =>
        match s.roomFor u 8 fuel with
        | none => none
        | some s =>
          let s := s.moveBlock p u (lowestEight (s.queueAt p))
          if (s.queueAt p).length + n ≤ p.size then some s else none

/-- An entry enters a queue, after what moves it needs. -/
def State.enter (s : State) (p : QPlace) (e : QEntry) : Option State := (s.roomFor p 1 3).map (fun s => s.addEntry p e)

/-- A new entry of a task. -/
def State.entryOf (s : State) (vd h : Nat) (resume : Bool) : QEntry :=
  { handle := h, vd, doomed := false, resume, prio := s.recPrio vd h, void := false, passed := 0 }

/-! ### Malformed images (R247, R248, R268) -/

/-- A record's image as sixteen doublewords. -/
abbrev Image := List W64

def Image.at (m : Image) (i : Nat) : W64 := (m[i]?).getD 0

/-- Role descriptor i as a 128-bit number. -/
def Image.role (m : Image) (i : Nat) : Nat := (m.at (8 + 2 * i)).toNat + 2 ^ 64 * (m.at (9 + 2 * i)).toNat

def bitsOf (x lo n : Nat) : Nat := x / 2 ^ lo % 2 ^ n
def roleValid (r : Nat) : Bool := r.testBit 27
def rolePinned (r : Nat) : Bool := r.testBit 26
def roleRegs (r : Nat) : Nat := bitsOf r 23 3
def roleMin (r : Nat) : Nat := bitsOf r 13 10
def roleMax (r : Nat) : Nat := bitsOf r 3 10
def roleCnv (r : Nat) : Nat := bitsOf r 28 4
def roleCn (r i : Nat) : Nat := bitsOf r (32 + 8 * i) 8
def roleLentry (r : Nat) : Nat := bitsOf r 64 32
def roleSentry (r : Nat) : Nat := bitsOf r 96 32

/-- One role's conditions. A descriptor with VALID = 0 is no role (R247), so the conditions of a role, and of a pinned one, are those of valid
descriptors; CNV ≠ 0 without a constellation table counts in every descriptor (DEDUCED, log entry 99). -/
def roleBad (ctab : Bool) (r : Nat) : Bool :=
  bitsOf r 0 3 != 0 ||
    (roleValid r &&
      (roleMin r == 0 || roleMax r < roleMin r || 512 < roleMax r || roleSentry r % 4 != 0 || roleLentry r % 64 != 0 ||
        (rolePinned r && (roleMin r != 64 || roleMax r != 64)))) || (roleCnv r != 0 && !ctab)

/-- The entries of the queue block of an image that are valid; nothing where its read fails Check (R248). -/
def State.queueBlock (s : State) (core vd : Nat) (m : Image) : Option (List W64) :=
  let p := fieldOf (m.at 1) 32 32
  if p == 0 then some []
  else match s.hwKey core vd needR (shortVa p) false with
    | some k => some (((List.range 8).map (fun i => BitVec.ofNat 64 (s.readLE (k + 8 * i) 8))).filter (fun e => e.getLsbD 63))
    | none => none

/-- Queue number of a declaration. -/
def declQn (e : W64) : Nat := fieldOf e 58 5

/-- A queue block's conditions. -/
def queuesBad (es : List W64) : Bool :=
  es.any (fun e => fieldOf e 53 2 == 3 || fieldOf e 0 45 != 0) || !(es.map declQn).Nodup

/-- A malformed image (R268). -/
def State.malformed (s : State) (core vd : Nat) (ctab : Bool) (m : Image) : Bool :=
  let roles := (List.range 4).map m.role
  let valid := roles.filter roleValid
  fieldOf (m.at 0) 32 6 != 0 || fieldOf (m.at 7) 32 16 != 0 || fieldOf (m.at 2) 56 5 != 0 ||
  11 < fieldOf (m.at 0) 54 4 || fieldOf (m.at 0) 42 3 == 7 || valid.isEmpty || roles.any (roleBad ctab) ||
  1 < (valid.filter rolePinned).length || 512 < (valid.map (fun r => roleMin r * (roleRegs r + 1))).sum ||
  (match s.queueBlock core vd m with | some es => queuesBad es | none => true) ||
  (let ovf := fieldOf (m.at 7) 0 32
   ovf != 0 && (s.hwKey core vd needR (shortVa ovf) false).isNone)

/-! ### Job counts (R254) -/

def State.addLive (s : State) (j : Nat) : State := s.setJob j { s.job j with liveCnt := (s.job j).liveCnt + 1 }
def State.subLive (s : State) (j : Nat) : State := s.setJob j { s.job j with liveCnt := (s.job j).liveCnt - 1 }
def State.addWait (s : State) (j : Nat) : State := s.setJob j { s.job j with waitCnt := (s.job j).waitCnt + 1 }
def State.subWait (s : State) (j : Nat) : State := s.setJob j { s.job j with waitCnt := (s.job j).waitCnt - 1 }

/-- The units of a job's dies that receive the cancel state (R282). -/
def State.cancelUnits (s : State) (j : Nat) : List Nat :=
  (((s.job j).dies.filter (fun d => (s.die d).present && !(s.die d).fenced)).map (fun d =>
    ((List.range 32).filter (fun c => (s.die d).cores.getLsbD c)).map (fun c => coreKeyOf d c) ++
    (List.range 16).map (fun c => 288 + 16 * d + c) ++ [432 + d])).flatten

/-- Every CANCEL that waits for a job's acknowledgement completes (R281). -/
def State.ackCancel (s : State) (j : Nat) : State :=
  (s.strands.filter (fun c => c.2.live)).foldl (fun s c => match c.2.wait with
    | .cancelAck x d => if x == j then s.setStrand c.1 { ((s.strand c.1).writeS d 0).advance with wait := .none } else s
    | _ => s) s

/-- The cancel state of a job is set (R281, R283). -/
def State.cancelJob (s : State) (j : Nat) : State :=
  if (s.job j).live && !(s.job j).cancelling then s.setJob j { s.job j with cancelling := true } else s

/-- A job fails: it is cancelled with status FAILED (R263). -/
def State.failJob (s : State) (j : Nat) : State :=
  (s.setJob j { s.job j with failed := true }).cancelJob j

/-- The end of a job: its status fills DONEF, its number is free, its vector is sent (R254, R381). -/
def State.endJob (s : State) (j : Nat) : State :=
  let x := s.job j
  let vd := j / 65536
  let status : W64 := if x.failed then 3 else if x.cancelling then 1 else 0
  let s := s.setJob j { x with live := false }
  let s := if x.donef = 0 then s
    else match s.hwKey 128 vd needW x.donef true with
      | some k =>
        if isSpad k || s.region k != .hbm then s.log 4 { kind := 0x10, va := x.donef, vd, job := j % 65536 }
        else (s.fillFuture k status false).getD (s.log 4 { kind := 0x10, va := x.donef, vd, job := j % 65536 })
      | none => s.log 4 { kind := 0x10, va := x.donef, vd, job := j % 65536 }
  if x.irq then { s with irqs := s.irqs ++ [(vd + 1, 0)] } else s

/-- A job ends when LIVE = 0 and WAIT = 0, or when it is cancelling and LIVE = 0. -/
def State.jobCheck (s : State) (j : Nat) : State :=
  let x := s.job j
  if x.live && x.liveCnt == 0 && (x.waitCnt == 0 || x.cancelling) then s.endJob j else s

/-! ### The record step of a spawn (R267) -/

/-- Who spawns: virtual device, job, the cap on priority, the core, and what it releases to the task (R259, R267). -/
structure Spawner where
  vd : Nat
  job : Nat
  cap : Nat
  core : Nat
  vec : SMap 32
  deriving DecidableEq, Repr

/-- What the start of a task is to acquire is kept until then (R259, R264). -/
def State.releaseTo (s : State) (g : Nat) (v : SMap 32) : State := { s with released := s.released.set g (vecJoin (s.released.get [] g) v) }

/-- A record of a job that has ended, or never runs, may be spawned. -/
def State.spawnable (s : State) (vd h : Nat) : Bool :=
  let st := s.recState vd h
  st == stFree || st == stRetired || st == stCancelled || st == stFailed ||
    (st == stWaiting && !(s.job (jobKeyOf (s.recVd vd h) (s.recJob vd h))).live)

/-- The image that a spawn writes: RESTART, PRIO, QDECL and the roles come from the template where there is one. -/
def State.spawnImage (s : State) (vd h : Nat) (t : Option Image) : Image :=
  (List.range 16).map (fun i =>
    let r := s.recWord vd h i
    match t with
    | none => r
    | some m =>
      if i == 0 then setField (setField r 59 1 (fieldOf (m.at 0) 59 1)) 54 4 (fieldOf (m.at 0) 54 4)
      else if i == 1 then setField r 32 32 (fieldOf (m.at 1) 32 32)
      else if 8 ≤ i then m.at i else r)

/-- The record becomes READY or WAITING; nothing for ERROR. The answer says whether it is READY: LIVE counts it, and its entry
is to be filled. -/
def State.spawnRecord (s : State) (w : Spawner) (h : Nat) (t : Option Image) : Option (Bool × State) :=
  let m := s.spawnImage w.vd h t
  let jk := jobKeyOf w.vd w.job
  if (s.recKey w.vd h).isNone || !s.spawnable w.vd h || s.malformed w.core w.vd ((s.job jk).ctab != 0) m then none
  else
    let ready := fieldOf (m.at 0) 0 16 == 0
    let w0 := m.at 0
    let w0 := setField w0 54 4 (min (fieldOf w0 54 4) w.cap)
    let w0 := setField (setField (setField (setField w0 45 9 w.vd) 16 16 w.job) 38 4 0) 58 1 0
    let w0 := setField w0 60 4 (if ready then stReady else stWaiting)
    let s := (List.range 16).foldl (fun s i => s.setRecWord w.vd h i (if i == 0 then w0 else if i == 2 then 0 else m.at i)) s
    let s := s.releaseTo (gangKeyOf w.vd h) w.vec
    some (ready, if ready then s.addLive jk else (s.setNowhere w.vd h).addWait jk)

/-! ### Successors (R250, R264) -/

/-- A decrement of a successor at its home; nothing where its PREDS is 0, an error response. A record that becomes READY enters
the core's queue: nothing at all where every queue is full. -/
inductive Decremented where
  | ok (s : State)
  | error
  | full
  deriving DecidableEq, Repr

def State.decrement (s : State) (core vd h : Nat) : Decremented :=
  let preds := fieldOf (s.recWord vd h 0) 0 16
  let jk := jobKeyOf vd (s.recJob vd h)
  if preds == 0 then .error
  else
    let s := s.setRecField vd h 0 0 16 (preds - 1)
    if preds == 1 && s.recState vd h == stWaiting then
      if (s.job jk).cancelling then .ok (((s.setRecState vd h stCancelled).subWait jk).jobCheck jk)
      else
        let s := ((s.setRecState vd h stReady).subWait jk).addLive jk
        match s.enter (.core core) (s.entryOf vd h false) with
        | some s => .ok s
        | none => .full
    else .ok s

end Sys2Proof.Machine
end

