-- ==== Sys2Proof/Machine/ScalarMem.lean ====
section
/-! DEFINITION. Scalar loads and stores (R71 to R73), lane runs (R75 to R78), SFENCE (R74), control registers (R82 to R85,
R344 to R346, R351, R362). -/

namespace Sys2Proof.Machine

open Sys2Proof

/-! ### Loads and stores (R71) -/

/-- A scalar load: relaxed, eviction priority 4 (R73). The copies that earlier runs read are kept when it issues. -/
def State.scalarLoad (s : State) (i : Instr) (d a : SReg) (imm : BitVec 14) (n : Nat) (sx : Bool) : Out :=
  .next (s.issueAccs s.cur false i { bytes := n, align := n, need := needR, wp := wpLd, ev := 4, sx }
    [{ thread := 0, va := s.me.s a + i14 imm, kind := .load, dest := .s d }]
    (fun t => t.setMe ((t.me.keepS d).advance)))

/-- A scalar store of the low bytes of rd. -/
def State.scalarStore (s : State) (i : Instr) (d a : SReg) (imm : BitVec 14) (n : Nat) : Out :=
  .next (s.issueAccs s.cur false i { bytes := n, align := n, need := needW, wp := wpSt, ev := 4 }
    [{ thread := 0, va := s.me.s a + i14 imm, kind := .store, data := (s.me.s d).toNat % 2 ^ (8 * n) }]
    (fun t => t.setMe t.me.advance))

/-- LDB (R71). -/
def execLdb (d a : SReg) (imm : BitVec 14) (s : State) : Out := s.scalarLoad (.ldb d a imm) d a imm 1 false
/-- LDH (R71). -/
def execLdh (d a : SReg) (imm : BitVec 14) (s : State) : Out := s.scalarLoad (.ldh d a imm) d a imm 2 false
/-- LDW (R71). -/
def execLdw (d a : SReg) (imm : BitVec 14) (s : State) : Out := s.scalarLoad (.ldw d a imm) d a imm 4 false
/-- LDD (R71). -/
def execLdd (d a : SReg) (imm : BitVec 14) (s : State) : Out := s.scalarLoad (.ldd d a imm) d a imm 8 false
/-- LDBS (R71). -/
def execLdbs (d a : SReg) (imm : BitVec 14) (s : State) : Out := s.scalarLoad (.ldbs d a imm) d a imm 1 true
/-- LDHS (R71). -/
def execLdhs (d a : SReg) (imm : BitVec 14) (s : State) : Out := s.scalarLoad (.ldhs d a imm) d a imm 2 true
/-- LDWS (R71). -/
def execLdws (d a : SReg) (imm : BitVec 14) (s : State) : Out := s.scalarLoad (.ldws d a imm) d a imm 4 true
/-- STB (R71). -/
def execStb (d a : SReg) (imm : BitVec 14) (s : State) : Out := s.scalarStore (.stb d a imm) d a imm 1
/-- STH (R71). -/
def execSth (d a : SReg) (imm : BitVec 14) (s : State) : Out := s.scalarStore (.sth d a imm) d a imm 2
/-- STW (R71). -/
def execStw (d a : SReg) (imm : BitVec 14) (s : State) : Out := s.scalarStore (.stw d a imm) d a imm 4
/-- STD (R71). -/
def execStd (d a : SReg) (imm : BitVec 14) (s : State) : Out := s.scalarStore (.std d a imm) d a imm 8

/-! ### Lane runs (R75 to R78, R48, R49) -/

/-- An entry joins the decision queue, which holds 16; a full queue stalls the instruction (R75). -/
def State.enqueueRun (s : State) (pc : W64) (count : Nat) : State :=
  let t := s.me
  if Config.runDepth ≤ t.runs.length then s
  else s.setMe { t.advance with runs := t.runs ++ [{ seq := t.nextRun, pc, left := count, bound := t.accs }], nextRun := t.nextRun + 1 }

/-- LRUN (R49, R75). -/
def execLrun (count : BitVec 6) (sheet : BitVec 17) (slot : BitVec 3) (s : State) : Out :=
  .next (s.enqueueRun (s.me.lbase + BitVec.ofNat 64 (64 * sheet.toNat + 12 * slot.toNat)) count.toNat)

/-- LRUNR (R49, R75, R48): the lane PC is checked and its page translated with XL; NOTMAPPED and PERM park the strand with FETCH.
Where the count exceeds 65,535 and the lane PC is illegal as well, the spec gives no order; the model raises illegal-instruction (DESIGN CHOICE,
log entry 79). -/
def execLrunr (a b : SReg) (s : State) : Out :=
  let t := s.me
  let pc := t.s a
  let count := (t.s b).toNat
  if 65535 < count then .next (s.raiseScalar cIllegal 0)
  else if !lanePcOk pc || fieldOf pc 56 8 != 0 then .next (s.raiseScalar cLanePc pc)
  else if count = 0 then .next (s.setMe t.advance)
  else if inReserve pc then .next (s.raise s.cur { t.scalarTrap cFetch pc with xkind := xkNotScratch })
  else
    let clear (s : State) : State := s.setMe { s.me with wait := .none }
    match s.translate s.cur false needXL pc with
    | .miss => .next (s.setMe { t with wait := .walk (.lrunr a b) [pc] 4 })
    | .key _ => .next ((clear s).enqueueRun pc count)
    | .err => .next (((clear s).logError s.cur pc t.pc false true).raiseScalar cFetch pc)
    | .fault x =>
      if x ≤ 2 then .next ((clear s).parkStrand s.cur pc x false true false 0 t.pc)
      else .next ((clear s).raise s.cur { t.scalarTrap cFetch pc with xkind := x })

/-- LDRAIN (R78): the strand issues nothing further until its lane accesses are performed. -/
def execLdrain (s : State) : Out :=
  let s := s.sendAll s.cur
  .next (if s.drained s.cur then s.setMe s.me.advance else s)

/-- SFENCE (R74, R193, R200). Ordering 00 is illegal. -/
def ordOf (o : BitVec 2) : Ord :=
  match o.toNat with
  | 0 => .rlx | 1 => .acq | 2 => .rel | _ => .acqrel

def scopeOf (c : BitVec 3) : Scope :=
  match c.toNat with
  | 0 => .strand | 1 => .gang | 2 => .core | 3 => .cluster | 4 => .die | 5 => .package | 6 => .domain | _ => .system

/-- Commands of a strand that the front end has issued, whose reads are still to be performed (R74): a CHART or WLOAD, an MMA that reads
granules, a copy. The writes of a command are covered by count barriers alone (R200). -/
def State.engineReads (s : State) (k : Nat) : Bool :=
  let t := s.strand k
  let reads (m : MCmd) : Bool := m.strand == k && (match m.op with
    | .chart _ _ | .wload _ _ _ _ _ _ => true
    | .mma form _ _ af _ _ => form != .dense || af == .k8 || af == .n4
    | _ => false)
  (s.core t.core).mq.any reads || (s.core t.core).port.any (fun c => c.strand == k) ||
    s.dies.any (fun d => d.2.engines.any (fun e => e.2.any (fun c => c.strand == k)))

/-- After a release fence every later write of the strand carries what its acknowledged writes have sent (R193, R198, R200). -/
def Strand.released (t : Strand) : Strand := { t with relVec := vecJoin (vecJoin t.relVec t.ackVec) t.replyVec }

/-- A fence of a stream: what it waits for, then the acquire's and the release's effect (R193, R199, R200). SFENCE acts on the reads of engine
commands as well (R74). -/
def State.fence (s : State) (lane : Bool) (o : Ord) (sc : Scope) (done : State → State) : State :=
  let s := s.sendAll s.cur
  if s.fenceReady s.cur lane o sc && (lane || !s.engineReads s.cur) then
    let s := if o.isRel then s.setMe s.me.released else s
    let s := if o.isAcq then s.acquireAt s.cur sc else s
    done (if lane then s.setMe { s.me with laneWait := .none } else s)
  else if lane then s.setMe { s.me with laneWait := .fence } else s

def execSfence (ord : BitVec 2) (scope : BitVec 3) (s : State) : Out :=
  if ord = 0 then .next (s.raiseScalar cIllegal 0)
  else .next (s.fence false (ordOf ord) (scopeOf scope) (fun t => t.setMe t.me.advance))

/-! ### Control registers (R41, R82) -/

/-- A control register as a strand reads it; nothing for a number not in the table (R41). -/
def State.readCr (s : State) (k n : Nat) : Option W64 :=
  let t := s.strand k
  let g := s.gangOf k
  let d := s.die t.die
  let p := s.part (s.vdPart g.vd)
  if n == 0 then some (s.config t.die)
  else if n == 1 then some d.cyccnt
  else if n == 2 then some d.refcnt
  else if n == 3 then some (g.count.zeroExtend 64)
  else if n == 4 then some (lbaseOf t.lbase)
  else if n == 0x10 then some t.trapcause
  else if n == 0x11 then some t.trapva
  else if n == 0x12 then some t.trappc
  else if n == 0x13 then some t.tmaskp
  else if n == 0x14 then some t.tmaskf
  else if 0x20 ≤ n && n < 0x28 then some (t.wp.get (n - 0x20))
  else if 0x28 ≤ n && n < 0x2C then some (if s.vdDebug g.vd then t.wp.get (n - 0x20) else setField (t.wp.get (n - 0x20)) 5 1 0)
  else if 0x40 ≤ n && n < 0x60 then some (d.ephem.get (n - 0x40))
  else if 0x60 ≤ n && n < 0x63 then
    some (if s.isSup k then (if n == 0x60 then p.fqbase else if n == 0x61 then p.fqhead else p.fqtail) else 0)
  else none

/-- YIELDDL takes a value (R85): a supervisor strand sets COUNT, any other can only shorten it; a COUNT that becomes 0, and a write of 0,
makes the deadline expire. The register is one per gang (R84): the write of an adopted gang's strand leaves the COUNT of the waiter gang as
it is, so that the two may differ from then on (R87, log entry 70, DESIGN CHOICE). -/
def State.writeYielddl (s : State) (k : Nat) (v : W64) : State :=
  let t := s.strand k
  let g := s.gang t.gang
  let w : W32 := v.setWidth 32
  let c := if s.isSup k then w else if w.ult g.count then w else g.count
  s.setGang t.gang { g with count := c, due := if c = 0 ∧ g.due = 0 ∧ (g.count ≠ 0 ∨ w = 0) then 1 else g.due }

/-- A write of a control register, field by field; what it discards is RO or reserved (R82, R6, R7). -/
def State.writeCr (s : State) (k n : Nat) (v : W64) : State :=
  let t := s.strand k
  let pk := s.vdPart (s.gangOf k).vd
  let p := s.part pk
  if n == 3 then s.writeYielddl k v
  else if n == 0x10 then s.setStrand k { t with trapcause := setField t.trapcause 33 1 (fieldOf v 33 1) }
  else if n == 0x11 then s.setStrand k { t with trapva := v }
  else if n == 0x12 then s.setStrand k { t with trappc := v }
  else if n == 0x14 then s.setStrand k { t with tmaskf := BitVec.ofNat 64 (fieldOf v 0 32) }
  else if 0x20 ≤ n && n < 0x24 then s.setStrand k { t with wp := SMap.set t.wp (n - 0x20) (BitVec.ofNat 64 (fieldOf v 4 52 * 16)) }
  else if 0x24 ≤ n && n < 0x28 then s.setStrand k { t with wp := SMap.set t.wp (n - 0x20) (BitVec.ofNat 64 (fieldOf v 0 16)) }
  else if 0x28 ≤ n && n < 0x2C then s.setStrand k { t with wp := SMap.set t.wp (n - 0x20) (BitVec.ofNat 64 (fieldOf v 0 6)) }
  else if n == 0x60 && s.isSup k then
    s.setPart pk { p with fqbase := BitVec.ofNat 64 (fieldOf v 12 44 * 4096 + min (fieldOf v 0 4) 10) }
  else if n == 0x61 && s.isSup k then s.setPart pk { p with fqhead := BitVec.ofNat 64 (fieldOf v 0 16) }
  else s

/-- MFC (R41, R82). -/
def execMfc (d : SReg) (cr : BitVec 12) (s : State) : Out :=
  match s.readCr s.cur cr.toNat with
  | some v => .next (s.scalarResult d v)
  | none => .next (s.raiseScalar cIllegal 0)

/-- MTC (R41, R82). -/
def execMtc (a : SReg) (cr : BitVec 12) (s : State) : Out :=
  match s.readCr s.cur cr.toNat with
  | some _ => .next (let s := s.writeCr s.cur cr.toNat (s.me.s a); s.setMe s.me.advance)
  | none => .next (s.raiseScalar cIllegal 0)

/-- YIELDDL_WRITE: the write of YIELDDL by a strand (R84, R85), in whatever agent's step it stands. -/
def execYielddlWrite (strand : Nat) (value : W64) (s : State) : Out :=
  .next (if (s.strand strand).live then s.writeYielddl strand value else s)

end Sys2Proof.Machine
end

