-- ==== Sys2Proof/Machine/Home.lean ====
section
/-! DEFINITION. Scalar instructions whose step is at a home, a port or a queue: their waits (R78, R200, R395), the Check of
their address (R63, R181), their error responses (R224, R355). -/

namespace Sys2Proof.Machine

open Sys2Proof

/-- An instruction that waits as LDRAIN does (R78). -/
def State.afterDrain (s : State) (go : State → State) : State :=
  let s := s.sendAll s.cur
  if s.drained s.cur then go s else s

/-- An instruction that waits as LDRAIN does and releases at a scope (R78, R200). -/
def State.afterRelease (s : State) (sc : Scope) (go : State → State) : State :=
  s.afterDrain (fun s => if s.releaseReady s.cur false sc then go s else s)

/-- No wait of the scalar stream. -/
def State.clearWait (s : State) : State := s.setMe { s.me with wait := .none }

/-- The Check of an operand's address for a stream, on behalf of some threads: a miss waits for its walk, a fault is settled as a
load's; then the key, or an error response. -/
def State.withAddr (s : State) (lane : Bool) (x : W32) (i : Instr) (f : AccForm) (va : W64) (ok : State → Nat → State)
    (err : State → State) : State :=
  let a : Acc := { thread := (threadsIn x).headD 0, also := x, va, kind := .load }
  let clear (s : State) : State := s.setMe (s.me.setWait lane .none)
  let r := s.checkAcc s.cur lane f a
  match r with
  | .miss => s.setMe (s.me.setWait lane (.walk i [va] (if lane then s.me.lane / 16 else 4)))
  | .pass key => ok (clear s) key
  | .err => err (clear s)
  | _ => (clear s).settle s.cur lane f [(a, r)] (fun t => t)

/-- The Check of a scalar operand's address. -/
def State.withVa (s : State) (i : Instr) (f : AccForm) (va : W64) (ok : State → Nat → State) (err : State → State) : State :=
  s.withAddr false 0 i f va ok err

/-- A read of n bytes within a page by a strand is performed: not refused (R154, R156, R360). -/
def State.readable (s : State) (k key n : Nat) (va : W64) : Option State :=
  if isSpad key then s.spadAccess k (s.strand k).gang key n (apertureSel va != 0) false (s.isSup k)
  else if s.paOk key && !s.vdRefused (s.gangOf k).vd key then some s else none

/-- The scalar stores of a strand to some bytes, up to a number, have been performed: a later scalar access observes them (R73, R79). -/
def State.ownClear (s : State) (k bound key n : Nat) : Bool :=
  !s.flights.any (fun f => f.strand == k && !f.orphan && !f.lane && f.kind.writes && f.unperformed && f.inst ≤ bound &&
    f.key < key + n && key < f.key + f.bytes)

/-- A read of n bytes can be performed now: the strand's earlier scalar stores to them have been, and no bank that holds them is in its
refresh window (R73, R167). -/
def State.readNow (s : State) (k : Nat) (lane : Bool) (key n : Nat) : Bool :=
  s.ownClear k (if lane then (s.strand k).runBound else (s.strand k).accs) key n && !s.anyRefreshing key n

/-- n bytes from an aligned address, at most a page, read as scalar loads of doublewords (R267, R271, R325). -/
def State.withBytes (s : State) (lane : Bool) (x : W32) (i : Instr) (align : Nat) (va : W64) (n : Nat) (ok : State → List Byte → State)
    (err : State → State) : State :=
  let form : AccForm := { bytes := n, align, need := needR, wp := wpLd }
  let last := va + BitVec.ofNat 64 (n - 8)
  let first := min n (4096 - va.toNat % 4096)
  s.withAddr lane x i form va (fun s k0 => s.withAddr lane x i { form with align := 8, wp := wpNone } last (fun s k1 =>
    match s.readable s.cur k0 8 va with
    | none => err s
    | some s =>
      match s.readable s.cur k1 8 last with
      | none => err s
      | some s =>
        let rest := k1 + 8 - (n - first)
        if !s.readNow s.cur lane k0 first || (first < n && !s.readNow s.cur lane rest (n - first)) then s
        else
          let s := (s.recallAll k0 first)
          let s := if first < n then s.recallAll rest (n - first) else s
          ok s (s.bytes k0 first ++ s.bytes rest (n - first))) err) err

/-- ERROR in rd: an error response that a status reports makes a log entry, with WR where the access needed W, and no trap (R224, R352, R355). -/
def State.statusError (s : State) (d : SReg) (va : W64) (wr : Bool := false) : State := (s.logError s.cur va s.me.pc wr).scalarResult d 3

/-- An error response of an instruction without a status register: a log entry and a pending ERRRESP (R235, R355). -/
def State.deferredError (s : State) (va : W64) (wr : Bool := false) : State :=
  ((s.logError s.cur va s.me.pc wr).pendCause s.cur { watchReport va with code := cErrResp })

/-- The pages of n bytes from an address: the first byte in each, and how many. -/
def pagesOf (va : W64) (n : Nat) : List (W64 × Nat) :=
  let first := min n (4096 - va.toNat % 4096)
  (va, first) :: (List.range ((n - first + 4095) / 4096)).map (fun i =>
    (va + BitVec.ofNat 64 (first + 4096 * i), min 4096 (n - first - 4096 * i)))

/-- Where the bytes of some pages stand, page by page; nothing where an access fails. -/
def State.pageRuns (s : State) (core vd need : Nat) (write : Bool) (pages : List (W64 × Nat)) : Option (List (Nat × Nat)) :=
  pages.foldr (fun p r => match r, s.hwKey core vd need p.1 write with
    | some l, some k => some ((k, p.2) :: l)
    | _, _ => none) (some [])

/-- A location of HBM4 that a strand's virtual device reaches. -/
def State.hbmCell (s : State) (k key : Nat) : Bool :=
  !isSpad key && s.region key == .hbm && s.paOk key && !s.foreignGroup (s.gangOf k).vd key

/-- The form of an access to a cell of 16 bytes (R235, R274). -/
def cellForm (need : Nat) : AccForm := { bytes := 16, align := 16, need, wp := wpNone }

/-- The form of a granule of the aperture (R231). -/
def granuleForm : AccForm := { bytes := 16, align := 16, need := needRW, spadOnly := true, wp := wpNone }

/-- A step at the home of a location, which carries on what the strand has seen, after the strand's own stores to it; a core that owns its
line returns it first (R73, R198, R208). -/
def State.atHome (s : State) (key : Nat) (go : State → State) : State :=
  if s.homeReady s.cur key && s.ownClear s.cur s.me.accs (key / 16 * 16) 16 then go ((s.sawHome s.cur key).recallAll key 16) else s

/-- Waiters in the table of a home slice (R236). -/
def State.tableFull (s : State) (key : Nat) : Bool :=
  Config.waiterTable ≤ (s.waiters.filter (fun w => s.homeKey w.pa == s.homeKey key)).length

/-- A scratchpad access of several granules of the current strand's gang by its own aperture; nothing where one is refused. -/
def State.spadGranules (s : State) (k key : Nat) (write : Bool) : Nat → Option State
  | 0 => some s
  | n + 1 =>
    match s.spadAccess k (s.strand k).gang (key + 16 * n) 16 false write (s.isSup k) with
    | some s => s.spadGranules k key write n
    | none => none

end Sys2Proof.Machine
end

