-- ==== Sys2Proof/Machine/LaneMemory.lean ====
section
/-! DEFINITION. Lane memory instructions (R171 to R179), FENCE, ATOM, RED and the inkwells (R212 to R221), FEWAIT (R233). -/

namespace Sys2Proof.Machine

open Sys2Proof

/-- The address of a thread (R171): base + offset × scale + displacement. -/
def State.laneEa (s : State) (k thread : Nat) (base : SReg) (off : Src) (scale : Nat) (imm : W32) : W64 :=
  let t := s.strand k
  let o : Nat := match off with
    | .v r => (t.v r.toNat thread).toNat
    | .s r => (t.laneS t.runSeq r).toNat
    | _ => 0
  t.laneS t.runSeq base + BitVec.ofNat 64 (o * 2 ^ scale) + imm.signExtend 64

/-- Data of a store of n bytes: a register, pair or quad, or an s register (R173). -/
def State.laneData (s : State) (k thread bytes : Nat) : Src → Nat
  | .v r => (s.strand k).getVs r.toNat thread ((bytes + 3) / 4) % 2 ^ (8 * bytes)
  | .s r => ((s.strand k).laneS (s.strand k).runSeq r).toNat % 2 ^ (8 * bytes)
  | _ => 0

/-- A lane memory instruction: the checks of R52, then one access for each executing thread. -/
def State.laneAccess (s : State) (i : Instr) (regs : List (Nat × Nat)) (m : Mask) (f : AccForm) (acc : Nat → Acc) : Out :=
  .next (s.laneIssue regs m (fun x s => s.issueAccs s.cur true i f ((threadsIn x).map acc) (fun t => t.setMe t.me.laneAdvance)))

/-! ### Loads and stores (R173 to R177) -/

/-- The form of a lane load or store. -/
def memForm (r : LaneMem) (store spad : Bool) (stage : Stage) (ev : Nat) : AccForm :=
  { bytes := r.width.bytes, align := r.width.bytes, need := if store then needW else needR, spadOnly := spad,
    wp := if store then wpSt else wpLd, qual := r.qual, ord := r.ord, scope := r.scope, ev, sx := r.sx,
    stage := if r.ord == .rlx then stage else .home }

def State.laneLoad (s : State) (i : Instr) (r : LaneMem) (f : AccForm) (kind : ReqKind) : Out :=
  s.laneAccess i (r.vregs true false) r.m f (fun t =>
    { thread := t, va := s.laneEa s.cur t r.base r.off r.scale.toNat r.imm, kind, dest := .v r.d r.width.regs })

def State.laneStore (s : State) (i : Instr) (r : LaneMem) (f : AccForm) (kind : ReqKind) : Out :=
  s.laneAccess i (r.vregs false true) r.m f (fun t =>
    { thread := t, va := s.laneEa s.cur t r.base r.off r.scale.toNat r.imm, kind, data := s.laneData s.cur t r.width.bytes r.data })

/-- LD (R174). -/
def execLd (r : LaneMem) (s : State) : Out := s.laneLoad (.ld r) r (memForm r false false .window r.ev.toNat) .load
/-- ST (R174). -/
def execSt (r : LaneMem) (s : State) : Out := s.laneStore (.st r) r (memForm r true false .window r.ev.toNat) .store
/-- LDX (R177): through the binning network; it neither looks up nor fills L1 (R164). -/
def execLdx (r : LaneMem) (s : State) : Out :=
  s.laneLoad (.ldx r) r { memForm r false false .bin r.ev.toNat with stage := .bin } .ldx
/-- ST.NT (R176): through the write-combining buffer, eviction 0. -/
def execStNt (r : LaneMem) (s : State) : Out := s.laneStore (.stNt r) r (memForm r true false .wc 0) .ntStore
/-- LDS (R168, R174): the aperture only. -/
def execLds (r : LaneMem) (s : State) : Out := s.laneLoad (.lds r) r (memForm r false true .home r.ev.toNat) .lds
/-- STS (R168, R174): the aperture only. -/
def execSts (r : LaneMem) (s : State) : Out := s.laneStore (.sts r) r (memForm r true true .home r.ev.toNat) .sts

/-- LDL (R175): one line for the threads of X. -/
def execLdl (r : LaneMem) (s : State) : Out :=
  .next (s.laneIssue (r.vregs true false) r.m (fun x s =>
    let va := s.laneEa s.cur 0 r.base r.off r.scale.toNat r.imm
    s.issueAccs s.cur true (.ldl r) { memForm r false false .home r.ev.toNat with bytes := 128, align := 128 }
      [{ thread := (threadsIn x).headD 0, also := x, va, kind := .line, data := x.toNat, dest := .v r.d 1 }]
      (fun t => t.setMe t.me.laneAdvance)))

/-- PREF of one address (R178): its translation, and with a priority a request for its line, which joins the window (R162); faults are
discarded, and so is a prefetch whose walk would wait. -/
def State.prefetch (s : State) (k : Nat) (va : W64) (ev : Nat) : State :=
  let t := s.strand k
  let vd := (s.gangOf k).vd
  let ask (s : State) (key : Nat) : State :=
    if ev == 0 || isSpad key then s
    else s.launchFlight
      { id := 0, strand := k, lane := true, inst := t.insts, bound := t.runBound, thread := 0, kind := .pref, va, key := key / 128 * 128,
        bytes := 128, data := 0, qual := .plain, ord := .rlx, scope := .strand, ev, sx := false, dest := .none, stage := .window,
        value := 0, vec := [], watch := false, pc := t.lanePc, orphan := false, entry := 0, tag := 0, granted := false,
        pbase := (s.pageUsed k true va).1, plog := (s.pageUsed k true va).2, agent := none } .window
  match s.check t.core (t.units true) vd needR va with
  | .key key => ask (s.loadMicro k true va) key
  | .miss =>
    let w := s.walkVa t.die vd va
    if !s.walkTurn t.die vd w then s
    else
      let s := s.afterWalk t.die vd w
      match w.fin with
      | .leaf pte =>
        let s := s.tlbFill t.core (t.units true) vd va pte
        if permits pte needR then ask s (leafPa pte va) else s
      | _ => s
  | _ => s

/-- PREF (R178). -/
def execPref (r : LaneMem) (s : State) : Out :=
  .next (s.laneIssue (r.vregs false false) r.m (fun x s =>
    let s := (threadsIn x).foldl (fun s t => s.prefetch s.cur (s.laneEa s.cur t r.base r.off r.scale.toNat r.imm) r.ev.toNat) s
    s.setMe s.me.laneAdvance))

/-! ### TLBSYNC (R179) -/

/-- A range of addresses of a virtual device, or of every one of a partition. -/
structure TlbRange where
  start : W64
  len : Nat
  vd : Nat
  part : Nat
  deriving DecidableEq, Repr

/-- Whether the range names a virtual device. -/
def State.rangeVd (s : State) (g : TlbRange) (v : Nat) : Bool :=
  if g.vd == 0x1FF then s.vdPart v == g.part else v == g.vd

/-- Whether n bytes from an address overlap the range; length 0 is every address. -/
def TlbRange.hits (g : TlbRange) (va n : Nat) : Bool :=
  g.len == 0 || (va < g.start.toNat + g.len && g.start.toNat < va + n)

/-- The cores within the reach of a scope (R179). -/
def coresWithin (core : Nat) (sc : Scope) : List Nat :=
  match sc with
  | .core => [core]
  | .die => (List.range 32).map (fun c => core / 32 * 32 + c)
  | _ => List.range 288

/-- A core drops its translations in the range, and the instruction lines fetched through them. -/
def State.dropTranslations (s : State) (g : TlbRange) (core : Nat) : State :=
  if s.cores.has core then
    let c := s.core core
    let keep (l : ILine) : Bool := !(s.rangeVd g l.vd && g.hits (128 * l.line) 128)
    s.setCore core { c with tlb := c.tlb.filter (fun e => !(s.rangeVd g e.vd && g.hits e.page (2 ^ pageLog e.size))),
                            icS := c.icS.filter keep, icL := c.icL.filter keep }
  else s

/-- The dies within the reach of a scope, whose copy engines and page walker it reaches (R179). -/
def diesWithin (core : Nat) (sc : Scope) : List Nat :=
  match sc with
  | .core => []
  | .die => [core / 32]
  | _ => List.range 9

/-- The copy engines of a die drop their translations in the range, and its page walker the table entries that it keeps for the virtual
devices named; further entries may go (R179). -/
def State.dropWalks (s : State) (g : TlbRange) (die : Nat) : State :=
  let d := s.die die
  s.setDie die { d with tlb := d.tlb.filter (fun e => !(s.rangeVd g e.vd && g.hits e.page (2 ^ pageLog e.size))),
                        walks := d.walks.filter (fun w => !s.rangeVd g w.vd) }

/-- A request on its way to its home slice (R179). -/
def Flight.onWay (f : Flight) : Bool := f.unperformed && f.stage != .queued && !isSpad f.key

/-- A request on its way has used an entry of the range, of a strand of one of some cores; the requests of engines, walkers and fetches to peers count
with any address. -/
def State.usedRange (s : State) (g : TlbRange) (cores : List Nat) (f : Flight) : Bool :=
  f.onWay && !f.ofPeer && s.rangeVd g (s.vdOf f) && (f.agent.isSome || (cores.contains (s.flightCore f) && g.hits f.pbase (2 ^ f.plog)))

/-- The lines of the write-combining buffers that hold such a request are sent, since nothing else may send them (log entry 94). -/
def State.sendUsed (s : State) (g : TlbRange) (cores : List Nat) : State :=
  (s.flights.filter (fun f => f.stage == .wc && s.usedRange g cores f)).foldl (fun s f =>
    match s.flight? f.id with
    | some h => if h.stage == .wc then s.sendEntry h else s
    | none => s) s

/-- TLBSYNC waits for the strand's earlier stores, and for every access that has used an entry of the range and has not reached its
home slice (R179). -/
def State.tlbsyncReady (s : State) (k : Nat) (g : TlbRange) (cores : List Nat) : Bool :=
  (s.earlier k true).all (fun f => !(f.kind.writes && f.unperformed)) && s.flights.all (fun f => !s.usedRange g cores f)

/-- TLBSYNC (R173, R179): privileged; a virtual device outside the partition gives an error response. -/
def execTlbsync (r : TlbSync) (s : State) : Out :=
  let t := s.me
  let x := t.execSet r.m
  if !s.isSup s.cur then .next (s.raiseLane cPriv 0 (orAll x))
  else
    .next (s.laneIssue [] r.m (fun _ s =>
      let part := s.vdPart (s.gangOf s.cur).vd
      let d := t.laneS t.runSeq r.data
      let g : TlbRange := { start := t.laneS t.runSeq r.base + r.imm.signExtend 64, len := fieldOf d 0 48, vd := fieldOf d 55 9, part }
      let cores := coresWithin t.core r.scope
      if g.vd != 0x1FF && (384 ≤ g.vd || s.vdPart g.vd != part) then
        let s := s.launchAcc s.cur true { bytes := 1, align := 1, need := needR, wp := wpNone }
          { thread := 0, va := g.start, kind := .ntStore } none
        s.setMe s.me.laneAdvance
      else
        let s := (s.sendAll s.cur).sendUsed g cores
        if s.tlbsyncReady s.cur g cores then
          let s := (diesWithin t.core r.scope).foldl (fun s d => s.dropWalks g d) (cores.foldl (fun s c => s.dropTranslations g c) s)
          s.setMe { s.me.laneAdvance with laneWait := .none }
        else s.setMe { s.me with laneWait := .fence }))

/-! ### Ordering and atomics -/

/-- FENCE (R212): once for the strand. -/
def execFence (ord : Ord) (scope : Scope) (_ : BitVec 3) (m : Mask) (s : State) : Out :=
  .next (s.laneIssue [] m (fun _ s => s.fence true ord scope (fun t => t.setMe t.me.laneAdvance)))

/-- The comparand of CAS beside its offset: v(2m + 1), or v(4m + 2) and v(4m + 3) (R216). -/
def State.casComparand (s : State) (k thread : Nat) (r : Atomic) : Nat :=
  match r.op, r.off with
  | .cas, .v o => (s.strand k).getVs (o.toNat + r.ty.regs) thread r.ty.regs
  | _, _ => 0

/-- ATOM and RED (R213 to R216): matched imprecisely (R364). -/
def State.laneAtomic (s : State) (i : Instr) (r : Atomic) (ret : Bool) : Out :=
  let n := r.ty.bits / 8
  s.laneAccess i (r.vregs ret) r.m
    { bytes := n, align := n, need := needRW, wp := wpAt, precise := false, ord := r.ord, scope := r.scope, ev := r.ev.toNat }
    (fun t => { thread := t, va := s.laneEa s.cur t r.base r.off r.scale.toNat r.imm,
                kind := .atom r.op r.ty (s.casComparand s.cur t r) ret, data := s.laneData s.cur t n r.data,
                dest := if ret then .v r.d r.ty.regs else .none })

/-- ATOM (R213). -/
def execAtom (r : Atomic) (s : State) : Out := s.laneAtomic (.atom r) r true
/-- RED (R213). -/
def execRed (r : Atomic) (s : State) : Out := s.laneAtomic (.red r) r false

/-- The form of an inkwell instruction (R218, R220). -/
def inkForm (r : Ink) (need : Nat) : AccForm :=
  { bytes := 384, align := 128, need, ink := true, wp := wpAt, precise := false, ord := r.ord, scope := r.scope }

/-- INK.ADD (R220, R221). -/
def execInkAdd (r : Ink) (s : State) : Out :=
  s.laneAccess (.inkAdd r) (r.vregs false true) r.m (inkForm r needRW) (fun t =>
    { thread := t, va := s.laneEa s.cur t r.base r.off 0 r.imm, kind := .inkAdd r.ty, data := s.laneData s.cur t (r.ty.bits / 8) r.data })
/-- INK.READ (R220, R221). -/
def execInkRead (r : Ink) (s : State) : Out :=
  s.laneAccess (.inkRead r) (r.vregs true false) r.m (inkForm r needR) (fun t =>
    { thread := t, va := s.laneEa s.cur t r.base r.off 0 r.imm, kind := .inkRead r.ty, dest := .v r.d r.ty.regs })
/-- INK.CLR (R220, R221). -/
def execInkClr (r : Ink) (s : State) : Out :=
  s.laneAccess (.inkClr r) (r.vregs false false) r.m (inkForm r needW) (fun t =>
    { thread := t, va := s.laneEa s.cur t r.base r.off 0 r.imm, kind := .inkClr })

/-- FEWAIT (R233): each thread waits at its granule; what follows waits for all of them. Where the cancel state has reached the core, none
waits (R224, R265). -/
def execFewait (r : FeWait) (s : State) : Out :=
  .next (s.laneIssue r.vregs r.m (fun x s =>
    if s.cancelled s.cur then s.setMe { s.me.laneAdvance with laneWait := .none }
    else
      s.issueAccs s.cur true (.fewait r) { bytes := 16, align := 16, need := needR, spadOnly := true, wp := wpNone, ord := r.ord, scope := r.scope }
        ((threadsIn x).map (fun t => { thread := t, va := s.laneEa s.cur t r.base r.off r.scale.toNat r.imm, kind := .fewait r.full }))
        (fun t => t.setMe t.me.laneAdvance)))

end Sys2Proof.Machine
end

