-- ==== Sys2Proof/Machine/Queues.lean ====
section
/-! DEFINITION. Named queues (R239 to R241): QPUSH, QPOP and their waits. -/

namespace Sys2Proof.Machine

open Sys2Proof

/-! ### Descriptors (R239) -/

/-- Bits [lo + n − 1 : lo] of a number replaced. -/
def setBits (x lo n v : Nat) : Nat := x - bitsOf x lo n * 2 ^ lo + v % 2 ^ n * 2 ^ lo

def descOwner (d : Nat) : Nat := bitsOf d 96 32
def descBase (d : Nat) : Nat := bitsOf d 84 12 * 128
def descSize (d : Nat) : Nat := 4 * 2 ^ bitsOf d 82 2
def descDepth (d : Nat) : Nat := 2 ^ (bitsOf d 79 3 + 1)
def descValid (d : Nat) : Bool := d.testBit 78
/-- The allowance is the depth when ALLOW is 0 or exceeds the depth (R240). -/
def descAllow (d : Nat) : Nat := let a := bitsOf d 70 8; if a == 0 || descDepth d < a then descDepth d else a
def descCount (d : Nat) : Nat := bitsOf d 32 9
def descTail (d : Nat) : Nat := bitsOf d 8 8
def descHead (d : Nat) : Nat := bitsOf d 0 8

def State.desc (s : State) (core q : Nat) : Nat := s.readLE (queueKey core q) 16
def State.setDesc (s : State) (core q d : Nat) : State := s.putBytes (queueKey core q) (leBytes 16 d)
def State.book (s : State) (core q : Nat) : QueueBook := (s.core core).books.get QueueBook.zero q
def State.setBook (s : State) (core q : Nat) (b : QueueBook) : State :=
  s.setCore core { s.core core with books := (s.core core).books.set q b }

/-- The address of a descriptor in the issuing core's aperture. -/
def descVa (q : Nat) : W64 := BitVec.ofNat 64 (0xFFFF0000000000 + 0x7FE00 + 16 * q)

/-- Entries that a strand has in a queue. -/
def QueueBook.pushed (b : QueueBook) (k : Nat) : Nat := (b.pushers.filter (fun p => p == k)).length

/-! ### One thread's operation (R240) -/

inductive QResult where
  /-- no room, or no entry -/
  | wait
  | done (status : Nat) (s : State)
  deriving DecidableEq, Repr

/-- The queue unit's step for one thread of a strand; an uncorrectable error of what it reads is an error response (R27). -/
def State.queueOp (s : State) (k thread : Nat) (r : QOp) (pop : Bool) : QResult :=
  let t := s.strand k
  let q := r.q.toNat
  let d := s.desc t.core q
  let b := s.book t.core q
  let n := descSize d
  let head := spadKey t.core (descBase d + n * descHead d)
  if !descValid d || b.gang != t.gang || r.width.bytes != n || s.eccBad (queueKey t.core q) || (pop && descCount d != 0 && s.eccBad head) then .done 3 (s.logError k (descVa q) t.lanePc (!pop) false (threadSet [thread]))
  else if pop then
    if descCount d == 0 then .wait
    else
      let v := s.readLE head n
      let s := s.setDesc t.core q (setBits (setBits d 0 8 ((descHead d + 1) % descDepth d)) 32 9 (descCount d - 1))
      let s := s.setBook t.core q { b with pushers := b.pushers.drop 1, lastPop := t.role }
      .done 0 (s.setStrand k ((s.strand k).putVs (r.d.toNat + r.width.regs) thread r.width.regs v))
  else if descCount d == descDepth d || b.pushed k == descAllow d then .wait
  else
    let s := s.putBytes (spadKey t.core (descBase d + n * descTail d)) (leBytes n (s.laneData k thread n r.data))
    let s := s.setDesc t.core q (setBits (setBits d 8 8 ((descTail d + 1) % descDepth d)) 32 9 (descCount d + 1))
    .done 0 (s.setBook t.core q { b with pushers := b.pushers ++ [k], lastPush := t.role })

/-- A thread's status is written, and the thread is done. -/
def State.queueStatus (s : State) (k thread : Nat) (r : QOp) (status : Nat) : State :=
  let t := (s.strand k).putV r.d.toNat thread (BitVec.ofNat 32 status)
  s.setStrand k { t with qdone := t.qdone ||| threadSet [thread] }

/-- The waits of a queue are served in order, as far as the first that still waits. `fuel` bounds them. -/
def State.serveQueue (s : State) (core q : Nat) : Nat → State
  | 0 => s
  | fuel + 1 =>
    let b := s.book core q
    match b.waits with
    | [] => s
    | (k, _) :: rest =>
      match (s.strand k).laneWait with
      | .queue r thread pop =>
        match s.queueOp k thread r pop with
        | .wait => s
        | .done status s =>
          let s := s.setBook core q { s.book core q with waits := rest }
          let s := s.queueStatus k thread r status
          let s := (s.setStrand k { s.strand k with laneWait := .none, owner := none }).settleTask (s.strand k).gang
          s.serveQueue core q fuel
      | _ => (s.setBook core q { b with waits := rest }).serveQueue core q fuel

/-- A strand ends at a blocking queue wait, as by TDONE with DONE, when it has been chosen for removal; else its thread waits
(R240, R260). A strand that waits already when it is chosen goes on waiting, and its role may gain strands later (DESIGN CHOICE, log
entry 95). -/
def State.queueWait (s : State) (thread : Nat) (r : QOp) (pop : Bool) : State :=
  let t := s.me
  if t.removed then (s.endStrand s.cur).settleTask t.gang
  else
    let q := r.q.toNat
    let b := s.book t.core q
    let s := s.setBook t.core q { b with waits := b.waits ++ [(s.cur, pop)] }
    let s := s.setMe { s.me with laneWait := .queue r thread pop }
    if pop then
      s.parkOn s.cur 3 (s.pkgnum.toNat * 2 ^ 14 + t.core / 32 * 2 ^ 10 + t.core % 32 * 2 ^ 5 + q) (descOwner (s.desc t.core q))
    else s

/-- The threads that are left, in ascending order. -/
def State.queueThreads (s : State) (r : QOp) (pop : Bool) : List Nat → State
  | [] => s.setMe ({ s.me with qdone := 0 } : Strand).laneAdvance
  | th :: rest =>
    match s.queueOp s.cur th r pop with
    | .done status s => ((s.queueStatus s.cur th r status).serveQueue s.me.core r.q.toNat 64).queueThreads r pop rest
    | .wait => if r.nb then (s.queueStatus s.cur th r 2).queueThreads r pop rest else s.queueWait th r pop

/-- The threads of a queue instruction that are not done take CANCELLED, and the strand goes on (R224). -/
def State.queueCancel (s : State) (k : Nat) (r : QOp) : State :=
  let t := s.strand k
  let left := threadsIn (t.execSet r.m &&& ~~~t.qdone)
  let t := left.foldl (fun t i => t.putV r.d.toNat i 1) t
  s.setStrand k ({ t with qdone := 0, laneWait := .none, owner := none } : Strand).laneAdvance

/-- A push is a release at core scope, which the pop of its entry acquires (R240): the earlier accesses have reached their points, and the die
has applied what the pusher's replies cover, so that the popper's loads find it applied. -/
def State.pushReady (s : State) (k : Nat) : Bool :=
  s.releaseReady k true .core && vecCovers (s.die (s.strand k).die).vc (s.strand k).replyVec

/-- QPUSH and QPOP: a push is a release at core scope. -/
def State.queueInstr (s : State) (r : QOp) (pop : Bool) : Out :=
  .next (s.laneIssue (r.vregs pop) r.m (fun x s =>
    if !r.nb && s.cancelled s.cur then s.queueCancel s.cur r
    else if !pop && !(s.sendAll s.cur).pushReady s.cur then s.sendAll s.cur
    else (if pop then s else s.sendAll s.cur).queueThreads r pop (threadsIn (x &&& ~~~s.me.qdone))))

/-- QPUSH (R240). -/
def execQpush (r : QOp) (s : State) : Out := s.queueInstr r false
/-- QPOP (R240). -/
def execQpop (r : QOp) (s : State) : Out := s.queueInstr r true

end Sys2Proof.Machine
end

