-- ==== Sys2Proof/Machine/Image.lean ====
section
/-! DEFINITION. The context image of a saved gang (R358, R361), its parts, and its place in the context pool of its virtual device. -/

namespace Sys2Proof.Machine

open Sys2Proof

/-! ### The image -/

/-- Bytes of a ring, in whole units of 128 bytes. -/
def ringBytes (esize ldepth : Nat) : Nat := (4 * 2 ^ esize * 2 ^ (ldepth + 1) + 127) / 128 * 128

/-- The summary that MWAIT returns (R310). -/
def Mstat.word (m : Mstat) : W64 :=
  BitVec.ofNat 64 ((if m.cnt == 0 then 0 else 3) * 2 ^ 61 + m.cnt * 2 ^ 32 + m.code * 2 ^ 28 + m.tile * 2 ^ 24 + m.slot * 2 ^ 21 + m.chart * 2 ^ 13)

/-- Doublewords as bytes. -/
def wordBytes (ws : List W64) : List Byte := (ws.map (fun w => leBytes 8 w.toNat)).flatten

/-- The frame of R343 as 8,192 bytes. -/
def Strand.frameBytes (t : Strand) : List Byte :=
  t.frame.foldl (fun l f => patchBytes l f.1 (leBytes f.2.1 f.2.2)) (List.replicate 8192 0)

/-- The status of a strand section. -/
def Strand.statusWord (t : Strand) : Nat :=
  t.role % 256 + t.idx % 512 * 2 ^ 8 + (t.budget / 16 - 1) % 8 * 2 ^ 17 + bitNat t.handler * 2 ^ 20 + bitNat t.parked.isSome * 2 ^ 21 +
    bitNat (!t.pend.isEmpty || t.pendTrap.isSome) * 2 ^ 22

/-- A strand's section: frame, status, v registers, thread 0 first. -/
def Strand.section (t : Strand) : List Byte :=
  t.frameBytes ++ leBytes 16 t.statusWord ++
    ((List.range t.budget).map (fun r => ((List.range 32).map (fun i => leBytes 4 (t.v r i).toNat)).flatten)).flatten

/-- An area whose layout the spec does not give (log entry 8). -/
def freeArea (n at_ len : Nat) : List Byte := (List.range len).map (fun i => Config.freeByte n (at_ + i))

/-- Bytes of a map from offset 0. -/
def mapBytes (m : SMap 8) (n : Nat) : List Byte := (List.range n).map (fun i => SMap.get m i)

/-- Full/empty bits of a block as 32 bytes. -/
def feBytes (m : SMap 1) : List Byte :=
  leBytes 32 (((List.range 256).map (fun i => (SMap.get m i).toNat * 2 ^ i)).sum)

/-- The ring's bytes of a saved queue. -/
def savedRingBytes (r : Nat × SMap 8) : Nat :=
  let d := leNat (mapBytes r.2 16)
  ringBytes (bitsOf d 82 2) (bitsOf d 79 3)

/-- Bytes of the matrix section: tiles, slots, working buffers, FIFOs and MSTAT (R288). -/
def matrixBytes : Nat := 16 * 16384 + 8 * (32768 + 2048) + 2 * 32768 + 64 * 256 + 8

/-- A slot's stores: the codes packed in R295's order, 4-bit codes two to a byte; then a byte for each column and block. -/
def Slot.stores (x : Slot) : List Byte :=
  let code (i : Nat) : Nat := (x.elems.get i).toNat
  (if x.fmt.bits ≤ 4 then (List.range 32768).map (fun i => BitVec.ofNat 8 (code (2 * i) % 16 + 16 * (code (2 * i + 1) % 16)))
    else ((List.range (32768 / (x.fmt.bits / 8))).map (fun i => leBytes (x.fmt.bits / 8) (code i))).flatten) ++
  (List.range 2048).map (fun i => x.scales.get i)

/-- The matrix section of an image, in R288's order: elements row by row, a FIFO's oldest byte first (DEDUCED, log entry 8). -/
def Matrix.bytes (x : Matrix) (m : Mstat) : List Byte :=
  let chain (f : MmaRun → SMap 64) : List Byte := match x.run with
    | some r => ((List.range 4096).map (fun n => leBytes 8 ((f r).get n).toNat)).flatten
    | none => List.replicate 32768 0
  ((List.range 65536).map (fun n => leBytes 4 (x.tiles.get n).toNat)).flatten ++
    ((List.range 8).map (fun w => (x.slots.get Slot.zero w).stores)).flatten ++ chain (·.c0) ++ chain (·.c1) ++
    ((List.range 64).map (fun i => let f := x.fifos.get [] i; f ++ List.replicate (256 - f.length) 0)).flatten ++ leBytes 8 m.word.toNat

/-- The sections of a saved gang's image after the header. -/
def State.imageBody (s : State) (g : Nat) : List Byte :=
  let x := s.gang g
  ((s.strandsOf g).map (fun k => (s.strand k).section)).flatten ++ freeArea s.free 0 128 ++
    (x.charts.map (fun c => wordBytes (c.2.words ++ [c.2.va]))).flatten ++
    ((x.matrix.map (fun y => y.bytes x.mstat)).getD []) ++
    freeArea s.free 128 (64 * x.copies.length) ++
    (x.rings.map (fun r => mapBytes r.2 (16 + savedRingBytes r))).flatten ++
    (x.spad.map (fun b => mapBytes b.2.1 4096 ++ feBytes b.2.2)).flatten

/-- The header (R358). -/
def State.imageHeader (s : State) (g size : Nat) : List Byte :=
  let x := s.gang g
  let spad := (x.spad.map (fun b => 2 ^ b.1)).sum
  wordBytes [BitVec.ofNat 64 (0x4B43 * 2 ^ 48 + 2 ^ 40 + size % 2 ^ 32),
    BitVec.ofNat 64 (x.handle % 2 ^ 32 * 2 ^ 32 + x.vd % 512 * 2 ^ 23 + x.job % 65536 * 2 ^ 7),
    BitVec.ofNat 64 ((s.strandsOf g).length * 2 ^ 52 + x.charts.length * 2 ^ 43 + bitNat x.matrix.isSome * 2 ^ 42 +
      bitNat (x.halted || x.hsusp) * 2 ^ 41),
    BitVec.ofNat 64 spad, BitVec.ofNat 64 (spad / 2 ^ 64), BitVec.ofNat 64 (x.count.toNat * 2 ^ 32)] ++ List.replicate 208 0

/-- The whole image, of the gang as it stands. -/
def State.imageNow (s : State) (g : Nat) : List Byte :=
  let body := s.imageBody g
  s.imageHeader g (256 + body.length) ++ body

/-! ### The context pool (R358, R359, R377) -/

/-- The pages of an image of n bytes in the 64 KiB blocks that a gang has in its virtual device's pool. -/
def State.poolPages (s : State) (g n : Nat) : List (W64 × Nat) :=
  let x := s.gang g
  let base := 65536 * fieldOf (s.vdReg x.vd 4) 16 48
  (List.range ((n + 4095) / 4096)).map (fun i =>
    (BitVec.ofNat 64 (base + 65536 * x.ctx.getD (i / 16) 0 + 4096 * (i % 16)), min 4096 (n - 4096 * i)))

/-- The keys of pages of memory, where each can be used. -/
def State.pageKeys (s : State) (core vd need : Nat) : List (W64 × Nat) → Option (List (Nat × Nat))
  | [] => some []
  | (va, n) :: rest =>
    match s.checkNow core vd need va with
    | .key k => if isSpad k || !s.paOk k then none else (s.pageKeys core vd need rest).map (fun l => (k, n) :: l)
    | _ => none

/-- Where the image of a gang stands in its pool; nothing where the pool cannot be read and written (log entry 76). -/
def State.poolKeys (s : State) (g n : Nat) : Option (List (Nat × Nat)) :=
  let x := s.gang g
  if x.ctx.isEmpty then none else s.pageKeys x.core x.vd needRW (s.poolPages g n)

/-- Where the pool holds the status of a strand of a saved gang. -/
def State.statusKey (s : State) (k : Nat) : Option Nat :=
  let g := (s.strand k).gang
  let off := 256 + (((s.strandsOf g).takeWhile (fun j => j != k)).map (fun j => 8208 + 128 * (s.strand j).budget)).sum + 8192
  if (s.gang g).place == .resident then none
  else (s.poolKeys g (off + 16)).bind (fun keys => (keys[off / 4096]?).map (fun e => e.1 + off % 4096))

/-- Bytes into areas, in order. -/
def State.writeAreas (s : State) (core : Nat) : List (Nat × Nat) → List Byte → State
  | [], _ => s
  | (key, n) :: rest, bs =>
    let s := if isSpad key then s.storeSpad key (bs.take n) else s.write core key (bs.take n)
    s.writeAreas core rest (bs.drop n)

def State.readAreas (s : State) (keys : List (Nat × Nat)) : List Byte := (keys.map (fun k => s.bytes k.1 k.2)).flatten

/-- The image of a saved gang: what its pool holds. -/
def State.image (s : State) (g : Nat) : List Byte :=
  let now := s.imageNow g
  match s.poolKeys g now.length with
  | some keys => s.readAreas keys
  | none => now

/-- An image goes to the pool. -/
def State.writePool (s : State) (g : Nat) (bs : List Byte) : State :=
  match s.poolKeys g bs.length with
  | some keys => s.writeAreas (s.gang g).core keys bs
  | none => s

/-- The context of a gang is written to its pool (R358). -/
def State.saveImage (s : State) (g : Nat) : State :=
  let t := s.writePool g (s.imageNow g)
  { t with free := t.free + 1 }

/-! ### An image read back (R358, R361) -/


/-- n bytes of a list from an offset, as a number. -/
def leAt (bs : List Byte) (off n : Nat) : Nat := leNat ((bs.drop off).take n)

/-- A strand as its section gives it; nothing for a section that is not this strand's, or whose frame is malformed. A section as it was written
changes nothing. A bit that becomes set without a record of the strand takes one from the trap registers (DESIGN CHOICE, log entry 8). -/
def Strand.fromSection (t : Strand) (bs : List Byte) : Option Strand :=
  let w := leAt bs 8192 16
  let park : Parked := { fid := 0, va := t.trapva, xkind := xkNotMapped, fetch := false, lane := t.trapcause.getLsbD 32, tmaskf := 0 }
  let cause : TrapReq := { t.scalarTrap (fieldOf t.trapcause 0 8) t.trapva with
    lane := t.trapcause.getLsbD 32, xkind := fieldOf t.trapcause 36 4 }
  if bs == t.section then some t
  else if w % 2 ^ 20 != t.statusWord % 2 ^ 20 then none
  else (({ t with runsSaved := t.runs } : Strand).restore (leAt bs)).map (fun u =>
    let u := { u with
      pc := BitVec.ofNat 64 (leAt bs 0x1F8 8), runsSaved := t.runsSaved, nestSaved := t.nestSaved, handler := w.testBit 20,
      parked := if w.testBit 21 then some (t.parked.getD park) else none, pend := if w.testBit 22 then t.pend else [],
      pendTrap := if !w.testBit 22 then none else if t.pend.isEmpty && t.pendTrap.isNone then some cause else t.pendTrap }
    (List.range t.budget).foldl (fun u r =>
      (List.range 32).foldl (fun (u : Strand) i => u.putV r i (BitVec.ofNat 32 (leAt bs (8208 + 128 * r + 4 * i) 4))) u) u)

/-- The strands of an image, and the bytes after them. -/
def State.strandsFrom (s : State) : List Nat → List Byte → Option (State × List Byte)
  | [], bs => some (s, bs)
  | k :: ks, bs =>
    let n := 8208 + 128 * (s.strand k).budget
    match (s.strand k).fromSection (bs.take n) with
    | some t => (s.setStrand k t).strandsFrom ks (bs.drop n)
    | none => none

/-- The listed bytes of a list. -/
def bytesMap (bs : List Byte) : SMap 8 := (indexed bs).foldl (fun m e => SMap.set m e.1 e.2) []
def bitsMap (v n : Nat) : SMap 1 := (List.range n).foldl (fun m i => SMap.set m i (if v.testBit i then 1 else 0)) []

/-- Cuts a list into pieces of some lengths. -/
def cutBytes : List Nat → List Byte → List (List Byte)
  | [], _ => []
  | n :: ns, bs => bs.take n :: cutBytes ns (bs.drop n)

/-- A slot as its stores give it; superscales and the slot's state have no bytes of their own. -/
def Slot.fromStores (x : Slot) (bs : List Byte) : Slot :=
  let n := x.fmt.bits / 8
  let codes : List Nat := if x.fmt.bits ≤ 4 then ((bs.take 32768).map (fun b => [b.toNat % 16, b.toNat / 16])).flatten
    else (List.range (32768 / n)).map (fun i => leAt bs (n * i) n)
  { x with
    elems := ((indexed codes).map (fun e => (e.1, BitVec.ofNat 64 e.2))).filter (fun e => e.2 != 0),
    scales := (indexed (bs.drop 32768)).filter (fun e => e.2 != 0) }

/-- The matrix state as its section gives it; one as it was written changes nothing. -/
def Matrix.fromBytes (x : Matrix) (m : Mstat) (bs : List Byte) : Matrix :=
  if bs == x.bytes m then x
  else
    let slots := bs.drop 262144
    let chains := slots.drop (8 * 34816)
    let fifos := chains.drop 65536
    let chain (off : Nat) : SMap 64 := ((List.range 4096).map (fun n => (n, BitVec.ofNat 64 (leAt chains (off + 8 * n) 8)))).filter (fun e => e.2 != 0)
    { x with
      tiles := ((List.range 65536).map (fun n => (n, BitVec.ofNat 32 (leAt bs (4 * n) 4)))).filter (fun e => e.2 != 0),
      slots := x.slots.map (fun (e : Nat × Slot) => (e.1, e.2.fromStores ((slots.drop (34816 * e.1)).take 34816))),
      run := x.run.map (fun r => { r with c0 := chain 0, c1 := chain 32768 }),
      fifos := x.fifos.map (fun (e : Nat × List Byte) => (e.1, (fifos.drop (256 * e.1)).take e.2.length)) }

/-- MSTAT as its word gives it (R310). -/
def Mstat.ofWord (w : Nat) : Mstat :=
  { cnt := bitsOf w 32 16, code := bitsOf w 28 4, tile := bitsOf w 24 4, slot := bitsOf w 21 3, chart := bitsOf w 13 8 }

/-- The gang as the sections after the strands give it (log entry 8: an area without a layout changes nothing). -/
def Gang.fromImage (x : Gang) (count : Nat) (bs : List Byte) : Gang :=
  let charts := bs.drop 128
  let matrix := charts.drop (264 * x.charts.length)
  let rings := matrix.drop ((if x.matrix.isSome then matrixBytes else 0) + 64 * x.copies.length)
  let lens := x.rings.map (fun r => 16 + savedRingBytes r)
  let spad := rings.drop lens.sum
  { x with
    count := BitVec.ofNat 32 count,
    matrix := x.matrix.map (fun y => y.fromBytes x.mstat (matrix.take matrixBytes)),
    mstat := if x.matrix.isSome then Mstat.ofWord (leAt matrix (matrixBytes - 8) 8) else x.mstat,
    charts := (x.charts.zip (cutBytes (x.charts.map (fun _ => 264)) charts)).map (fun e =>
      (e.1.1, { words := (List.range 32).map (fun i => BitVec.ofNat 64 (leAt e.2 (8 * i) 8)), va := BitVec.ofNat 64 (leAt e.2 256 8) })),
    rings := (x.rings.zip (cutBytes lens rings)).map (fun e => (e.1.1, bytesMap e.2)),
    spad := (x.spad.zip (cutBytes (x.spad.map (fun _ => 4128)) spad)).map (fun e =>
      (e.1.1, bytesMap (e.2.take 4096), bitsMap (leAt e.2 4096 32) 256)) }

/-- The gang and its strands as the sections of an image give them; nothing for an image that is malformed. -/
def State.restoreBody (s : State) (g : Nat) (bs : List Byte) : Option State :=
  (s.strandsFrom (s.strandsOf g) (bs.drop 256)).map (fun r => r.1.setGang g ((r.1.gang g).fromImage (leAt bs 44 4) r.2))

/-- The image at a buffer replaces the saved one, where its header agrees but for COUNT. -/
def State.restoreImage (s : State) (g : Nat) (bs : List Byte) : Option State :=
  let own := s.image g
  if bs.take 44 != own.take 44 || (bs.drop 48).take 208 != (own.drop 48).take 208 then none
  else (s.restoreBody g bs).map (fun s => s.writePool g bs)

/-- A saved gang's image is read back from its pool on resumption (R358); one that the pool no longer gives well formed leaves the context as it
was saved (log entry 76). -/
def State.readBack (s : State) (g : Nat) : State :=
  match s.poolKeys g (s.imageNow g).length with
  | some keys => (s.restoreBody g (s.readAreas keys)).getD s
  | none => s

end Sys2Proof.Machine
end

