-- ==== Sys2Proof/Machine/Sync.lean ====
section
/-! DEFINITION. Constellations and barriers (R225 to R230), count barriers (R204, R205, R231, R232), locks (R234 to R237),
messages (R242 to R244). -/

namespace Sys2Proof.Machine

open Sys2Proof

/-! ### Constellations (R225 to R227) -/

/-- The address of an entry of the job's table. -/
def State.conVa (s : State) (k cn : Nat) : W64 := (s.job (s.jobKey k)).ctab + BitVec.ofNat 64 (32 * cn)

/-- The entry may be used: the job has a table, and VALID as in force (R225). -/
def State.conValid (s : State) (k cn : Nat) : Bool :=
  let j := s.job (s.jobKey k)
  !j.ctabPa.isEmpty && j.valid.get cn == 1

/-- Stores to VALID of an entry take effect: at the acceptance of the launch, and at each JOIN that names the entry (R225). -/
def State.takeValid (s : State) (jk cn : Nat) : State :=
  let j := s.job jk
  s.setJob jk { j with valid := SMap.set j.valid cn (if (s.conLo (j.conPa cn)).getLsbD 63 then 1 else 0) }

/-- The steps of JOIN at the entry's home; nothing for ERROR. -/
def State.joinEntry (s : State) (k cn : Nat) : Option State :=
  let pa := (s.job (s.jobKey k)).conPa cn
  let lo := s.conLo pa
  let hi := s.conHi pa
  let t := s.strand k
  let member := t.members.any (fun m => m.cn == cn)
  if !s.conValid k cn || 32768 < fieldOf lo 32 15 + fieldOf lo 0 16 || conMembers hi == 2 ^ 20 - 1 || (!member && 4 ≤ t.members.length) then
    none
  else if member then some s
  else
    some ((s.setConHi pa (setField hi 0 20 (conMembers hi + 1))).setStrand k { t with members := t.members ++
      [{ cn, pending := false, phase := false, scope := scopeOf (BitVec.ofNat 3 (fieldOf lo 59 3)), share := lo.getLsbD 62,
         woff := 16 * fieldOf lo 32 15, wlen := 16 * fieldOf lo 0 16 }] })

/-- A strand joins a constellation: the entry's fields come into force, and the strand becomes a member; nothing for ERROR. -/
def State.joinCon (s : State) (k cn : Nat) : Option State := (s.takeValid (s.jobKey k) cn).joinEntry k cn

/-- JOIN (R227). -/
def execJoin (d a : SReg) (s : State) : Out :=
  let cn := (s.me.s a).toNat % 256
  .next (s.afterDrain (fun s => s.atHome ((s.job (s.jobKey s.cur)).conPa cn) (fun s =>
    let s := s.takeValid (s.jobKey s.cur) cn
    match s.joinEntry s.cur cn with
    | some s => s.scalarResult d 0
    | none => s.statusError d (s.conVa s.cur cn))))

/-- LEAVE (R227). -/
def execLeave (d a : SReg) (s : State) : Out :=
  let cn := (s.me.s a).toNat % 256
  .next (s.afterDrain (fun s => s.atHome ((s.job (s.jobKey s.cur)).conPa cn) (fun s =>
    match s.me.members.find? (fun m => m.cn == cn) with
    | some m => (s.leaveCon s.cur m).scalarResult d 0
    | none => s.scalarResult d 0)))

/-! ### Barriers (R228 to R230) -/

/-- The membership that an arrival names, where the entry may be used. -/
def State.memberOf (s : State) (k cn : Nat) : Option Member :=
  if s.conValid k cn then (s.strand k).members.find? (fun m => m.cn == cn) else none

/-- A membership changes. -/
def Strand.setMember (t : Strand) (m : Member) : Strand :=
  { t with members := t.members.map (fun x => if x.cn == m.cn then m else x) }

/-- The arrival of ARRIVE: a release at the entry's SCOPE; a pending arrival waits for its phase first. -/
def State.arriveCon (s : State) (m : Member) (done : State → State) : State :=
  let pa := (s.job (s.jobKey s.cur)).conPa m.cn
  s.afterRelease m.scope (fun s =>
    if m.pending && m.phase == conPhase (s.conHi pa) then s
    else s.atHome pa (fun s =>
      let hi := s.conHi pa
      let s := s.setConHi pa (completeCheck (setField hi 24 20 (conArrived hi + 1)))
      done (s.setMe (s.me.setMember { m with pending := true, phase := conPhase hi }))))

/-- ARRIVE (R228). -/
def execArrive (d a : SReg) (s : State) : Out :=
  let cn := (s.me.s a).toNat % 256
  .next (if s.cancelled s.cur then s.scalarResult d 1
    else match s.memberOf s.cur cn with
      | none => s.statusError d (s.conVa s.cur cn)
      | some m => s.arriveCon m (fun s => s.scalarResult d 0))

/-- BAR (R228): the arrival, then the wait for the phase, then an acquire at SCOPE. One that has begun, or is issued again, only waits (R230). -/
def execBar (d a : SReg) (s : State) : Out :=
  let cn := (s.me.s a).toNat % 256
  .next (if s.cancelled s.cur then s.scalarResult d 1
    else match (s.memberOf s.cur cn).or (s.me.members.find? (fun m => m.cn == cn && m.inBar)) with
      | none => s.statusError d (s.conVa s.cur cn)
      | some m =>
        let pa := (s.job (s.jobKey s.cur)).conPa cn
        if !m.pending then s.arriveCon { m with inBar := true } (fun s => s)
        else if conPhase (s.conHi pa) == m.phase then s.setMe (s.me.setMember { m with inBar := true })
        else s.atHome pa (fun s =>
          ((s.setMe (s.me.setMember { m with pending := false, inBar := false })).acquireAt s.cur m.scope).scalarResult d 0))

/-! ### Count barriers (R204, R205, R231, R232) -/

/-- A request of the scalar stream of the current strand that is not a load or store of R71. -/
def State.launchScalar (s : State) (f : AccForm) (a : Acc) (key : Nat) : State :=
  let s := s.setMe { s.me with accs := s.me.accs + 1 }
  s.launchAcc s.cur false f a (some key)

/-- CBWAIT (R231): the wait sits at the granule's port. -/
def execCbwait (d a b : SReg) (s : State) : Out :=
  let va := s.me.s a
  let mode := (s.me.s b).toNat % 4
  .next (if s.cancelled s.cur then s.clearWait.scalarResult d 1
    else s.withVa (.cbwait d a b) granuleForm va
      (fun s key =>
        let s := s.launchScalar { granuleForm with ord := .acq, scope := if mode < 2 then .domain else .die }
          { thread := 0, va, kind := if mode < 2 then .phase (mode == 1) else .fewait (mode == 2), dest := .s d } key
        s.setMe { s.me with wait := .port d })
      (fun s => s.statusError d va))

/-- The value of a count barrier after an arrival of n bytes (R205); the excess of an arrival that does not fit its field is not
stated: a free value (log entry 6). -/
def State.countArrival (s : State) (v n : Nat) : Nat × State :=
  let exp := v % 2 ^ 48
  let a := v / 2 ^ 48 % 2 ^ 48 + n
  let phase := v / 2 ^ 127 % 2
  if exp != 0 && exp ≤ a then
    if a - exp < 2 ^ 48 then (exp + (a - exp) * 2 ^ 48 + (1 - phase) * 2 ^ 127, s)
    else (exp + (Config.freeWord s.free).toNat % 2 ^ 48 * 2 ^ 48 + (1 - phase) * 2 ^ 127, { s with free := s.free + 1 })
  else (exp + min a (2 ^ 48 - 1) * 2 ^ 48 + phase * 2 ^ 127, s)

/-- An arrival at the port of a granule (R205): the waits that the flip satisfies end. -/
def State.arriveCount (s : State) (key n : Nat) : State :=
  let (v, s) := s.countArrival (s.readLE key 16) n
  (s.storeSpad key (leBytes 16 v)).satisfy key

/-- A step at a scratchpad's port carries on what the strand has seen and released (R198). -/
def State.portReady (s : State) (k key : Nat) : Bool :=
  vecCovers (s.sendVec (spadCore key / 32)) (s.strandVec k)

/-- ARRIVE.CB (R232): a release at die scope, then R205 with sb[47:0] bytes. -/
def execArriveCb (a b : SReg) (s : State) : Out :=
  let va := s.me.s a
  let n := (s.me.s b).toNat % 2 ^ 48
  let fails (s : State) : State := let s := s.deferredError va true; s.setMe s.me.advance
  .next (s.afterRelease .die (fun s => s.withVa (.arriveCb a b) granuleForm va
    (fun s key =>
      if !s.portReady s.cur key then s
      else match s.spadAccess s.cur s.me.gang key 16 (apertureSel va != 0) true (s.isSup s.cur) with
        | some s => let s := s.arriveCount key n; s.setMe s.me.advance
        | none => fails s)
    fails))

/-! ### Locks (R234 to R237) -/

/-- LOCK's step at the home of the cell. -/
def State.lockStep (s : State) (d : SReg) (va : W64) (key : Nat) : State :=
  let t := s.me
  let g := s.gangOf s.cur
  let c := s.readLE key 16
  let own := lockOwn g.handle t.role t.idx
  if !c.testBit 0 then
    if 8 ≤ g.locks.length then s.statusError d va true
    else
      let s := (s.writeLE 999 key 16 own).setGang t.gang { g with locks := g.locks ++ [(key, va)] }
      (s.acquireAt s.cur .domain).scalarResult d (if c.testBit 1 then 4 else 0)
  else if c / 2 ^ 32 % 2 ^ 43 == own / 2 ^ 32 % 2 ^ 43 then s.statusError d va true
  else if s.tableFull key then s.setMe { t with wait := .refused }
  else
    let s := { s with waiters := s.waiters ++ [({ pa := key, strand := s.cur, kind := 1 } : Waiter)] }
    (s.setMe { t with wait := .lock key va d }).parkOn s.cur 2 va.toNat (lockOwner c)

/-- LOCK (R235, R236). -/
def execLock (d a : SReg) (s : State) : Out :=
  let va := s.me.s a
  .next (if s.cancelled s.cur then s.clearWait.scalarResult d 1
    else s.withVa (.lock d a) (cellForm needRW) va
      (fun s key => if s.hbmCell s.cur key then s.atHome key (fun s => s.lockStep d va key) else s.statusError d va true)
      (fun s => s.statusError d va true))

/-- UNLOCK (R235): a release at domain scope; a cell that the strand does not hold gives an error response. -/
def execUnlock (a : SReg) (s : State) : Out :=
  let va := s.me.s a
  let fails (s : State) : State := let s := s.deferredError va true; s.setMe s.me.advance
  .next (s.afterRelease .domain (fun s => s.withVa (.unlock a) (cellForm needRW) va
    (fun s key =>
      if !s.hbmCell s.cur key then fails s
      else s.atHome key (fun s =>
        let g := s.gangOf s.cur
        let c := s.readLE key 16
        let own := lockOwn g.handle s.me.role s.me.idx
        if !c.testBit 0 || c / 2 ^ 32 % 2 ^ 43 != own / 2 ^ 32 % 2 ^ 43 then fails s
        else
          let s := s.setGang s.me.gang { g with locks := g.locks.filter (fun l => l.1 != key) }
          let s := s.handOff key false
          s.setMe s.me.advance))
    fails))

/-- LOCK_PARK_REISSUE (R236, R275): a park that a full waiter table refused is issued again. -/
def execLockParkReissue (strand : Nat) (s : State) : Out :=
  let t := s.strand strand
  .next (if t.wait == .refused then s.setStrand strand { t with wait := .none } else s)

/-! ### Messages (R242 to R244) -/

/-- The cluster of a core, as source and destination number. -/
def State.clusterNum (s : State) (core : Nat) : Nat := s.pkgnum.toNat * 256 + core / 32 * 16 + core % 32 / 2

/-- The form of a message's payload address. -/
def payloadForm : AccForm := { bytes := 16, align := 16, need := needRW, spadOnly := true, wp := wpNone }

/-- The destination of a message is in the domain, and in CONFIG. -/
def State.hasCluster (s : State) (dst : Nat) : Bool :=
  let q := dst / 256
  let d := dst / 16 % 16
  let c := dst % 16
  if q == s.pkgnum.toNat then
    (s.die d).present && !(s.die d).fenced && ((s.die d).cores.getLsbD (2 * c) || (s.die d).cores.getLsbD (2 * c + 1))
  else s.holdsPkg q && d < 9

/-- A payload address lies wholly in the issuing core's own scratchpad. R242 lets any other address fault as in R231, which knows traps for
an address outside the aperture or not aligned, and ERROR for an access that the port refuses; for a window, and for a payload that runs
past the end, the model takes ERROR (log entry 67, DESIGN CHOICE). -/
def ownPayload (va : W64) (units : Nat) : Bool := apertureSel va == 0 && apertureOff va + 16 * units ≤ Config.spadBytes

/-- MSEND (R242, R243): rd is answered when the message has arrived. -/
def execMsend (d a b : SReg) (s : State) : Out :=
  let va := s.me.s a
  let w := s.me.s b
  let units := fieldOf w 0 2 + 1
  let dst := fieldOf w 20 12
  .next (s.afterRelease .domain (fun s => s.withVa (.msend d a b) payloadForm va
    (fun s key =>
      if fieldOf w 48 16 != 0 || fieldOf w 2 18 != 0 || !ownPayload va units || !s.hasCluster dst then s.statusError d va
      else match s.spadGranules s.cur key false units with
        | none => s.statusError d va
        | some s =>
          let m : Msg := { src := s.clusterNum s.me.core, dst, tag := fieldOf w 32 16, units, payload := s.bytes key (16 * units),
                           strand := some s.cur, va, vec := s.strandVec s.cur }
          { s.setMe { s.me with wait := .send d } with msgs := s.msgs ++ [m] })
    (fun s => s.statusError d va)))

/-- What MRECV writes into rd. -/
def recvValue (status : Nat) (m : Msg) : W64 :=
  BitVec.ofNat 64 (status * 2 ^ 61 + (m.units - 1) % 4 * 2 ^ 48 + m.tag % 65536 * 2 ^ 32 + m.src % 4096 * 2 ^ 20)

/-- A receive takes a message (R243). -/
def Posted.takes (p : Posted) (m : Msg) : Bool :=
  (p.anySrc || p.src == m.src) && (p.anyTag || p.tag == m.tag) && m.units ≤ p.units

/-- The payload enters the receiver's scratchpad, and its granules become full (R168, R244). -/
def State.putPayload (s : State) (k key : Nat) (m : Msg) : Option State :=
  (s.spadGranules k key true m.units).map (fun s =>
    (List.range m.units).foldl (fun s i => (s.setFe (key + 16 * i) true).satisfy (key + 16 * i)) (s.storeSpad key m.payload))

/-- A receive completes: an acquire at domain scope. -/
def State.received (s : State) (p : Posted) (m : Msg) : State :=
  let k := p.strand
  let t := s.strand k
  match t.wait with
  | .recv d =>
    let (s, v) := match s.putPayload k (spadKey t.core (apertureOff p.va)) m with
      | some s => (s, recvValue 0 m)
      | none => (s.logError k p.va t.pc true, 3 * 2 ^ 61)
    let s := s.setStrand k { ((s.strand k).writeS d v).advance with wait := .none, replyVec := vecJoin (s.strand k).replyVec m.vec }
    s.acquireAt k .domain
  | _ => s

/-- MRECV (R242, R244). -/
def execMrecv (d a b : SReg) (s : State) : Out :=
  let va := s.me.s a
  let w := s.me.s b
  let units := fieldOf w 0 2 + 1
  let fails (s : State) : State := (s.logError s.cur va s.me.pc true).scalarResult d (3 * 2 ^ 61)
  .next (if s.cancelled s.cur then s.clearWait.scalarResult d (1 * 2 ^ 61)
    else s.withVa (.mrecv d a b) payloadForm va
      (fun s key =>
        if fieldOf w 50 14 != 0 || fieldOf w 2 18 != 0 || !ownPayload va units then fails s
        else match s.spadGranules s.cur key true units with
          | none => fails s
          | some s =>
            let c := s.me.core / 2
            let cl := s.cluster c
            let p : Posted := { strand := s.cur, anySrc := w.getLsbD 49, anyTag := w.getLsbD 48, src := fieldOf w 20 12,
                                tag := fieldOf w 32 16, units, va }
            match cl.overflow.findIdx? (fun m => p.takes m) with
            | some i =>
              let s := s.setCluster c { cl with overflow := cl.overflow.eraseIdx i }
              (s.setMe { s.me with wait := .recv d }).received p ((cl.overflow[i]?).getD
                { src := 0, dst := 0, tag := 0, units := 1, payload := [], strand := none, va := 0, vec := [] })
            | none =>
              if 32 ≤ cl.posted.length then s
              else (s.setCluster c { cl with posted := cl.posted ++ [p] }).setMe { s.me with wait := .recv d })
      fails)

/-- A message's sender has its answer (R243). -/
def State.sent (s : State) (m : Msg) (ok : Bool) : State :=
  match m.strand with
  | none => s
  | some k =>
    let t := s.strand k
    match t.wait with
    | .send d => if ok then s.setStrand k { (t.writeS d 0).advance with wait := .none }
                 else (s.logError k m.va t.pc).setStrand k { (t.writeS d 3).advance with wait := .none }
    | _ => s

/-- The message word of an overflow report (R352): as MSEND's sb, with the source in place of the destination. -/
def Msg.word (m : Msg) : W64 := BitVec.ofNat 64 (m.tag % 65536 * 2 ^ 32 + m.src % 4096 * 2 ^ 20 + (m.units - 1) % 4)

/-- A cluster, by 16 die + number, is in CLUS of a partition (R374). -/
def Part.clusBit (p : Part) (c : Nat) : Bool := (p.regs.get (1 + c / 64)).getLsbD (c % 64)

/-- The message-overflow fault (R243, R350, R352): rd takes ERROR, the sender parks, and an entry of KIND 0x03 is written; a
restart executes the MSEND again (R353). For the message of a peer, whose sender stands elsewhere, the entry enters the queue of the
partition of the destination cluster (log entry 68, DESIGN CHOICE). -/
def State.overflowFault (s : State) (m : Msg) : State :=
  match m.strand with
  | none =>
    let d := m.dst / 16 % 16
    let p := ((List.range 32).find? (fun p => s.partEn p && (s.part p).clusBit (m.dst % 256))).getD 0
    let (fid, s) := s.takeFid p
    s.faultEntry d p (({ kind := 3, fid, die := d, core := 2 * (m.dst % 16), detail := m.word } : Report).entry s.pkgnum.toNat (s.die d).refcnt)
  | some k =>
    let p := s.vdPart (s.gangOf k).vd
    let (fid, s) := (s.logError k m.va (s.strand k).pc).takeFid p
    let t := match (s.strand k).wait with
      | .send d => { (s.strand k).writeS d 3 with wait := .none }
      | _ => s.strand k
    let s := s.setStrand k { t with parked := some { fid, va := m.va, xkind := 0, fetch := false, lane := false, tmaskf := 0 } }
    s.faultEntry t.die p ((({ kind := 3, fid, va := m.va, pc := t.pc, detail := m.word } : Report).ofStrand s k).entry s.pkgnum.toNat (s.die t.die).refcnt)

/-- A message reaches its port (R243). Whether a peer's port refuses it is the peer's: a free value;
a refusal is the overflow fault there too. -/
def State.deliverMsg (s : State) (m : Msg) : State :=
  if m.dst / 256 != s.pkgnum.toNat then
    let ok := (Config.freeWord s.free).getLsbD 0
    let s := { s with free := s.free + 1 }
    if ok then s.sent m true else s.overflowFault m
  else if !s.hasCluster m.dst then s.sent m false
  else
    let c := m.dst % 256
    let cl := s.cluster c
    match cl.posted.findIdx? (fun p => p.takes m), cl.posted.find? (fun p => p.takes m) with
    | some i, some p =>
      let s := s.setCluster c { cl with posted := cl.posted.eraseIdx i }
      (s.received p m).sent m true
    | _, _ =>
      if cl.overflow.length < 64 then (s.setCluster c { cl with overflow := cl.overflow ++ [m] }).sent m true
      else s.overflowFault m

/-- MESSAGE_ARRIVAL (R243): messages of one cluster to one cluster arrive in order. -/
def execMessageArrival (index : Nat) (s : State) : Out :=
  match s.msgs[index]? with
  | none => .next s
  | some m =>
    if (s.msgs.take index).any (fun x => x.src == m.src && x.dst == m.dst) then .next s
    else .next (({ s with msgs := s.msgs.eraseIdx index } : State).deliverMsg m)

end Sys2Proof.Machine
end

