-- ==== Sys2Proof/Machine/Gangs.lean ====
section
/-! DEFINITION. Gangs on cores: what fits (R22, R258, R294, R360), starting one (R259), saving one and resuming it (R262, R314,
R335, R356 to R360), the end of one (R263, R286, R290). -/

namespace Sys2Proof.Machine

open Sys2Proof

/-! ### Lanes (R22, R258) -/

/-- The strand slots taken on a core: lane, slot, budget. -/
abbrev Occ := List (Nat × Nat × Nat)

/-- The slots taken on a core, but for some gang's. -/
def State.occupied (s : State) (core : Nat) (but : Option Nat) : Occ :=
  (s.strands.filter (fun c => c.2.live && c.2.core == core && (s.gang c.2.gang).present && but != some c.2.gang)).map
    (fun c => (c.2.lane, c.2.sid, c.2.budget))

def Occ.sum (o : Occ) (l : Nat) : Nat := ((o.filter (fun e => e.1 == l)).map (fun e => e.2.2)).sum
def Occ.count (o : Occ) (l : Nat) : Nat := (o.filter (fun e => e.1 == l)).length

/-- A lane has room for a strand of a budget: eight slots, 128 registers (R22). -/
def Occ.room (o : Occ) (l b : Nat) : Bool := o.count l < Config.slotsPerLane && o.sum l + b ≤ 128

/-- The lowest free slot of a lane (R22). -/
def Occ.slot (o : Occ) (l : Nat) : Nat :=
  ((List.range 8).find? (fun i => !o.any (fun e => e.1 == l && e.2.1 == i))).getD 0

/-- The lane with the most free budget, lowest first, among those with room (R258). -/
def Occ.bestLane (o : Occ) (b : Nat) : Option Nat :=
  (List.range 64).foldl (fun best l =>
    if o.room l b then match best with
      | none => some l
      | some m => if o.sum l < o.sum m then some l else best
    else best) none

/-- A strand that is to be placed: role, index, budget, pinned. -/
structure Need where
  role : Nat
  idx : Nat
  budget : Nat
  pinned : Bool
  deriving DecidableEq, Repr

/-- A strand that is placed: its lane and slot. -/
structure Placed where
  need : Need
  lane : Nat
  sid : Nat
  deriving DecidableEq, Repr

/-- One strand is placed: pinned strand i on lane i (R23). -/
def Occ.place (o : Occ) (n : Need) : Option (Placed × Occ) :=
  let lane := if n.pinned then (if o.room n.idx n.budget then some n.idx else none) else o.bestLane n.budget
  lane.map (fun l => ({ need := n, lane := l, sid := o.slot l }, o ++ [(l, o.slot l, n.budget)]))

/-- Some strands in order, or none. -/
def Occ.placeInOrder (o : Occ) : List Need → Option (List Placed × Occ)
  | [] => some ([], o)
  | n :: ns =>
    match o.place n with
    | none => none
    | some (p, o) => (o.placeInOrder ns).map (fun r => (p :: r.1, r.2))

/-- The lanes that a strand may be tried on: with room for it, the one with the most free budget first, and one of those with as much. -/
def Occ.lanesFor (o : Occ) (n : Need) : List Nat :=
  if n.pinned then (if o.room n.idx n.budget then [n.idx] else [])
  else (List.range 8).filterMap (fun i => (List.range 64).find? (fun l => o.room l n.budget && o.sum l / 16 == i))

/-- Every placement of some strands is tried. -/
def Occ.search (o : Occ) : List Need → Option (List Placed × Occ)
  | [] => some ([], o)
  | n :: ns => (o.lanesFor n).findSome? (fun l =>
      (Occ.search (o ++ [(l, o.slot l, n.budget)]) ns).map (fun r => ({ need := n, lane := l, sid := o.slot l } :: r.1, r.2)))

/-- Pinned strands first, then by budget, the largest first. -/
def largestFirst (ns : List Need) : List Need :=
  ns.filter (·.pinned) ++ ((List.range 9).map (fun i => ns.filter (fun n => !n.pinned && n.budget / 16 == 8 - i))).flatten

/-- All of some strands at once, or none (R258): in order where that places them all, else by any placement that does, in their order. -/
def Occ.placeAll (o : Occ) (ns : List Need) : Option (List Placed × Occ) :=
  match o.placeInOrder ns with
  | some r => some r
  | none =>
    if 64 * 128 < (o.map (·.2.2)).sum + (ns.map (·.budget)).sum then none
    else (o.search (largestFirst ns)).map (fun r => (ns.filterMap (fun n => r.1.find? (fun p => p.need == n)), r.2))

/-- As many strands as have room; one that has none is passed over. -/
def Occ.placeSome (o : Occ) : List Need → List Placed × Occ
  | [] => ([], o)
  | n :: ns =>
    match o.place n with
    | none => o.placeSome ns
    | some (p, o) => let r := o.placeSome ns; (p :: r.1, r.2)

/-- Strands `lo` to `hi − 1` of a role. -/
def roleNeeds (r role lo hi : Nat) : List Need :=
  (List.range (hi - lo)).map (fun i => { role, idx := lo + i, budget := 16 * (roleRegs r + 1), pinned := rolePinned r })

/-- The valid roles of an image, with their numbers. -/
def Image.roles (m : Image) : List (Nat × Nat) := ((List.range 4).map (fun i => (i, m.role i))).filter (fun r => roleValid r.2)

/-! ### Rings (R239, R241, R258, R259) -/

/-- The rings on a core, but for some gang's: queue number, offset, bytes. -/
def State.ringsOn (s : State) (core : Nat) (but : Option Nat) : List (Nat × Nat × Nat) :=
  ((List.range 32).filter (fun q => descValid (s.desc core q) && but != some (s.book core q).gang)).map (fun q =>
    let d := s.desc core q
    (q, descBase d, ringBytes (bitsOf d 82 2) (bitsOf d 79 3)))

/-- First fit in the ring area. -/
def firstFit (rings : List (Nat × Nat × Nat)) (n : Nat) : Option Nat :=
  ((List.range 508).map (fun i => 0x70000 + 128 * i)).find? (fun a =>
    a + n ≤ 0x7FE00 && rings.all (fun r => a + n ≤ r.2.1 || r.2.1 + r.2.2 ≤ a))

/-- A queue that is to be bound: its number and bytes. -/
def placeRings (rings : List (Nat × Nat × Nat)) : List (Nat × Nat) → Option (List (Nat × Nat))
  | [] => some []
  | (q, n) :: rest =>
    if rings.any (fun r => r.1 == q) then none
    else match firstFit rings n with
      | none => none
      | some a => (placeRings (rings ++ [(q, a, n)]) rest).map (fun l => (q, a) :: l)

/-- The queues of a queue block. -/
def declRings (es : List W64) : List (Nat × Nat) := es.map (fun e => (declQn e, ringBytes (fieldOf e 53 2) (fieldOf e 55 3)))

/-- The queues of a saved gang. -/
def Gang.savedRings (g : Gang) : List (Nat × Nat) :=
  g.rings.map (fun r => let d := leNat ((List.range 16).map (fun i => SMap.get r.2 i)); (r.1, ringBytes (bitsOf d 82 2) (bitsOf d 79 3)))

/-! ### What fits a core (R258, R375) -/

/-- A core runs gangs of a virtual device: it is present, and its cluster belongs to the partition. -/
def State.coreFor (s : State) (core vd : Nat) : Bool :=
  let d := core / 32
  let bit := 16 * d + core % 32 / 2
  (s.die d).present && !(s.die d).fenced && (s.die d).cores.getLsbD (core % 32) && s.vdEn vd && s.partEn (s.vdPart vd) &&
    ((s.part (s.vdPart vd)).regs.get (1 + bit / 64)).getLsbD (bit % 64)

/-- Chart entries that resident gangs hold on a core (R294). -/
def State.chartsOn (s : State) (core : Nat) (but : Option Nat) : Nat :=
  (s.gangs.map (fun g => if g.2.present && g.2.core == core && but != some g.1 then g.2.charts.length else 0)).sum

/-- The matrix engine of a core is free, or held by the gang whose room counts. -/
def State.engineFree (s : State) (core : Nat) (but : Option Nat) : Bool :=
  match (s.core core).holder with
  | none => true
  | some g => but == some g

/-- The placement of a new gang: its strands and rings; nothing where it does not fit. -/
def State.planStart (s : State) (core vd h : Nat) (but : Option Nat) : Option (List Placed × List (Nat × Nat) × List W64) :=
  let m : Image := (List.range 16).map (fun i => s.recWord vd h i)
  let roles := m.roles
  let o := s.occupied core but
  match s.queueBlock core vd m with
  | none => none
  | some es =>
    if !s.coreFor core vd || (roles.any (fun r => rolePinned r.2) && !s.engineFree core but) ||
        Config.chartStore < s.chartsOn core but then none
    else match o.placeAll (roles.map (fun r => roleNeeds r.2 r.1 0 (roleMin r.2))).flatten, placeRings (s.ringsOn core but) (declRings es) with
      | some (ps, o), some rings =>
        some (ps ++ (o.placeSome (roles.map (fun r => roleNeeds r.2 r.1 (roleMin r.2) (roleMax r.2))).flatten).1, rings, es)
      | _, _ => none

/-- The role descriptor of a gang's role. -/
def State.roleOf (s : State) (vd h role : Nat) : Nat :=
  Image.role ((List.range 16).map (fun i => s.recWord vd h i)) role

/-- The placement of a saved gang. Renamed copies that its runs bring back (R90) are not tested against the 256 of the core (R77;
DESIGN CHOICE, log entry 91). -/
def State.planResume (s : State) (core g : Nat) : Option (List (Nat × Placed) × List (Nat × Nat)) :=
  let x := s.gang g
  let ks := s.strandsOf g
  let needs := ks.map (fun k =>
    let t := s.strand k
    ({ role := t.role, idx := t.idx, budget := t.budget, pinned := t.pinned } : Need))
  if !s.coreFor core x.vd || (x.matrix.isSome && !s.engineFree core none) || Config.chartStore < s.chartsOn core none + x.charts.length ||
      x.spad.any (fun b => (s.blocks.get Block.zero (core * 128 + b.1)).owner.isSome) then none
  else match (s.occupied core none).placeAll needs, placeRings (s.ringsOn core none) x.savedRings with
    | some (ps, _), some rings => some (ks.zip ps, rings)
    | _, _ => none

/-! ### Queues of a gang (R241, R259, R263) -/

/-- A queue is bound (R259 step 4). -/
def State.bindQueue (s : State) (core g : Nat) (e : W64) (base : Nat) : State :=
  let q := declQn e
  let d := (s.gang g).handle % 2 ^ 32 * 2 ^ 96 + base / 128 * 2 ^ 84 + fieldOf e 53 2 * 2 ^ 82 + fieldOf e 55 3 * 2 ^ 79 + 2 ^ 78 +
    fieldOf e 45 8 * 2 ^ 70
  (s.setDesc core q d).setBook core q { QueueBook.zero with gang := g }

/-- A gang's queues are unbound: ring bytes and descriptors become zero. -/
def State.unbindQueues (s : State) (g : Nat) : State :=
  let x := s.gang g
  let s := x.queues.foldl (fun s q =>
    let d := s.desc x.core q
    let s := { s with mem := SMap.clear s.mem (spadKey x.core (descBase d)) (ringBytes (bitsOf d 82 2) (bitsOf d 79 3)) }
    let s := s.setDesc x.core q 0
    s.setCore x.core { s.core x.core with books := (s.core x.core).books.erase q }) s
  s.setGang g { s.gang g with queues := [] }

/-! ### The matrix engine changes hands (R289, R290, R314) -/

/-- A gang that holds a core's engine lets it go: everything becomes zero. -/
def State.releaseEngine (s : State) (core g : Nat) : State :=
  let c := s.core core
  if c.holder == some g then s.setCore core { c with holder := none, matrix := Matrix.zero } else s

/-! ### Starting a gang (R65, R98, R259, R277) -/

/-- A strand at its start. -/
def State.newStrand (s : State) (g core : Nat) (p : Placed) : State :=
  let x := s.gang g
  let r := s.roleOf x.vd x.handle p.need.role
  let j := s.job (jobKeyOf x.vd x.job)
  let t : Strand := { Strand.zero with
    live := true, gang := g, role := p.need.role, idx := p.need.idx, core, lane := p.lane, sid := p.sid, budget := p.need.budget, pinned := p.need.pinned,
    pc := j.sbase + BitVec.ofNat 64 (roleSentry r), lbase := lbaseOf (j.lsbase + BitVec.ofNat 64 (roleLentry r)), replyVec := s.released.get [] g }
  s.setStrand (strandKeyOf g p.need.role p.need.idx)
    (((t.putS 2 (s.recordVa x.vd x.handle)).putS 3 x.arg).putS 4 (BitVec.ofNat 64 p.need.idx))

/-- The constellations that a role names, as numbers (R247). -/
def roleCons (r : Nat) : List Nat := ((List.range 4).filter (fun i => (roleCnv r).testBit i)).map (fun i => roleCn r i)

/-- A strand joins the constellations of its role; a failed join ends the task FAILED (R259 step 3). -/
def State.joinAll (s : State) (k : Nat) : List Nat → State
  | [] => s
  | cn :: rest =>
    match s.joinCon k cn with
    | some s => s.joinAll k rest
    | none =>
      let s := s.log (s.strand k).die ({ kind := 0x10, va := s.conVa k cn : Report }.ofGang (s.gangOf k))
      s.endGang (s.strand k).gang 2

/-- The slice length of a virtual device (R84). -/
def State.slice (s : State) (vd : Nat) : W32 := s.vdSlice vd

/-- A COUNT of 0 that is loaded expires at once (R86). -/
def dueOf (count : W32) : Nat := if count = 0 then 1 else 0

/-- A gang starts on a core at a placement; `adopter` for an adopted gang. Its strands acquire what made the task READY released (R259,
R264). -/
def State.startAt (s : State) (core vd h : Nat) (adopter : Option Nat) (plan : List Placed × List (Nat × Nat) × List W64) : State :=
  let g := gangKeyOf vd h
  let own := s.recPrio vd h
  let a := s.gang (adopter.getD 0)
  let w0 := setField (setField (s.recWord vd h 0) 60 4 stRunning) 58 1 (bitNat adopter.isSome)
  let s := s.recallVa vd 64 (shortVa (fieldOf (s.recWord vd h 1) 32 32))
  let s := (s.setRecWord vd h 0 w0).setLoc vd h (core / 32) (core % 32) 4
  let s := s.setGang g { Gang.zero with
    live := true, vd, handle := h, job := s.recJob vd h, core, prio := if adopter.isSome then max own a.prio else own,
    count := if adopter.isSome then a.count else s.slice vd, due := if adopter.isSome then a.due else dueOf (s.slice vd), depth := if adopter.isSome then a.depth + 1 else 0, adopter,
    waitTask := if adopter.isSome then a.handle else 0, arg := s.recWord vd h 3, queues := plan.2.1.map (·.1) }
  let s := if plan.1.any (fun p => p.need.pinned) then
      s.setCore core { s.core core with holder := some g, matrix := Matrix.zero } else s
  let s := (plan.2.2.zip plan.2.1).foldl (fun s e => s.bindQueue core g e.1 e.2.2) s
  let s := plan.1.foldl (fun s p => s.newStrand g core p) s
  let s := plan.1.foldl (fun s p =>
    let k := strandKeyOf g p.need.role p.need.idx
    if (s.strand k).live then s.joinAll k (roleCons (s.roleOf vd h p.need.role)) else s) s
  (s.strandsOf g).foldl (fun s k => s.acquireAt k .domain) s

/-- A gang starts on a core, where it fits. -/
def State.startGang (s : State) (core vd h : Nat) (adopter : Option Nat) : Option State :=
  (s.planStart core vd h none).map (fun p => s.startAt core vd h adopter p)

/-! ### Resuming a gang (R262, R277, R278, R358) -/

/-- A saved scratchpad block returns to its offset (R360). -/
def State.restoreBlock (s : State) (core g : Nat) (b : Nat × SMap 8 × SMap 1) : State :=
  let base := spadKey core (4096 * b.1)
  let s := { s with mem := SMap.clear s.mem base 4096, fe := SMap.clear s.fe (base / 16) 256 }
  let s := b.2.1.foldl (fun s e => s.setByte (base + e.1) e.2) s
  let s := b.2.2.foldl (fun s e => s.setFull (base + 16 * e.1) (e.2 == 1)) s
  { s with blocks := s.blocks.set (core * 128 + b.1) { owner := some g, lastVd := some (s.gang g).vd } }

/-- A saved ring is bound again at its queue number: the descriptor's sixteen bytes, then the ring's (R241). -/
def State.restoreRing (s : State) (core q base : Nat) (bytes : SMap 8) : State :=
  let d := leNat ((List.range 16).map (fun i => SMap.get bytes i))
  let s := s.setDesc core q (setBits d 84 12 (base / 128))
  let s := (bytes.filter (fun e => 16 ≤ e.1)).foldl (fun s e => s.setByte (spadKey core base + (e.1 - 16)) e.2) s
  s

/-- A parked FWAIT is issued again: it takes up its registration, and its core receives the owner anew (R277, R278); one that was answered while its
gang was saved completes. -/
def State.rewait (s : State) (k : Nat) : State :=
  match (s.strand k).wait with
  | .answered d v => (s.setStrand k { s.strand k with wait := .none }).answer k d v
  | .future pa _ d =>
    if s.cancelled k then { s.answer k d 1 with waiters := s.waiters.filter (fun w => w.strand != k) }
    else s.setStrand k { s.strand k with owner := some (futureOwner (s.readLE pa 16)) }
  | _ => s

/-- A strand ends with a status (R263, R283); its role gains no strand afterwards (R260). -/
def State.strandDone (s : State) (k : Nat) (status : W64) : State :=
  let t := s.strand k
  let s := s.endStrand k
  let g := s.gang t.gang
  (s.setGang t.gang { g with worst := max g.worst (min status.toNat 2), noAdd := (g.noAdd ++ [t.role]).eraseDups }).settleTask t.gang

/-- The parked parties of a cancelled task are discarded (R354): a strand ends as cancelled (log entry 75), a copy command goes with its
chunks in progress. -/
def State.discardParties (s : State) (gang : Nat) (which : Parked → Bool) : State :=
  let s := s.mapCopies (fun c => if c.gang == gang && c.parked.any (fun p => which p.1) then (if c.busy.isEmpty then none else some c.cut)
    else some c)
  (s.strandsOf gang).foldl (fun s k => if (s.strand k).parked.any which then s.strandDone k 1 else s) s

/-- In a context that is saved, or is being saved, the fault identifiers of a cancelled task's parties become unknown, as 0 is; the parties are
discarded as the gang resumes (R354; log entry 75). -/
def State.forgetParties (s : State) (gang : Nat) : State :=
  let s := s.mapCopies (fun c => some (if c.gang == gang then { c with parked := c.parked.map (fun p => ({ p.1 with fid := 0 }, p.2)) } else c))
  (s.strandsOf gang).foldl (fun s k => s.setStrand k { s.strand k with parked := (s.strand k).parked.map (fun p => { p with fid := 0 }) }) s

/-- A saved gang resumes on a core at a placement. -/
def State.resumeAt (s : State) (core g : Nat) (plan : List (Nat × Placed) × List (Nat × Nat)) : State :=
  let s := s.readBack g
  let x := s.gang g
  let v := s.vd x.vd
  let s := s.setVd x.vd { v with ctxUsed := v.ctxUsed.filter (fun b => !x.ctx.contains b) }
  let s := (s.setRecState x.vd x.handle stRunning).setLoc x.vd x.handle (core / 32) (core % 32) 4
  let s := s.setGang g { s.gang g with core, place := .resident, count := s.slice x.vd, due := dueOf (s.slice x.vd), ctx := [], matrix := none, mq := [], copies := [],
                                       spad := [], rings := [], books := [], queues := plan.2.map (·.1) }
  let s := x.spad.foldl (fun s b => s.restoreBlock core g b) s
  let s := plan.2.foldl (fun s q => match x.rings.find? (fun r => r.1 == q.1) with
    | some r => s.restoreRing core q.1 q.2 r.2
    | none => s) s
  let s := plan.2.foldl (fun s q => s.setBook core q.1 { x.books.get QueueBook.zero q.1 with gang := g, waits := [] }) s
  let c := s.core core
  let s := s.setCore core { c with
    holder := if x.matrix.isSome then some g else c.holder, matrix := x.matrix.getD c.matrix, mq := c.mq ++ x.mq, port := c.port ++ x.copies.map (fun (p : Copy) => { p with core }) }
  let s := plan.1.foldl (fun s p => s.setStrand p.1 { (s.strand p.1).general with core, lane := p.2.lane, sid := p.2.sid }) s
  let s := plan.1.foldl (fun s p =>
    let t := s.strand p.1
    (((s.setStrand p.1 { t with held := [] }).acquireAt p.1 .domain).sendHeld p.1 t.held).rewait p.1) s
  let s := if (s.job (jobKeyOf x.vd x.job)).cancelling then s.discardParties g (fun p => p.fid == 0) else s
  s.settleTask g

/-- A saved gang resumes on a core, where it fits. -/
def State.resumeGang (s : State) (core g : Nat) : Option State := (s.planResume core g).map (fun p => s.resumeAt core g p)

/-! ### Saving a gang (R356 to R360) -/

/-- Scratchpad blocks that a gang owns on its core. -/
def State.blocksOf (s : State) (g : Nat) : List Nat := (s.blocks.filter (fun b => b.2.owner == some g)).map (·.1)

/-- A gang's blocks are freed, their contents kept (R360). -/
def State.freeBlocks (s : State) (g : Nat) : State :=
  { s with blocks := s.blocks.map (fun (b : Nat × Block) => (b.1, if b.2.owner == some g then { b.2 with owner := none } else b.2)) }

/-- The contents of a range, by offset. -/
def rangeOf {w : Nat} (m : SMap w) (lo n : Nat) : SMap w := (m.filter (fun e => lo ≤ e.1 && e.1 < lo + n)).map (fun e => (e.1 - lo, e.2))

def State.blockImage (s : State) (blk : Nat) : Nat × SMap 8 × SMap 1 :=
  let base := spadKey (blk / 128) (4096 * (blk % 128))
  (blk % 128, rangeOf s.mem base 4096, rangeOf s.fe (base / 16) 256)

/-- A queue's descriptor and ring bytes (R358). -/
def State.ringImage (s : State) (core q : Nat) : Nat × SMap 8 :=
  let d := s.desc core q
  (q, rangeOf s.mem (queueKey core q) 16 ++
    (rangeOf s.mem (spadKey core (descBase d)) (ringBytes (bitsOf d 82 2) (bitsOf d 79 3))).map (fun e => (e.1 + 16, e.2)))

/-- The copy commands of a gang at its core's port and at the engines. -/
def State.copiesOf (s : State) (g : Nat) : List Copy :=
  (s.dies.map (fun d => ((d.2.engines.map (·.2)).flatten))).flatten.filter (fun c => c.gang == g) ++
    ((s.cores.map (fun c => c.2.port)).flatten).filter (fun c => c.gang == g)

/-- SIZE of a gang's context image while it is resident (R358). -/
def State.imageSize (s : State) (g : Nat) : Nat :=
  let x := s.gang g
  256 + ((s.strandsOf g).map (fun k => 8208 + 128 * (s.strand k).budget)).sum + 128 + 264 * x.charts.length +
    (if (s.core x.core).holder == some g then matrixBytes else 0) + 64 * (s.copiesOf g).length +
    (x.queues.map (fun q => let d := s.desc x.core q; 16 + ringBytes (bitsOf d 82 2) (bitsOf d 79 3))).sum + 4128 * (s.blocksOf g).length

/-- The free blocks of a context pool, lowest first. -/
def State.ctxFree (s : State) (vd : Nat) : List Nat :=
  (List.range (fieldOf (s.vdReg vd 4) 0 16)).filter (fun b => !(s.vd vd).ctxUsed.contains b)

/-- The reservation of the context blocks of a gang (R359). -/
def State.reserveCtx (s : State) (g : Nat) : Option State :=
  let x := s.gang g
  let n := (s.imageSize g + 65535) / 65536
  let free := s.ctxFree x.vd
  if free.length < n then none
  else
    let take := free.take n
    let s := s.setVd x.vd { s.vd x.vd with ctxUsed := (s.vd x.vd).ctxUsed ++ take }
    some (s.setGang g { x with ctx := take })

/-- The reservations of several gangs, all or none. -/
def State.reserveAll (s : State) : List Nat → Option State
  | [] => some s
  | g :: gs => match s.reserveCtx g with
    | some s => s.reserveAll gs
    | none => none

/-- A reservation that fails is logged: KIND 0x10 names the pool (R359). -/
def State.ctxError (s : State) (g : Nat) : State :=
  let x := s.gang g
  s.log (x.core / 32) ({ kind := 0x10, va := BitVec.ofNat 64 (fieldOf (s.vdReg x.vd 4) 16 48 * 65536) : Report }.ofGang x)

/-- The collector's stop (R356): a gang issues nothing further. -/
def State.collect (s : State) (g cause : Nat) : State := s.setGang g { s.gang g with place := .collecting cause }

/-- A gang and the gangs adopted beneath it are pre-empted (R278, R356); nothing where their blocks cannot be reserved. -/
def State.preempt (s : State) (g cause : Nat) : Option State :=
  let stack := (s.stackOf g).filter (fun x => (s.gang x).live && (s.gang x).place == .resident)
  (s.reserveAll stack).map (fun s => stack.foldl (fun s x => s.collect x (if x == g then cause else 4)) s)

/-- Every COUNT of a stack is reloaded with the slice length (R86, R87). -/
def State.reloadStack (s : State) (g : Nat) : State :=
  (s.stackOf g).foldl (fun s x => s.setGang x { s.gang x with count := s.slice (s.gang x).vd, due := dueOf (s.slice (s.gang x).vd) }) s

/-- A scalar load that has not returned is abandoned without effect, and issued again on resumption (R90). -/
def Flight.abandoned (f : Flight) : Bool := !f.lane && f.kind == .load

/-- The collector holds every acknowledgement (R356): nothing else is owed to the gang's strands, their other accesses are performed, no chunk
of its copy commands is in progress. -/
def State.collected (s : State) (g : Nat) : Bool :=
  (s.strandsOf g).all (fun k =>
    (match (s.strand k).wait with | .send _ => false | _ => true) &&
      (s.withdrawWaiting k).2.flights.all (fun f => f.strand != k || f.orphan || f.abandoned || (f.dest == .none && !f.unperformed))) &&
  (s.copiesOf g).all (fun c => c.busy.isEmpty)

/-- A scalar load that is the last instruction that the scalar stream has issued: the stream stops at it (R90). -/
def Strand.lastLoad (t : Strand) (f : Flight) : Bool :=
  f.abandoned && t.wait == .none && t.lastS == f.pc && t.pc == f.pc + 4 && f.inst + 1 == t.accs

/-- A strand's waits as its gang is saved (R90, R170, R237, R240, R244, R278): a parked FWAIT keeps its registration; every other
wait is withdrawn. A scalar load that stands last is to be executed again, others are to be sent again (log entry 71). What the strand has released
goes with it. -/
def State.saveStrand (s : State) (k : Nat) : State :=
  let t := s.strand k
  let keeps := match t.wait with | .future _ _ _ | .answered _ _ => true | _ => false
  let mine := s.waiters.filter (fun x => x.strand == k)
  let order := s.waiters
  let vec := s.strandVec k
  let load := fun (f : Flight) => f.strand == k && !f.orphan && f.abandoned
  let last := s.flights.any (fun f => load f && t.lastLoad f)
  let gone := fun f => s.heldAccess k false f || s.heldAccess k true f || load f
  let held := ((s.flights.filter gone).filter (fun f => (f.lane || f.dest == .none || load f) && !(load f && t.lastLoad f))).map
    (fun (f : Flight) => { f with granted := false, entry := 0, stage := f.firstStage })
  let s := ({ s with flights := s.flights.filter (fun f => !gone f) } : State).withdraw k
  let s := if keeps && !mine.isEmpty then { s with waiters := order } else s
  let u := s.strand k
  s.setStrand k { u with held := u.held ++ held, wait := if keeps then t.wait else .none, loopBuf := [], replyVec := vec, pc := if last then u.pc - 4 else u.pc,
                         accs := if last then u.accs - 1 else u.accs }

/-- The gang's engine commands and matrix state leave with it (R314, R335). -/
def State.saveEngines (s : State) (g : Nat) : State :=
  let x := s.gang g
  let c := s.core x.core
  let copies := s.copiesOf g
  let s := s.setGang g { x with matrix := if c.holder == some g then some { c.matrix with await := none, waited := 0, seen := [], panel := [] } else none, mq := c.mq.filter (fun m => m.gang == g), copies }
  let s := s.setCore x.core { c with mq := c.mq.filter (fun m => m.gang != g) }
  let s := { s with cores := s.cores.map (fun (c : Nat × Core) => (c.1, { c.2 with port := c.2.port.filter (fun p => p.gang != g) })),
                    dies := s.dies.map (fun (d : Nat × Die) => (d.1, { d.2 with
                      engines := d.2.engines.map (fun (e : Nat × List Copy) => (e.1, e.2.filter (fun p => p.gang != g))) })) }
  s.releaseEngine x.core g

/-- The context is written and the gang's resources are free (R356, R358, R360); its record is SUSPENDED. -/
def State.saveGang (s : State) (g : Nat) (place : GangPlace) (adopted : Bool) : State :=
  let s := (s.strandsOf g).foldl (fun s k => s.saveStrand k) s
  let s := s.saveEngines g
  let x := s.gang g
  let s := s.setGang g { x with
    spad := (s.blocksOf g).map (fun b => s.blockImage b), rings := x.queues.map (fun q => s.ringImage x.core q),
    books := x.queues.map (fun q => (q, s.book x.core q)) }
  let s := (s.freeBlocks g).unbindQueues g
  let s := (s.setGang g { s.gang g with place }).saveImage g
  let w := setField (setField (s.recWord x.vd x.handle 0) 60 4 stSuspended) 58 1 (bitNat adopted)
  s.setRecWord x.vd x.handle 0 w

/-! ### The end of a gang (R250, R263, R272, R286, R313) -/

/-- Every engine command and every access of a gang has completed (R263 step 1). -/
def State.gangIdle (s : State) (g : Nat) : Bool :=
  let x := s.gang g
  !(s.core x.core).mq.any (fun m => m.gang == g) && ((s.core x.core).holder != some g || (s.core x.core).matrix.run.isNone) &&
    (s.copiesOf g).isEmpty && !s.flights.any (fun f => (s.strand f.strand).gang == g)

/-- Locks, queues, blocks, chart entries and the engine are free (R238, R241, R263, R290, R360). -/
def State.dropGang (s : State) (g : Nat) : State :=
  let s := ((s.abandonLocks g).unbindQueues g).freeBlocks g
  let x := s.gang g
  let v := s.vd x.vd
  let s := s.setVd x.vd { v with ctxUsed := v.ctxUsed.filter (fun b => !x.ctx.contains b) }
  let s := s.releaseEngine x.core g
  let s := { s with gangs := s.gangs.map (fun (c : Nat × Gang) => (c.1, if c.2.adopter == some g then { c.2 with adopter := none } else c.2)) }
  s.setGang g { s.gang g with live := false, charts := [], ctx := [], spad := [], rings := [], matrix := none, mq := [], copies := [], taken := none }

/-- The handles of the overflow list of a record, and its address; nothing where it cannot be read or its count is 0 (R250). -/
def State.overflowList (s : State) (vd h : Nat) : Option (List Nat) :=
  let p := fieldOf (s.recWord vd h 7) 0 32
  if p == 0 then some []
  else
    let word (i : Nat) : Option Nat := (s.hwKey 128 vd needR (shortVa p + BitVec.ofNat 64 (4 * i)) false).map (fun k => s.readLE k 4)
    match word 0 with
    | none => none
    | some n =>
      if n == 0 || 65535 < n then none
      else (List.range n).foldr (fun i r => match r, word (i + 1) with
        | some l, some x => some (x :: l)
        | _, _ => none) (some [])

/-- Inline successors of a record (R246). -/
def State.inlineSuccs (s : State) (vd h : Nat) : List Nat :=
  (List.range (fieldOf (s.recWord vd h 0) 42 3)).map (fun i => fieldOf (s.recWord vd h (4 + i / 2)) (32 * (i % 2)) 32)

/-- The successors are decremented in order (R263, R264), and the gang's work is released to them: those that are left because their entry has no
room, whether a handle of no task has failed the job, with the logged address, and the state. -/
def State.releaseSuccs (s : State) (x : Gang) (logged : W64) : List Nat → List Nat × Bool × State
  | [] => ([], false, s)
  | h :: hs =>
    let jk := jobKeyOf x.vd x.job
    let err (va : W64) : State := s.log (x.core / 32) ({ kind := 0x10, va : Report }.ofGang x)
    if (s.recKey x.vd h).isNone then ([], true, (err logged).failJob jk)
    else match (s.releaseTo (gangKeyOf x.vd h) x.vec).decrement x.core x.vd h with
      | .full => (h :: hs, false, s)
      | .error => (err (s.recordVa x.vd h)).releaseSuccs x logged hs
      | .ok s => s.releaseSuccs x logged hs

/-- The successors of a task that ended DONE, inline ones first, as far as their entries have room (R250, R263, R264): what is left of the
retirement, nothing where every one has been decremented, or one has failed the job. -/
def State.allSuccs (s : State) (r : Retiring) : Option Retiring × State :=
  let x := r.gang
  match s.releaseSuccs x (s.recordVa x.vd x.handle) r.inline with
  | (_, true, s) => (none, s)
  | (h :: hs, false, s) => (some { r with inline := h :: hs }, s)
  | ([], false, s) =>
    let va := shortVa (fieldOf (s.recWord x.vd x.handle 7) 0 32)
    match r.listed, s.overflowList x.vd x.handle with
    | none, none => (none, (s.log (x.core / 32) ({ kind := 0x10, va : Report }.ofGang x)).failJob (jobKeyOf x.vd x.job))
    | listed, l =>
      match s.releaseSuccs x va (listed.getD (l.getD [])) with
      | (h :: hs, false, s) => (some { r with inline := [], listed := some (h :: hs) }, s)
      | (_, _, s) => (none, s)

/-- A record's bin, by its short pointer: its buffer is no longer busy (R263 step 4, R272). -/
def State.releaseBin (s : State) (vd h : Nat) : State :=
  let p := fieldOf (s.recWord vd h 1) 0 32
  if p == 0 then s
  else match s.hwKey 128 vd needRW (shortVa p) true with
    | none => s
    | some k =>
      let rbase := s.readLE k 4
      let i := h - rbase
      if rbase ≤ h && i < 16 then
        let w := s.readLE (k + 8) 8
        s.writeLE 999 (k + 8) 8 (if w.testBit (48 + i) then w - 2 ^ (48 + i) else w)
      else s

/-- What a task has acquired at its start is no longer needed: its record has ended for good. -/
def State.forgetReleased (s : State) (g : Nat) : State := { s with released := s.released.erase g }

/-- The last steps of a retirement (R263 step 4, R254). -/
def State.endRetire (s : State) (vd h job : Nat) : State :=
  ((s.releaseBin vd h).subLive (jobKeyOf vd job)).jobCheck (jobKeyOf vd job)

/-- A retirement goes on with its successors; it ends when every ready one holds an entry (R264). -/
def State.retireOn (s : State) (r : Retiring) : State :=
  let va := shortVa (fieldOf (s.recWord r.gang.vd r.gang.handle 7) 0 32)
  let s := match r.listed, s.overflowList r.gang.vd r.gang.handle with
    | none, some (_ :: hs) => (List.range (hs.length + 2)).foldl (fun (s : State) i => s.recallVa r.gang.vd 4 (va + BitVec.ofNat 64 (4 * i))) s
    | _, _ => s
  match s.allSuccs r with
  | (some r, s) => { s with retiring := s.retiring ++ [r] }
  | (none, s) => s.endRetire r.gang.vd r.gang.handle r.gang.job

/-- The retirement of a gang (R263). -/
def State.retire (s : State) (g : Nat) : State :=
  let x := s.gang g
  let jk := jobKeyOf x.vd x.job
  let s := (s.dropGang g).forgetReleased g
  let st := if x.worst == 0 then stRetired else if x.worst == 1 then stCancelled else stFailed
  let s := s.endRecord x.vd x.handle st
  if x.worst == 0 then
    s.retireOn { key := g, gang := { s.gang g with adopter := x.adopter }, inline := s.inlineSuccs x.vd x.handle, listed := none }
  else (if x.worst == 1 then s.cancelJob jk else s.failJob jk).endRetire x.vd x.handle x.job

/-- A gang is killed (R286, R313): its strands stop, its commands are withdrawn; the record is relaunched or fails;
nothing where its entry has no room. -/
def State.killGang (s : State) (g : Nat) : Option State :=
  let x := s.gang g
  let jk := jobKeyOf x.vd x.job
  let s := (s.strandsOf g).foldl State.endStrand s
  let s := s.setCore x.core { s.core x.core with mq := (s.core x.core).mq.filter (fun m => m.gang != g) }
  let s := { s with cores := s.cores.map (fun (c : Nat × Core) => (c.1, { c.2 with port := c.2.port.filter (fun p => p.gang != g) })),
                    dies := s.dies.map (fun (d : Nat × Die) => (d.1, { d.2 with
                      engines := d.2.engines.map (fun (e : Nat × List Copy) =>
                        (e.1, (e.2.filter (fun (p : Copy) => p.gang != g || !p.busy.isEmpty)).map (fun (p : Copy) => if p.gang == g then p.cut else p))) })) }
  let s := s.dropGang g
  let tries := s.recTries x.vd x.handle
  if s.recRestart x.vd x.handle && tries < 15 then
    let s := s.setRecField x.vd x.handle 0 38 4 (tries + 1)
    ((s.endRecord x.vd x.handle stFailed).setRecState x.vd x.handle stReady).enter (.core x.core) (s.entryOf x.vd x.handle false)
  else some (((((s.endRecord x.vd x.handle stFailed).forgetReleased g).failJob jk).subLive jk).jobCheck jk)

end Sys2Proof.Machine
end

