-- ==== Sys2Proof/Machine/Ports.lean ====
section
/-! DEFINITION. The link ports as the rest of the machine uses them: sending a flit, and the requests of this package to a peer (R15, R383
to R385). -/

namespace Sys2Proof.Machine

open Sys2Proof

def State.port (s : State) (k : Nat) : Port := s.ports.get Port.reset k
def State.setPort (s : State) (k : Nat) (p : Port) : State := { s with ports := s.ports.set k p }

/-- The port sends and receives flits. -/
def Port.up (p : Port) : Bool := p.trained && !p.resetting

/-- The die of a port (R15). -/
def portDie (k : Nat) : Nat :=
  match k with
  | 0 => 4 | 1 => 1 | 2 => 3 | 3 => 5 | _ => 7

/-- The arbiter of a port, for flits (R378). -/
def portArbiter (k : Nat) : Arbiter := { share := .fabric, die := portDie k, unit := 40 + k }

/-- What a request asks, as numbers. -/
def reqCode : ReqKind → List Nat
  | .atom op ty cmp ret => [20 + op.ctorIdx, ty.ctorIdx, cmp, bitNat ret]
  | .inkAdd ty => [1, ty.ctorIdx]
  | .inkRead ty => [2, ty.ctorIdx]
  | .inkClr => [3]
  | .ldx => [4]
  | .line => [5]
  | .ntStore => [6]
  | _ => []

/-- Bytes 0 to 119 of a flit (R384): the sequence number and the type, then fields and a payload whose layouts are not given. -/
def flitBody (type : Nat) (f : Flit) : List Byte :=
  leBytes 2 (f.seq % 4096 + 4096 * (type % 16)) ++
  leBytes 6 (Config.flitFields [f.ack, bitNat f.nak, f.creditReq, f.creditRep, f.epoch, f.vd]).toNat ++
  leBytes 112 (Config.flitPayload ([bitNat f.wr, f.pa, f.src, f.tag, f.ev, f.prio, f.mask, bitNat f.more] ++ reqCode f.op ++ f.data.map (·.toNat))).toNat

/-- The 128 bytes of a flit (R384). -/
def flitImage (type : Nat) (f : Flit) : List Byte := flitBody type f ++ leBytes 8 f.crc.toNat

/-- The CRC of a flit holds (R384, R385). -/
def flitOk (type : Nat) (f : Flit) : Bool := f.crc == Config.crc64 (flitBody type f)

/-- A flit leaves a port: it takes the next sequence number, and stays in the replay buffer until it is acknowledged; every flit
carries the number last accepted, and its CRC (R384, R385). A request or a reply costs a token (R378). -/
def State.sendFlit (s : State) (k type : Nat) (f : Flit) : State :=
  let p := s.port k
  let f := { f with seq := p.txSeq, ack := if f.nak then p.rxNext else (p.rxNext + 4095) % 4096 }
  let f := { f with crc := Config.crc64 (flitBody type f) }
  let s := if type == 1 || type == 2 then s.charge (portArbiter k) f.vd 1 else s
  { s.setPort k { p with txSeq := (p.txSeq + 1) % 4096, replay := p.replay ++ [(type, f)],
                         usedReq := p.usedReq + bitNat (type == 1), usedRep := p.usedRep + bitNat (type == 2) } with
    outbox := s.outbox ++ [.flit k type f] }

/-- A flit without a payload. -/
def Flit.empty : Flit :=
  { seq := 0, ack := 0, nak := false, creditReq := 0, creditRep := 0, epoch := 0, vd := 0, crc := 0, wr := false, op := .load,
    pa := 0, src := 0, tag := 0, ev := 0, prio := 0, mask := 0, more := false, data := [] }

/-- The port that a request to an address of a peer takes: among the usable ones the one at PA[47:7] mod their number (R383). -/
def State.portFor (s : State) (pa : Nat) : Option Nat :=
  let ps := s.routes (pkgOf pa)
  ps[(within pa / 128) % ps.length]?

/-- EPOCH of the partition of a virtual device (R374, R384). -/
def State.epochOf (s : State) (vd : Nat) : Nat := fieldOf ((s.part (s.vdPart vd)).regs.get 0) 58 3

/-- Data in pieces that a flit's payload of 112 bytes holds beside what it says of the access (R384; 64 bytes, DESIGN CHOICE, log entry 10). -/
def flitData (d : List Byte) : List (List Byte) := (List.range (max 1 ((d.length + 63) / 64))).map (fun i => (d.drop (64 * i)).take 64)

/-- A request or a reply leaves in as many flits as its data need; the last returns what credits it returns. -/
def State.sendFlits (s : State) (k type : Nat) (f : Flit) : State :=
  let ds := flitData f.data
  (indexed ds).foldl (fun s d =>
    let more := d.1 + 1 < ds.length
    s.sendFlit k type { f with data := d.2, more, creditReq := if more then 0 else f.creditReq, creditRep := if more then 0 else f.creditRep }) s

/-- A port can take n flits of a channel: it is up, has places in its replay buffer, and holds the credits (R384, R385). -/
def State.portRoom (s : State) (k type n : Nat) : Bool :=
  let p := s.port k
  p.up && p.replay.length + n ≤ 1024 && (if type == 1 then p.usedReq + n ≤ p.creditReq else p.usedRep + n ≤ p.creditRep)

/-- Bytes of a request's value on a link: for an inkwell, those of the operand or the result (R221). -/
def Flight.wire (f : Flight) : Nat :=
  match f.kind with
  | .inkAdd _ | .inkRead _ | .inkClr => 8
  | _ => f.bytes

/-- The first byte that some accesses of a line reach, and the bytes up to the last. -/
def spanOf (fs : List Flight) : Nat × Nat :=
  let lo := (fs.map (·.key)).foldl min ((fs.map (·.key)).headD 0)
  (lo, (fs.map (fun f => f.key + f.wire)).foldl max lo - lo)

/-- The bytes, from an address, that some accesses reach. -/
def maskOf (lo : Nat) (fs : List Flight) : Nat := fs.foldl (fun m f => m ||| ((2 ^ f.wire - 1) * 2 ^ (f.key - lo))) 0

/-- n bytes from an address as some accesses give them, the later over the earlier. -/
def bytesOf (lo n : Nat) (fs : List Flight) (val : Flight → Nat) : List Byte :=
  fs.foldl (fun l f => patchBytes l (f.key - lo) (leBytes f.wire (val f))) (List.replicate n 0)

/-- The number that a request to a peer goes by: its tag, or for a read without a tag the number of its first access (R210). -/
def Flight.number (h : Flight) : Nat := if h.tagged then h.tag else h.id

/-- The bytes that the request of some accesses reaches: where the answer enters an L1, the line (R161). -/
def requestSpan (h : Flight) (fs : List Flight) : Nat × Nat := if h.mayHit then (h.key / 128 * 128, 128) else spanOf fs

/-- The request of some accesses of one line, with the source and the tag of R210 (R162, R163, R384). -/
def State.requestFlit (s : State) (h : Flight) (fs : List Flight) : Flit :=
  let sp := requestSpan h fs
  { Flit.empty with wr := h.kind.writes, op := h.kind, pa := sp.1, src := s.flightSrc h, vd := s.vdOf h, epoch := s.epochOf (s.vdOf h),
                    tag := h.number, ev := h.ev, prio := s.prioOf h,
                    mask := if h.mayHit then 2 ^ 128 - 1 else maskOf sp.1 fs,
                    data := if h.kind.writes then bytesOf sp.1 sp.2 fs (·.data) else [] }

/-- A request that waits for a port of its package. -/
def State.awaitsPort (s : State) (k : Nat) (f : Flight) : Bool :=
  f.stage == .home && !s.performsHere f && s.portFor f.key == some k && s.unblocked f

/-- No request that waits for the port is before this one at its arbiter (R379). -/
def State.winsPort (s : State) (k : Nat) (f : Flight) : Bool :=
  let rivals := s.flights.filter (s.awaitsPort k)
  let asking := rivals.map s.vdOf
  let rank (g : Flight) : Nat := s.rankAt (portArbiter k) asking (s.vdOf g) (s.prioOf g)
  rivals.all (fun g => rank g ≤ rank f)

/-- The accesses that leave with the first of an entry: nothing holds one back but those before it. -/
def State.together (s : State) : List Flight → List Flight → List Flight
  | [], got => got
  | f :: fs, got => s.together fs (if s.unblockedBut f (fun g => got.any (fun x => x.id == g.id)) then got ++ [f] else got)

/-- A request crosses the link to its peer: flits of type 1, which take credits (R378, R383, R384). What another access still holds back goes as a
request of its own. -/
def State.sendPeer (s : State) (f : Flight) : State :=
  match s.portFor f.key, s.together (s.mates f) [] with
  | none, _ => s.refuse f
  | some _, [] => s
  | some k, h :: fs =>
    let q := s.requestFlit h (h :: fs)
    if s.portRoom k 1 (flitData q.data).length && s.winsPort k h then
      ({ s with flights := s.flights.map (fun (g : Flight) =>
          if (h :: fs).any (fun x => x.id == g.id) then { g with stage := .link, tag := q.tag } else g) } : State).sendFlits k 1 q
        |>.leaveBehind f
    else s

/-! ### Agents that ask over a link (R156, R183, R206, R210, R383) -/

/-- The request of an agent that is no strand. -/
def agentFlight (a : Agent) (kind : ReqKind) (key bytes data ev thread entry tag : Nat) (stage : Stage) (id : Nat) : Flight :=
  { id, strand := 2 ^ 60 + id, lane := false, inst := 0, bound := 0, thread, kind, va := 0, key, bytes, data, qual := .plain, ord := .rlx,
    scope := .strand, ev, sx := false, dest := .none, stage, value := 0, vec := [], watch := false, pc := 0, orphan := false, entry, tag,
    granted := false, pbase := 0, plog := 0, agent := some a }

/-- A request of an agent starts. -/
def State.launchAgent (s : State) (f : Flight) : State :=
  let (f, s) := s.takeTag { f with id := s.nextId, strand := 2 ^ 60 + s.nextId }
  { s with flights := s.flights ++ [f], nextId := s.nextId + 1 }

/-- How what an agent asks of a peer stands. -/
inductive Asked where
  | answer
  | error
  | wait
  deriving DecidableEq, Repr

/-- An agent asks a peer package for bytes, or writes them there (`thread` tells its requests apart): the answer, once it has come. The bytes that a
peer has answered with stand in `mem`, whose contents at peers' addresses are what this package last had of them. -/
def State.askPeer (s : State) (a : Agent) (kind : ReqKind) (key bytes data ev thread : Nat) : Asked × State :=
  let q := agentFlight a kind key bytes data ev thread 0 0 .home 0
  match s.flights.find? (fun f => (f.agent.map (·.who)) == some a.who && f.kind == kind && f.key == key && f.bytes == bytes && f.thread == thread) with
  | some f =>
    match f.stage with
    | .reply | .ack => (.answer, s)
    | .err => (.error, s)
    | _ => (.wait, s)
  | none => (.wait, if q.tagged && !s.tagFree q then s else s.launchAgent q)

/-- An agent asks for the lines that hold n bytes; `thread` as above. -/
def State.askLines (s : State) (a : Agent) (key n ev thread : Nat) : Asked × State :=
  (List.range ((key % 128 + n + 127) / 128)).foldl (fun r i =>
    let x := r.2.askPeer a .load (128 * (key / 128 + i)) 128 0 ev thread
    (match r.1, x.1 with
      | .error, _ | _, .error => .error
      | .wait, _ | _, .wait => .wait
      | _, _ => .answer, x.2)) (.answer, s)

/-- What an agent has asked for is forgotten. -/
def State.dropAsks (s : State) (p : Flight → Asker → Bool) : State :=
  { s with flights := s.flights.filter (fun f => !(match f.agent with | some a => p f a.who | none => false)) }

/-- The walker of a die, and its request for an entry that a peer package holds (R183, R383). -/
def State.walkAsk (s : State) (die vd pa : Nat) : State :=
  (s.askPeer { who := .walker die, src := s.srcOf (480 + die), vd, prio := 0 } .load pa 8 0 0 0).2

/-! ### The legs of a request's way (R161 to R163, R169, R189, R197, R202, R209) -/

/-- A write leaves its core: it takes its vector and its tag; a store updates the L1 of its core as it passes (R161, R198, R210). One to
a scratchpad has reached its port, which takes it or refuses it (R155, R202). One to an address that this package's configuration shows to
hold nothing is answered at the requester's die (R156). -/
def State.leaveCore (s : State) (f : Flight) : State :=
  let f := { f with vec := s.leaveVec f }
  if isSpad f.key then
    match s.portTakes f with
    | some s => s.moveFlight { f with stage := .home, granted := true }
    | none => s.setFlight { f with stage := .err }
  else if s.nowhere f.key then s.refuse f
  else
    let (f, s) := s.takeTag f
    let s := s.moveFlight { f with stage := .home }
    if f.passesL1 then s.patchL1 (s.flightCore f) f.key f.ev f.vec (leBytes f.bytes f.data) else s

/-- An access arrives at its scratchpad port: it is refused, performed, or waits in the port's table (R154, R155, R168, R169). -/
def State.arrivePort (s : State) (f : Flight) : Option State :=
  if !s.unblocked f then none
  else
    let taken : Option State := if f.granted then some s else s.portTakes f
    match taken with
    | none => some (s.setFlight { f with stage := .err })
    | some t =>
      if s.eccBad f.key then some (s.setFlight { f with stage := .err })
      else if t.mayPerform f then some (t.performSpad f)
      else if f.mayWait && t.waitCount (spadCore f.key) < Config.waitTable then some (t.moveFlight { f with stage := .waiting, granted := true })
      else if f.granted then none else some (t.setFlight { f with granted := true })

/-- A request may take its place at its home, where requests stand in the order in which they come: nothing but what goes with it holds it back
(R170, R189, R190, R209). -/
def State.mayQueue (s : State) (f : Flight) : Bool :=
  s.unblockedBut f (fun g => f.entry != 0 && g.entry == f.entry && g.stage == .queued)

/-- The next leg of a request, where it can go on. -/
def State.leg (s : State) (f : Flight) : Option State :=
  match f.stage with
  | .held =>
    if f.kind == .ldx then (if s.ldxCount (s.flightCore f) < 512 then some (s.enterBin f) else none)
    else if s.mayEnter f then some (s.moveFlight { f with stage := .bank }) else none
  | .bank => if s.bankHead f && (isSpad f.key || s.tagFree f) then some (s.leaveCore f) else none
  | .l1 => if (s.l1Line f).isNone || s.mayBind f then some (s.lookL1 f) else none
  | .home =>
    if isSpad f.key then s.arrivePort f
    else if f.agent.isNone && s.region f.key == .control then (if s.unblocked f then some (s.performControl f) else none)
    else if s.nowhere f.key then some (s.refuse f)
    else if !s.mayQueue f || !s.mayJoin f || (!f.kind.writes && !s.tagFree f && f.tagged && !f.ofPeer) then none
    else
      let (f, s) := if f.kind.writes then (f, s) else s.takeTag f
      some (s.moveFlight { f with stage := .queued })
  | .waiting => if s.eccBad f.key then some (s.setFlight { f with stage := .err }) else if s.mayPerform f then some (s.performSpad f) else none
  | _ => none

/-- A request, with those that go with it, takes its next leg; what cannot come along goes as a request of its own. -/
def State.arrive (s : State) (f : Flight) : State :=
  if f.stage == .queued then s.performGroup f
  else if f.stage == .home && !s.performsHere f && !s.nowhere f.key then s.sendPeer f
  else
    let t := (s.mates f).foldl (fun s g => match s.flight? g.id with
      | some h => if h.stage == f.stage then (s.leg h).getD s else s
      | none => s) s
    if (t.mates f).length < (s.mates f).length then t.leaveBehind f else t

end Sys2Proof.Machine
end

