-- ==== Sys2Proof/Machine/Charts.lean ====
section
/-! DEFINITION. Tensor charts (R291 to R294), the accesses of the engines to memory (R181, R183, R307, R317, R332, R360, R369),
and the words of a command's status. -/

namespace Sys2Proof.Machine

open Sys2Proof

/-! ### Charts (R291 to R293) -/

def Chart.word (c : Chart) (i : Nat) : W64 := c.words.getD i 0
def Chart.fmtCode (c : Chart) : Nat := fieldOf (c.word 0) 59 5
def Chart.rank (c : Chart) : Nat := fieldOf (c.word 0) 54 5
def Chart.sparse (c : Chart) : Nat := fieldOf (c.word 0) 52 2
def Chart.nnz (c : Chart) : Nat := fieldOf (c.word 0) 47 5
def Chart.seed (c : Chart) : W32 := (c.word 0).setWidth 32
def Chart.base (c : Chart) : W64 := c.word 1
def Chart.scaleVa (c : Chart) : W64 := c.word 2
def Chart.superVa (c : Chart) : W64 := c.word 3
def Chart.scst (c : Chart) : Nat := fieldOf (c.word 4) 0 32
def Chart.ssst (c : Chart) : Nat := fieldOf (c.word 4) 32 32
def Chart.size (c : Chart) (d : Nat) : Nat := fieldOf (c.word (8 + d / 2)) (32 * (d % 2)) 32
def Chart.stride (c : Chart) (d : Nat) : Int := (c.word (16 + d)).toInt

/-- An element format of a chart: the scalar formats but none and the paired ones, and the narrow ones. -/
def chartFmt (code : Nat) : Option Fmt :=
  match Fmt.ofNf (BitVec.ofNat 5 code) with
  | some .none | some .f16x2 | some .bf16x2 | none => none
  | some f => some f

def Chart.fmt (c : Chart) : Fmt := (chartFmt c.fmtCode).getD .none

def isFmt4 (f : Fmt) : Bool := f == .s4 || f == .z4 || f == .n4

/-- Bytes of an element; 1 for a 4-bit format (R291). -/
def elemBytes (f : Fmt) : Nat := max 1 (f.bits / 8)

def blockedFmt (f : Fmt) : Bool := f == .k8 || f == .n4

/-- The formats that N-of-32 and bitmap allow (R293). -/
def sparseFmt (ns : Bool) (f : Fmt) : Bool :=
  f == .f16 || f == .bf16 || f == .e4m3 || f == .e5m2 || f == .s8 || f == .s4 || (ns && blockedFmt f)

/-- A well-formed descriptor (R293). -/
def Chart.wellFormed (c : Chart) : Bool :=
  let f := c.fmt
  (chartFmt c.fmtCode).isSome && 1 ≤ c.rank && c.rank ≤ 16 && c.sparse ≤ 2 &&
    (if c.sparse == 1 then 1 ≤ c.nnz && c.nnz ≤ 16 else c.nnz == 0) && fieldOf (c.word 0) 32 15 == 0 &&
    fieldOf c.base 56 8 == 0 && c.base.toNat % elemBytes f == 0 && (blockedFmt f || c.scaleVa == 0) &&
    (if f == .n4 then c.superVa.toNat % 4 == 0 else c.superVa == 0) &&
    c.word 5 == 0 && c.word 6 == 0 && c.word 7 == 0 &&
    (List.range 16).all (fun d => if d < c.rank then c.size d != 0 else c.size d == 0 && c.word (16 + d) == 0) &&
    (!blockedFmt f || (2 ≤ c.rank && c.word 16 == 1)) &&
    (c.sparse != 1 || (2 ≤ c.rank && sparseFmt true f)) && (c.sparse != 2 || (c.rank == 1 && sparseFmt false f))

/-- The offset of an element by its indices (R292). -/
def Chart.offset (c : Chart) (idx : List Nat) : Int :=
  ((List.range c.rank).map (fun d => (idx.getD d 0 : Int) * c.stride d)).sum

/-- An index is in range in every dimension; a chart has one index in each dimension that it lacks (DEDUCED, log entry 14). -/
def Chart.inRange (c : Chart) (idx : List Nat) : Bool :=
  (List.range (max c.rank idx.length)).all (fun d => idx.getD d 0 < (if d < c.rank then c.size d else 1))

/-- The byte of an element at an offset (R292). -/
def Chart.addr (c : Chart) (e : Int) : W64 :=
  c.base + BitVec.ofInt 64 (if isFmt4 c.fmt then e / 2 else e * elemBytes c.fmt)

/-- The zero of a format (R292). -/
def zeroCode (f : Fmt) : Nat := if f == .n4 then 8 else 0

/-- An element within the byte or bytes at its address: a nibble of 4-bit formats (R131, R292). -/
def Chart.elemOf (c : Chart) (e : Int) (v : Nat) : Nat :=
  if isFmt4 c.fmt then (if e % 2 = 0 then v % 16 else v / 16 % 16) else v % 2 ^ c.fmt.bits

/-! ### Accesses of the engines -/

/-- The outcome of an engine's access. -/
inductive EngRes where
  | ok (v : Nat)
  /-- a failing Check, by kind -/
  | fault (xkind : Nat)
  /-- an error response -/
  | error
  /-- the bank is in its refresh window -/
  | wait
  deriving DecidableEq, Repr

/-- The translations that an engine has cached: a copy engine's stand with its die, as unit 8 + e here; WLOAD's with its core (R183). -/
def State.engineTlb (s : State) (core : Nat) (units : List Nat) (vd : Nat) (va : W64) : Option TlbEntry :=
  match units.filter (fun u => 8 ≤ u) with
  | [] => (s.core core).tlbFind units vd va
  | es => tlbLook (s.die (core / 32)).tlb (es.map (· - 8)) vd va

/-- A translation that an engine keeps: 64 entries for each copy engine (R183). -/
def State.engineFill (s : State) (core : Nat) (units : List Nat) (vd : Nat) (va pte : W64) : State :=
  let die := core / 32
  let s := s.tlbFill core (units.filter (· < 8)) vd va pte
  let d := s.die die
  s.setDie die { d with tlb := (units.filter (fun u => 8 ≤ u)).foldl (fun l u => tlbPut l 64 (tlbEntryOf (u - 8) vd va pte)) d.tlb }

/-- An access of an engine: the core, gang and strand that it works for, the units that keep its translations, the number of its command, and what
tells the requests of the command apart. -/
structure EngAccess where
  core : Nat
  gang : Nat
  strand : Nat
  units : List Nat
  id : Nat
  thr : Nat
  deriving DecidableEq, Repr

/-- The engine of an access as a source of requests: a copy engine, or the core for its matrix engine (R210). -/
def State.engineAgent (s : State) (x : EngAccess) : Agent :=
  { who := .command x.id, vd := (s.gang x.gang).vd, prio := (s.gang x.gang).prio,
    src := s.srcOf (match x.units.filter (fun u => 8 ≤ u) with | u :: _ => 288 + 8 * (x.core / 32) + (u - 8) | [] => x.core) }

/-- Check of an engine's access: the units that keep its translations; a miss walks (R183), and waits where the walk waits for a bank (R167), a slice
(R379) or a peer (R383). -/
def State.engineCheck (s : State) (x : EngAccess) (need : Nat) (va : W64) : Trans × State :=
  let vd := (s.gang x.gang).vd
  match s.checkWith x.core need va (s.engineTlb x.core x.units vd va) with
  | .miss =>
    let w := s.walkVa (x.core / 32) vd va
    if !s.walkTurn (x.core / 32) vd w then (.miss, s)
    else
      let s := s.afterWalk (x.core / 32) vd w
      match w.fin with
      | .leaf pte =>
        let s := if x.units.isEmpty then s else s.engineFill x.core x.units vd va pte
        (if permits pte need then .key (leafPa pte va) else .fault xkPerm, s)
      | .notMapped => (.fault xkNotMapped, s)
      | .malformed => (.fault xkMalformed, s)
      | .error _ => (.err, s)
      | .wait => (.miss, s)
      | .ask pa => (.miss, s.walkAsk (x.core / 32) vd pa)
  | r => (r, s)

/-- The key of an engine's access of n bytes for a gang, judged as an access of the gang by a strand (R27, R317, R360). -/
def State.engineKey (s : State) (x : EngAccess) (need n : Nat) (va : W64) : EngRes × State :=
  let vd := (s.gang x.gang).vd
  let write := need.testBit 3
  match s.engineCheck x need va with
  | (.key k, s) =>
    if isSpad k then
      match s.spadAccess x.strand x.gang k n (apertureSel va != 0) write (s.isSup x.strand) with
      | some s => (.ok k, s)
      | none => (.error, s)
    else match s.region k with
      | .control => (.ok k, s)
      | .edram d o =>
        let own := pkgOf k == s.pkgnum.toNat
        if !s.paOk k || (write && own && s.edramHeld d o) then (.error, s)
        else if !write && s.anyRefreshing k n then (.wait, s) else (.ok k, s)
      | _ => if !s.paOk k || s.vdRefused vd k then (.error, s) else (.ok k, s)
  | (.fault x, s) => (.fault x, s)
  | (.miss, s) => (.wait, s)
  | (_, s) => (.error, s)

/-- A line is reached in the step under way. The elements of a bin that lie in one line are one line access; a bin holds 64 elements of a home
(R163). -/
def State.reached (s : State) (line : Nat) : State :=
  let b := s.burst ++ [line]
  let home (l : Nat) : Nat := s.homeKey (128 * l)
  { s with burst := if 64 ≤ (b.filter (fun l => home l == home line)).length then b.filter (fun l => home l != home line) else b }

/-- A line of this package is reached by an engine, at a home slice: its turn at the arbiter, a token, and a way with eviction priority 4, which R317
gives for the copy engines and the model takes for the matrix engine too (R378 to R380; log entries 58, 90). Nothing where the slice serves others first. -/
def State.engineGrant (s : State) (x : EngAccess) (k n : Nat) : Option State :=
  let vd := (s.gang x.gang).vd
  let lines := (List.range ((k % 128 + n + 127) / 128)).map (fun i => k / 128 + i)
  if lines.all (fun l => s.burst.contains l || s.sliceTurn (128 * l) vd (s.gang x.gang).prio) then
    some (lines.foldl (fun s l => (if s.burst.contains l then s else s.sliceGrant (128 * l) vd 4).reached l) s)
  else none

/-- An engine reads n bytes within a page: the control space, this package's memory, or over a link a peer's (R317, R369, R383). -/
def State.engineRead (s : State) (x : EngAccess) (n : Nat) (va : W64) : EngRes × State :=
  match s.engineKey x needR n va with
  | (.ok k, s) =>
    if isSpad k then (.ok (s.readLE k n), s)
    else if s.region k == .control then
      if n == 8 && k % 8 == 0 && pkgOf k == s.pkgnum.toNat && s.csMayRead x.strand (within k) then
        match s.csRead (within k) with
        | .value w => (.ok w.toNat, s)
        | .free => (.ok (Config.freeWord s.free).toNat, { s with free := s.free + 1 })
        | .nothing => (.error, s)
      else (.error, s)
    else if pkgOf k == s.pkgnum.toNat then
      match s.engineGrant x k n with
      | some s => (.ok (s.readLE k n), s.recallAll k n)
      | none => (.wait, s)
    else match s.askLines (s.engineAgent x) k n 4 x.thr with
      | (.answer, s) => (.ok (s.readLE k n), s)
      | (.error, s) => (.error, s)
      | (.wait, s) => (.wait, s)
  | r => r

/-- What stays of a step whose access waits: what it has asked for and translated. Its grants come again with the access. -/
def State.waitingAs (s t : State) : State := { t with slices := s.slices, buckets := s.buckets, burst := s.burst }

/-- The engines work for a gang: it is resident, and the collector has not stopped it (R314, R335, R356, R365). -/
def State.gangRuns (s : State) (g : Nat) : Bool :=
  let x := s.gang g
  x.live && x.place == .resident && !x.halted

/-- The scalar stores that precede a command in its strand have been performed (R81, R320). -/
def State.storesDone (s : State) (strand bound : Nat) : Bool :=
  !s.flights.any (fun f => f.strand == strand && !f.lane && f.kind.writes && f.unperformed && f.inst ≤ bound)

/-! ### A command's status -/

/-- No L1 keeps a line: the invalidations of an engine's write are performed with it (R206). -/
def State.dropLine (s : State) (line : Nat) : State :=
  { s with cores := s.cores.map (fun (c : Nat × Core) => (c.1, { c.2 with l1 := c.2.l1.filter (fun l => l.line != line) })) }

/-- An engine writes n bytes at an address, performed at its home together with the invalidations it causes (R206, R319): no L1
keeps the line. A write of a command that follows a release fence waits until its home covers what the fence released (R74, R193). Each
write carries a tag (R210). One to a peer crosses a link, and is performed when the peer has acknowledged it (R383). -/
def State.engineWrite (s : State) (x : EngAccess) (n v : Nat) (va : W64) : EngRes × State :=
  match s.engineKey x needW n va with
  | (.ok k, s) =>
    if isSpad k then (.ok k, (s.storeSpad k (leBytes n v)).satisfy k)
    else if s.region k == .control then (.error, s)
    else if pkgOf k != s.pkgnum.toNat then
      match s.askPeer (s.engineAgent x) .store k n v 4 x.thr with
      | (.answer, s) => (.ok k, s.dropLine (k / 128))
      | (.error, s) => (.error, s)
      | (.wait, s) => (.wait, s)
    else if !vecCovers (s.sendVec (s.homeOf k).1) (s.strand x.strand).relVec || !s.clockRoom (s.homeOf k).1 then (.wait, s)
    else match s.engineGrant x k n with
      | none => (.wait, s)
      | some s =>
        let s := (((s.recallAll k n).storeBytes k (leBytes n v)).dropLine (k / 128)).tagWrite (s.engineAgent x).src k
        (.ok k, s.wakeWfe (fun _ mask pa => mask.testBit 2 && pa / 128 == k / 128))
  | r => r

/-- A command is refused: ERROR, with a log entry that names an address (R305, R318, R355). -/
def State.refuseCmd (s : State) (d : SReg) (va : W64) : State := s.statusError d va

/-- The chart of an entry of a gang. -/
def Gang.chart? (g : Gang) (e : Nat) : Option Chart := (g.charts.find? (fun c => c.1 == e)).map (·.2)

/-- A CHART or `chart.free` of an entry has not completed, so no command that names it is accepted (R294). -/
def State.chartPending (s : State) (core gang e : Nat) : Bool :=
  (s.core core).mq.any (fun m => m.gang == gang && (match m.op with
    | .chart n _ => n == e
    | .chartFree n => n == e
    | _ => false))

end Sys2Proof.Machine
end

