-- ==== Sys2Proof/Machine/Copies.lean ====
section
/-! DEFINITION. Copy commands (R319 to R336): their units of work, conversion, ranges and chunks, faults, reports and ends. -/

namespace Sys2Proof.Machine

open Sys2Proof

/-! ### Conversion (R326) -/

def is8Bit (f : Fmt) : Bool := f == .e4m3 || f == .e5m2
def isWide3 (f : Fmt) : Bool := f == .f16 || f == .bf16 || f == .f32

/-- The pairs, and the RM, SAT and FTZ that go with them. -/
def copyPair (a b : Fmt) (rm : Rm) (sat ftz : Bool) : Bool :=
  (!ftz || a == .bf16 || b == .bf16) &&
    (if a == b then rm == .rne && !sat && !ftz
    else if a.isWide && b.isWide then !(a.isInt && b.isInt) || rm == .rne
    else if isWide3 a && is8Bit b then true
    else is8Bit a && isWide3 b && rm == .rne && !sat)

/-- An element converted: its code in the destination's format. -/
def convertElem (a b : Fmt) (rm : Rm) (sat ftz : Bool) (seed : W32) (pos v : Nat) : Nat :=
  if a == b then v
  else
    let x := if is8Bit a then (floatFmt a).decode v else elemNum a ftz v
    if is8Bit b then (floatFmt b).round rm sat false seed pos x else elemBits b rm sat ftz seed pos x % 2 ^ b.bits

/-! ### Units of work: the elements that are written, by number in iteration order; pairs of them for 4-bit formats -/

/-- The box of elements that a TCOPY writes: EXT cut to the destination (R328). -/
def boxExt (dst : Chart) (ext dorg : List Nat) : List Nat :=
  (List.range dst.rank).map (fun d =>
    let n := min (ext.getD d 0) (dst.size d - dorg.getD d 0)
    if d == 0 && isFmt4 dst.fmt then n / 2 else n)

/-- The indices of a unit, dimension 0 fastest. -/
def digits : List Nat → Nat → List Nat
  | [], _ => []
  | e :: es, n => n % e :: digits es (n / e)

def listProd (l : List Nat) : Nat := l.foldl (· * ·) 1

/-- Units of a command. -/
def CopyKind.total : CopyKind → Nat
  | .box _ dst ext _ dorg _ _ _ => listProd (boxExt dst ext dorg)
  | .gather _ _ _ _ n => n
  | .scatter _ _ _ _ n => n

/-- Bytes that a unit writes (R322). -/
def CopyKind.bytes : CopyKind → Nat
  | .box _ dst _ _ _ _ _ _ => elemBytes dst.fmt
  | .gather _ _ p _ _ => elemBytes p.fmt
  | .scatter _ t _ _ _ => elemBytes t.fmt

/-- How a unit ends. -/
inductive UnitRes where
  /-- performed: what it wrote, by address and memory key; nothing for an element that writes nothing (R330) -/
  | wrote (ws : List (W64 × Nat))
  | stop (r : EngRes) (va : W64) (write : Bool)
  deriving DecidableEq, Repr

/-- The translation cache of the engine that performs a command (R183); it stands with the core's, as unit 8 + e. -/
def State.copyUnits (s : State) (c : Copy) : List Nat :=
  ((List.range 8).filter (fun e => ((s.die (c.core / 32)).engines.get [] e).any (fun x => x.id == c.id))).map (8 + ·)

/-- An access of a copy command. -/
def State.copyAccess (s : State) (c : Copy) (thr : Nat) : EngAccess :=
  { core := c.core, gang := c.gang, strand := c.strand, units := s.copyUnits c, id := c.id, thr }

/-- An engine's read of an element of a chart (R292), for the chunk that begins at a unit. -/
def State.copyRead (s : State) (c : Copy) (lo : Nat) (ch : Chart) (idx : List Nat) : EngRes × W64 × State :=
  if !ch.inRange idx then (.ok (zeroCode ch.fmt), 0, s)
  else
    let e := ch.offset idx
    match s.engineRead (s.copyAccess c lo) (elemBytes ch.fmt) (ch.addr e) with
    | (.ok v, s) => (.ok (ch.elemOf e v), ch.addr e, s)
    | (r, s) => (r, ch.addr e, s)

/-- An engine's write of n bytes, by a unit. -/
def State.copyWrite (s : State) (c : Copy) (unit n v : Nat) (va : W64) : UnitRes × State :=
  match s.engineWrite (s.copyAccess c unit) n v va with
  | (.ok k, s) => (.wrote [(va, k)], s)
  | (r, s) => (.stop r va true, s)

/-- An engine's write of a pair of 4-bit elements at an offset (R131, R292, R328): one byte, or two half bytes where the offset is odd, whose
other halves stand (DEDUCED, log entry 73). -/
def State.copyPairWrite (s : State) (c : Copy) (unit : Nat) (dst : Chart) (e : Int) (v w : Nat) : UnitRes × State :=
  if e % 2 = 0 then s.copyWrite c unit 1 (v % 16 + 16 * (w % 16)) (dst.addr e)
  else
    let half (s : State) (va : W64) (merge : Nat → Nat) : UnitRes × State :=
      match s.engineKey (s.copyAccess c unit) needW 1 va with
      | (.ok k, s) => s.copyWrite c unit 1 (merge (s.readLE k 1)) va
      | (r, s) => (.stop r va true, s)
    match half s (dst.addr e) (fun b => b % 16 + 16 * (v % 16)) with
    | (.wrote a, s) =>
      match half s (dst.addr (e + 1)) (fun b => b / 16 * 16 + w % 16) with
      | (.wrote b, s) => (.wrote (a ++ b), s)
      | r => r
    | r => r

/-- The index of the source of a destination element of a box. -/
def addIdx (a b : List Nat) : List Nat := (a.zip b).map (fun e => e.1 + e.2)

/-- The first element of a unit in the box. -/
def boxUnit (dst : Chart) (ext dorg : List Nat) (n : Nat) : List Nat :=
  match digits (boxExt dst ext dorg) n with
  | x :: xs => (if isFmt4 dst.fmt then 2 * x else x) :: xs
  | [] => []

/-- The index list with its first entry one on. -/
def nextIdx : List Nat → List Nat
  | x :: xs => (x + 1) :: xs
  | [] => []

/-- The index that a unit of a scatter was cut with (R319). -/
def Copy.index (c : Copy) (n : Nat) : Option Nat := (c.idx.find? (fun e => e.1 == n)).map (·.2)

/-- An index chart's element: what the cut of its chunk has read, else read now. -/
def State.copyIndex (s : State) (c : Copy) (lo n : Nat) (index : Chart) (first : Nat) : EngRes × W64 × State :=
  match c.index n with
  | some i => (.ok i, 0, s)
  | none => s.copyRead c lo index [first + n]

/-- One unit of the chunk that begins at a unit is performed (R328, R330). -/
def State.copyUnit (s : State) (c : Copy) (lo n : Nat) : UnitRes × State :=
  match c.kind with
  | .box src dst ext sorg dorg rm sat ftz =>
    let x := boxUnit dst ext dorg n
    let y := addIdx dorg x
    let u := addIdx sorg x
    match s.copyRead c lo src u with
    | (.ok v, _, s) =>
      if isFmt4 dst.fmt then
        match s.copyRead c lo src (nextIdx u) with
        | (.ok w, _, s) => s.copyPairWrite c n dst (dst.offset y) v w
        | (r, va, s) => (.stop r va false, s)
      else
        let pos := (dst.offset y % 2 ^ 32).toNat
        s.copyWrite c n (elemBytes dst.fmt) (convertElem src.fmt dst.fmt rm sat ftz dst.seed pos v) (dst.addr (dst.offset y))
    | (r, va, s) => (.stop r va false, s)
  | .gather index table packed first _ =>
    match s.copyIndex c lo n index first with
    | (.ok i, _, s) =>
      match s.copyRead c lo table [i] with
      | (.ok v, _, s) => s.copyWrite c n (elemBytes packed.fmt) v (packed.addr (packed.offset [first + n]))
      | (r, va, s) => (.stop r va false, s)
    | (r, va, s) => (.stop r va false, s)
  | .scatter index table packed first _ =>
    match s.copyIndex c lo n index first with
    | (.ok i, _, s) =>
      if table.inRange [i] then
        match s.copyRead c lo packed [first + n] with
        | (.ok v, _, s) => s.copyWrite c n (elemBytes table.fmt) v (table.addr (table.offset [i]))
        | (r, va, s) => (.stop r va false, s)
      else (.wrote [], s)
    | (r, va, s) => (.stop r va false, s)

/-- The addresses that a unit will write, where they can be told: for a scatter by the index of its cut, or by what stands at the index now (R323,
log entry 74). -/
def State.unitVas (s : State) (c : Copy) (n : Nat) : Option (List W64) :=
  match c.kind with
  | .box _ dst ext _ dorg _ _ _ =>
    let e := dst.offset (addIdx dorg (boxUnit dst ext dorg n))
    some (dst.addr e :: (if isFmt4 dst.fmt && e % 2 != 0 then [dst.addr (e + 1)] else []))
  | .gather _ _ packed first _ => some [packed.addr (packed.offset [first + n])]
  | .scatter index table _ first _ =>
    let e := index.offset [first + n]
    let seen : Option Nat := match c.index n with
      | some i => some i
      | none => (s.hwKey c.core c.vd needR (index.addr e) false).map (fun k => index.elemOf e (s.readLE k (elemBytes index.fmt)))
    seen.map (fun i => if table.inRange [i] then [table.addr (table.offset [i])] else [])

/-- The scratchpad granules that a unit will write, where they can be told. -/
def State.unitGranules (s : State) (c : Copy) (n : Nat) : Option (List Nat) :=
  (s.unitVas c n).map (fun l => l.filterMap (fun va => (s.spadTarget c.core va).map (· / 16)))

/-! ### Chunks (R319) -/

/-- Units of a chunk of full length. -/
def CopyKind.perChunk (k : CopyKind) : Nat := 4096 / k.bytes

/-- A chunk of a scatter is cut from a unit on: 4,096 counted bytes; an element that writes nothing adds nothing. The indices that it reads are
kept with the command. `fuel` units remain. Where an index cannot be read now, the chunk ends behind it for the time being (log entry 74). -/
def State.cutFrom (s : State) (c : Copy) (lo : Nat) (index table : Chart) (first : Nat) : Nat → Nat → Nat → State × Copy × Nat
  | 0, n, _ => (s, c, n)
  | fuel + 1, n, counted =>
    if c.kind.perChunk ≤ counted then (s, c, n)
    else
      let more (i : Nat) : Nat := counted + bitNat (table.inRange [i])
      match c.index n with
      | some i => s.cutFrom c lo index table first fuel (n + 1) (more i)
      | none => match s.copyRead c lo index [first + n] with
        | (.ok i, _, s) => s.cutFrom { c with idx := c.idx ++ [(n, i)] } lo index table first fuel (n + 1) (more i)
        | (_, _, t) => (s.waitingAs t, c, n + 1)

/-- The end of the chunk of a command that begins at a unit. -/
def State.cutChunk (s : State) (c : Copy) (lo : Nat) : State × Copy × Nat :=
  match c.kind with
  | .scatter index table _ first n => s.cutFrom c lo index table first (n - lo) lo 0
  | k => (s, c, min (lo + k.perChunk) k.total)

/-- The chunk cut last is cut again while it is not complete: an index may be readable that was not. -/
def State.recut (s : State) (c : Copy) : State × Copy :=
  match c.kind, (c.busy ++ c.redo).find? (fun r => r.2 == c.next) with
  | .scatter _ _ _ _ _, some r =>
    let (s, c, e) := s.cutChunk c r.1
    let put (l : List (Nat × Nat)) : List (Nat × Nat) := l.map (fun x => if x == r then (r.1, e) else x)
    (s, { c with next := e, busy := put c.busy, redo := put c.redo })
  | _, _ => (s, c)

/-- The chunk cut last is in progress and ends at an index that could not be read: where the next begins is not known. -/
def Copy.cutOpen (c : Copy) : Bool :=
  match c.kind with
  | .scatter _ _ _ _ _ => c.busy.any (fun r => r.2 == c.next) && (c.index (c.next - 1)).isNone
  | _ => false

/-- Chunks start, at most four in progress; those to be performed again come first (R319, R332). -/
def State.startMore (s : State) (c : Copy) : Nat → State × Copy
  | 0 => (s, c)
  | fuel + 1 =>
    if 4 ≤ c.busy.length || c.ended || !c.parked.isEmpty || !s.gangRuns c.gang then (s, c)
    else match c.redo with
      | r :: rs => s.startMore { c with redo := rs, busy := c.busy ++ [r] } fuel
      | [] =>
        if c.next < c.kind.total && !c.cutOpen then
          let (s, d, e) := s.cutChunk c c.next
          s.startMore { d with next := e, busy := d.busy ++ [(c.next, e)] } fuel
        else (s, c)

/-- The chunks of a command that can be in progress now. -/
def State.startChunks (s : State) (c : Copy) (fuel : Nat) : State × Copy :=
  let (s, c) := s.recut c
  s.startMore c fuel

/-- Ranges of units that are not yet written. -/
def Copy.rest (c : Copy) (but : Nat × Nat) : List (Nat × Nat) :=
  c.busy.filter (fun r => r != but) ++ c.redo ++ c.parked.map (·.2) ++ [(c.next, c.kind.total)]

/-- A granule that some units to come will write, or may write. -/
def State.writesLater (s : State) (c : Copy) (rs : List (Nat × Nat)) (g : Nat) : Bool :=
  rs.any (fun r => (List.range (r.2 - r.1)).any (fun i => match s.unitGranules c (r.1 + i) with
    | some gs => gs.contains g
    | none => true))

/-- Granules that a command has written, and no unit still to come writes or may write, become full (R323); the command remembers the others. `left` are
units that it does not perform any more because it has ended with an error: a granule that they would have written stays as it is (log
entry 74). -/
def State.fillGranules (s : State) (c : Copy) (range left : Nat × Nat) (keys : List Nat) : State × Copy :=
  let gs := (c.late ++ (keys.filter isSpad).map (· / 16)).eraseDups
  let later := gs.filter (s.writesLater c (left :: c.rest range))
  ((gs.filter (fun g => !later.contains g)).foldl (fun s g => s.setFe (16 * g) true) s, { c with late := later })

/-! ### Ranges (R321) -/

/-- The bytes from the lowest to the highest of some box of a chart's elements, cut to the chart. -/
def Chart.span (c : Chart) (lo n : List Nat) : Option (Int × Int) :=
  let dims := List.range c.rank
  let hi (d : Nat) : Int := (min (lo.getD d 0 + n.getD d 0) (c.size d) : Nat) - 1
  if dims.any (fun d => hi d < lo.getD d 0) then none
  else
    let a (d : Nat) : Int := (lo.getD d 0 : Nat) * c.stride d
    let b (d : Nat) : Int := hi d * c.stride d
    let emin := (dims.map (fun d => min (a d) (b d))).sum
    let emax := (dims.map (fun d => max (a d) (b d))).sum
    let base : Int := c.base.toNat
    if isFmt4 c.fmt then some (base + emin / 2, base + emax / 2)
    else some (base + emin * elemBytes c.fmt, base + emax * elemBytes c.fmt + elemBytes c.fmt - 1)

/-- The hull of two ranges. -/
def hull : Option (Int × Int) → Option (Int × Int) → Option (Int × Int)
  | some a, some b => some (min a.1 b.1, max a.2 b.2)
  | some a, none => some a
  | none, b => b

/-- The whole of a table. -/
def Chart.whole (c : Chart) : Option (Int × Int) := c.span [0] [c.size 0]

/-- Read range and write range. -/
def CopyKind.ranges : CopyKind → Option (Int × Int) × Option (Int × Int)
  | .box src dst ext sorg dorg _ _ _ => (src.span sorg ext, dst.span dorg ext)
  | .gather i t p first n => (hull (i.span [first] [n]) t.whole, p.span [first] [n])
  | .scatter i t p first n => (hull (i.span [first] [n]) (p.span [first] [n]), t.whole)

def meets : Option (Int × Int) → Option (Int × Int) → Bool
  | some a, some b => a.1 ≤ b.2 && b.1 ≤ a.2
  | _, _ => false

/-- A later command of a strand waits for an earlier one. -/
def CopyKind.conflicts (b a : CopyKind) : Bool :=
  let x := a.ranges
  let y := b.ranges
  meets y.1 x.2 || meets y.2 x.2 || meets y.2 x.1

/-! ### Engines (R317) -/

def State.engine (s : State) (die e : Nat) : List Copy := (s.die die).engines.get [] e
def State.setEngine (s : State) (die e : Nat) (l : List Copy) : State :=
  s.setDie die { s.die die with engines := (s.die die).engines.set e l }

/-- A command changes, or leaves its engine once nothing of it is left. -/
def State.putCopy (s : State) (die e : Nat) (c : Copy) : State :=
  let spent := c.busy.isEmpty && (c.ended || (c.redo.isEmpty && c.parked.isEmpty && c.kind.total ≤ c.next))
  s.setEngine die e (if spent then (s.engine die e).filter (fun x => x.id != c.id) else (s.engine die e).map (fun x => if x.id == c.id then c else x))

/-- What the part says of a command in an entry of the fault queue or the error log (R352). -/
def State.copyReport (s : State) (die e : Nat) (c : Copy) (kind : Nat) (va : W64) : Report :=
  { kind, va, engv := true, die, core := c.core % 32, eng := e, pc := c.pc, detail := BitVec.ofNat 64 c.seq : Report }.ofGang (s.gang c.gang)

/-- A command ends with an error (R331, R333): code 1 RESPONSE, 2 FAULT. Only its first error is recorded. -/
def State.endCopy (s : State) (die e : Nat) (c : Copy) (code : Nat) (va : W64) : State :=
  if c.ended then s
  else
    let s := s.log die { s.copyReport die e c 0x16 va with detail := 0 }
    let t := s.strand c.strand
    let st : Cstat := if t.cstat.cnt == 0 then { cnt := 1, code, engine := e, die } else { t.cstat with cnt := min (t.cstat.cnt + 1) 65535 }
    if t.live && t.gang == c.gang then s.setStrand c.strand { t with cstat := st } else s

/-- A write of a chunk struck a watchpoint (R334, R364, R367). -/
def State.copyWatch (s : State) (die e : Nat) (c : Copy) (halts : Bool) (va : W64) : State :=
  let t := s.strand c.strand
  if !(t.live && t.gang == c.gang) then s.log die { s.copyReport die e c 0x16 va with detail := 0 }
  else if halts && s.vdDebug c.vd then s.debugStop c.strand c.pc
  else s.pendCause c.strand { watchReport va with engv := true, eng := e, edie := die, cb := c.cb.bind (fun b => (s.spadTarget c.core b).map (· / 16)) }

/-- The watchpoints of a command that a write matches: whether one does, whether one halts. -/
def Copy.struck (c : Copy) (vas : List W64) : List Bool :=
  (c.wps.filter (fun w => vas.any (fun va => (List.range c.kind.bytes).any (fun i =>
    (va.toNat + i) / 16 == fieldOf w.1 4 52 && w.2.1.getLsbD ((va.toNat + i) % 16))))).map (·.2.2)

/-- How a chunk ends: what it wrote, how many units wrote something, the unit at which it stands, what stopped it, and what each unit wrote. -/
structure ChunkRes where
  vas : List W64
  keys : List Nat
  count : Nat
  at_ : Nat
  stop : Option (EngRes × W64 × Bool)
  units : List (Nat × List (W64 × Nat))
  deriving DecidableEq, Repr

/-- A unit has written. -/
def ChunkRes.add (r : ChunkRes) (ws : List (W64 × Nat)) : ChunkRes :=
  { r with
    vas := r.vas ++ ws.map (·.1), keys := r.keys ++ ws.map (·.2), count := r.count + bitNat (!ws.isEmpty), at_ := r.at_ + 1,
    units := r.units ++ [(r.at_, ws)] }

/-- The units of a chunk, in order, up to one that is stopped; those performed ahead of their turn have written (R187, R319). -/
def State.runChunk (s : State) (c : Copy) (range : Nat × Nat) : ChunkRes × State :=
  (List.range (range.2 - range.1)).foldl (fun (r : ChunkRes × State) i =>
    if r.1.stop.isSome then r
    else match c.done.find? (fun d => d.1 == range.1 + i) with
      | some d => (r.1.add d.2, r.2)
      | none => match r.2.copyUnit c range.1 (range.1 + i) with
        | (.wrote ws, s) => (r.1.add ws, s)
        | (.stop .wait va w, s) => ({ r.1 with stop := some (.wait, va, w) }, r.2.waitingAs s)
        | (.stop e va w, s) => ({ r.1 with stop := some (e, va, w) }, s))
    ({ vas := [], keys := [], count := 0, at_ := range.1, stop := none, units := [] }, s)

/-- The units of a range are no longer performed ahead of it. -/
def Copy.forget (c : Copy) (range : Nat × Nat) : Copy :=
  { c with
    busy := c.busy.filter (fun x => x != range), done := c.done.filter (fun d => d.1 < range.1 || range.2 ≤ d.1) }

/-- What the units of a range have asked of peers is forgotten. -/
def State.dropChunk (s : State) (c : Copy) (range : Nat × Nat) : State :=
  s.dropAsks (fun f who => who == .command c.id && range.1 ≤ f.thread && f.thread < max range.2 (range.1 + 1))

/-- The arrival of a chunk at the count barrier of its command (R205, R322), where the barrier's granule may be written. -/
def State.copyArrive (s : State) (c : Copy) (n : Nat) : Option State :=
  match c.cb with
  | none => some s
  | some va =>
    if n == 0 then some s
    else match s.engineKey (s.copyAccess c 0) needW 16 va with
      | (.ok k, s) => if isSpad k then some (s.arriveCount k n) else none
      | _ => none

/-- A chunk parks its command (R332): an entry of KIND 0x02. It is performed again in full. The granules that it has written are remembered, and the unit
that stopped it. -/
def State.parkCopy (s : State) (die e : Nat) (c : Copy) (range : Nat × Nat) (r : ChunkRes) (xkind : Nat) (wr : Bool) (va : W64) : State :=
  let p := s.vdPart c.vd
  let (fid, s) := s.takeFid p
  let x : Report := { s.copyReport die e c 2 va with xkind, wr, fid }
  let c := { c.forget range with
    late := (c.late ++ (r.keys.filter isSpad).map (· / 16)).eraseDups, stood := c.stood.filter (fun x => x.1 != range.1) ++ [(range.1, r.at_)] }
  let s := (s.dropChunk c range).putCopy die e { c with parked := c.parked ++ [({ fid, va, xkind, fetch := false, lane := false, tmaskf := 0 }, range)] }
  s.faultEntry die p (x.entry s.pkgnum.toNat (s.die die).refcnt)

/-- A parked command ends with the fault of one of its chunks (R333, R353): the granules that it has finished become full (R323). -/
def State.endParked (s : State) (c : Copy) (va : W64) : State × Copy :=
  let s := s.endCopy (c.eng / 8) (c.eng % 8) c 2 va
  let undone := c.parked.map (fun x => (((c.stood.find? (fun y => y.1 == x.2.1)).map (·.2)).getD x.2.1, x.2.2)) ++ c.redo
  let later := c.late.filter (s.writesLater { c with parked := [], redo := [] } (undone ++ ({ c with parked := [], redo := [] } : Copy).rest (c.kind.total, 0)))
  ((c.late.filter (fun g => !later.contains g)).foldl (fun s g => s.setFe (16 * g) true) s, { c.cut with late := later })

/-- A command's chunk in progress is performed (R319, R322, R323, R332 to R334). The bytes moved are charged at the copy engines' arbiter
of the die, 128 to a token (R378). Where an access of it waits, the units before it have been performed. -/
def State.completeChunk (s : State) (die e : Nat) (c : Copy) (range : Nat × Nat) : State :=
  let (r, s') := s.runChunk c range
  match r.stop with
  | some (.wait, _, _) => s'.putCopy die e { c with done := (c.done.filter (fun d => d.1 < range.1 || range.2 ≤ d.1)) ++ r.units }
  | _ =>
    let s' := s'.charge (copyArbiter die) c.vd ((r.count * c.kind.bytes + 127) / 128)
    let struck := c.struck r.vas
    let report (s : State) : State := if struck.isEmpty then s else s.copyWatch die e c (struck.any id) (r.vas.headD 0)
    let spend (c : Copy) : Copy := { c.forget range with idx := c.idx.filter (fun x => x.1 < range.1 || range.2 ≤ x.1) }
    let ends (s : State) (code : Nat) (va : W64) : State :=
      let (s, c) := s.fillGranules c range (r.at_, range.2) r.keys
      ((s.endCopy die e c code va).dropChunk c range).putCopy die e (spend c).cut
    match r.stop with
    | some (.fault x, va, w) => if x ≤ 2 && !c.ended then (report s').parkCopy die e c range r x w va else ends (report s') 2 va
    | some (_, va, _) => ends (report s') 1 va
    | none =>
      let (s', c) := s'.fillGranules c range (range.2, range.2) r.keys
      let s' := (report s').dropChunk c range
      match s'.copyArrive c (r.count * c.kind.bytes) with
      | some s' => s'.putCopy die e (spend c)
      | none => (s'.endCopy die e c 1 (c.cb.getD 0)).putCopy die e (spend c).cut

/-- A unit of a chunk in progress is performed ahead of the others (R187, R319). One that stops is left to its chunk. -/
def State.elementAhead (s : State) (die e slot chunk unit : Nat) : State :=
  match (s.engine die e)[slot]? with
  | none => s
  | some c =>
    match c.busy[chunk]? with
    | none => s
    | some r =>
      if unit < r.1 || r.2 ≤ unit || c.done.any (fun d => d.1 == unit) then s
      else match s.copyUnit c r.1 unit with
        | (.wrote ws, t) => { t.putCopy die e { c with done := c.done ++ [(unit, ws)] } with burst := s.burst }
        | (.stop .wait _ _, t) => s.waitingAs t
        | _ => s

end Sys2Proof.Machine
end

