-- ==== Sys2Proof/Machine/Copy.lean ====
section
/-! DEFINITION. TCOPY, GCOPY and CWAIT (R318, R324 to R331), and the steps of the copy engines (R317, R319). -/

namespace Sys2Proof.Machine

open Sys2Proof

/-! ### Acceptance (R318, R322) -/

/-- The count barrier's address in a control word. -/
def barrierVa (ra : W64) : W64 := apertureBase + BitVec.ofNat 64 (16 * fieldOf ra 24 22)
where apertureBase : W64 := 0xFFFF0000000000

/-- A count barrier may be bound: the aperture names the core's own scratchpad, or a window that the strand holds (R154, R155). -/
def State.barrierOk (s : State) (va : W64) : Bool :=
  match s.spadTarget s.me.core va with
  | some k => apertureSel va == 0 || s.hasWindow s.cur (spadCore k) (spadOff k) 16
  | none => false

/-- The port accepts a copy command of the current strand. -/
def State.acceptCopy (s : State) (d : SReg) (ra : W64) (kind : CopyKind) : State :=
  let t := s.me
  let c := s.core t.core
  let wps := if t.handler then [] else ((List.range 4).filter (fun n => (t.wp.get (8 + n)).getLsbD 0 && (t.wp.get (8 + n)).getLsbD wpEw)).map (fun n =>
    (t.wp.get n, t.wp.get (4 + n), (t.wp.get (8 + n)).getLsbD 5))
  let m : Copy := { id := s.nextId, seq := c.portSeq, core := t.core, strand := s.cur, gang := t.gang, vd := (s.gangOf s.cur).vd,
                    pc := t.pc, bound := t.accs, kind, cb := if ra.getLsbD 23 then some (barrierVa ra) else none, next := 0, busy := [],
                    redo := [], parked := [], ended := false, wps, done := [], idx := [], late := [], stood := [], eng := 8 * (t.core / 32) }
  ({ s.setCore t.core { c with port := c.port ++ [m], portSeq := c.portSeq + 1 } with nextId := s.nextId + 1 } : State).scalarResult d 0

/-- The front end's part of a copy command: CANCELLED, or a stall while the port is full or a chart that it names is pending. -/
def State.copyFront (s : State) (d : SReg) (named : List Nat) (go : State → State) : State :=
  if s.cancelled s.cur then s.clearWait.scalarResult d 1
  else if Config.copyDepth ≤ (s.core s.me.core).port.length || named.any (fun e => s.chartPending s.me.core s.me.gang e) then s
  else go s

/-- The chart of an entry of the current gang. -/
def State.myChart (s : State) (e : Nat) : Option Chart := (s.gangOf s.cur).chart? e

/-! ### TCOPY (R324 to R328) -/

/-- Sixteen words of an origin block. -/
def originWords (bs : List Byte) (off : Nat) : List Nat := (List.range 16).map (fun d => leNat ((bs.drop (off + 4 * d)).take 4))

/-- Why a TCOPY is refused: the logged address (R327). -/
def State.tcopyBad (s : State) (ra rb : W64) (ext sorg dorg : List Nat) : Option W64 :=
  match s.myChart (fieldOf ra 0 8), s.myChart (fieldOf ra 8 8), Rm.ofCode (BitVec.ofNat 3 (fieldOf ra 16 3)) with
  | sc, dc, rm =>
    if fieldOf ra 46 18 != 0 || fieldOf ra 21 2 != 0 || rm.isNone then some 0
    else match sc, dc, rm with
      | some sc, some dc, some rm =>
        if sc.rank != dc.rank then some sc.va
        else if !copyPair sc.fmt dc.fmt rm (ra.getLsbD 19) (ra.getLsbD 20) then some dc.va
        else if (List.range 16).any (fun d => if d < dc.rank then ext.getD d 0 == 0 else ext.getD d 0 != 0 || sorg.getD d 0 != 0 || dorg.getD d 0 != 0) ||
            2 ^ 40 < listProd (ext.take dc.rank) then some rb
        else if isFmt4 dc.fmt && (dc.stride 0 != 1 || dc.size 0 % 2 != 0 || dorg.getD 0 0 % 2 != 0 || ext.getD 0 0 % 2 != 0) then some dc.va
        else if ra.getLsbD 23 && !s.barrierOk (barrierVa ra) then some (barrierVa ra)
        else none
      | _, _, _ => some 0

/-- The acceptance of a TCOPY with its box. -/
def State.tcopyAccept (s : State) (d : SReg) (ra rb : W64) (ext sorg dorg : List Nat) : State :=
  match s.tcopyBad ra rb ext sorg dorg with
  | some va => s.refuseCmd d va
  | none =>
    let none_ : Chart := { words := [], va := 0 }
    s.acceptCopy d ra (.box ((s.myChart (fieldOf ra 0 8)).getD none_) ((s.myChart (fieldOf ra 8 8)).getD none_) ext sorg dorg
      ((Rm.ofCode (BitVec.ofNat 3 (fieldOf ra 16 3))).getD .rne) (ra.getLsbD 19) (ra.getLsbD 20))

/-- TCOPY (R328): with rb 0 the box is the destination's sizes from the origin (R325). -/
def execTcopy (d a b : SReg) (s : State) : Out :=
  let ra := s.me.s a
  let rb := s.me.s b
  .next (s.copyFront d [fieldOf ra 0 8, fieldOf ra 8 8] (fun s =>
    if rb == 0 then
      let ext := match s.myChart (fieldOf ra 8 8) with
        | some c => (List.range 16).map c.size
        | none => []
      s.tcopyAccept d ra 0 ext (List.replicate 16 0) (List.replicate 16 0)
    else s.withBytes false 0 (.tcopy d a b) 64 rb 192
      (fun s bs => s.tcopyAccept d ra rb (originWords bs 0) (originWords bs 64) (originWords bs 128))
      (fun s => s.refuseCmd d rb)))

/-! ### GCOPY (R329, R330) -/

/-- Why a GCOPY is refused: the logged address. -/
def State.gcopyBad (s : State) (ra rb : W64) : Option W64 :=
  let first := fieldOf rb 32 32
  let n := fieldOf rb 0 32
  if fieldOf ra 56 8 != 0 || fieldOf ra 46 2 != 0 || fieldOf ra 17 6 != 0 then some 0
  else match s.myChart (fieldOf ra 0 8), s.myChart (fieldOf ra 8 8), s.myChart (fieldOf ra 48 8) with
    | some i, some t, some p =>
      if i.rank != 1 || !(i.fmt == .z32 || i.fmt == .z64) then some i.va
      else if t.rank != 1 || t.fmt != p.fmt || isFmt4 t.fmt then some t.va
      else if p.rank != 1 then some p.va
      else if 2 ^ 24 < n then some 0
      else if i.size 0 < first + n then some i.va
      else if p.size 0 < first + n then some p.va
      else if ra.getLsbD 23 && !s.barrierOk (barrierVa ra) then some 0
      else none
    | _, _, _ => some 0

/-- GCOPY (R329, R330). -/
def execGcopy (d a b : SReg) (s : State) : Out :=
  let ra := s.me.s a
  let rb := s.me.s b
  .next (s.copyFront d [fieldOf ra 0 8, fieldOf ra 8 8, fieldOf ra 48 8] (fun s =>
    match s.gcopyBad ra rb with
    | some va => s.refuseCmd d va
    | none =>
      let none_ : Chart := { words := [], va := 0 }
      let i := (s.myChart (fieldOf ra 0 8)).getD none_
      let t := (s.myChart (fieldOf ra 8 8)).getD none_
      let p := (s.myChart (fieldOf ra 48 8)).getD none_
      s.acceptCopy d ra (if ra.getLsbD 16 then .scatter i t p (fieldOf rb 32 32) (fieldOf rb 0 32)
        else .gather i t p (fieldOf rb 32 32) (fieldOf rb 0 32))))

/-! ### CWAIT (R331, R364) -/

/-- The summary that CWAIT returns. -/
def Cstat.word (c : Cstat) : W64 :=
  BitVec.ofNat 64 ((if c.cnt == 0 then 0 else 3) * 2 ^ 61 + c.cnt * 2 ^ 32 + c.code * 2 ^ 28 + c.engine * 2 ^ 25 + c.die * 2 ^ 21)

/-- CWAIT: every copy command of the strand has completed, and the reports of their watchpoints have been taken. It tests the cancel state
when it issues, and not while it waits. -/
def execCwait (d : SReg) (s : State) : Out :=
  let t := s.me
  .next (if t.wait != .cwait && s.cancelled s.cur then s.scalarResult d (BitVec.ofNat 64 (1 * 2 ^ 61))
    else if (s.copiesOf t.gang).any (fun c => c.strand == s.cur) || t.pend.any (fun r => r.engv) then s.setMe { t with wait := .cwait }
    else ((s.setMe { t with cstat := Cstat.zero, wait := .none }).acquireAt s.cur .domain).scalarResult d t.cstat.word)

/-! ### The engines (R317, R320, R321) -/

/-- Writes of the core that stood before a command are still on their way to their homes (R320). -/
def State.priorDone (s : State) (c : Copy) : Bool :=
  s.storesDone c.strand c.bound &&
    !s.flights.any (fun f => f.id < c.id && f.sent && f.unperformed && !isSpad f.key && f.kind.writes && s.flightCore f == c.core)

/-- A command at a port may start: its gang runs, what precedes it is performed, no earlier command of its strand overlaps it. -/
def State.copyReady (s : State) (c : Copy) : Bool :=
  s.gangRuns c.gang && s.priorDone c &&
    !(s.copiesOf c.gang).any (fun x => x.strand == c.strand && x.id < c.id && c.kind.conflicts x.kind)

/-- The commands at the ports of a die that may start, in the order of R317: tokens in the die's bucket first (R378, R379), then priority, then
the earliest acceptance. -/
def State.copyOrder (s : State) (die : Nat) : List Copy :=
  let all := (((s.cores.filter (fun c => c.1 / 32 == die)).map (fun c => c.2.port)).flatten).filter (fun c => s.copyReady c)
  let asking := all.map (·.vd)
  let rank (c : Copy) : Nat := s.rankAt (copyArbiter die) asking c.vd (s.gang c.gang).prio
  let best := (all.map rank).foldl max 0
  let top := all.filter (fun c => rank c == best)
  let first := (top.map (·.id)).foldl min (((top.map (·.id)).headD 0))
  top.filter (fun c => c.id == first)

/-- COPY_COMMAND_START (R317): an engine that performs fewer than two commands takes the next one, at a core's port. -/
def execCopyCommandStart (die engine core : Nat) (s : State) : Out :=
  match s.copyOrder die with
  | c :: _ =>
    if c.core == core && engine < 8 && (s.engine die engine).length < 2 then
      let p := s.core core
      .next ((s.setCore core { p with port := p.port.filter (fun x => x.id != c.id) }).setEngine die engine (s.engine die engine ++ [{ c with eng := 8 * die + engine }]))
    else .next s
  | [] => .next s

/-- Chunks of a command start, and one in progress is performed; a command of which nothing is left leaves its engine, and what it has asked for is
forgotten. -/
def State.chunkStep (s : State) (die engine slot chunk : Nat) : State :=
  match (s.engine die engine)[slot]? with
  | none => s
  | some c =>
    let (t, c) := s.startChunks c 4
    let t := t.putCopy die engine c
    let t := match c.busy[chunk]? with
      | none => t
      | some r => t.completeChunk die engine c r
    let t := if (t.engine die engine).any (fun x => x.id == c.id) then t else t.dropAsks (fun _ who => who == .command c.id)
    { t with burst := s.burst }

/-- COPY_CHUNK_COMPLETE (R319). -/
def execCopyChunkComplete (die engine slot chunk : Nat) (s : State) : Out := .next (s.chunkStep die engine slot chunk)

end Sys2Proof.Machine
end

