-- ==== Sys2Proof/Machine/CrossThread.lean ====
section
/-! DEFINITION. Cross-thread instructions (R120 to R126). -/

namespace Sys2Proof.Machine

open Sys2Proof

/-- The source thread of SHFL, if it names one (R121). -/
def shflSource (mode : ShflMode) (t : Nat) (b : W32) : Option Nat :=
  match mode with
  | .pick => some (b.toNat % 32)
  | .rot => some (((t : Int) + b.toInt) % 32).toNat
  | .slide => let s := (t : Int) + b.toInt; if 0 ≤ s && s ≤ 31 then some s.toNat else none
  | .pair => some (t ^^^ (b.toNat % 32))

/-- SHFL (R121). -/
def execShfl (mode : ShflMode) (zf : Bool) (r : Cross) (s : State) : Out :=
  .next (s.laneIssue (r.vregs true r.ty.regs r.ty.regs) r.m (fun x s => s.laneWrite x r.d.toNat r.ty.regs (fun t =>
    let a (i : Nat) : Nat := s.src s.cur i r.ty r.imm r.a
    let own := if zf then 0 else a t
    match shflSource mode t (s.src32 s.cur t r.imm r.b) with
    | some i => if x.getLsbD i then a i else own
    | none => own)))

/-- A byte of the line that the threads hold in a (R122): zero from a thread outside X. -/
def lineByte (x : W32) (a : Nat → Nat) (j : Nat) : Nat := if x.getLsbD (j / 4) then a (j / 4) / 256 ^ (j % 4) % 256 else 0

/-- GATHERV (R122): S3 is zero; z32 zero-extends, s32 sign-extends. -/
def execGatherv (w : Width) (r : Cross) (s : State) : Out :=
  .next (s.laneIssue (r.vregs true 1 1) r.m (fun x s => s.laneWrite x r.d.toNat 1 (fun t =>
    let o := (s.src32 s.cur t r.imm r.b).toNat % 128 / w.bytes * w.bytes
    let v := ((List.range w.bytes).map (fun i => lineByte x (fun u => (s.src32 s.cur u r.imm r.a).toNat) (o + i) * 256 ^ i)).sum
    if r.ty == .s32 then
      match w with
      | .w8 => extendTo .s8 v
      | .w16 => extendTo .s16 v
      | _ => v
    else v)))

/-- The value that VOTE writes, from a over X ascending, by thread (R123). -/
def voteValue (op : VoteOp) (l : List (Nat × Nat)) : Nat :=
  let some' := l.filter (fun p => p.2 != 0)
  match op with
  | .anyOf => bitNat (!some'.isEmpty)
  | .every => bitNat (some'.length == l.length)
  | .same => bitNat (l.all (fun p => p.2 == (l.headD (0, 0)).2))
  | .count => some'.length
  | .first => match some' with | p :: _ => p.1 | [] => 32

/-- VOTE (R123): one register for both types. -/
def execVote (op : VoteOp) (r : Cross) (s : State) : Out :=
  .next (s.laneIssue (r.vregs false 1 1) r.m (fun x s =>
    let l := (threadsIn x).map (fun t => (t, s.src s.cur t r.ty r.imm r.a))
    s.laneWrite x r.d.toNat 1 (fun _ => voteValue op l)))

/-- BALLOT (R124). -/
def execBallot (r : Cross) (s : State) : Out :=
  .next (s.laneIssue (r.vregs false 1 1) r.m (fun x s =>
    let v := threadSet ((threadsIn x).filter (fun t => s.src s.cur t r.ty r.imm r.a != 0))
    s.laneWrite x r.d.toNat 1 (fun _ => v.toNat)))

/-- The identity of a scan (R125). -/
def scanIdentity (op : ScanOp) (ty : Fmt) : Nat :=
  let w := ty.bits
  match op with
  | .add | .or | .xor => 0
  | .and => 2 ^ w - 1
  | .min => if ty.isFloat then (floatFmt ty).infinity false else intBits w (maxInt ty)
  | .max => if ty.isFloat then (floatFmt ty).infinity true else intBits w (minInt ty)

/-- Step of a scan (R125). -/
def scanStep (op : ScanOp) (ty : Fmt) (acc a : Nat) : Nat :=
  match op with
  | .add => if ty.isFloat then floatAdd (floatFmt ty) .rne false acc a else (acc + a) % 2 ^ ty.bits
  | .min => if ty.isFloat then floatMin (floatFmt ty) false acc a else if intVal ty a < intVal ty acc then a else acc
  | .max => if ty.isFloat then floatMax (floatFmt ty) false acc a else if intVal ty acc < intVal ty a then a else acc
  | .and => acc &&& a
  | .or => acc ||| a
  | .xor => acc ^^^ a

/-- The results of a scan, by thread. -/
def scanList (step : Nat → Nat → Nat) (excl : Bool) : Nat → List (Nat × Nat) → List (Nat × Nat)
  | _, [] => []
  | acc, (t, a) :: rest => (t, if excl then acc else step acc a) :: scanList step excl (step acc a) rest

/-- SCAN (R125). -/
def execScan (op : ScanOp) (excl : Bool) (r : Cross) (s : State) : Out :=
  .next (s.laneIssue (r.vregs false r.ty.regs 1) r.m (fun x s =>
    let l := (threadsIn x).map (fun t => (t, s.src s.cur t r.ty r.imm r.a))
    let out := scanList (scanStep op r.ty) excl (scanIdentity op r.ty) l
    s.laneWrite x r.d.toNat r.ty.regs (fun t => ((out.find? (fun p => p.1 == t)).map (·.2)).getD 0)))

/-- The matches of INTERSECT: (i, j) for i ascending, j the lowest thread with the same coordinate (R126). -/
def matchesOf (xs : List Nat) (a b : Nat → Nat) : List (Nat × Nat) :=
  xs.filterMap (fun i => (xs.find? (fun j => b j == a i)).map (fun j => (i, j)))

/-- INTERSECT (R126). -/
def execIntersect (r : Cross) (s : State) : Out :=
  .next (s.laneIssue (r.vregs true 2 1) r.m (fun x s =>
    let xs := threadsIn x
    let a (t : Nat) : Nat := (s.src32 s.cur t r.imm r.a).toNat
    let b (t : Nat) : Nat := (s.src32 s.cur t r.imm r.b).toNat
    let last := (xs.getLast?).getD 0
    let lim := min (a last) (b last)
    let advA := (xs.filter (fun t => a t ≤ lim)).length
    let advB := (xs.filter (fun t => b t ≤ lim)).length
    let ms := matchesOf xs a b
    s.laneWrite x r.d.toNat 2 (fun t =>
      let first := match ms[(xs.takeWhile (fun u => u != t)).length]? with
        | some p => 2 ^ 31 + p.2 * 256 + p.1
        | none => 0
      first + 2 ^ 32 * (ms.length * 65536 + advB * 256 + advA))))

end Sys2Proof.Machine
end

