-- ==== Sys2Proof/Machine/MemEvents.lean ====
section
/-! DEFINITION. Steps of memory, translation and fetch: replies, requests at their homes, invalidations, walks, lines, trap
entries, held fault entries (R11, R162, R163, R167, R174, R180 to R185, R189, R198, R208, R340 to R342, R351, R396). A step that
names nothing that stands changes nothing. -/

namespace Sys2Proof.Machine

open Sys2Proof

/-- A step of the flight with a number in one of some stages. -/
def State.onFlight (s : State) (id : Nat) (ok : Flight → Bool) (f : State → Flight → State) : Out :=
  match s.flight? id with
  | some x => .next (if ok x then f s x else s)
  | none => .next s

/-- The stages of a request on its way. -/
def Stage.goesOn : Stage → Bool
  | .held | .l1 | .bank | .home | .queued | .waiting => true
  | _ => false

/-- REQUEST_AT_HOME_SLICE (R189, R197): a request takes the next leg of its way, the last of which is that it is performed at its home slice
or port, where nothing holds it. -/
def execRequestAtHomeSlice (id : Nat) (s : State) : Out := s.onFlight id (fun f => f.stage.goesOn) State.arrive

/-- COALESCING_ENTRY_SEND (R162): the entry of a request leaves the window. Time sends no line of a write-combining buffer (R176). -/
def execCoalescingEntrySend (id : Nat) (s : State) : Out := s.onFlight id (fun f => f.stage == .window) State.sendEntry

/-- BIN_SEND (R163): the elements that a die's network holds for a home slice leave it. -/
def execBinSend (die home : Nat) (s : State) : Out := .next (s.sendBin die home)

/-- A message may be applied by a die: it has applied all that the carried vector covers (R198). A message of another package
carries none. -/
def Die.mayApply (d : Die) (m : Inval) : Bool :=
  m.src ≥ 9 || (d.vc.get m.src + 1 == m.vec.get m.src &&
    (List.range 9).all (fun i => i == m.src || serialGe (d.vc.get i) (m.vec.get i)))

/-- INVALIDATION_APPLY (R198, R199). -/
def execInvalidationApply (die index : Nat) (s : State) : Out :=
  let d := s.die die
  match d.invals[index]? with
  | none => .next s
  | some m =>
    if !d.mayApply m then .next s
    else
      let s := s.setDie die { d with invals := d.invals.eraseIdx index,
                                     vc := if m.src < 9 then d.vc.set m.src (m.vec.get m.src) else d.vc }
      .next { s with cores := s.cores.map (fun (c : Nat × Core) =>
        if c.1 / 32 == die && c.1 != m.core then (c.1, { c.2 with l1 := c.2.l1.filter (fun l => l.line != m.line) }) else c) }

/-- Whether a request of another core waits for a line that a core owns (R208). -/
def State.recallDue (s : State) (core line : Nat) : Bool :=
  ((s.core core).l1.any (fun l => l.line == line && l.owned)) &&
    s.flights.any (fun f => f.stage == .queued && !isSpad f.key && f.key / 128 == line && s.flightCore f != core)

/-- LINE_RECALL (R208): the owner returns the line and drops it; the contention counters of the owner and of the cores whose
atomics found it owned rise. -/
def execLineRecall (core line : Nat) (s : State) : Out :=
  if !s.recallDue core line then .next s
  else
    let c := s.core core
    let up (c : Core) : Core := c.setCounter line (min (c.counter line + 1) 3)
    let s := s.setCore core (up { c with l1 := c.l1.filter (fun l => l.line != line) })
    let others := ((s.flights.filter (fun f => f.stage == .queued && f.atomic && f.agent.isNone && !isSpad f.key && f.key / 128 == line && s.flightCore f != core)).map (fun f => s.flightCore f)).eraseDups
    .next (others.foldl (fun s o => s.setCore o (up (s.core o))) s)

/-- EDRAM_REFRESH (R167): a bank enters or leaves its refresh window. -/
def execEdramRefresh (die bank : Nat) (s : State) : Out := .next (s.setDie die ((s.die die).refreshBank bank))

/-! ### Walks (R180 to R183) -/

/-- One walk: the leaf is kept by the unit and the core TLB, or the failure is kept for the waiting access (0 an error
response). -/
def State.walkOne (s : State) (core vd unit : Nat) (va : W64) : Option (Nat × Nat) × State :=
  let w := s.walkVa (core / 32) vd va
  let s := s.afterWalk (core / 32) vd w
  match w.fin with
  | .leaf pte => (none, s.tlbFill core ([unit, 4].eraseDups) vd va pte)
  | .notMapped => (some (va.toNat / 4096, xkNotMapped), s)
  | .malformed => (some (va.toNat / 4096, xkMalformed), s)
  | .error _ => (some (va.toNat / 4096, 0), s)
  | .wait | .ask _ => (none, s)

/-- A walk waits: for an eDRAM bank in its refresh window (R167), a slice that serves others first (R379), or a peer's answer (R383). -/
def State.walkWaits (s : State) (core vd : Nat) (va : W64) : Bool :=
  let w := s.walkVa (core / 32) vd va
  !s.walkTurn (core / 32) vd w || (match w.fin with | .wait | .ask _ => true | _ => false)

/-- A walk asks a peer package for the entry that it needs next. -/
def State.walkSends (s : State) (die vd : Nat) (w : Walk) : State :=
  match w.fin with
  | .ask pa => s.walkAsk die vd pa
  | _ => s

def State.walkAll (s : State) (core vd unit : Nat) (vas : List W64) : List (Nat × Nat) × State :=
  vas.foldl (fun r va => let w := r.2.walkOne core vd unit va; (r.1 ++ w.1.toList, w.2)) ([], s)

/-- The instruction whose access waited for a walk goes on (R63, R183). -/
def reissue (i : Instr) (s : State) : Out :=
  match i with
  | .ldb d a n => execLdb d a n s | .ldh d a n => execLdh d a n s | .ldw d a n => execLdw d a n s | .ldd d a n => execLdd d a n s
  | .ldbs d a n => execLdbs d a n s | .ldhs d a n => execLdhs d a n s | .ldws d a n => execLdws d a n s
  | .stb d a n => execStb d a n s | .sth d a n => execSth d a n s | .stw d a n => execStw d a n s | .std d a n => execStd d a n s
  | .lrunr a b => execLrunr a b s
  | .ld r => execLd r s | .st r => execSt r s | .ldl r => execLdl r s | .ldx r => execLdx r s | .stNt r => execStNt r s
  | .lds r => execLds r s | .sts r => execSts r s | .atom r => execAtom r s | .red r => execRed r s
  | .inkAdd r => execInkAdd r s | .inkRead r => execInkRead r s | .inkClr r => execInkClr r s | .fewait r => execFewait r s
  | _ => .next s

/-- PAGE_WALK (R180, R181, R183): the walks of a party end. Party 2k is the scalar stream of strand k, 2k + 1 its lane stream. The
access goes on in the same step, unless its gang may not issue. -/
def execPageWalk (party : Nat) (s : State) : Out :=
  let k := party / 2
  let lane := party % 2 == 1
  let t := s.strand k
  match t.waitOf lane with
  | .walk i vas unit =>
    let vd := (s.gangOf k).vd
    if vas.any (s.walkWaits t.core vd) then .next (vas.foldl (fun s va => s.walkSends t.die vd (s.walkVa t.die vd va)) s)
    else
    let w := s.walkAll t.core vd unit vas
    let s' := w.2.setStrand k ((w.2.strand k).setWait lane (.walked w.1))
    if s'.mayIssue k then
      match reissue i { s' with cur := k } with
      | .next u => .next { u with cur := s.cur }
      | o => o
    else .next s'
  | _ => .next s

/-! ### Fetch (R185, R396) -/

/-- A line enters an instruction cache: 256 scalar lines, 512 lane lines (R396). -/
def State.keepLine (s : State) (core : Nat) (lane : Bool) (l : ILine) : State :=
  let c := s.core core
  s.setCore core (if lane then { c with icL := (l :: c.icL).take 512 } else { c with icS := (l :: c.icS).take 256 })

/-- A fetch that fails: a park with FETCH, or the fetch trap (R185, R350). -/
def State.fetchFault (s : State) (k : Nat) (lane : Bool) (pc : W64) (xkind : Nat) : State :=
  let t := s.strand k
  if xkind == xkNotMapped || xkind == xkPerm then s.parkStrand k pc xkind false true lane 0 pc
  else s.raise k { (if lane then t.laneTrap cFetch pc 0 else t.scalarTrap cFetch pc) with xkind }

/-- Whether a stream of a strand waits for the line of its next instruction; a slot that RFT skips whole needs none (R347).
How far ahead of issue code is fetched is not given; the model fetches a line when its stream needs it (DESIGN CHOICE, log entry 81). -/
def State.fetchDue (s : State) (k : Nat) (lane : Bool) : Bool :=
  let t := s.strand k
  t.live && s.mayIssue k && t.pendTrap.isNone &&
    (if lane then !t.runs.isEmpty && t.laneWait.idle && t.redo.map (·.1) != some 0 && s.fetchLane k == .absent
    else t.wait.idle && !t.laneWait.pops && t.pc.toNat % 4 == 0 && s.fetchScalar k == .absent)

/-- FETCH_MISS_LINE_ARRIVAL (R185, R396). -/
def execFetchMissLineArrival (strand : Nat) (lane : Bool) (s : State) : Out :=
  let t := s.strand strand
  let vd := (s.gangOf strand).vd
  let pc := if lane then t.lanePc else t.pc
  let need := if lane then needXL else needXS
  if !s.fetchDue strand lane then .next s
  else if fieldOf pc 56 8 != 0 then .next (s.fetchFault strand lane pc xkNonCanon)
  else if inReserve pc then .next (s.fetchFault strand lane pc xkNotScratch)
  else
    let failed (s : State) : Out := .next ((s.logError strand pc pc false true).fetchFault strand lane pc 0)
    let arrive (s : State) (pte : W64) : Out :=
      let key := leafPa pte pc
      let enter (s : State) : State :=
        s.keepLine t.core lane { vd, line := pc.toNat / 128, bytes := s.bytes (key / 128 * 128) 128 }
      if !permits pte need then .next (s.fetchFault strand lane pc xkPerm)
      else if !s.paOk key || s.vdRefused vd key then failed s
      else if pkgOf key == s.pkgnum.toNat then
        if s.refreshing key || !s.sliceTurn key vd (s.gangOf strand).prio then .next s
        else .next (enter ((s.recallAll (key / 128 * 128) 128).sliceGrant key vd 0))
      else
        let a := s.askPeer { who := .fetch strand lane, src := s.srcOf t.core, vd, prio := (s.gangOf strand).prio } .load (key / 128 * 128) 128 0 0 0
        let drop (s : State) : State := s.dropAsks (fun _ who => who == .fetch strand lane)
        match a.1 with
        | .wait => .next a.2
        | .answer => .next (enter (drop a.2))
        | .error => failed (drop a.2)
    match (s.core t.core).tlbFind (t.units lane) vd pc with
    | some e => arrive (s.loadMicro strand lane pc) e.pte
    | none =>
      let w := s.walkVa t.die vd pc
      if !s.walkTurn t.die vd w then .next s else
      let kept := s.afterWalk t.die vd w
      match w.fin with
      | .leaf pte => arrive (kept.tlbFill t.core ([t.units lane |>.headD 4, 4].eraseDups) vd pc pte) pte
      | .notMapped => .next (kept.fetchFault strand lane pc xkNotMapped)
      | .malformed => .next (kept.fetchFault strand lane pc xkMalformed)
      | .error _ => failed kept
      | .wait => .next s
      | .ask pa => .next (s.walkAsk t.die vd pa)

/-! ### Answers (R11, R156, R174, R184, R198, R200, R210, R215, R355) -/

/-- An answer reaches a core whose clock runs; during a relock it waits (R386). -/
def State.answered (s : State) (st : Stage) (f : Flight) : Bool := f.stage == st && (f.agent.isSome || s.clockOn (s.flightCore f))

/-- What a home answers to some accesses of a peer's request: the bytes that they read, and whether they were performed. -/
def replyData (fs : List Flight) : List Byte × Bool :=
  let sp := spanOf fs
  let reads := fs.any (fun f => f.stage == .reply)
  if fs.any (fun f => f.stage == .err) then ([], false) else (if reads then bytesOf sp.1 sp.2 fs (·.value) else [], true)

/-- The answer to a peer's request leaves by the port it came by, once all of its accesses have been performed, and returns the credits that its flits
took (R156, R210, R384); an error response says and carries nothing. -/
def State.answerPeer (s : State) (port : Nat) (q : Flit) (f : Flight) : State :=
  let all := s.flights.filter (fun g => g.agent == f.agent)
  if all.any (·.unperformed) then s
  else
    let d := replyData all
    let back : Flit := { Flit.empty with creditReq := (flitData q.data).length, epoch := q.epoch, vd := q.vd, pa := q.pa, src := q.src, tag := q.tag,
                                         op := q.op, mask := q.mask, wr := q.wr && d.2, data := d.1 }
    if s.portRoom port 2 (flitData d.1).length then
      ({ s with flights := s.flights.filter (fun g => g.agent != f.agent) } : State).sendFlits port 2 back
    else s

/-- Whether what asked is still there for an answer. -/
def State.asks (s : State) (a : Asker) : Bool :=
  match a with
  | .command id => s.cores.any (fun c => c.2.port.any (fun m => m.id == id) || c.2.mq.any (fun m => m.id == id)) ||
      s.dies.any (fun d => d.2.engines.any (fun e => e.2.any (fun c => c.id == id)))
  | .fetch k lane => s.fetchDue k lane
  | _ => true

/-- An answer comes: to a strand, to a peer package, or to an agent here, which uses it at its next step. -/
def State.answerWith (strand : State → Flight → State) (s : State) (f : Flight) : State :=
  match f.agent with
  | none => strand s f
  | some { who := .peer port q, .. } => s.answerPeer port q f
  | some a => if s.asks a.who then s else s.dropFlight f.id

/-- LOAD_REPLY (R174, R198, R215). -/
def execLoadReply (id : Nat) (s : State) : Out := s.onFlight id (s.answered .reply) (State.answerWith State.reply)

/-- ERROR_RESPONSE (R11, R184, R355). -/
def execErrorResponse (id : Nat) (s : State) : Out := s.onFlight id (s.answered .err) (State.answerWith State.errorReply)

/-- WRITE_ACKNOWLEDGEMENT (R200). -/
def execWriteAcknowledgement (id : Nat) (s : State) : Out := s.onFlight id (s.answered .ack) (State.answerWith State.acknowledge)

/-! ### Traps and the fault queue -/

/-- Whether a trap entry comes now for a strand (R340, R341). -/
def State.trapEntryDue (s : State) (k : Nat) : Bool :=
  let t := s.strand k
  t.live && s.mayIssue k && t.trapDue && !t.lanesFirst && s.trapAble k

/-- TRAP_ENTRY (R340 to R342): the pending trap, else the oldest asynchronous cause, with the scalar PC. -/
def execTrapEntry (strand : Nat) (s : State) : Out :=
  let t := s.strand strand
  if !s.trapEntryDue strand then .next s
  else
    match t.pendTrap, t.pend with
    | some r, _ => .next ((s.trapEnter strand r).settleTask t.gang)
    | none, r :: rest => .next ((s.setStrand strand { t with pend := rest }).trapEnter strand { r with pc := t.pc } |>.settleTask t.gang)
    | none, [] => .next s

/-- The first entry held by a die, in its store or at its source, that can be written: no entry of its partition stands before it (R351). -/
def State.heldWrite (s : State) (die : Nat) : List (Nat × LogEntry) → List (Nat × LogEntry) → Option (State × List (Nat × LogEntry))
  | _, [] => none
  | before, h :: rest =>
    if before.any (fun x => x.1 == h.1) then s.heldWrite die (before ++ [h]) rest
    else match s.fqWrite die h.1 h.2 with
      | some t => some (t, before ++ rest)
      | none => s.heldWrite die (before ++ [h]) rest

/-- FAULT_QUEUE_HELD_WRITE (R351). -/
def execFaultQueueHeldWrite (die : Nat) (s : State) : Out :=
  match s.heldWrite die [] (s.die die).unwritten with
  | some (t, rest) => .next (t.setDie die ((t.die die).store rest))
  | none => .next s

end Sys2Proof.Machine
end

