-- ==== Sys2Proof/Machine/Tasks.lean ====
section
/-! DEFINITION. Spawning (R267, R269), node bins (R270 to R272), futures (R273 to R275), the end, cancellation and priority of
tasks (R281 to R284), YIELD (R88). -/

namespace Sys2Proof.Machine

open Sys2Proof

/-! ### SPAWN and SPAWNV (R265 to R269) -/

/-- The spawner that a strand is: its children take at most the PRIO of its record. -/
def State.spawnerOf (s : State) (k : Nat) : Spawner :=
  let g := s.gangOf k
  { vd := g.vd, job := g.job, cap := s.recPrio g.vd g.handle, core := (s.strand k).core, vec := s.strandVec k }

/-- The logged address of a handle: its record, or the pool base for no task (R245). -/
def State.handleVa (s : State) (vd h : Nat) : W64 := if (s.recKey vd h).isSome then s.recordVa vd h else s.poolVa vd

/-- The sixteen doublewords of a template. -/
def imageOf (bs : List Byte) : Image := (List.range 16).map (fun i => BitVec.ofNat 64 (leNat ((bs.drop (8 * i)).take 8)))

/-- The void entry of a slot without a task (R269). -/
def voidEntry : QEntry := { handle := 0, vd := 0, doomed := false, resume := false, prio := 0, void := true, passed := 0 }

/-- The record step, and the entry of a record that is READY; nothing for ERROR. -/
def State.spawnAt (s : State) (p : QPlace) (w : Spawner) (h : Nat) (t : Option Image) (slot : Bool) : Option State :=
  match s.spawnRecord w h t with
  | some (true, s) => some (s.addEntry p (s.entryOf w.vd h false))
  | some (false, s) => some (if slot then s.addEntry p voidEntry else s)
  | none => none

/-- SPAWN's steps after its release: the reservation, the template, the record step. -/
def State.spawnSteps (s : State) (d a b : SReg) : State :=
  let core := s.me.core
  let h := (s.me.s a).toNat % 2 ^ 32
  let va := s.me.s b
  if s.cancelled s.cur then s.clearWait.scalarResult d 1
  else match s.roomFor (.core core) 1 3 with
    | none => s.clearWait.scalarResult d 2
    | some s =>
      let record (s : State) (t : Option Image) : State :=
        let w := s.spawnerOf s.cur
        match s.recKey w.vd h with
        | none => s.statusError d (s.handleVa w.vd h)
        | some key => s.atHome key (fun s => match s.spawnAt (.core core) w h t false with
          | some s => s.scalarResult d 0
          | none => s.statusError d (s.handleVa w.vd h))
      if va = 0 then record s none
      else s.withBytes false 0 (.spawn d a b) 8 va 128 (fun s bs => record s (some (imageOf bs))) (fun s => s.statusError d va)

/-- SPAWN (R267). -/
def execSpawn (d a b : SReg) (s : State) : Out := .next (s.afterRelease .domain (fun s => s.spawnSteps d a b))

/-- The handle of a thread. -/
def State.spawnHandle (s : State) (r : SpawnV) (thread : Nat) : Nat := (s.src32 s.cur thread r.imm r.handle).toNat

/-- One thread of SPAWNV: its slot, and its record step. `t` is the template that was read, none where its read received an error
response; the slot of a thread that spawns nothing is void. -/
def State.spawnThread (s : State) (r : SpawnV) (va : W64) (t : Option (Option Image)) (thread : Nat) : State :=
  let core := s.me.core
  let status (s : State) (v : Nat) : State := s.setMe (s.me.putV r.d.toNat thread (BitVec.ofNat 32 v))
  let fails (s : State) (va : W64) : State := status ((s.logError s.cur va s.me.lanePc (tmaskf := threadSet [thread])).addEntry (.core core) voidEntry) 3
  match s.roomFor (.core core) 1 3, t with
  | none, _ => status s 2
  | some s, none => fails s va
  | some s, some t =>
    let w := s.spawnerOf s.cur
    let h := s.spawnHandle r thread
    match s.spawnAt (.core core) w h t true with
    | some s => status s 0
    | none => fails s (s.handleVa w.vd h)

/-- SPAWNV (R269): the threads take the entries that can be had, in ascending order, before the template is read. -/
def execSpawnv (r : SpawnV) (s : State) : Out :=
  .next (s.laneIssue r.vregs r.m (fun x s =>
    let s := s.sendAll s.cur
    let all (s : State) (v : Nat) : State := s.laneWrite x r.d.toNat 1 (fun _ => v)
    if s.flights.any (fun f => f.strand == s.cur && f.lane && !f.orphan) || !s.releaseReady s.cur true .domain then s
    else if s.cancelled s.cur then all (s.setMe { s.me with laneWait := .none }) 1
    else
      let va := s.me.laneS s.me.runSeq r.tmpl
      let go (s : State) (t : Option (Option Image)) : State :=
        let s := (threadsIn x).foldl (fun s i => s.spawnThread r va t i) s
        s.setMe s.me.laneAdvance
      if va = 0 || (s.roomFor (.core s.me.core) 1 3).isNone then go s (some none)
      else s.withBytes true x (.spawnv r) 8 va 128 (fun s bs => go s (some (some (imageOf bs)))) (fun s => go s none)))

/-! ### Node bins (R270 to R272) -/

/-- Doubleword i of a bin's descriptor. -/
def State.binWord (s : State) (key i : Nat) : Nat := s.readLE (key + 8 * i) 8
def binFill (w : Nat) : Nat := bitsOf w 56 8
def binCur (w : Nat) : Nat := bitsOf w 52 4
def binNbuf (w : Nat) : Nat := bitsOf w 48 4
def binCoal (w : Nat) : Nat := bitsOf w 42 6
def binSize (w : Nat) : Nat := 16 * (bitsOf w 40 2 + 1)
def binRbase (w : Nat) : Nat := bitsOf w 0 32

/-- The address of a bin's buffer i. -/
def State.binBuf (s : State) (key i : Nat) : W64 :=
  let w := s.binWord key 0
  BitVec.ofNat 64 (s.binWord key 2 % 2 ^ 56 + i * ((binCoal w + 1) * binSize w))

/-- A reserved field of a descriptor is not zero. -/
def State.binBad (s : State) (key : Nat) : Bool :=
  bitsOf (s.binWord key 0) 32 8 != 0 || bitsOf (s.binWord key 2) 56 8 != 0 || (List.range 4).any (fun i => s.binWord key (4 + i) != 0)

/-- A job's cancellation has been acknowledged (R282). -/
def State.cancelAcked (s : State) (jk : Nat) : Bool :=
  (s.job jk).cancelling && (s.cancelUnits jk).all (fun u => (s.job jk).reached.contains u)

/-- The record that serves the batch that is filling, with its ARG for the launch. -/
def binHandle (w : Nat) : Nat := binRbase w + binCur w
def State.batchArg (s : State) (vd key : Nat) : State :=
  let w := s.binWord key 0
  s.setRecWord vd (binHandle w) 3 (BitVec.ofNat 64 (binFill w * 2 ^ 56 + (s.binBuf key (binCur w)).toNat % 2 ^ 56))

/-- The bin after the launch of its batch: the buffer is busy, and the next one without a task is current. -/
def State.closeBatch (s : State) (key : Nat) : State :=
  let w := s.binWord key 0
  let w1 := s.binWord key 1
  let cur := binCur w
  let busy := if w1.testBit (48 + cur) then bitsOf w1 48 16 else bitsOf w1 48 16 + 2 ^ cur
  let next := ((List.range (binNbuf w + 1)).find? (fun i => !busy.testBit i)).getD cur
  let s := s.writeLE 999 (key + 8) 8 (setBits w1 48 16 busy)
  let s := s.writeLE 999 key 8 (setBits (setBits w 56 8 0) 52 4 next)
  { s with bins := s.bins.filter (fun b => b.1 != key) }

/-- The spawner of a bin's batches: the bin's JOB; what NODEPUT released to the task is kept already. -/
def State.binSpawner (s : State) (vd key : Nat) : Spawner :=
  let job := bitsOf (s.binWord key 1) 32 16
  { vd, job, cap := (s.job (jobKeyOf vd job)).prio, core := 32 * (s.homeOf key).1, vec := [] }

/-- LaunchBatch (R272); nothing where the die queue lacks room. A record that cannot be spawned is logged. -/
def State.launchBatch (s : State) (vd key : Nat) : Option State :=
  let h := binHandle (s.binWord key 0)
  let w := s.binSpawner vd key
  let die := (s.homeOf key).1
  let s1 := s.batchArg vd key
  let spawned : Option State :=
    if s.cancelAcked (jobKeyOf vd w.job) then some (s1.endRecord vd h stCancelled)
    else match s1.roomFor (.die die) 1 1 with
      | none => none
      | some s2 => some ((s2.spawnAt (.die die) w h none false).getD
          (s2.log die { kind := 0x10, va := s2.handleVa vd h, vd, job := w.job }))
  spawned.map (fun s => s.closeBatch key)

/-- The take of a batch that is still filling, for an adoption: it is launched without an entry (R272, R276); nothing where its record
cannot be spawned READY. -/
def State.takeBatch (s : State) (vd key : Nat) : Option State :=
  match (s.batchArg vd key).spawnRecord (s.binSpawner vd key) (binHandle (s.binWord key 0)) none with
  | some (true, s) => some (s.closeBatch key)
  | _ => none

/-- A record is appended to the batch at the bin's home, released to the task that serves it; nothing where the batch's entry has no room. -/
def State.binAppend (s : State) (d : SReg) (key : Nat) (bs : List Byte) : State :=
  let vd := (s.gangOf s.cur).vd
  let w := s.binWord key 0
  let dst := s.binBuf key (binCur w) + BitVec.ofNat 64 (binFill w * binSize w)
  match s.pageRuns s.me.core vd needW true (pagesOf dst (binSize w)) with
  | none => s.statusError d dst true
  | some ks =>
    let s1 := (s.writeAreas 999 ks bs).releaseTo (gangKeyOf vd (binHandle w)) (s.strandVec s.cur)
    let fill := (binFill w + 1) % 256
    let s1 := s1.writeLE 999 key 8 (setBits w 56 8 fill)
    let timer := bitsOf (s.binWord key 1) 0 32
    let s1 := if fill == 1 && timer != 0 then
        let s2 := s1.writeLE 999 (key + 24) 8 (((s1.die (s1.homeOf key).1).refcnt.toNat + timer) % 2 ^ 64)
        { s2 with bins := s2.bins.filter (fun b => b.1 != key) ++ [(key, vd)] }
      else s1
    if fill == binCoal w + 1 then
      match s1.launchBatch vd key with
      | some s => s.scalarResult d 0
      | none => s
    else s1.scalarResult d 0

/-- NODEPUT's step at the bin's home: the descriptor is checked before rb is read (R271). -/
def State.binStep (s : State) (i : Instr) (d : SReg) (va src : W64) (key : Nat) : State :=
  let w := s.binWord key 0
  let w1 := s.binWord key 1
  if s.binBad key || bitsOf w1 32 16 != (s.gangOf s.cur).job then s.statusError d va true
  else if w1.testBit (48 + binCur w) then s.scalarResult d 2
  else s.withBytes false 0 i 8 src (binSize w) (fun s bs => s.binAppend d key bs) (fun s => s.statusError d src)

/-- NODEPUT (R271). -/
def execNodeput (d a b : SReg) (s : State) : Out :=
  let va := s.me.s a
  let src := s.me.s b
  .next (s.afterRelease .domain (fun s =>
    if s.cancelled s.cur then s.clearWait.scalarResult d 1
    else s.withVa (.nodeput d a b) { bytes := 64, align := 1, need := needRW, wp := wpNone } va
      (fun s key =>
        if !s.hbmCell s.cur key || va.toNat % 64 != 0 then s.statusError d va true
        else s.atHome key (fun s => s.binStep (.nodeput d a b) d va src key))
      (fun s => s.statusError d va true)))

/-- BIN_TIMER_EXPIRY (R272): REFCNT of the bin's die has reached DEADLINE with records in the batch. -/
def execBinTimerExpiry (pa : Nat) (s : State) : Out :=
  match s.bins.find? (fun b => b.1 == pa) with
  | none => .next s
  | some (_, vd) =>
    if binFill (s.binWord pa 0) == 0 then .next { s with bins := s.bins.filter (fun b => b.1 != pa) }
    else if (s.die (s.homeOf pa).1).refcnt.toNat < s.binWord pa 3 then .next s
    else .next ((s.launchBatch vd pa).getD s)

/-! ### Futures (R274, R275) -/

/-- FFILL and ffill.cancel: a release at domain scope, then the fill at the cell's home. -/
def State.ffill (s : State) (i : Instr) (d a : SReg) (value : W64) (cancel : Bool) : Out :=
  let va := s.me.s a
  .next (s.afterRelease .domain (fun s => s.withVa i (cellForm needW) va
    (fun s key =>
      if !s.hbmCell s.cur key then s.statusError d va true
      else s.atHome key (fun s => match s.fillFuture key value cancel with
        | some s => s.scalarResult d 0
        | none => s.statusError d va true))
    (fun s => s.statusError d va true)))

/-- FFILL (R274). -/
def execFfill (d a b : SReg) (s : State) : Out := s.ffill (.ffill d a b) d a (s.me.s b) false
/-- ffill.cancel (R274). -/
def execFfillCancel (d a : SReg) (s : State) : Out := s.ffill (.ffillCancel d a) d a 0 true

/-- FWAIT's step at the cell's home. -/
def State.waitStep (s : State) (d : SReg) (va : W64) (key : Nat) (nb : Bool) : State :=
  let c := s.readLE key 16
  if c.testBit 97 then s.scalarResult d 1
  else if c.testBit 96 then (s.acquireAt s.cur .domain).scalarResult d 0
  else if nb then s.scalarResult d 2
  else if s.tableFull key then s.setMe { s.me with wait := .refused }
  else
    let s := { s with waiters := s.waiters ++ [({ pa := key, strand := s.cur, kind := 0 } : Waiter)] }
    (s.setMe { s.me with wait := .future key va d }).parkOn s.cur 1 va.toNat (futureOwner c)

def State.fwait (s : State) (i : Instr) (d a : SReg) (nb : Bool) : Out :=
  let va := s.me.s a
  .next (if s.cancelled s.cur then s.clearWait.scalarResult d 1
    else s.withVa i (cellForm needR) va
      (fun s key => if s.hbmCell s.cur key then s.atHome key (fun s => s.waitStep d va key nb) else s.statusError d va)
      (fun s => s.statusError d va))

/-- FWAIT (R275). -/
def execFwait (d a : SReg) (s : State) : Out := s.fwait (.fwait d a) d a false
/-- FWAIT.NB (R275). -/
def execFwaitNb (d a : SReg) (s : State) : Out := s.fwait (.fwaitNb d a) d a true

/-- FGET (R275): no status; an error response gives 0 and the deferred trap. -/
def execFget (d a : SReg) (s : State) : Out :=
  let va := s.me.s a
  let fails (s : State) : State := (s.deferredError va).scalarResult d 0
  .next (s.withVa (.fget d a) (cellForm needR) va
    (fun s key =>
      if !s.hbmCell s.cur key then fails s
      else s.atHome key (fun s =>
        let c := s.readLE key 16
        if c.testBit 96 then (s.acquireAt s.cur .domain).scalarResult d (BitVec.ofNat 64 (c % 2 ^ 64)) else s.scalarResult d 0))
    fails)

/-! ### TDONE, CANCEL, PRIO, YIELD (R88, R281 to R284) -/

/-- TDONE (R283). -/
def execTdone (a : SReg) (s : State) : Out := .next (s.afterDrain (fun s => s.strandDone s.cur (s.me.s a)))

/-- CANCEL of a job: rd := DONE once the cancellation is acknowledged (R281). -/
def State.cancelInstr (s : State) (d : SReg) (jk : Nat) : Out :=
  let g := s.gangOf s.cur
  if !(s.job jk).live then .next (s.statusError d (s.recordVa g.vd g.handle))
  else
    let s := (s.cancelJob jk).jobCheck jk
    .next (if s.cancelAcked jk then s.scalarResult d 0 else s.setMe { s.me with wait := .cancelAck jk d })

/-- CANCEL (R281). -/
def execCancel (d : SReg) (s : State) : Out := s.cancelInstr d (s.jobKey s.cur)
/-- cancel.job (R281). -/
def execCancelJob (d a : SReg) (s : State) : Out := s.cancelInstr d (jobKeyOf (s.gangOf s.cur).vd ((s.me.s a).toNat % 65536))

/-- PRIO (R284); an adopted gang runs at the greater of its own priority and the waiter gang's (R277). -/
def execPrio (d a : SReg) (s : State) : Out :=
  let g := s.gangOf s.cur
  let old := s.recPrio g.vd g.handle
  let new := s.me.s a
  if new.toNat ≤ (s.job (s.jobKey s.cur)).prio then
    let prio := match g.adopter with
      | some w => max new.toNat (s.gang w).prio
      | none => new.toNat
    let s := (s.setRecField g.vd g.handle 0 54 4 new.toNat).setGang s.me.gang { g with prio }
    .next (s.scalarResult d (BitVec.ofNat 64 old))
  else .next (s.scalarResult d (BitVec.ofNat 64 (old + 2 ^ 63)))

/-- A gang of equal or higher priority waits for capacity on a gang's core (R86, R88). Which gangs wait for a core is not said: the model
counts the entries of the core's own ready queue, not those of the cluster, die and job queues that feed it (log entry 72, DESIGN CHOICE). -/
def State.competitor (s : State) (g : Nat) : Bool :=
  let x := s.gang g
  (s.core x.core).queue.any (fun e => !e.void && !e.doomed && x.prio ≤ e.prio && gangKeyOf e.vd e.handle != g)

/-- YIELD (R88, R89, R359). In the ac in which COUNT becomes 0 it wins: the deadline has no effect of its own there, and COUNT stays 0 where
no competitor waits (DEDUCED, log entry 87). -/
def execYield (s : State) : Out :=
  let g := s.me.gang
  if s.cancelled s.cur then .next (s.endGang g 1)
  else
    let s := (s.setMe s.me.advance).setGang g { s.gang g with due := 0 }
    .next (if s.competitor g then (s.preempt g 1).getD (s.ctxError g) else s)

end Sys2Proof.Machine
end

