-- ==== Sys2Proof/Machine/Scheduling.lean ====
section
/-! DEFINITION. The scheduler's steps: dispatch (R257 to R259, R262, R277), moves of queue entries (R256), rebalancing (R260),
strand moves (R261), retirement (R263), helping (R276, R277), deadlines (R86, R87), context saves (R356), the arrival of a
cancel state (R282). -/

namespace Sys2Proof.Machine

open Sys2Proof

/-! ### Dispatch -/

/-- An entry's place in the order of R257: its virtual device's rank at the core's issue slots, by tokens and loans, and its priority (R379);
RESUME. -/
def State.dispatchRank (s : State) (core : Nat) (e : QEntry) : Nat :=
  2 * (215 - s.rankAt (issueArbiter core) ((s.core core).queue.map (·.vd)) e.vd e.prio) + (if e.resume then 0 else 1)

/-- The entries of a core's queue in the order of R257. -/
def State.dispatchOrder (s : State) (core : Nat) : List QEntry :=
  let q := (s.core core).queue
  ((List.range 432).map (fun r => q.filter (fun e => s.dispatchRank core e == r))).flatten

/-- An entry leaves a core's queue. -/
def State.dropEntry (s : State) (core : Nat) (e : QEntry) : State :=
  s.setCore core { s.core core with queue := (s.core core).queue.erase e }

/-- A gang starts or resumes from its entry, where it fits. -/
def State.startEntry (s : State) (core : Nat) (e : QEntry) : Option State :=
  if e.resume then (s.dropEntry core e).resumeGang core (gangKeyOf e.vd e.handle)
  else (s.dropEntry core e).startGang core e.vd e.handle none

/-- A doomed entry is discarded: its record becomes CANCELLED and LIVE falls (R257). -/
def State.discard (s : State) (core : Nat) (e : QEntry) : State :=
  let jk := jobKeyOf e.vd (s.recJob e.vd e.handle)
  ((((s.dropEntry core e).endRecord e.vd e.handle stCancelled).subLive jk).jobCheck jk)

/-- Entries that were passed over count it. -/
def State.passOver (s : State) (core : Nat) (passed : List QEntry) : State :=
  s.setCore core { s.core core with queue := (s.core core).queue.map (fun e => if passed.contains e then { e with passed := e.passed + 1 } else e) }

/-- The entries in order: void ones are skipped, doomed ones discarded, those that do not fit passed over; after sixteen times an
entry holds back those behind it. -/
def State.tryEntries (s : State) (core : Nat) : List QEntry → List QEntry → Option State
  | [], _ => none
  | e :: es, passed =>
    if e.void then some (s.dropEntry core e)
    else if e.doomed then some (s.discard core e)
    else if (s.gang (gangKeyOf e.vd e.handle)).hsusp && e.resume then s.tryEntries core es passed
    else match s.startEntry core e with
      | some s => some (s.passOver core passed)
      | none => if 16 ≤ e.passed then none else s.tryEntries core es (passed ++ [e])

/-- A waiter gang saved for an adoption is to resume: the gang it adopted has retired, parked or been pre-empted (R277). -/
def State.waiterDue (s : State) (w : Nat) : Bool :=
  let x := s.gang w
  x.live && x.place == .beneath && x.taken.isNone && !x.hsusp &&
    !s.gangs.any (fun g => g.2.adopter == some w && g.2.present && s.recState g.2.vd g.2.handle != stParked)

/-- The RESUME entry of a saved gang enters a core's queue (R262, R277). -/
def State.enterResume (s : State) (core g : Nat) : Option State :=
  let x := s.gang g
  (s.setGang g { x with place := .saved }).enter (.core core) (s.entryOf x.vd x.handle true)

/-- What a core's dispatcher does, while its clock runs (R386): a waiter gang resumes before any queue entry. -/
def State.dispatch (s : State) (core : Nat) : Option State :=
  if !s.clockOn core then none
  else match s.gangs.find? (fun g => g.2.core == core && s.waiterDue g.1) with
  | some (w, _) =>
    match s.resumeGang core w with
    | some s => some s
    | none => s.enterResume core w
  | none => s.tryEntries core (s.dispatchOrder core) []

/-- DISPATCH (R257 to R259). -/
def execDispatch (core : Nat) (s : State) : Out := .next ((s.dispatch core).getD s)

/-! ### Moves of entries (R256) -/

/-- A core has a free slot and room for the smallest budget: it can start a gang. -/
def State.coreCanStart (s : State) (core : Nat) : Bool :=
  (s.die (core / 32)).present && !(s.die (core / 32)).fenced && (s.die (core / 32)).cores.getLsbD (core % 32) &&
    ((s.occupied core none).bestLane 16).isSome

/-- No entry of a core's queue can start there. -/
def State.coreHungry (s : State) (core : Nat) : Bool :=
  s.coreCanStart core && (s.core core).queue.all (fun e => !e.void && !e.doomed && (s.startEntry core e).isNone)

/-- A block of up to eight is taken from the queue above, where the taker has room for it. -/
def State.takeBlockOf (s : State) (p u : QPlace) : State :=
  let block := highestEight (s.queueAt u)
  if block.isEmpty || p.size < (s.queueAt p).length + block.length then s else s.moveBlock u p block

/-- A full queue moves a block up. -/
def State.pushBlock (s : State) (p : QPlace) : State :=
  match p.up with
  | some u => if (s.queueAt p).length == p.size then
      (match s.roomFor u 8 2 with | some s => s.moveBlock p u (lowestEight (s.queueAt p)) | none => s) else s
  | none => s

/-- QUEUE_BLOCK_MOVE (R256). -/
def execQueueBlockMove (mv : QMove) (s : State) : Out :=
  .next (match mv with
    | .coreUp c => s.pushBlock (.core c)
    | .clusterUp c => s.pushBlock (.cluster c)
    | .coreTake c => if s.coreHungry c then s.takeBlockOf (.core c) (.cluster (c / 2)) else s
    | .clusterTake c =>
      if (s.cluster c).queue.isEmpty && (s.coreHungry (2 * c) || s.coreHungry (2 * c + 1)) then s.takeBlockOf (.cluster c) (.die (c / 16)) else s)

/-- UCIe crossings between two dies of the 3 × 3 package (R12, R13). -/
def crossings (a b : Nat) : Nat := (a / 3 - b / 3) + (b / 3 - a / 3) + (a % 3 - b % 3) + (b % 3 - a % 3)

/-- Entries of a die's queue whose job may run on another die. -/
def State.stealable (s : State) (src die : Nat) : List QEntry :=
  (s.die src).queue.filter (fun e => !e.void && (s.job (jobKeyOf e.vd (s.recJob e.vd e.handle))).dies.contains die)

/-- DIE_QUEUE_STEAL (R256). -/
def execDieQueueSteal (die : Nat) (s : State) : Out :=
  let full := (List.range 9).filter (fun d => d != die && 64 < (s.die d).queue.length && !(s.stealable d die).isEmpty)
  let best := ((List.range 5).map (fun n => full.filter (fun d => crossings die d == n))).flatten
  match best with
  | d :: _ =>
    if (s.die die).queue.isEmpty && (List.range 32).any (fun c => s.coreHungry (32 * die + c)) then
      .next (s.moveBlock (.die d) (.die die) (highestEight (s.stealable d die)))
    else .next s
  | [] => .next s

/-! ### Rebalancing and moves of strands (R260, R261) -/

/-- The live strands of a role that are not chosen for removal, by index. -/
def State.roleStrands (s : State) (g role : Nat) : List Nat :=
  ((s.strandsOf g).filter (fun k => (s.strand k).role == role && !(s.strand k).removed)).map (fun k => (s.strand k).idx)

/-- A strand is added to a role, with the lowest free index, where one fits. -/
def State.addStrand (s : State) (g role : Nat) : Option State :=
  let x := s.gang g
  let r := s.roleOf x.vd x.handle role
  let held := ((s.strandsOf g).filter (fun k => (s.strand k).role == role)).map (fun k => (s.strand k).idx)
  if rolePinned r || x.noAdd.contains role || roleMax r ≤ held.length then none
  else
    let idx := ((List.range 512).find? (fun i => !held.contains i)).getD 0
    match (s.occupied x.core none).place { role, idx, budget := 16 * (roleRegs r + 1), pinned := false } with
    | none => none
    | some (p, _) => some (((s.newStrand g x.core p).joinAll (strandKeyOf g role idx) (roleCons r)).settleTask g)

/-- The strand of a role with the highest index is chosen for removal. -/
def State.cutStrand (s : State) (g role : Nat) : Option State :=
  let x := s.gang g
  let r := s.roleOf x.vd x.handle role
  let left := s.roleStrands g role
  if rolePinned r || left.length ≤ roleMin r then none
  else
    let k := strandKeyOf g role (left.foldl max 0)
    some (s.setStrand k { s.strand k with removed := true })

/-- One queue's change at the end of an epoch, and the role that changed. -/
def State.rebalanceQueue (s : State) (g q : Nat) (changed : List Nat) : State × List Nat :=
  let x := s.gang g
  let d := s.desc x.core q
  let b := s.book x.core q
  let attempt (add cut : Nat) : State × List Nat :=
    match (if changed.contains add then none else s.addStrand g add) with
    | some s => (s, changed ++ [add])
    | none => match (if changed.contains cut then none else s.cutStrand g cut) with
      | some s => (s, changed ++ [cut])
      | none => (s, changed)
  if 3 * descDepth d ≤ 4 * descCount d then attempt b.lastPop b.lastPush
  else if 4 * descCount d ≤ descDepth d && b.waits.any (fun w => !w.2 && b.pushed w.1 == descAllow d) then attempt b.lastPush b.lastPop
  else (s, changed)

/-- REBALANCE_EPOCH (R260). -/
def execRebalanceEpoch (gang : Nat) (s : State) : Out :=
  let x := s.gang gang
  if x.live && x.place == .resident then
    .next ((((List.range 32).filter (fun q => x.queues.contains q)).foldl (fun r q => r.1.rebalanceQueue gang q r.2) (s, [])).1)
  else .next s

/-- STRAND_MOVE (R23, R261). A loop that is buffered for the strand (R117) moves with it (DESIGN CHOICE, log entry 92). -/
def execStrandMove (strand lane : Nat) (s : State) : Out :=
  let t := s.strand strand
  let g := s.gang t.gang
  let o := s.occupied t.core none
  if t.live && g.place == .resident && !t.pinned && !s.owed strand && lane < 64 && lane != t.lane &&
      o.room lane t.budget then
    .next (s.setStrand strand { t with lane, sid := o.slot lane })
  else .next s

/-! ### Retirement -/

/-- A gang may retire (R263): its last strand has ended, and its commands and accesses have completed. -/
def State.retireDue (s : State) (g : Nat) : Bool := (s.gang g).live && (s.gang g).present && (s.strandsOf g).isEmpty && s.gangIdle g

/-- TASK_RETIRE (R263, R264): a gang retires, or a retirement that waited for room goes on. -/
def execTaskRetire (gang : Nat) (s : State) : Out :=
  .next (match s.retiring.find? (fun r => r.key == gang) with
    | some r => ({ s with retiring := s.retiring.erase r } : State).retireOn r
    | none => if s.retireDue gang then s.retire gang else s)

/-! ### Helping (R276, R277) -/

/-- The owner of the object on which a task is parked. -/
def State.blockerOwner (s : State) (vd h : Nat) : Nat :=
  let w := s.recWord vd h 2
  let va : W64 := BitVec.ofNat 64 (fieldOf w 0 56)
  match fieldOf w 61 3 with
  | 1 => match s.hwKey 128 vd needR va false with | some k => futureOwner (s.readLE k 16) | none => 0
  | 2 => match s.hwKey 128 vd needR va false with | some k => lockOwner (s.readLE k 16) | none => 0
  | 3 => descOwner (s.desc (32 * fieldOf w 10 4 + fieldOf w 5 5) (fieldOf w 0 5))
  | _ => 0

/-- The queue within a core's reach that holds a task's entry. -/
def State.entryNear (s : State) (core vd h : Nat) : Option (QPlace × QEntry) :=
  ([QPlace.core core, QPlace.cluster (core / 2), QPlace.die (core / 32)].filterMap (fun p =>
    ((s.queueAt p).find? (fun e => !e.void && e.vd == vd && e.handle == h)).map (fun e => (p, e)))).head?

/-- The bin, homed on a die, whose filling batch a record serves (R272, R276). -/
def State.fillingBin (s : State) (die vd h : Nat) : Option Nat :=
  let p := fieldOf (s.recWord vd h 1) 0 32
  if p == 0 then none
  else match s.hwKey 128 vd needRW (shortVa p) true with
    | none => none
    | some key =>
      let w := s.binWord key 0
      if !isSpad key && binFill w != 0 && binHandle w == h && (s.homeOf key).1 == die then some key else none

/-- The waiter's core takes an entry, by `take`, and adopts the task, in the free capacity or after it has saved the waiter gang. -/
def State.adoptFrom (s : State) (g core vd h : Nat) (take : State → Option State) (e : QEntry) : State :=
  match s.planStart core vd h none with
  | some plan => match take s with
    | some s => s.startAt core vd h (some g) plan
    | none => s
  | none =>
    if s.allParked g && (s.gang g).place == .resident && (s.planStart core vd h (some g)).isSome then
      match s.reserveCtx g with
      | some t => match take t with
        | some t => (t.setGang g { t.gang g with taken := some e }).collect g 3
        | none => s
      | none => s.ctxError g
    else s

/-- Helping may adopt a task of a job: it is not cancelling, and the waiter's gang stands less than four deep. -/
def State.mayAdopt (s : State) (g jk : Nat) : Bool := !(s.job jk).cancelling && (s.gang g).depth < 4

/-- The procedure of R276 from a handle; `fuel` is the hops left. The record of a batch that is filling, which has not been spawned, is found
through its bin. -/
def State.helpFrom (s : State) (g core h : Nat) : Nat → State
  | 0 => s
  | fuel + 1 =>
    let x := s.gang g
    if (s.recKey x.vd h).isNone then s
    else match s.fillingBin (core / 32) x.vd h with
    | some key =>
      if s.mayAdopt g (jobKeyOf x.vd (s.binSpawner x.vd key).job) then
        s.adoptFrom g core x.vd h (fun s => s.takeBatch x.vd key) (s.entryOf x.vd h false)
      else s
    | none =>
      let st := s.recState x.vd h
      if s.recVd x.vd h != x.vd then s
      else if st == stReady then
        match s.entryNear core x.vd h with
        | some (p, e) =>
          if e.resume || e.doomed || !s.mayAdopt g (jobKeyOf x.vd (s.recJob x.vd h)) then s
          else s.adoptFrom g core x.vd h (fun s => some (s.setQueueAt p ((s.queueAt p).erase e))) e
        | none => s
      else if st == stParked then s.helpFrom g core (s.blockerOwner x.vd h) fuel
      else s

/-- HELPING (R276): the core of a strand that has parked acts on the owner it received. -/
def execHelping (strand : Nat) (s : State) : Out :=
  let t := s.strand strand
  match t.owner with
  | none => .next s
  | some h =>
    let s := s.setStrand strand { t with owner := none }
    if t.live && t.blocked && (s.gang t.gang).place == .resident && !(s.gang t.gang).halted then .next (s.helpFrom t.gang t.core h 4)
    else .next s

/-! ### Deadlines and saves (R86, R87, R262, R278, R356, R357) -/

/-- The gang beneath which a stack of adopted gangs stands. `fuel` bounds the depth. -/
def State.rootOf (s : State) (g : Nat) : Nat → Nat
  | 0 => g
  | fuel + 1 => match (s.gang g).adopter with | some a => s.rootOf a fuel | none => g

/-- The deadline of a gang has expired: COUNT has become 0, it is resident and not halted, and no gang adopted beneath it carries the
slice. -/
def State.deadlineDue (s : State) (g : Nat) : Bool :=
  let x := s.gang g
  x.live && x.place == .resident && !x.halted && x.due != 0 &&
    !s.gangs.any (fun c => c.2.live && c.2.adopter == some g && c.2.place == .resident)

/-- The stack of a gang is pre-empted: a waiter that is saved stays saved, and gets its RESUME entry when the gang it adopted has
been saved. -/
def State.preemptStack (s : State) (root : Nat) : Option State :=
  let stack := (s.stackOf root).filter (fun x => (s.gang x).live && (s.gang x).place == .resident)
  (s.reserveAll stack).map (fun s => stack.foldl (fun s x => s.collect x (if x == root then 0 else 4)) s)

/-- DEADLINE_EXPIRY (R86, R87, R359). -/
def execDeadlineExpiry (gang : Nat) (s : State) : Out :=
  if !s.deadlineDue gang then .next s
  else
    let root := s.rootOf gang 8
    if s.competitor gang then
      match s.preemptStack root with
      | some s => .next s
      | none => .next ((s.ctxError gang).reloadStack root)
    else .next (s.reloadStack root)

/-- The saved gang's place in the stack of adoptions ends (R277, R278): with its waiter pre-empted, that one gets its RESUME
entry too if it was saved. -/
def State.leaveStack (s : State) (g cause : Nat) : Option State :=
  let x := s.gang g
  let s := s.setGang g { x with adopter := none, depth := 0, waitTask := 0, prio := s.recPrio x.vd x.handle }
  match x.adopter with
  | none => some s
  | some w => if cause == 4 && (s.gang w).place == .beneath then s.enterResume (s.gang w).core w else some s

/-- The end of a collection (R356): the context is saved; the RESUME entry enters the core's queue, or the adopted gang starts. A task whose
job has begun to be cancelled meanwhile is not adopted: its entry goes to the queue (R279, R282). -/
def State.finishSave (s : State) (g cause : Nat) : Option State :=
  let x := s.gang g
  if cause == 3 then
    let s := s.saveGang g .beneath x.adopter.isSome
    match x.taken with
    | none => some s
    | some e =>
      let s := s.setGang g { s.gang g with taken := none }
      if e.doomed || (s.job (jobKeyOf e.vd (s.recJob e.vd e.handle))).cancelling then s.enter (.core x.core) e
      else match s.startGang x.core e.vd e.handle (some g) with
        | some s => some s
        | none => s.enter (.core x.core) e
  else
    let s := s.saveGang g .saved false
    let s := s.setGang g { s.gang g with hsusp := (s.gang g).hsusp || cause == 2 }
    match s.leaveStack g cause with
    | some s => s.enterResume x.core g
    | none => none

/-- CONTEXT_SAVE (R356, R358). -/
def execContextSave (gang : Nat) (s : State) : Out :=
  let x := s.gang gang
  match x.place with
  | .collecting cause =>
    if x.live && !(s.strandsOf gang).isEmpty && s.collected gang then .next ((s.finishSave gang cause).getD s) else .next s
  | _ => .next s

/-! ### Cancellation (R224, R282) -/

/-- A wait of a strand meets the cancel state at its core: it is withdrawn, and the instruction completes with CANCELLED. -/
def State.cancelWait (s : State) (k : Nat) : State :=
  let t := s.strand k
  let noWaits (s : State) : State := { s with waiters := s.waiters.filter (fun w => w.strand != k) }
  let scalar (s : State) : State := match t.wait with
    | .future _ _ d => (noWaits s).answer k d 1
    | .lock _ _ d => (noWaits s).answer k d 1
    | .port d =>
      let s := { s with flights := s.flights.filter (fun f => !(f.strand == k && !f.lane && f.dest == .s d && f.unperformed &&
        (match f.kind with | .fewait _ | .phase _ => true | _ => false))) }
      if s.flights.any (fun f => f.strand == k && !f.lane && f.dest == .s d) then s else s.answer k d 1
    | .recv d =>
      let s := { s with clusters := s.clusters.map (fun (c : Nat × Cluster) => (c.1, { c.2 with posted := c.2.posted.filter (fun p => p.strand != k) })) }
      s.answer k d (1 * 2 ^ 61)
    | _ => s
  let s := scalar s
  match (s.strand k).laneWait with
  | .queue r _ _ =>
    let q := r.q.toNat
    let b := s.book t.core q
    let s := s.setBook t.core q { b with waits := b.waits.filter (fun w => w.1 != k) }
    ((s.queueCancel k r).serveQueue t.core q 64).settleTask t.gang
  | _ => { s with flights := s.flights.filter (fun f => !(f.strand == k && f.lane && f.unperformed && (match f.kind with | .fewait _ => true | _ => false))) }

/-- The waits of a job's strands on a core end, and its parked parties there; a halted gang's when it is released (R354, R365). -/
def State.cancelWaits (s : State) (core jk : Nat) : State :=
  let here (g : Nat × Gang) : Bool := g.2.live && g.2.core == core && jobKeyOf g.2.vd g.2.job == jk
  let s := (s.gangs.filter here).foldl (fun s g =>
    if g.2.place != .resident then s.forgetParties g.1 else if g.2.halted then s else s.discardParties g.1 (fun _ => true)) s
  (s.strands.filter (fun c => c.2.live && c.2.core == core && s.jobKey c.1 == jk)).foldl (fun s c =>
    let g := s.gangOf c.1
    if g.place == .resident && !g.halted then s.cancelWait c.1 else s) s

/-- Entries of a job in the queue of a unit, and those that its core holds for an adoption, are marked; one that resumes a gang is not
(R282). -/
def State.doom (s : State) (jk unit : Nat) : State :=
  let p : QPlace := if unit < 288 then .core unit else if unit < 432 then .cluster (unit - 288) else .die (unit - 432)
  let mark (e : QEntry) : QEntry := if !e.void && !e.resume && jobKeyOf e.vd (s.recJob e.vd e.handle) == jk then { e with doomed := true } else e
  let t := { s with gangs := s.gangs.map (fun (g : Nat × Gang) => if g.2.core == unit then (g.1, { g.2 with taken := g.2.taken.map mark }) else g) }
  t.setQueueAt p ((s.queueAt p).map mark)

/-- CANCEL_STATE_ARRIVAL (R282): at a unit of a job, core, cluster or distributor; also of one that has ended meanwhile, whose cancellation is still to
be acknowledged (R281). -/
def execCancelStateArrival (job unit : Nat) (s : State) : Out :=
  let j := s.job job
  if j.cancelling && (s.cancelUnits job).contains unit && !j.reached.contains unit then
    let s := s.setJob job { j with reached := j.reached ++ [unit] }
    let s := s.doom job unit
    let s := if unit < 288 then s.cancelWaits unit job else s
    .next ((if s.cancelAcked job then s.ackCancel job else s).jobCheck job)
  else .next s

end Sys2Proof.Machine
end

