-- ==== Sys2Proof/Machine/System.lean ====
section
/-! DEFINITION. The system instructions (R186, R337, R347, R349, R353, R361, R365, R368), and the timeout of WFE. -/

namespace Sys2Proof.Machine

open Sys2Proof

/-! ### TRAP, BKPT, RFT, ISYNC -/

/-- TRAP (R349): TRAPPC holds the address after it. -/
def execTrap (code : BitVec 12) (s : State) : Out :=
  .next (s.raise s.cur { s.me.scalarTrap cTrap 0 with pc := s.me.pc + 4, tcode := code.toNat })

/-- BKPT (R349, R367): it halts its gang with debugging on. -/
def execBkpt (s : State) : Out :=
  let pc := s.me.pc
  if s.vdDebug (s.gangOf s.cur).vd then .next ((s.setMe s.me.advance).debugStop s.cur pc)
  else .next (s.raise s.cur { s.me.scalarTrap cBkpt 0 with pc := pc + 4 })

/-- The frame can be read: the strand's own scalar stores have been performed, and no bank that holds the frame is in its refresh window (R73,
R167, R347). -/
def State.frameReady (s : State) (k : Nat) : Bool :=
  let t := s.strand k
  let waits (va : W64) : Bool := match s.framePage k va false with
    | some (key, _) => s.anyRefreshing key 4096
    | none => false
  !s.flights.any (fun f => f.strand == k && !f.orphan && !f.lane && f.kind.writes && f.unperformed) && !waits t.frameVa && !waits (t.frameVa + 4096)

/-- RFT (R347): outside a handler it is illegal. -/
def execRft (s : State) : Out :=
  if !s.me.handler then .next (s.raiseScalar cIllegal 0)
  else .next (s.afterDrain (fun s => if s.frameReady s.cur then (s.trapReturn s.cur).settleTask s.me.gang else s))

/-- The stores that the loads of a strand would observe stand in memory, where code is fetched: its own, and those of its core that have left
it (R73, R186, R200). -/
def State.storesFetchable (s : State) (k : Nat) : Bool :=
  !s.flights.any (fun f => f.kind.writes && f.unperformed && !isSpad f.key &&
    ((f.strand == k && !f.orphan) || (f.sent && s.flightCore f == (s.strand k).core)))

/-- ISYNC (R186): when the strand's lane work is done, and its fetches would observe what its loads observe, the core's instruction caches
drop every line, and the strand what it has buffered and what it has asked peers for. -/
def execIsync (s : State) : Out :=
  .next (s.afterDrain (fun s =>
    if !s.storesFetchable s.cur then s
    else
      let s := s.setCore s.me.core { s.core s.me.core with icS := [], icL := [] }
      let s := s.dropAsks (fun _ who => who == .fetch s.cur false || who == .fetch s.cur true)
      s.setMe { s.me.advance with loopBuf := [] }))

/-! ### HALT (R365) -/

/-- A privileged instruction (R39): the privileged-instruction trap in a strand that is not a supervisor strand. -/
def State.privileged (s : State) (go : State → State) : Out :=
  if s.isSup s.cur then .next (go s) else .next (s.raiseScalar cPriv 0)

/-- A task handle of a partition: the live gang of the lowest-numbered virtual device that has one of that handle. -/
def State.taskOf (s : State) (p h : Nat) : Option Nat :=
  (s.gangs.find? (fun g => g.2.live && g.2.handle == h && s.vdPart g.2.vd == p &&
    (let st := s.recState g.2.vd h; st == stRunning || st == stParked || st == stSuspended))).map (·.1)

/-- A handle that some virtual device of a partition has in its pool; every other names no task (R245). -/
def State.namesTask (s : State) (p h : Nat) : Bool :=
  h != 0 && (List.range 384).any (fun v => s.vdEn v && s.vdPart v == p && decide (h < s.poolN v))

/-- ERROR for a handle: one that names no task has the pool base of the strand's virtual device in the error log (R245; log entry 39). -/
def State.taskError (s : State) (d : SReg) (h : Nat) : State :=
  let vd := (s.gangOf s.cur).vd
  if s.namesTask (s.vdPart vd) h then s.scalarResult d 3 else s.statusError d (s.poolVa vd)

/-- How a halt operation stands. -/
inductive Halting where
  | done (s : State)
  /-- the collection goes on -/
  | wait (s : State)
  | error (s : State)
  deriving DecidableEq, Repr

/-- A halted stack goes on; a cancellation that came meanwhile reaches it now. -/
def State.releaseHalt (s : State) (g : Nat) : State :=
  (s.stackOf g).foldl (fun s x =>
    let y := s.gang x
    let s := s.setGang x { y with halted := false, hsusp := false }
    let c := s.core y.core
    let s := if c.holder == some x then s.setCore y.core { c with matrix := { c.matrix with waited := 0 } } else s
    let jk := jobKeyOf y.vd y.job
    if (s.job jk).reached.contains y.core then s.cancelWaits y.core jk else s) s

/-- A halt operation on a gang (R365). -/
def State.haltOp (s : State) (g op : Nat) : Halting :=
  match op with
  | 0 =>
    let s := s.haltStack g true
    if (s.stackOf g).all (fun x => s.collected x) then .done s else .wait s
  | 1 => .done (s.releaseHalt g)
  | 2 =>
    let marked (s : State) : State := s.setGang g { s.gang g with hsusp := true }
    match (s.gang g).place with
    | .saved | .beneath => .done (marked s)
    | .collecting _ => .wait (marked s)
    | .resident =>
      match s.preempt g 2 with
      | some s => .wait (marked s)
      | none => .error (s.ctxError g)
  | _ => .error s

/-- HALT (R365). A supervisor strand that halts its own stack has its status before it stops. -/
def State.halt (s : State) (d a b : SReg) : Out :=
  s.privileged (fun s =>
    let op := s.me.s b
    let h := (s.me.s a).toNat % 2 ^ 32
    if 3 ≤ op.toNat then s.scalarResult d 3
    else match s.taskOf (s.vdPart (s.gangOf s.cur).vd) h with
      | none => s.taskError d h
      | some g =>
        if (s.stackOf g).contains s.me.gang && op.toNat != 1 then
          match s.haltOp g op.toNat with
          | .error s => s.scalarResult d 3
          | _ => match (s.scalarResult d 0).haltOp g op.toNat with | .done s | .wait s | .error s => s
        else match s.haltOp g op.toNat with
          | .done s => s.scalarResult d 0
          | .wait s => s
          | .error s => s.scalarResult d 3)

/-- HALT, halt in place: sb selects the operation when it executes (R365). -/
def execHaltInPlace (d a b : SReg) (s : State) : Out := s.halt d a b
/-- HALT, release (R365). -/
def execHaltRelease (d a b : SReg) (s : State) : Out := s.halt d a b
/-- HALT, halt and suspend (R365). -/
def execHaltAndSuspend (d a b : SReg) (s : State) : Out := s.halt d a b

/-! ### WFE (R368) -/

/-- WFE tests its conditions, and waits where none holds. -/
def State.startWfe (s : State) (d : SReg) (mask ticks pa : Nat) : State :=
  let word : W64 := if mask.testBit 2 then BitVec.ofNat 64 (s.readLE pa 8) else 0
  let v := s.wfeBits s.cur mask pa word
  if v != 0 then (s.seeWfe s.cur mask pa).endWfe s.cur d v
  else
    let s := if mask.testBit 2 && !isSpad pa then
        { s with waiters := s.waiters ++ [({ pa, strand := s.cur, kind := 2 } : Waiter)] } else s
    s.setMe { s.me with wait := .wfe mask pa word ticks d }

/-- The word is read at its home or port, where the wait is registered. -/
def State.wfeWord (s : State) (d : SReg) (va : W64) (mask ticks key : Nat) : State :=
  match s.readable s.cur key 8 va with
  | none => s.statusError d va
  | some s =>
    if isSpad key then (if s.portReady s.cur key then s.startWfe d mask ticks key else s)
    else s.atHome key (fun s =>
      if s.tableFull key then s.setMe { s.me with wait := .refused } else s.startWfe d mask ticks key)

/-- WFE (R368). -/
def execWfe (d a b : SReg) (s : State) : Out :=
  let mask := (s.me.s a).toNat % 2 ^ 32
  let ticks := (s.me.s a).toNat / 2 ^ 32
  let ticks := if ticks == 0 then 2 ^ 32 else ticks
  let va := s.me.s b
  .next (
    if 8 ≤ mask || mask.testBit 1 || (mask.testBit 0 && !s.isSup s.cur) || (mask.testBit 2 && va.toNat % 8 != 0) then s.scalarResult d 3
    else if mask.testBit 2 then
      s.withVa (.wfe d a b) { bytes := 8, align := 8, need := needR, wp := wpNone } va
        (fun s key => s.wfeWord d va mask ticks key) (fun s => s.statusError d va)
    else s.startWfe d mask ticks 0)

/-- WFE_TIMEOUT (R368): the timeout has passed. -/
def execWfeTimeout (strand : Nat) (s : State) : Out :=
  let t := s.strand strand
  match t.wait with
  | .wfe _ _ _ 0 d => .next (if t.live then s.endWfe strand d (BitVec.ofNat 64 (2 ^ 63)) else s)
  | _ => .next s

/-! ### RESUME (R353, R354) -/

/-- A parked party: a strand, or a range of a copy command. -/
structure Party where
  vd : Nat
  p : Parked
  strand : Option Nat
  copy : Nat
  range : Nat × Nat
  deriving DecidableEq, Repr

/-- Every copy command. -/
def State.allCopies (s : State) : List Copy :=
  (s.dies.map (fun d => (d.2.engines.map (·.2)).flatten)).flatten ++ (s.cores.map (fun c => c.2.port)).flatten ++
    (s.gangs.map (fun g => g.2.copies)).flatten

/-- The parked parties of a partition; one whose identifier is unknown is none (R354). -/
def State.parties (s : State) (p : Nat) : List Party :=
  let all : List Party := (s.strands.filterMap (fun c =>
    let vd := (s.gangOf c.1).vd
    match c.2.parked with
    | some x => if c.2.live && s.vdPart vd == p then some { vd, p := x, strand := some c.1, copy := 0, range := (0, 0) } else none
    | none => none)) ++
  ((s.allCopies.filter (fun c => s.vdPart c.vd == p)).map (fun c =>
    c.parked.map (fun x => { vd := c.vd, p := x.1, strand := none, copy := c.id, range := x.2 : Party }))).flatten
  all.filter (fun x => x.p.fid != 0)

/-- Parties in ascending FID. -/
def byFid (l : List Party) : List Party := l.foldl (fun acc x => insertAt x acc) []
where insertAt (x : Party) : List Party → List Party
  | [] => [x]
  | y :: ys => if x.p.fid < y.p.fid then x :: y :: ys else y :: insertAt x ys

/-- A strand changes; the status of one whose gang is saved in its context image as well (R354, R358). -/
def State.changeStrand (s : State) (k : Nat) (f : Strand → Strand) : State :=
  let t := f (s.strand k)
  let u := s.setStrand k t
  match s.statusKey k with
  | some key => u.write t.core key (leBytes 4 t.statusWord)
  | none => u

/-- A party is restarted: it executes its instruction again, or the range of its chunk. -/
def State.restartParty (s : State) (x : Party) : State :=
  match x.strand with
  | some k =>
    let t := s.strand k
    let s := s.changeStrand k (fun t => { t with parked := none })
    if (s.gang t.gang).present then (s.setStrand k { s.strand k with held := [] }).sendHeld k t.held else s
  | none => s.mapCopies (fun c => some (if c.id == x.copy then
      { c with parked := c.parked.filter (fun q => q.1.fid != x.p.fid), redo := c.redo ++ [x.range] } else c))

/-- A party receives its fault: a strand its trap, a copy command its end with FAULT. -/
def State.deliverFault (s : State) (x : Party) : State :=
  match x.strand with
  | some k =>
    let t := s.strand k
    let r : TrapReq := { (if x.p.lane then t.laneTrap else fun c v _ => t.scalarTrap c v) (if x.p.fetch then cFetch else cXlate) x.p.va x.p.tmaskf with
      xkind := x.p.xkind }
    s.changeStrand k (fun t => { t with parked := none, redo := none, pendTrap := some r, wait := .none, laneWait := .none })
  | none =>
    match s.allCopies.find? (fun c => c.id == x.copy) with
    | none => s
    | some c =>
      let (s, c) := s.endParked c x.p.va
      s.mapCopies (fun y => if y.id == c.id then (if y.busy.isEmpty then none else some c) else some y)

/-- The gang of a party; none of a copy command that is gone. -/
def State.partyGang (s : State) (x : Party) : Option Nat :=
  match x.strand with
  | some k => some (s.strand k).gang
  | none => (s.allCopies.find? (fun c => c.id == x.copy)).map (·.gang)

/-- A party's task ends FAILED. -/
def State.failParty (s : State) (x : Party) : State :=
  match s.partyGang x with
  | some g =>
    (s.mapCopies (fun c => if c.gang == g then (if c.busy.isEmpty then none else some c.cut) else some c)).endGang g 2
  | none => s

/-- RESUME's action (R353). -/
def State.resumeSteps (s : State) (d : SReg) (fid act : Nat) : State :=
  let all := byFid (s.parties (s.vdPart (s.gangOf s.cur).vd))
  let named := all.filter (fun x => x.p.fid == fid)
  let chosen := if act == 1 then
      all.filter (fun x => named.any (fun y => y.vd == x.vd && y.p.va.toNat / 4096 == x.p.va.toNat / 4096))
    else named
  let n : W64 := BitVec.ofNat 64 chosen.length
  if act == 3 && chosen.any (fun x => s.partyGang x == some s.me.gang) then
    chosen.foldl (fun s x => s.failParty x) s
  else
    (chosen.foldl (fun s x => if act == 2 then s.deliverFault x else if act == 3 then s.failParty x else s.restartParty x) s).scalarResult d n

/-- RESUME: as LDRAIN, a release at domain scope, the action (R353). -/
def State.resume (s : State) (d a b : SReg) : Out :=
  s.privileged (fun s => s.afterRelease .domain (fun s =>
    if 4 ≤ (s.me.s b).toNat then s.scalarResult d 3
    else s.resumeSteps d ((s.me.s a).toNat % 2 ^ 32) (s.me.s b).toNat))

/-- RESUME, restart: sb selects the action when it executes (R353). -/
def execResumeRestart (d a b : SReg) (s : State) : Out := s.resume d a b
/-- RESUME, restart of a page's parties (R353). -/
def execResumePage (d a b : SReg) (s : State) : Out := s.resume d a b
/-- RESUME, delivery of the fault (R353). -/
def execResumeDeliverFault (d a b : SReg) (s : State) : Out := s.resume d a b
/-- RESUME, failure of the task (R353). -/
def execResumeFailTask (d a b : SReg) (s : State) : Out := s.resume d a b

/-- A task whose context image is saved. -/
def State.savedTask (s : State) (p h : Nat) : Option Nat :=
  (s.gangs.find? (fun g => g.2.live && g.2.handle == h && s.vdPart g.2.vd == p && (g.2.place == .saved || g.2.place == .beneath))).map (·.1)

/-! ### CSAVE and CRSTR (R361) -/

/-- The Check of one page of a scalar instruction's area, which walks at once. -/
def State.checkPage (s : State) (f : AccForm) (va : W64) : Checked :=
  match s.checkAcc s.cur false f { thread := 0, va, kind := .load } with
  | .miss =>
    match s.checkNow s.me.core (s.gangOf s.cur).vd f.need va with
    | .key k => if !s.me.exempt false && s.me.watched f.wp va f.bytes then .watch else .pass k
    | .fault x => if x ≤ 2 then .park x else .trap cXlate x
    | _ => .err
  | r => r

/-- An access to some bytes of a page is performed: not refused. -/
def State.pageOpen (s : State) (key n : Nat) (va : W64) (write : Bool) : Option State :=
  if isSpad key then s.spadAccess s.cur s.me.gang key n (apertureSel va != 0) write (s.isSup s.cur)
  else if !s.paOk key || s.vdRefused (s.gangOf s.cur).vd key then none
  else match s.region key with
    | .edram d o => if write && pkgOf key == s.pkgnum.toNat && s.edramHeld d o then none else some s
    | _ => some s

/-- n bytes at an address, page by page, as scalar accesses of doublewords: a fault is settled as theirs; then the keys. -/
def State.withPages (s : State) (write : Bool) (ok : State → List (Nat × Nat) → State) (err : State → State) :
    List (W64 × Nat) → List (Nat × Nat) → State
  | [], keys => ok s keys
  | (va, n) :: rest, keys =>
    let f : AccForm := { bytes := n, align := if keys.isEmpty then 8 else 1, need := if write then needW else needR, wp := if write then wpSt else wpLd }
    match s.checkPage f va with
    | .pass key =>
      match s.pageOpen key n va write with
      | some s => s.withPages write ok err rest (keys ++ [(key, n)])
      | none => err s
    | .err => err s
    | r => s.settle s.cur false f [({ thread := 0, va, kind := .load }, r)] (fun t => t)

/-- CSAVE's step: the image is written, SIZE is the result. -/
def State.csaveStep (s : State) (d : SReg) (h : Nat) (va : W64) : State :=
  match s.savedTask (s.vdPart (s.gangOf s.cur).vd) h with
  | none => s.taskError d h
  | some g =>
    let bs := s.image g
    s.withPages true (fun s keys =>
      let s := (s.writeAreas s.me.core keys bs).acquireAt s.cur .domain
      { s.scalarResult d (BitVec.ofNat 64 bs.length) with free := s.free + 1 }) (fun s => s.statusError d va true) (pagesOf va bs.length) []

/-- CSAVE (R361). -/
def execCsave (d a b : SReg) (s : State) : Out :=
  s.privileged (fun s => s.afterRelease .domain (fun s => s.csaveStep d ((s.me.s a).toNat % 2 ^ 32) (s.me.s b)))

/-- CRSTR's step. -/
def State.crstrStep (s : State) (d : SReg) (h : Nat) (va : W64) : State :=
  match s.savedTask (s.vdPart (s.gangOf s.cur).vd) h with
  | none => s.taskError d h
  | some g =>
    let n := (s.image g).length
    let err (s : State) : State := s.statusError d va
    s.withPages false (fun s k0 =>
      if (s.readAreas k0).take 44 != (s.image g).take 44 then s.scalarResult d 3
      else s.withPages false (fun s keys =>
        match s.restoreImage g (s.readAreas keys) with
        | some s => (s.acquireAt s.cur .domain).scalarResult d 0
        | none => s.scalarResult d 3) err (pagesOf va n) []) err (pagesOf va 256) []

/-- CRSTR (R361). -/
def execCrstr (d a b : SReg) (s : State) : Out :=
  s.privileged (fun s => s.afterRelease .domain (fun s => s.crstrStep d ((s.me.s a).toNat % 2 ^ 32) (s.me.s b)))

end Sys2Proof.Machine
end

