-- ==== Sys2Proof/Machine/Launch.lean ====
section
/-! DEFINITION. Launches (R251 to R254, R381): LAUNCH, its check, and the distribution of the job's work. -/

namespace Sys2Proof.Machine

open Sys2Proof

/-! ### LAUNCH (R381) -/

/-- The address of the launch record in a LAUNCH write, and its IRQ bit. -/
def launchVa (w : W64) : W64 := BitVec.ofNat 64 (fieldOf w 7 49 * 128)
def launchIrq (w : W64) : Bool := w.getLsbD 6

/-- An MSI-X vector of a function is sent (R389). -/
def State.sendIrq (s : State) (fn vector : Nat) : State := { s with irqs := s.irqs ++ [(fn, vector)] }

/-- A refused launch: RESULT = 2, an error-log entry that names the record, and the vector. -/
def State.refuseLaunch (s : State) (vd : Nat) (w : W64) : State :=
  let s := (s.setVd vd { s.vd vd with result := 2 }).log 4 { kind := 0x10, va := launchVa w, vd }
  if launchIrq w then s.sendIrq (vd + 1) 0 else s

/-- A write of LAUNCH: queued for checking, or refused. -/
def State.launchWrite (s : State) (vd : Nat) (w : W64) : State :=
  if !s.vdEn vd || (s.part (s.vdPart vd)).rbusy || fieldOf w 56 8 != 0 || fieldOf w 0 6 != 0 || 16 ≤ (s.vd vd).launches.length then
    s.refuseLaunch vd w
  else { s.setVd vd { s.vd vd with launches := (s.vd vd).launches ++ [w] } with launchOrder := s.launchOrder ++ [vd] }

/-- LAUNCH (R381): there are 384 virtual devices. -/
def execLaunch (vd : Nat) (value : W64) (s : State) : Out := .next (if vd < 384 then s.launchWrite vd value else s)

/-! ### The launch record (R251, R252) -/

def launchKind (m : Image) : Nat := fieldOf (m.at 0) 60 4
def launchPrio (m : Image) : Nat := fieldOf (m.at 0) 52 4
def launchJob (m : Image) : Nat := fieldOf (m.at 0) 16 16
def launchTmpl (m : Image) : Nat := fieldOf (m.at 5) 32 32
def launchRbase (m : Image) : Nat := fieldOf (m.at 5) 0 32
def launchGrain (m : Image) : Nat := fieldOf (m.at 6) 40 24
def launchFirst (m : Image) : Nat := fieldOf (m.at 6) 0 40
def launchCount (m : Image) : Nat := fieldOf (m.at 7) 0 40
/-- Chunks of a range. -/
def launchChunks (m : Image) : Nat := (launchCount m + launchGrain m - 1) / launchGrain m

/-- The present dies of DIES, ascending. -/
def State.launchDies (s : State) (m : Image) : List Nat :=
  let d := fieldOf (m.at 0) 32 9
  (List.range 9).filter (fun i => (s.die i).present && !(s.die i).fenced && (d == 0 || d.testBit i))

/-- The chunk record's image: RESTART, PRIO, QDECL and the roles of the template; PREDS, NSUCC, BIN and OVF are 0 (R253). -/
def chunkImage (r t : Image) (arg : W64) : Image :=
  (List.range 16).map (fun i =>
    if i == 0 then
      setField (setField (setField (setField (r.at 0) 59 1 (fieldOf (t.at 0) 59 1)) 54 4 (fieldOf (t.at 0) 54 4)) 42 3 0) 0 16 0
    else if i == 1 then BitVec.ofNat 64 (fieldOf (t.at 1) 32 32 * 2 ^ 32)
    else if i == 3 then arg
    else if i == 7 then setField (r.at 7) 0 32 0
    else if 8 ≤ i then t.at i else r.at i)

/-- A record as its sixteen doublewords. -/
def State.recImage (s : State) (vd h : Nat) : Image := (List.range 16).map (fun i => s.recWord vd h i)

/-- A handle that a launch may name: a record that is FREE. -/
def State.freeRecord (s : State) (vd h : Nat) : Bool := (s.recKey vd h).isSome && s.recState vd h == stFree

/-- Why a range is refused. -/
def State.rangeBad (s : State) (vd : Nat) (m : Image) : Bool :=
  fieldOf (m.at 7) 40 24 != 0 || launchGrain m == 0 || launchCount m == 0 ||
    s.poolN vd < launchRbase m + launchChunks m || (s.recKey vd (launchTmpl m)).isNone ||
    s.malformed 128 vd (m.at 3 != 0) (chunkImage [] (s.recImage vd (launchTmpl m)) 0) ||
    !(List.range (launchChunks m)).all (fun i => s.freeRecord vd (launchRbase m + i))

/-- The handles of a graph's list; nothing where one cannot be read. -/
def State.graphList (s : State) (vd : Nat) (m : Image) : Option (List Nat) :=
  (List.range (launchTmpl m)).foldr (fun i r => match r, s.hwKey 128 vd needR (m.at 6 + BitVec.ofNat 64 (4 * i)) false with
    | some l, some k => some (s.readLE k 4 :: l)
    | _, _ => none) (some [])

/-- Why a graph is refused. -/
def State.graphBad (s : State) (vd : Nat) (m : Image) : Bool :=
  launchRbase m != 0 || m.at 7 != 0 || launchTmpl m == 0 || 65535 < launchTmpl m ||
    (match s.graphList vd m with
    | none => true
    | some l => !l.Nodup || l.any (fun h => !s.freeRecord vd h || s.malformed 128 vd (m.at 3 != 0) (s.recImage vd h)))

/-- Active jobs of a virtual device. -/
def State.jobsOf (s : State) (vd : Nat) : List Nat := (s.jobs.filter (fun j => j.2.live && j.1 / 65536 == vd)).map (·.1)

/-- Why a launch is refused (R252). -/
def State.launchBad (s : State) (vd : Nat) (m : Image) : Bool :=
  fieldOf (m.at 0) 56 4 != 0 || fieldOf (m.at 0) 41 11 != 0 || fieldOf (m.at 0) 0 16 != 0 ||
    !(launchKind m == 1 || launchKind m == 2) || 11 < launchPrio m || (s.launchDies m).isEmpty ||
    (s.job (jobKeyOf vd (launchJob m))).live || 64 ≤ (s.jobsOf vd).length ||
    fieldOf (m.at 1) 0 2 != 0 || fieldOf (m.at 2) 0 6 != 0 || fieldOf (m.at 3) 0 13 != 0 || (List.range 8).any (fun i => m.at (8 + i) != 0) ||
    (if launchKind m == 1 then s.rangeBad vd m else s.graphBad vd m)

/-! ### Acceptance and distribution (R225, R253) -/

/-- The two pages of a constellation table, which lies in HBM4. -/
def State.ctabPages (s : State) (vd : Nat) (va : W64) : List Nat :=
  if va = 0 then []
  else match s.hwKey 128 vd needR va false, s.hwKey 128 vd needR (va + 4096) false with
    | some a, some b => if s.region a == .hbm && s.region b == .hbm && !isSpad a && !isSpad b then [a, b] else []
    | _, _ => []

/-- The RO fields of a page of a constellation table take their values of acceptance, 0 (R225). -/
def State.clearTable (s : State) (key : Nat) : State :=
  (List.range 128).foldl (fun s i => { s with mem := SMap.clear s.mem (key + 32 * i + 8) 24 }.invalidate 999 ((key + 32 * i) / 128)) s

/-- Entries that wait enter their die queues, in order, as far as there is room (R253, R256). -/
def State.pushLeft (s : State) (jk : Nat) : State :=
  let j := s.job jk
  let vd := jk / 65536
  let r := j.left.foldl (fun (r : State × List (Nat × Nat)) e =>
    if (r.1.die e.2).queue.length < Config.dieQueue && !r.2.any (fun x => x.2 == e.2) then
      (r.1.addEntry (.die e.2) (r.1.entryOf vd e.1 false), r.2)
    else (r.1, r.2 ++ [e])) (s, [])
  r.1.setJob jk { r.1.job jk with left := r.2 }

/-- What the agents that prepared a launch have released: every write performed so far, on every die (R194, R259). -/
def State.allVec (s : State) : SMap 32 := (List.range 9).foldl (fun v d => vecJoin v (s.sendVec d)) []

/-- A record of a launch is spawned; one that is READY is to enter the queue of the die that `at_` picks by the number of those
before it. A record that cannot be spawned is logged. -/
def State.launchSpawn (s : State) (jk h : Nat) (at_ : Nat → Nat) (n : Nat) : Nat × State :=
  let vd := jk / 65536
  let j := s.job jk
  match s.spawnRecord { vd, job := jk % 65536, cap := j.prio, core := 128, vec := s.allVec } h none with
  | some (true, s) => (n + 1, s.setJob jk { s.job jk with left := (s.job jk).left ++ [(h, at_ n)] })
  | some (false, s) => (n, s)
  | none => (n, s.log 4 { kind := 0x10, va := s.recordVa vd h, vd, job := jk % 65536 })

/-- Die i of a job's dies, in rotation. -/
def Job.dieAt (j : Job) (i : Nat) : Nat := (j.dies[i % j.dies.length]?).getD 0

/-- The master distributor's die (R253, R285). -/
def State.masterDie (s : State) (jk : Nat) : Nat := (s.job jk).master

/-- The election of a master among a job's dies (R253). -/
def Job.elect (j : Job) (jk : Nat) : Job := { j with master := j.dieAt (jk % 65536) }

/-- Chunk i of a range: its record is written and spawned (R253). -/
def State.spawnChunk (s : State) (jk : Nat) (m t : Image) (i : Nat) : State :=
  let vd := jk / 65536
  let h := launchRbase m + i
  let first := (launchFirst m + i * launchGrain m) % 2 ^ 40
  let n := min (launchGrain m) (launchCount m - i * launchGrain m)
  let img := chunkImage (s.recImage vd h) t (BitVec.ofNat 64 (n * 2 ^ 40 + first))
  let s := (List.range 16).foldl (fun s w => s.setRecWord vd h w (img.at w)) s
  (s.launchSpawn jk h (fun _ => (s.job jk).dieAt (i / 8)) 0).2

/-- VALID of every entry comes into force with the launch (R225). -/
def State.takeTable (s : State) (j : Job) : Job :=
  if j.ctabPa.isEmpty then j
  else { j with valid := (List.range 256).foldl (fun m cn => SMap.set m cn (if (s.conLo (j.conPa cn)).getLsbD 63 then 1 else 0)) [] }

/-- An accepted launch. -/
def State.acceptLaunch (s : State) (vd : Nat) (w : W64) (m : Image) : State :=
  let jk := jobKeyOf vd (launchJob m)
  let s := (s.ackCancel jk).setVd vd { s.vd vd with result := 1 }
  let pages := s.ctabPages vd (m.at 3)
  let s := s.setJob jk (Job.elect { Job.zero with
    live := true, kind := launchKind m, prio := launchPrio m, dies := s.launchDies m, sbase := m.at 1, lsbase := m.at 2,
    ctab := m.at 3, ctabPa := pages, donef := m.at 4, irq := launchIrq w, record := launchVa w } jk)
  let s := pages.foldl State.clearTable s
  let s := s.setJob jk (s.takeTable (s.job jk))
  let s := if launchKind m == 1 then
      let t := s.recImage vd (launchTmpl m)
      (List.range (launchChunks m)).foldl (fun s i => s.spawnChunk jk m t i) s
    else ((((s.graphList vd m).getD []).foldl (fun (r : Nat × State) h => r.2.launchSpawn jk h (fun k => (r.2.job jk).dieAt k) r.1) (0, s))).2
  (s.pushLeft jk).jobCheck jk

/-- The check of a virtual device's oldest LAUNCH write. -/
def State.checkLaunch (s : State) (vd : Nat) (w : W64) : State :=
  match s.hwKey 128 vd needR (launchVa w) false with
  | none => s.refuseLaunch vd w
  | some k =>
    let m : Image := (List.range 16).map (fun i => BitVec.ofNat 64 (s.readLE (k + 8 * i) 8))
    let s := (s.recallAll k 128).setVd vd { s.vd vd with lastJob := launchJob m }
    if s.launchBad vd m then s.refuseLaunch vd w else s.acceptLaunch vd w m

/-- LAUNCH_CHECK (R252, R253, R381): entries that wait are distributed; then the write that arrived first is checked, if it is of
this virtual device. -/
def execLaunchCheck (vd : Nat) (s : State) : Out :=
  let s := (s.jobsOf vd).foldl State.pushLeft s
  match (s.vd vd).launches with
  | w :: rest =>
    if s.launchOrder.head? == some vd then
      .next (({ s.setVd vd { s.vd vd with launches := rest } with launchOrder := s.launchOrder.drop 1 } : State).checkLaunch vd w)
    else .next s
  | [] => .next s

end Sys2Proof.Machine
end

