-- ==== Sys2Proof/Machine/Fence.lean ====
section
/-! DEFINITION. Units that are lost: dies fenced, clusters and cores disabled, pseudo-channel groups retired, slices disabled
(R33, R35, R285, R373). -/

namespace Sys2Proof.Machine

open Sys2Proof

/-! ### Records of a lost unit (R285) -/

/-- A record that is to run again waits for the master's die queue; with no die left it becomes FAILED and its job fails. -/
def State.relaunch (s : State) (vd h : Nat) : State :=
  let jk := jobKeyOf vd (s.recJob vd h)
  if (s.job jk).dies.isEmpty then (((s.endRecord vd h stFailed).failJob jk).subLive jk).jobCheck jk
  else
    let s := (s.setRecState vd h stReady).setNowhere vd h
    s.setJob jk { s.job jk with left := (s.job jk).left ++ [(h, s.masterDie jk)] }

/-- A task that had started is lost: READY with TRIES + 1, or FAILED (R285). -/
def State.loseStarted (s : State) (g : Nat) : State :=
  let x := s.gang g
  let jk := jobKeyOf x.vd x.job
  let s := (s.strandsOf g).foldl State.endStrand s
  let s := s.setCore x.core { s.core x.core with mq := (s.core x.core).mq.filter (fun m => m.gang != g) }
  let s := (s.mapCopies (fun c => if c.gang == g then none else some c)).dropGang g
  let tries := s.recTries x.vd x.handle
  if s.recRestart x.vd x.handle && tries < 15 then
    let s := s.setRecField x.vd x.handle 0 38 4 (tries + 1)
    (s.endRecord x.vd x.handle stReady).relaunch x.vd x.handle
  else (((s.endRecord x.vd x.handle stFailed).failJob jk).subLive jk).jobCheck jk

/-- An entry of a lost queue: a task that never started becomes READY again. -/
def State.loseEntry (s : State) (e : QEntry) : State :=
  if e.void then s
  else if e.resume then s.loseStarted (gangKeyOf e.vd e.handle)
  else s.relaunch e.vd e.handle

/-- The gangs, entries and buffers of some cores and queues are lost. -/
def State.loseUnits (s : State) (cores : List Nat) (queues : List QPlace) : State :=
  let entries := (queues.map (fun q => s.queueAt q)).flatten ++
    (s.gangs.filterMap (fun g => if g.2.live && cores.contains g.2.core then g.2.taken else none))
  let s := queues.foldl (fun s q => s.setQueueAt q []) s
  let gangs := (s.gangs.filter (fun g => g.2.live && cores.contains g.2.core && g.2.place != .saved)).map (·.1)
  let s := { s with flights := s.flights.filter (fun f => !(cores.contains (s.flightCore f) && !f.sent)) }
  let s := gangs.foldl State.loseStarted s
  let s := entries.foldl State.loseEntry s
  let s := cores.foldl (fun s c => s.setCore c { Core.zero with queue := (s.core c).queue }) s
  (s.jobs.filter (fun j => j.2.live)).foldl (fun s j =>
    let s := s.pushLeft j.1
    if s.cancelAcked j.1 then s.ackCancel j.1 else s) s

/-! ### A die is fenced (R285) -/

/-- The home of a location of this package lies on a die. -/
def State.homedOn (s : State) (d pa : Nat) : Bool := !isSpad pa && pkgOf pa == s.pkgnum.toNat && (s.homeOf pa).1 == d

/-- The records of active jobs, with their addresses, that are homed on a die. -/
def State.recordsHomed (s : State) (d jk : Nat) : List W64 :=
  let vd := jk / 65536
  ((List.range (s.poolN vd)).filter (fun h => match s.recKey vd h with
    | some k => s.homedOn d k && s.recState vd h != stFree && s.recJob vd h == jk % 65536
    | none => false)).map (fun h => s.recordVa vd h)

/-- The bins, locks and futures of a job that are homed on a die, by virtual address: the bins that its records name and whose descriptors
name the job, the locks that its gangs hold, the cells at which its strands wait, its completion future (log entry 66). -/
def State.objectsHomed (s : State) (d jk : Nat) : List W64 :=
  let vd := jk / 65536
  let here (key : Nat) (va : W64) : List W64 := if s.homedOn d key then [va] else []
  let bins := ((List.range (s.poolN vd)).filter (fun h => (s.recKey vd h).isSome && fieldOf (s.recWord vd h 1) 0 32 != 0)).map
    (fun h => shortVa (fieldOf (s.recWord vd h 1) 0 32))
  (bins.map (fun va => match s.hwKey 128 vd needR va false with
    | some k => if bitsOf (s.binWord k 1) 32 16 == jk % 65536 then here k va else []
    | none => [])).flatten ++
    ((s.gangs.filter (fun g => g.2.live && jobKeyOf g.2.vd g.2.job == jk)).map (fun g => (g.2.locks.map (fun l => here l.1 l.2)).flatten)).flatten ++
    ((s.strands.filter (fun t => t.2.live && s.jobKey t.1 == jk)).map (fun t => match t.2.wait with
      | .future pa va _ | .lock pa va _ => here pa va
      | _ => [])).flatten ++
    (if (s.job jk).donef = 0 then [] else match s.hwKey 128 vd needR (s.job jk).donef false with
      | some k => here k (s.job jk).donef
      | none => [])

/-- Waiters on objects homed on a die receive ERROR, with its entry in the error log (R224, R285). -/
def State.failWaiters (s : State) (d : Nat) : State :=
  let ws := s.waiters.filter (fun w => s.homedOn d w.pa)
  let s := { s with waiters := s.waiters.filter (fun w => !s.homedOn d w.pa) }
  ws.foldl (fun s w =>
    let t := s.strand w.strand
    match t.wait with
    | .future _ va r | .lock _ va r => (s.logError w.strand va t.pc).answer w.strand r 3
    | .wfe _ _ _ _ r => (s.logError w.strand 0 t.pc).endWfe w.strand r 3
    | _ => s) s

/-- Units of a die: its cores and its queues. -/
def dieCores (d : Nat) : List Nat := (List.range 32).map (fun c => coreKeyOf d c)
def dieQueues (d : Nat) : List QPlace :=
  (dieCores d).map QPlace.core ++ (List.range 16).map (fun c => QPlace.cluster (16 * d + c)) ++ [.die d]

/-- Every queue of the package. -/
def allQueues : List QPlace := ((List.range 9).map dieQueues).flatten

/-- A record stands in memory that is homed on a die. -/
def State.recHomedOn (s : State) (d vd h : Nat) : Bool := match s.recKey vd h with
  | some k => s.homedOn d k
  | none => false

/-- A task that never started and whose record goes with a die ends there, FAILED: no record of it is left that could run again (DEDUCED, log
entry 66). -/
def State.loseRecord (s : State) (vd h : Nat) : State :=
  let jk := jobKeyOf vd (s.recJob vd h)
  (((s.endRecord vd h stFailed).failJob jk).subLive jk).jobCheck jk

/-- The entries of such tasks leave every queue, the cores that took them, and the lists of their jobs. -/
def State.loseHomed (s : State) (d : Nat) : State :=
  let gone (e : QEntry) : Bool := !e.void && !e.resume && s.recHomedOn d e.vd e.handle
  let es := (allQueues.map (fun q => s.queueAt q)).flatten ++ s.gangs.filterMap (fun g => g.2.taken)
  let left := (s.jobs.map (fun j => (j.2.left.filter (fun e => s.recHomedOn d (j.1 / 65536) e.1)).map (fun e => (j.1 / 65536, e.1)))).flatten
  let t := allQueues.foldl (fun t q => if (s.queueAt q).any gone then t.setQueueAt q ((s.queueAt q).filter (fun e => !gone e)) else t) s
  let t := { t with
    gangs := t.gangs.map (fun (g : Nat × Gang) => (g.1, if g.2.taken.any gone then { g.2 with taken := none } else g.2)),
    jobs := t.jobs.map (fun (j : Nat × Job) => (j.1, { j.2 with left := j.2.left.filter (fun e => !s.recHomedOn d (j.1 / 65536) e.1) })) }
  ((es.filter gone).map (fun e => (e.vd, e.handle)) ++ left).foldl (fun t e => t.loseRecord e.1 e.2) t

/-- A die is fenced (R285, R373). -/
def State.fenceDie (s : State) (d : Nat) : State :=
  if 9 ≤ d || !(s.die d).present || (s.die d).fenced then s
  else
    let failing := (s.jobs.filter (fun j => j.2.live)).filterMap (fun j =>
      ((s.recordsHomed d j.1 ++ s.objectsHomed d j.1).head?).map (fun a => (j.1, a)))
    let s := s.loseHomed d
    let s := s.setDie d { s.die d with fenced := true, invals := [], engines := [] }
    let waiting := ((s.jobs.filter (fun j => j.2.live)).map (fun j =>
      (j.2.left.filter (fun e => e.2 == d)).map (fun e => (j.1 / 65536, e.1)))).flatten
    let s := { s with jobs := s.jobs.map (fun (j : Nat × Job) =>
      let x := { j.2 with dies := j.2.dies.filter (fun x => x != d), left := j.2.left.filter (fun e => e.2 != d) }
      (j.1, if x.live && x.master == d then x.elect j.1 else x)) }
    let s := waiting.foldl (fun s e => s.relaunch e.1 e.2) s
    let s := s.failWaiters d
    let s := s.loseUnits (dieCores d) (dieQueues d)
    let s := { s with clusters := s.clusters.filter (fun c => c.1 / 16 != d) }
    failing.foldl (fun s f =>
      ((s.log 4 { kind := 0x17, va := f.2, vd := f.1 / 65536, job := f.1 % 65536 }).failJob f.1).jobCheck f.1) s

/-! ### Mapped pages (R373) -/

/-- The leaves of a table: an entry that is not V = 1 or is malformed leads nowhere (R180, R181). -/
def State.leavesUnder (s : State) : List (Nat × Nat × Nat) → Nat → List W64
  | [], _ => []
  | (level, _, n) :: rest, table =>
    ((List.range n).map (fun i =>
      let ea := table + 8 * i
      let e := BitVec.ofNat 64 (s.readLE ea 8)
      let size := fieldOf e 60 4
      if !s.paOk ea || !e.getLsbD 0 || fieldOf e 52 8 != 0 || fieldOf e 6 6 != 0 then []
      else if e.getLsbD 1 then (if size != 0 then [] else s.leavesUnder rest (fieldOf e 12 40 * 4096))
      else if !levelPermits level size || fieldOf e 12 40 * 4096 % 2 ^ pageLog size != 0 then []
      else [e])).flatten

/-- The 4 KiB units that a virtual device maps, in a page those of one turn of the interleave (R157). -/
def State.mappedUnits (s : State) (vd : Nat) : List Nat :=
  ((s.leavesUnder walkLevels (s.ptRoot vd)).map (fun e =>
    (List.range (min (2 ^ pageLog (fieldOf e 60 4) / 4096) 96)).map (fun i => fieldOf e 12 40 * 4096 + 4096 * i))).flatten

/-- A unit of this package's HBM4 in a pseudo-channel group. -/
def State.inGroup (s : State) (pa stack group : Nat) : Bool :=
  pkgOf pa == s.pkgnum.toNat && s.region pa == .hbm && hbmStack pa == stack && hbmGroup pa == group

/-- Some line of a unit is homed at a slice. -/
def State.unitAt (s : State) (pa die slice : Nat) : Bool :=
  pkgOf pa == s.pkgnum.toNat && s.region pa != .nothing && s.region pa != .control &&
    (List.range 32).any (fun i => s.homeOf (pa + 128 * i) == (die, slice))

/-! ### Units (R373). Numbers: die d; cluster 16 d + c; core 32 d + c; group 8 s + g; slice 16 d + s -/

/-- Bits of a register are cleared. -/
def clearBits {w : Nat} (x : BitVec w) (l : List Nat) : BitVec w := l.foldl (fun x i => x &&& ~~~(BitVec.ofNat w (2 ^ i))) x

/-- Cores of a die are disabled: they leave CORES, and their records are treated as those of a lost die. -/
def State.disableCores (s : State) (d : Nat) (cs : List Nat) (cluster : List Nat) : State :=
  let s := s.setDie d { s.die d with cores := clearBits (s.die d).cores cs }
  let s := s.loseUnits (cs.map (fun c => coreKeyOf d c)) (cs.map (fun c => .core (coreKeyOf d c)) ++ cluster.map (fun c => .cluster (16 * d + c)))
  { s with clusters := s.clusters.filter (fun c => !cluster.contains (c.1 - 16 * d) || c.1 / 16 != d) }

/-- The bit of a pseudo-channel group in HBMG: of its die's first stack, or of its second (R371). -/
def groupBit (stack group : Nat) : Nat := (if (stackHome stack).2.1 == 8 then 8 else 0) + group

/-- A unit's kind and number as the fence list holds them. -/
def unitWord (kind unit : Nat) : W64 := BitVec.ofNat 64 (kind % 256 * 2 ^ 56 + unit % 2 ^ 56)

/-- A unit is fenced, retired or disabled while the package runs; nothing where that is refused (R373). -/
def State.fenceUnit (s : State) (kind unit : Nat) : Option State :=
  match kind with
  | 1 => if unit < 9 then some (s.fenceDie unit) else none
  | 2 => if unit < 144 then
      some (s.disableCores (unit / 16) [2 * (unit % 16), 2 * (unit % 16) + 1] [unit % 16]) else none
  | 3 => if unit < 288 then some (s.disableCores (unit / 32) [unit % 32] []) else none
  | 4 =>
    if 96 ≤ unit || (List.range 384).any (fun v => s.vdActive v && (s.mappedUnits v).any (fun pa => s.inGroup pa (unit / 8) (unit % 8))) then none
    else
      let d := (stackHome (unit / 8)).1
      some (s.setDie d { s.die d with hbmg := clearBits (s.die d).hbmg [groupBit (unit / 8) (unit % 8)] })
  | 5 =>
    if 144 ≤ unit || (List.range 384).any (fun v => s.vdActive v || (s.vdEn v && (s.mappedUnits v).any (fun pa => s.unitAt pa (unit / 16) (unit % 16)))) then
      none
    else some (s.setDie (unit / 16) { s.die (unit / 16) with slices := clearBits (s.die (unit / 16)).slices [unit % 16] })
  | _ => none

/-- DIE_FENCE (R285). -/
def execDieFence (die : Nat) (s : State) : Out := .next (s.fenceDie die)

end Sys2Proof.Machine
end

