-- ==== Sys2Proof/Machine/Partition.lean ====
section
/-! DEFINITION. Partitions, virtual devices and the writes of the control space (R369, R370, R374 to R378, R383). -/

namespace Sys2Proof.Machine

open Sys2Proof

/-- A write of the control space that is refused: an error response to the management function, with its log entry (R11, R370). -/
def State.csError (s : State) (pa : Nat) : State :=
  let s := s.log 4 { kind := 0x10, va := BitVec.ofNat 64 pa }
  { s with outbox := s.outbox ++ [.completion 0 [] false] }

/-! ### Partition reset (R376) -/

/-- Bits of a set that partition records hold from doubleword i. -/
def Part.setBit (p : Part) (i bit : Nat) : Bool := (p.regs.get (i + bit / 64)).getLsbD (bit % 64)

/-- The cores of a partition's clusters. -/
def State.partCores (s : State) (p : Nat) : List Nat :=
  ((List.range 144).filter (fun b => (s.part p).setBit 1 b)).flatMap (fun b => [2 * b, 2 * b + 1])

/-- The clusters of a partition. -/
def State.partClusters (s : State) (p : Nat) : List Nat := (List.range 144).filter (fun b => (s.part p).setBit 1 b)

/-- Step 1 for the queued launches of a virtual device: each is reported as refused. -/
def State.dropLaunches (s : State) (vd : Nat) : State :=
  let ws := (s.vd vd).launches
  let s := { s.setVd vd { s.vd vd with launches := [] } with launchOrder := s.launchOrder.filter (fun v => v != vd) }
  ws.foldl (fun s w => s.refuseLaunch vd w) s

/-- Step 1: the tasks and jobs of the partition's virtual devices end; nothing is retired. -/
def State.resetTasks (s : State) (p : Nat) : State :=
  let mine (vd : Nat) : Bool := s.vdPart vd == p
  let gangs := (s.gangs.filter (fun g => g.2.live && mine g.2.vd)).map (·.1)
  let jobs := (s.jobs.filter (fun j => j.2.live && mine (j.1 / 65536))).map (·.1)
  let vds := (s.vds.filter (fun v => mine v.1 && !v.2.launches.isEmpty)).map (·.1)
  let s := gangs.foldl (fun s g => ((s.strandsOf g).foldl State.endStrand s).mapCopies (fun c => if c.gang == g then none else some c)) s
  let s := gangs.foldl (fun s g => s.setGang g Gang.zero) s
  let keep (e : QEntry) : Bool := e.void || !mine e.vd
  let s := { s with
    cores := s.cores.map (fun (c : Nat × Core) => (c.1, { c.2 with queue := c.2.queue.filter keep })),
    clusters := s.clusters.map (fun (c : Nat × Cluster) => (c.1, { c.2 with queue := c.2.queue.filter keep })),
    dies := s.dies.map (fun (d : Nat × Die) => (d.1, { d.2 with queue := d.2.queue.filter keep })) }
  let s := jobs.foldl (fun s j =>
    let x := s.job j
    let s := s.log 4 { kind := 0x17, va := x.record, vd := j / 65536, job := j % 65536 }
    let s := s.setJob j Job.zero
    if x.irq && x.donef = 0 then s.sendIrq (j / 65536 + 1) 0 else s) s
  let s := { s with vds := s.vds.map (fun (v : Nat × Vd) => (v.1, if mine v.1 then { v.2 with ctxUsed := [] } else v.2)),
                    bins := s.bins.filter (fun b => !mine b.2) }
  vds.foldl State.dropLaunches s

/-- Step 2: EPOCH advances, and the packets of the partition are dropped. -/
def State.resetPackets (s : State) (p : Nat) : State :=
  let q := s.part p
  let w := q.regs.get 0
  let ofPart (k : Nat) : Bool := s.vdPart ((s.strand k).gang / 0x100000000) == p
  let asked (f : Flight) : Bool := match f.agent with
    | some a => !f.ofPeer && s.vdPart a.vd == p
    | none => ofPart f.strand
  { s.setPart p { q with regs := q.regs.set 0 (setField w 58 3 (fieldOf w 58 3 + 1)) } with
    flights := s.flights.filter (fun f => !asked f),
    msgs := s.msgs.filter (fun m => match m.strand with | some k => !ofPart k | none => true) }

/-- Step 3: the cores of the partition's clusters are cleared, and the translations of its virtual devices, with those of the copy engines
and of the walk caches (R182, R183). -/
def State.resetCores (s : State) (p : Nat) : State :=
  let cs := s.partCores p
  let cls := s.partClusters p
  let coreTlb (c : Core) : Core := { c with tlb := c.tlb.filter (fun e => s.vdPart e.vd != p) }
  let dieTlb (d : Die) : Die :=
    { d with
      tlb := d.tlb.filter (fun e => s.vdPart e.vd != p)
      walks := d.walks.filter (fun w => s.vdPart w.vd != p) }
  let tlb (s : State) : State :=
    { s with
      cores := s.cores.map (fun (c : Nat × Core) => (c.1, coreTlb c.2))
      dies := s.dies.map (fun (d : Nat × Die) => (d.1, dieTlb d.2)) }
  let s := cs.foldl (fun (s : State) c =>
    { s.setCore c Core.zero with
      mem := SMap.clear s.mem (spadKey c 0) Config.spadBytes, fe := SMap.clear s.fe (spadKey c 0 / 16) (Config.spadBytes / 16),
      blocks := s.blocks.filter (fun b => b.1 / 128 != c) }) s
  tlb { s with clusters := s.clusters.filter (fun c => !cls.contains c.1) }

/-- An address of HBM4 in another partition's pseudo-channel groups. -/
def State.groupOfOther (s : State) (p pa : Nat) : Bool :=
  let bit := 8 * hbmStack pa + hbmGroup pa
  s.parts.any (fun q => q.1 != p && (q.2.regs.get 0).getLsbD 63 && q.2.setBit 4 bit)

/-- Step 4: the lines in the partition's ways, and inkwells, are written back and leave the slices; HBM4 is kept. -/
def State.resetInks (s : State) (p : Nat) : State :=
  let out := ((s.inks.map (fun e => e.2.filter (fun c => !s.groupOfOther p c.pa)))).flatten
  let s := out.foldl (fun s c => s.write 999 c.pa (leBytes 8 c.header.toNat ++ leBytes 376 c.acc.toNat)) s
  let s := { s with inks := s.inks.map (fun (e : Nat × List InkCell) => (e.1, e.2.filter (fun c => s.groupOfOther p c.pa))) }
  s.dropSliceLines (fun _ l => (BitVec.ofNat 16 (fieldOf ((s.part p).regs.get 0) 0 16)).getLsbD l.way)

/-- Step 5: the fault queue registers, waiter-table and replay-filter entries. -/
def State.resetQueues (s : State) (p : Nat) : State :=
  let cs := s.partCores p
  { s.setPart p { s.part p with fqbase := 0, fqhead := 0, fqtail := 0, fqVec := [] } with
    waiters := s.waiters.filter (fun w => s.vdPart ((s.strand w.strand).gang / 0x100000000) != p),
    replay := s.replay.filter (fun t => !cs.any (fun c => t.src == s.srcOf c)) }

/-- A write of RESET := 1; a second one while RBUSY = 1 is merged. -/
def State.resetPart (s : State) (p : Nat) : State :=
  if (s.part p).rbusy then s
  else
    let s := s.setPart p { s.part p with rbusy := true }
    ((((s.resetTasks p).resetPackets p).resetCores p).resetInks p).resetQueues p

/-- PARTITION_RESET (R376). -/
def execPartitionReset (part : Nat) (s : State) : Out := .next (if part < 32 then s.resetPart part else s)

/-- PARTITION_RESET_COMPLETE (R376). -/
def execPartitionResetComplete (part : Nat) (s : State) : Out :=
  .next (if (s.part part).rbusy then s.setPart part { s.part part with rbusy := false } else s)

/-! ### Writes of partition records (R374, R375) -/

/-- The PA[47:0] of a record of a partition, of a virtual device, of the package. -/
def partBase (p : Nat) : Nat := 0xFF1000000000 + 0x1000 * p
def vdBase (v : Nat) : Nat := 0xFF2000000000 + 0x1000 * v
def packageBase : Nat := 0xFF3000000000

/-- Two partitions that exist share a cluster, a group or a way. -/
def Part.overlaps (a b : Part) : Bool :=
  (a.regs.get 0).getLsbD 63 && (b.regs.get 0).getLsbD 63 &&
    (((a.regs.get 0) &&& (b.regs.get 0) &&& 0xFFFF) != 0 || (List.range 5).any (fun i => (a.regs.get (i + 1)) &&& (b.regs.get (i + 1)) != 0))

/-- Some virtual device of a partition has an active job. -/
def State.partActive (s : State) (p : Nat) : Bool := s.jobs.any (fun j => j.2.live && s.vdPart (j.1 / 65536) == p)

/-- The doubleword as a write of a partition record leaves it: RO and reserved fields keep what they hold (R6, R7). -/
def partWrite (old w : W64) (i : Nat) : W64 :=
  match i with
  | 0 => BitVec.ofNat 64 (fieldOf w 63 1 * 2 ^ 63 + fieldOf old 58 3 * 2 ^ 58 + fieldOf w 0 25)
  | 3 => BitVec.ofNat 64 (fieldOf w 0 16)
  | 5 => BitVec.ofNat 64 (fieldOf w 0 32)
  | 1 | 2 | 4 => w
  | _ => old

/-- A write changes CLUS, PCG, WAYS or SUPVD. -/
def partSets (old w : W64) (i : Nat) : Bool :=
  match i with
  | 0 => fieldOf old 0 25 != fieldOf w 0 25
  | 1 | 2 | 3 | 4 | 5 => true
  | _ => false

/-- A write of a doubleword of a partition record (R374, R375). -/
def State.writePart (s : State) (p off : Nat) (w : W64) : State :=
  let i := off / 8
  let q := s.part p
  let old := q.regs.get i
  let q' := { q with regs := q.regs.set i (partWrite old w i) }
  if 0x1000 ≤ off then s
  else if off % 8 != 0 || (partSets old w i && s.partActive p) || s.parts.any (fun x => x.1 != p && q'.overlaps x.2) then
    s.csError (partBase p + off)
  else
    let s := if i < 6 then s.setPart p q' else s
    if i == 0 && w.getLsbD 62 then s.resetPart p else s

/-- PARTITION_RECORD_WRITE (R374, R375): there are 32 partitions. -/
def execPartitionRecordWrite (part off : Nat) (value : W64) (s : State) : Out :=
  .next (if part < 32 then s.writePart part off value else s)

/-! ### Writes of virtual-device records (R377, R378) -/

/-- A reserved field, or a bit of an address that must be zero, is not zero in a write. -/
def vdReserved (i : Nat) (w : W64) : Bool :=
  match i with
  | 0 => w.getLsbD 61 || fieldOf w 37 19 != 0
  | 1 => fieldOf w 0 12 != 0
  | 2 => fieldOf w 0 7 != 0
  | 3 => fieldOf w 32 32 != 0
  | 6 => fieldOf w 0 6 != 0
  | 7 => fieldOf w 0 13 != 0
  | 4 | 5 | 8 | 9 | 10 | 17 => false
  | _ => w != 0

/-- A write of a field that only an idle virtual device takes. -/
def vdIdle (old w : W64) (i : Nat) : Bool :=
  match i with
  | 0 => fieldOf old 62 2 != fieldOf w 62 2 || fieldOf old 56 5 != fieldOf w 56 5
  | 1 | 2 | 3 | 7 => true
  | 4 => fieldOf old 16 48 != fieldOf w 16 48
  | _ => false

/-- The sum of the rates of a resource over the virtual devices present at its arbiters (R378): doubleword 8 for issue slots,
counted in a partition, 9 for memory, 10 for the fabric. -/
def State.rateSum (s : State) (p i : Nat) : Nat :=
  ((List.range 384).map (fun v => if s.vdEn v && (i != 8 || s.vdPart v == p) then fieldOf (s.vdReg v i) 32 32 else 0)).sum

/-- Capacity of a resource per 1,024 fc (R378). -/
def rateCapacity (i : Nat) : Nat := if i == 8 then 131072 else 1024

/-- The dies whose arbiters a rate concerns. -/
def State.rateDies (s : State) (p i : Nat) : List Nat :=
  (List.range 9).filter (fun d => (s.die d).present && !(s.die d).fenced && (i != 8 || (List.range 16).any (fun c => (s.part p).setBit 1 (16 * d + c))))

/-- A sum that exceeds capacity is logged on the dies concerned, with the record's address (R379). -/
def State.logRates (s : State) (v : Nat) : State :=
  let p := s.vdPart v
  [8, 9, 10].foldl (fun s i =>
    if rateCapacity i < s.rateSum p i then
      (s.rateDies p i).foldl (fun s d => s.log d { kind := 0x10, va := BitVec.ofNat 64 (vdBase v), vd := v }) s
    else s) s

/-- The resource of a doubleword of rate and depth (R377). -/
def rateShare (i : Nat) : Option Share := if i == 8 then some .issue else if i == 9 then some .memory else if i == 10 then some .fabric else none

/-- A write of a doubleword of a virtual-device record. -/
def State.writeVd (s : State) (v off : Nat) (w : W64) : State :=
  let i := off / 8
  let old := s.vdReg v i
  if 0x1000 ≤ off then s
  else if off % 8 != 0 then s.csError (vdBase v + off)
  else if i == 16 then s.launchWrite v w
  else if vdReserved i w || (vdIdle old w i && s.vdActive v) || (i == 0 && w.getLsbD 63 && !s.partEn (fieldOf w 56 5)) then
    s.csError (vdBase v + off)
  else if 11 ≤ i then s
  else
    let s := match rateShare i with
      | some r => s.rebase r v (fieldOf w 0 32)
      | none => s
    let s := s.setVd v { s.vd v with regs := (s.vd v).regs.set i w }
    if i == 0 || 8 ≤ i then s.logRates v else s

/-- VD_RECORD_WRITE (R377): there are 384 virtual devices. -/
def execVdRecordWrite (vd off : Nat) (value : W64) (s : State) : Out := .next (if vd < 384 then s.writeVd vd off value else s)

/-! ### The package record (R383) -/

/-- Some virtual device is enabled. -/
def State.anyVdEn (s : State) : Bool := (List.range 384).any s.vdEn

/-- The package takes a number: its own memory and host window carry it (R156). -/
def State.renumber (s : State) (n : BitVec 4) : State :=
  let old := s.pkgnum.toNat
  let own (a : Nat) : Bool := isSpad a || pkgOf a == old
  let here : List Host.Cell := (s.mem.filter (fun c => own c.1)).map (fun c => (if isSpad c.1 then c.1 else n.toNat * 0x1000000000000 + within c.1, c.2))
  let there : List Host.Cell := s.mem.filter (fun c => !own c.1 && pkgOf c.1 != n.toNat)
  { s with pkgnum := n, mem := here.foldl (fun m c => SMap.set m c.1 c.2) there }

/-- PKGNUM_WRITE (R383): the field is writable only before any virtual device is enabled. -/
def execPkgnumWrite (value : BitVec 4) (s : State) : Out :=
  .next (if s.anyVdEn || value = s.pkgnum then s else s.renumber value)

/-- NPKG_WRITE (R383). -/
def execNpkgWrite (value : BitVec 4) (s : State) : Out := .next (if s.anyVdEn then s else { s with npkg := value })

/-- A write of a doubleword of the package record. -/
def State.writePackage (s : State) (off : Nat) (w : W64) : State :=
  match off / 8 with
  | 0 =>
    let s := if s.anyVdEn then s else
      let s := { s with npkg := BitVec.ofNat 4 (fieldOf w 56 4) }
      if fieldOf w 60 4 == s.pkgnum.toNat then s else s.renumber (BitVec.ofNat 4 (fieldOf w 60 4))
    { s with cap := min (max (fieldOf w 32 11) 600) 1500 }
  | 1 => { s with route := s.route.set 0 w }
  | 2 => { s with route := s.route.set 1 (BitVec.ofNat 64 (fieldOf w 0 16)) }
  | _ => s

/-- A write of a doubleword of a die's area: only its eDRAM owner table takes one (R369, R371, R387). -/
def State.writeDie (s : State) (d off : Nat) (w : W64) : State :=
  if 0x2000 ≤ off && off < 0x2600 then
    let b := (off - 0x2000) / 2
    s.setDie d { s.die d with edramOwner := (List.range 4).foldl (fun m j => SMap.set m (b + j) (BitVec.ofNat 16 (fieldOf w (16 * j) 9))) (s.die d).edramOwner }
  else s

/-- A write of the control space, by PA[47:0], of the management function (R369, R370). -/
def State.writeControl (s : State) (a : Nat) (w : W64) : State :=
  if a % 8 != 0 then s.csError a
  else if 0xFF0000000000 ≤ a && a < 0xFF0900000000 then
    let d := (a - 0xFF0000000000) / 0x100000000
    let o := (a - 0xFF0000000000) % 0x100000000
    match (s.die d).area o with
    | .nothing => s.csError a
    | _ => s.writeDie d o w
  else if partBase 0 ≤ a && a < partBase 32 then s.writePart ((a - partBase 0) / 4096) (a % 4096) w
  else if vdBase 0 ≤ a && a < vdBase 384 then s.writeVd ((a - vdBase 0) / 4096) (a % 4096) w
  else if packageBase ≤ a && a < packageBase + 0x1000 then s.writePackage (a % 4096) w
  else s.csError a

/-- CONTROL_SPACE_WRITE (R369, R370): `off` is PA[47:0]. -/
def execControlSpaceWrite (off : Nat) (value : W64) (s : State) : Out := .next (s.writeControl off value)

end Sys2Proof.Machine
end

