-- ==== Sys2Proof/Machine/Power.lean ====
section
/-! DEFINITION. Frequency steps, the power cap and thermal trips (R386 to R388). -/

namespace Sys2Proof.Machine

open Sys2Proof

/-- Every present die owes a step to the MULT that a rule gives of its own; each takes it in its own time (R388). -/
def State.owesSteps (s : State) (f : Nat → Nat) : State :=
  { s with dies := s.dies.map (fun (d : Nat × Die) =>
      (d.1, { d.2 with due := f (if d.2.due == 0 then d.2.mult else d.2.due) })) }

/-- POWER_WINDOW (R388): the mean of a window of 10 µs, in W. -/
def execPowerWindow (mean : Nat) (s : State) : Out :=
  let m := s.mgmt
  let s1 := { s with mgmt := { m with means := (m.means ++ [mean]).drop (m.means.length + 1 - 64) } }
  let below (s : State) (n : Nat) : State := { s with mgmt := { s.mgmt with below := n } }
  if s.cap < mean then .next ((below s1 0).owesSteps (fun x => max (x - 1) 10))
  else if mean + 60 < s.cap then
    if 100 ≤ m.below + 1 then .next ((below s1 0).owesSteps (fun x => min (x + 1) 30)) else .next (below s1 (m.below + 1))
  else .next (below s1 0)

/-- CLOCK_RELOCK_END (R386, R387): the clock resumes; RLEN is the ticks that the relock lasted, at least one. -/
def execClockRelockEnd (die : Nat) (s : State) : Out :=
  let x := s.die die
  let i := x.steps % 16
  match x.stepLog.get [] i with
  | [r, c, w, q] =>
    let n := x.refcnt.toNat - r.toNat
    if x.relock == 0 || n == 0 then .next s
    else .next (s.setDie die { x with relock := 0, stepLog := x.stepLog.set i [r, c, setField w 16 16 n, q] })
  | _ => .next s

/-- THERMAL_TRIP (R388): a junction temperature, in °C; 105 or more steps every die to MULT 10. -/
def execThermalTrip (die temp : Nat) (s : State) : Out :=
  let s := { s with mgmt := { s.mgmt with temps := s.mgmt.temps.set die temp } }
  if 105 ≤ temp then .next ((s.owesSteps (fun _ => 10)).log die { kind := 0x10 }) else .next s

end Sys2Proof.Machine
end

