-- ==== Sys2Proof/Machine/Host.lean ====
section
/-! DEFINITION. The host view and the mailboxes of the management core (R373, R389 to R392). -/

namespace Sys2Proof.Machine

open Sys2Proof

/-! ### BAR2 of a virtual function (R389) -/

/-- A function is visible: the management function, and function v + 1 while virtual device v is enabled. -/
def State.visible (s : State) (fn : Nat) : Bool := fn == 0 || (fn ≤ 384 && s.vdEn (fn - 1))

/-- The keys of an area of a virtual device, page by page; nothing where an access fails. -/
def State.hostKeys (s : State) (v : Nat) (wr : Bool) (va : W64) (n : Nat) : Option (List (Nat × Nat)) :=
  s.pageRuns 128 v (if wr then needW else needR) wr (pagesOf va n)

/-- Areas line by line: key, bytes, and the place of the first in the data. -/
def linePieces (keys : List (Nat × Nat)) : List (Nat × Nat × Nat) :=
  (keys.foldl (fun (r : List (Nat × Nat × Nat) × Nat) k =>
    (r.1 ++ (List.range ((k.1 % 128 + k.2 + 127) / 128)).map (fun i =>
      let a := max k.1 (128 * (k.1 / 128 + i))
      (a, min (k.1 + k.2) (128 * (k.1 / 128 + i + 1)) - a, r.2 + (a - k.1))), r.2 + k.2)) ([], 0)).1

/-- The host as it asks for memory: the host adapter card's port (R210); its requests have task priority 0 and eviction priority 0 (DESIGN CHOICE, log
entry 90). -/
def State.hostAgent (s : State) (fn : Nat) : Agent := { who := .host fn, src := s.srcOf 511, vd := fn - 1, prio := 0 }

/-- What the host asks of peers for an access (R383). -/
def State.hostAsks (s : State) (fn : Nat) (wr : Bool) (data : List Byte) (ps : List (Nat × Nat × Nat)) : Asked × State :=
  (indexed ps).foldl (fun r p =>
    let x := r.2.askPeer (s.hostAgent fn) (if wr then .store else .load) p.2.1 p.2.2.1 (if wr then leNat ((data.drop p.2.2.2).take p.2.2.1) else 0) 0 p.1
    ((match r.1, x.1 with
      | .error, _ | _, .error => .error
      | .wait, _ | _, .wait => .wait
      | _, _ => .answer), x.2)) (.answer, s)

/-- The host writes areas of memory at their homes, with a replay tag for each line of this package (R206, R210). -/
def State.hostWrite (s : State) (keys : List (Nat × Nat)) (data : List Byte) : State :=
  ((linePieces keys).filter (fun p => pkgOf p.1 == s.pkgnum.toNat)).foldl (fun s p => s.tagWrite (s.srcOf 511) p.1) (s.writeAreas 999 keys data)

/-- An access of a virtual function completes with completer abort, and is logged (R389). -/
def State.hostAbort (s : State) (fn va : Nat) (wr : Bool) : State :=
  let s := s.log 4 { kind := 0x10, va := BitVec.ofNat 64 va, vd := fn - 1, wr }
  { s with outbox := s.outbox ++ [.completion fn [] false] }

/-- HOST_BAR2_ACCESS (R389): a write of `data`, or a read of as many bytes, in the window onto VA 0 to 64 GiB − 1. A failing access
is completed with completer abort and logged. A read waits out the refresh window of its bank (R167), an access the turn of its slices (R379), and the
answers of peers (R383): until then the step does no more than ask. -/
def execHostBar2Access (fn : Nat) (va : Nat) (wr : Bool) (data : List Byte) (s : State) : Out :=
  if fn == 0 || !s.visible fn || 2 ^ 36 < va + data.length then .next s
  else
    let v := fn - 1
    match s.hostKeys v wr (BitVec.ofNat 64 va) data.length with
    | some keys =>
      let own := (linePieces keys).filter (fun p => isSpad p.1 || pkgOf p.1 == s.pkgnum.toNat)
      let far := (linePieces keys).filter (fun p => !isSpad p.1 && pkgOf p.1 != s.pkgnum.toNat)
      let mem := own.filter (fun p => !isSpad p.1)
      if (!wr && keys.any (fun k => s.anyRefreshing k.1 k.2)) || !mem.all (fun p => s.sliceTurn p.1 v 0) then .next s
      else
        let (a, s) := s.hostAsks fn wr data far
        let settled (s : State) : State := if far.isEmpty then s else s.dropAsks (fun _ who => who == .host fn)
        match a with
        | .wait => .next s
        | .error => .next ((settled s).hostAbort fn va wr)
        | .answer =>
          let s := mem.foldl (fun s p => s.sliceGrant p.1 v 0) (settled s)
          if wr then .next (let s := s.hostWrite keys data; { s with outbox := s.outbox ++ [.completion fn [] true] })
          else
            let s := keys.foldl (fun s k => s.recallAll k.1 k.2) s
            .next { s with outbox := s.outbox ++ [.completion fn (s.readAreas keys) true] }
    | none => .next (s.hostAbort fn va wr)

/-! ### Mailboxes (R392) -/

def State.box (s : State) (fn : Nat) : Mailbox := s.mgmt.boxes.get Mailbox.reset fn
def State.setBox (s : State) (fn : Nat) (b : Mailbox) : State := { s with mgmt := { s.mgmt with boxes := s.mgmt.boxes.set fn b } }

/-- MBSTAT (R392). -/
def Mailbox.stat (b : Mailbox) : W64 :=
  BitVec.ofNat 64 (b.state % 4 * 2 ^ 62 + b.err % 64 * 2 ^ 56 + b.seq.toNat * 2 ^ 32 + (if b.state == 2 then b.resp.length % 2 ^ 32 else 0))

/-- What a command answers. -/
inductive Answer where
  | done (resp : List Byte) (s : State)
  | error (code : Nat) (s : State)
  /-- the command goes on -/
  | busy (s : State)
  deriving DecidableEq, Repr

/-- The vector of a mailbox: 0 of the management function, 2 of a virtual function (R389). -/
def State.boxIrq (s : State) (fn : Nat) : State := s.sendIrq fn (if fn == 0 then 0 else 2)

/-- The end of a command: response and state, then the vector. -/
def State.finish (fn : Nat) : Answer → State
  | .done resp s => (s.setBox fn { s.box fn with state := 2, err := 0, resp }).boxIrq fn
  | .error code s => (s.setBox fn { s.box fn with state := 3, err := code }).boxIrq fn
  | .busy s => s

/-- The first n bytes of the request area; what has not been written is zero. -/
def Mailbox.request (b : Mailbox) (n : Nat) : List Byte := b.req.take n ++ List.replicate (n - b.req.length) 0

/-- The request of a halt operation. -/
def haltRequest (handle : BitVec 32) (vd : Nat) (op : BitVec 2) : List Byte :=
  leBytes 8 (handle.toNat * 2 ^ 32 + vd % 512 * 2 ^ 16 + op.toNat)

/-- What a command reads of its request: the named fields of a halt operation, else all of it. -/
def mailKey (code : Nat) (req : List Byte) : List Byte :=
  let w := leNat (req.take 8)
  if code == 0x30 then haltRequest (BitVec.ofNat 32 (bitsOf w 32 32)) (bitsOf w 16 9) (BitVec.ofNat 2 w) else req

/-- A mailbox is busy with a command. -/
def Mailbox.serves (b : Mailbox) (code : Nat) (seq : BitVec 16) (req : List Byte) : Bool :=
  b.state == 1 && b.seq == seq && fieldOf b.doorbell 48 16 == code && mailKey code (b.request req.length) == mailKey code req &&
    (code != 0x10 || fieldOf b.doorbell 0 32 == req.length)

/-- The reports of virtual functions are made in the order of their doorbells, one at a time. -/
def State.boxTurn (s : State) (fn code : Nat) : Bool := fn == 0 || code != 1 || s.mgmt.waiting.head? == some fn

/-- A doorbell is taken: the mailbox becomes busy, with its sequence number. -/
def State.ring (s : State) (fn : Nat) (w : W64) : State :=
  let s := s.setBox fn { s.box fn with doorbell := w, state := 1, err := 0, seq := BitVec.ofNat 16 (fieldOf w 32 16) }
  if fn == 0 then s else { s with mgmt := { s.mgmt with waiting := s.mgmt.waiting ++ [fn] } }

/-- A doorbell whose command ends at once with an error. -/
def State.refuseBell (s : State) (fn : Nat) (w : W64) (e : Nat) : State :=
  State.finish fn (.error e (s.setBox fn { s.box fn with doorbell := w, seq := BitVec.ofNat 16 (fieldOf w 32 16) }))

/-- A command is performed, and leaves the order of the virtual functions. -/
def State.runCommand (s : State) (fn : Nat) (go : State → Answer) : State :=
  match go s with
  | .busy s => s
  | a =>
    let s := State.finish fn a
    if fn == 0 then s else { s with mgmt := { s.mgmt with waiting := s.mgmt.waiting.erase fn } }

/-- A command of a mailbox (R392). One that is busy with it performs it; a busy one is not disturbed by any other. An idle one has its doorbell rung,
and performs the command unless reports of other virtual functions wait. The reduced mailbox admits only the report. -/
def State.mailCommand (s : State) (fn code : Nat) (seq : BitVec 16) (req : List Byte) (go : State → Answer) : State :=
  let b := s.box fn
  let w := BitVec.ofNat 64 (code * 2 ^ 48 + seq.toNat * 2 ^ 32 + req.length % 2 ^ 32)
  if b.state == 1 then (if b.serves code seq req && s.boxTurn fn code then s.runCommand fn go else s)
  else if !s.visible fn then s
  else if fn != 0 && code != 1 then s.refuseBell fn w 1
  else
    let t := (s.setBox fn { b with req := req ++ b.req.drop req.length }).ring fn w
    if fn == 0 || s.mgmt.waiting.isEmpty then t.runCommand fn go else t

/-- A list of a length. -/
def fixLen (n : Nat) (l : List Byte) : List Byte := (l ++ List.replicate n 0).take n

def sha3 (bs : List Byte) : List Byte := fixLen 64 (Config.sha3 bs)

/-- The first 64 bytes of a partition record, and the first 144 of a virtual-device record. -/
def State.partBytes (s : State) (p : Nat) : List Byte := wordBytes ((List.range 8).map (fun i => (s.part p).record i))
def State.vdBytes (s : State) (v : Nat) : List Byte := wordBytes ((List.range 18).map (fun i => (s.vd v).record i))

/-- Bytes 0 to 335 of an attestation report (R391). -/
def State.reportBody (s : State) (fn : Nat) (nonce : List Byte) : List Byte :=
  wordBytes [BitVec.ofNat 64 (0x41545354 * 2 ^ 32 + 2 ^ 16 + Config.step * 2 ^ 8), Config.serialNumber] ++
    sha3 (s.mgmt.running.getD Config.factoryImage) ++
    sha3 (wordBytes (s.mgmt.fenceList ++ (List.range 9).map (fun d => (s.die d).record))) ++
    sha3 (((List.range 32).map s.partBytes).flatten ++ wordBytes ((List.range 3).map s.packageRecord)) ++
    (if fn == 0 then List.replicate 64 0
    else sha3 (((List.range 384).filter (fun v => s.vdPart v == s.vdPart (fn - 1) && s.vdEn v)).map s.vdBytes).flatten) ++ nonce

/-- ATTESTATION_REPORT (R391, R392): command 0x0001 over a nonce of 64 bytes. -/
def execAttestationReport (fn : Nat) (seq : BitVec 16) (nonce : List Byte) (s : State) : Out :=
  .next (s.mailCommand fn 1 seq nonce (fun s =>
    if nonce.length != 64 then .error 2 s
    else
      let body := s.reportBody fn nonce
      .done (body ++ fixLen 4627 (Config.deviceSign (sha3 body))) s))

/-- DEVICE_CERTIFICATE (R392): command 0x0002. -/
def execDeviceCertificate (fn : Nat) (seq : BitVec 16) (s : State) : Out :=
  .next (s.mailCommand fn 2 seq [] (fun s => .done (Config.deviceCertificates.take 65536) s))

/-- STAGE_FIRMWARE_IMAGE (R390, R392): command 0x0010; the request area holds 0x7F_F000 bytes. -/
def execStageFirmwareImage (fn : Nat) (seq : BitVec 16) (image : List Byte) (s : State) : Out :=
  .next (s.mailCommand fn 0x10 seq image (fun s =>
    if 0x7FF000 < image.length then .error 2 s else .done [] { s with mgmt := { s.mgmt with staged := some image } }))

/-- An image is accepted: its signature verifies, and its rollback number is not below the counter (R390). -/
def Mgmt.accepts (m : Mgmt) (image : List Byte) : Bool := Config.imageVerifies image && m.counter ≤ Config.imageRollback image % 64

/-- COMMIT_STAGED_IMAGE (R390, R392): command 0x0011. With nothing staged the error code is not given: a free value (log entry 6). -/
def execCommitStagedImage (fn : Nat) (seq : BitVec 16) (s : State) : Out :=
  .next (s.mailCommand fn 0x11 seq [] (fun s =>
    match s.mgmt.staged with
    | none => .error ((Config.freeWord s.free).toNat % 64) { s with free := s.free + 1 }
    | some image =>
      if s.mgmt.accepts image then
        let n := Config.imageRollback image % 64
        .done (leBytes 8 n) { s with mgmt := { s.mgmt with committed := some image, counter := n } }
      else .error 4 s))

/-- READ_FENCE_LIST (R392): command 0x0020. -/
def execReadFenceList (fn : Nat) (seq : BitVec 16) (s : State) : Out :=
  .next (s.mailCommand fn 0x20 seq [] (fun s => .done (wordBytes s.mgmt.fenceList) s))

/-- FENCE_UNIT (R373, R392): command 0x0021. -/
def execFenceUnit (fn : Nat) (seq : BitVec 16) (kind : BitVec 8) (unit : Nat) (s : State) : Out :=
  .next (s.mailCommand fn 0x21 seq (leBytes 8 (unitWord kind.toNat unit).toNat) (fun s =>
    match s.fenceUnit kind.toNat unit with
    | some s => .done [] s
    | none => .error 5 s))

/-- A halt operation of the management core on a task of a virtual device. -/
def State.mgmtHalt (s : State) (vd h op : Nat) : Answer :=
  let g := gangKeyOf vd h
  let st := s.recState vd h
  let value (v : Nat) (s : State) : Answer := .done (leBytes 8 v) s
  if op == 3 || !(s.gang g).live || !(st == stRunning || st == stParked || st == stSuspended) then value 3 s
  else match s.haltOp g op with
    | .done s => value 0 s
    | .wait s => .busy s
    | .error s => value 3 s

/-- HALT_OPERATION (R365, R392): command 0x0030. It stays busy until the collection completes: the same step again carries it on. -/
def execHaltOperation (fn : Nat) (seq : BitVec 16) (handle : BitVec 32) (vd : Nat) (op : BitVec 2) (s : State) : Out :=
  .next (s.mailCommand fn 0x30 seq (haltRequest handle vd op) (fun s => s.mgmtHalt vd handle.toNat op.toNat))

/-- TELEMETRY (R392): command 0x0040. The layout of its 512 bytes is not given: a free area (log entry 8). -/
def execTelemetry (fn : Nat) (seq : BitVec 16) (s : State) : Out :=
  .next (s.mailCommand fn 0x40 seq [] (fun s => .done (freeArea s.free 0 512) { s with free := s.free + 1 }))

/-! ### Accesses of the host functions through BAR0, and of function 0 through BAR2 (R370, R381, R389, R392) -/

/-- The bytes of a mailbox's request area and of its response area: of the full mailbox, of a reduced one. -/
def requestBytes (fn : Nat) : Nat := if fn == 0 then 0x7FF000 else 64
def responseBytes (fn : Nat) : Nat := if fn == 0 then 0x800000 else 0x2000

/-- Where a byte of a mailbox's window stands: MBSTAT, the request area, the response area; elsewhere is nothing. -/
inductive BoxPlace where
  | stat (i : Nat)
  | request (i : Nat)
  | response (i : Nat)
  | nothing
  deriving DecidableEq, Repr

/-- The full mailbox's layout, and the reduced one's, whose offsets start at 0x1000. -/
def boxPlace (fn off : Nat) : BoxPlace :=
  if fn == 0 then
    if 8 ≤ off && off < 16 then .stat (off - 8)
    else if 0x1000 ≤ off && off < 0x800000 then .request (off - 0x1000)
    else if 0x800000 ≤ off && off < 0x1000000 then .response (off - 0x800000) else .nothing
  else
    if 0x1008 ≤ off && off < 0x1010 then .stat (off - 0x1008)
    else if 0x1100 ≤ off && off < 0x1140 then .request (off - 0x1100)
    else if 0x2000 ≤ off && off < 0x4000 then .response (off - 0x2000) else .nothing

/-- A byte of a mailbox as the host reads it; DOORBELL reads as zero. -/
def State.boxByte (s : State) (fn off : Nat) : Byte :=
  let b := s.box fn
  match boxPlace fn off with
  | .stat i => BitVec.ofNat 8 (b.stat.toNat / 256 ^ i)
  | .request i => b.req.getD i 0
  | .response i => b.resp.getD i 0
  | .nothing => 0

/-- The host writes bytes of the request area; elsewhere they are discarded. -/
def State.boxWrite (s : State) (fn off : Nat) (data : List Byte) : State :=
  (indexed data).foldl (fun s e => match boxPlace fn (off + e.1) with
    | .request i =>
      let b := s.box fn
      s.setBox fn { b with req := patchBytes (b.req ++ List.replicate (i + 1 - b.req.length) 0) i [e.2] }
    | _ => s) s

/-- The state that an event leaves. -/
def outState (s : State) : Out → State
  | .next t => t
  | _ => s

/-- A length is in the range of a command; nothing for a code that is no command (R392). -/
def mailLength (code len : Nat) : Option Bool :=
  match code with
  | 0x01 => some (len == 64)
  | 0x02 | 0x11 | 0x20 | 0x40 => some (len == 0)
  | 0x10 => some (len ≤ 0x7FF000)
  | 0x21 | 0x30 => some (len == 8)
  | _ => none

/-- A write of DOORBELL (R392): it is discarded while the mailbox is busy, refused for a code or a length that no command has, and else makes
the mailbox busy; the management core performs the command in a step of its own. -/
def State.doorbell (s : State) (fn : Nat) (w : W64) : State :=
  let code := fieldOf w 48 16
  if !s.visible fn || (s.box fn).state == 1 then s
  else if fn != 0 && code != 1 then s.refuseBell fn w 1
  else match mailLength code (fieldOf w 0 32) with
    | none => s.refuseBell fn w 1
    | some false => s.refuseBell fn w 2
    | some true => s.ring fn w

/-- An access completes: the data that it read. -/
def State.complete (s : State) (fn : Nat) (data : List Byte) : State := { s with outbox := s.outbox ++ [.completion fn data true] }

/-- A read of n bytes of a mailbox, or a write: eight bytes at DOORBELL ring it. -/
def State.boxAccess (s : State) (fn off : Nat) (wr : Bool) (data : List Byte) : State :=
  if !wr then s.complete fn ((List.range data.length).map (fun i => s.boxByte fn (off + i)))
  else if off == (if fn == 0 then 0 else 0x1000) && data.length == 8 then s.doorbell fn (BitVec.ofNat 64 (leNat data))
  else s.boxWrite fn off data

/-- The control-space address behind an offset of function 0's BAR0 (R389). -/
def bar0Address (off : Nat) : Option Nat :=
  if off < 0x1000 then some (packageBase + off)
  else if 0x10000 ≤ off && off < 0x30000 then some (partBase 0 + (off - 0x10000))
  else if 0x40000 ≤ off && off < 0x1C0000 then some (vdBase 0 + (off - 0x40000))
  else if 0x200000 ≤ off && off < 0x440000 && (off - 0x200000) % 0x40000 < 0x21000 then
    some (0xFF0000000000 + (off - 0x200000) / 0x40000 * 0x100000000 + (off - 0x200000) % 0x40000)
  else none

/-- An access of the management function through BAR0: one of the control space, of 64 bits and aligned (R369, R370). -/
def State.bar0Mgmt (s : State) (off : Nat) (wr : Bool) (data : List Byte) : State :=
  match bar0Address off with
  | none => if wr then s else s.complete 0 (List.replicate data.length 0)
  | some a =>
    if data.length != 8 || a % 8 != 0 then s.csError a
    else if wr then s.writeControl a (BitVec.ofNat 64 (leNat data))
    else match s.csRead a with
      | .value w => s.complete 0 (leBytes 8 w.toNat)
      | .free => { s.complete 0 (leBytes 8 (Config.freeWord s.free).toNat) with free := s.free + 1 }
      | .nothing => s.csError a

/-- An access of a virtual function through BAR0: LAUNCH, LSTATUS and the reduced mailbox (R381, R389). -/
def State.bar0Virtual (s : State) (fn off : Nat) (wr : Bool) (data : List Byte) : State :=
  let v := fn - 1
  if 0x1000 ≤ off && off < 0x4000 then s.boxAccess fn off wr data
  else if wr then (if off == 0 && data.length == 8 then s.launchWrite v (BitVec.ofNat 64 (leNat data)) else s)
  else s.complete fn ((List.range data.length).map (fun i =>
    if 8 ≤ off + i && off + i < 16 then BitVec.ofNat 8 ((s.vd v).lstatus.toNat / 256 ^ (off + i - 8)) else 0))

/-- An access of a host function (R389): function 0 through BAR0 or BAR2, a virtual function through BAR0, or through BAR2 as HOST_BAR2_ACCESS.
The widths of mailbox accesses are not given: any (log entry 78). -/
def State.hostAccess (s : State) (fn : Nat) (bar2 : Bool) (off : Nat) (wr : Bool) (data : List Byte) : State :=
  if !s.visible fn then s
  else if fn == 0 then (if bar2 then s.boxAccess 0 off wr data else s.bar0Mgmt off wr data)
  else if bar2 then outState s (execHostBar2Access fn off wr data s)
  else s.bar0Virtual fn off wr data

/-- The management core fails in the command that a mailbox is busy with: error 6 (R392). What makes it fail is not given: an input (log entry 78). -/
def State.mgmtFailure (s : State) (fn : Nat) : State :=
  if (s.box fn).state == 1 then
    let s := State.finish fn (.error 6 s)
    { s with mgmt := { s.mgmt with waiting := s.mgmt.waiting.erase fn } }
  else s

/-- The management core's signed store takes a fence list (R373). -/
def State.storeFenceList (s : State) (units : List W64) : State := { s with mgmt := { s.mgmt with fenceList := units } }

end Sys2Proof.Machine
end

