-- ==== Sys2Proof/Machine/Links.lean ====
section
/-! DEFINITION. The link ports (R15, R371, R383 to R385): acceptance and retry of flits, retraining, and the requests and replies
of peer packages. -/

namespace Sys2Proof.Machine

open Sys2Proof

/-! ### Ports -/

/-- PORTS of a die reports a port: bit 0 or 1 trained, bit 2 or 3 at ×8 (R371). -/
def State.reportPort (s : State) (k : Nat) : State :=
  let p := s.port k
  let d := portDie k
  let i := if k == 5 then 1 else 0
  let old := (s.die d).ports
  s.setDie d { s.die d with ports := setField (setField old i 1 (bitNat p.trained)) (i + 2) 1 (bitNat (p.trained && p.x8)) }

/-- What is attached to a port: 0 nothing, 1 a host adapter card, 2 a peer package or a switch (R15). -/
def State.attachedTo (s : State) (k : Nat) : Nat := (s.attached.get k).toNat % 4

/-- What is attached trains with a port: a host adapter card with port 0, a peer package or a switch with ports 1 to 5 (R15). -/
def State.partner (s : State) (k : Nat) : Bool :=
  (s.attachedTo k == if k == 0 then 1 else 2) && (s.die (portDie k)).present && !(s.die (portDie k)).fenced

/-- The port of bring-up step 6 trains with what is attached to it; a peer package on port 0 is not trained, and is logged (R15, R393). -/
def State.trainPort (s : State) (k : Nat) : State :=
  if s.partner k then (s.setPort k { Port.reset with trained := true, x8 := (s.attached.get k).getLsbD 2 }).reportPort k
  else if k == 0 && s.attachedTo 0 == 2 then s.log 4 { kind := 0x10 }
  else s

/-- The port resets and retrains; its acknowledgement state is lost (R385). -/
def State.resetLink (s : State) (k : Nat) : State := s.setPort k { s.port k with resetting := true, fails := 0 }

/-- The flits of the replay buffer are sent again; after 16 replays without progress the port resets. -/
def State.replayLink (s : State) (k : Nat) : State :=
  let p := s.port k
  if p.replay.isEmpty then s
  else if 16 ≤ p.fails then s.resetLink k
  else { s.setPort k { p with fails := p.fails + 1 } with outbox := s.outbox ++ p.replay.map (fun e => .flit k e.1 e.2) }

/-- What a flit acknowledges: cumulatively, the flits up to the number, or before it for a negative acknowledgement, which then
draws a replay. -/
def State.ackLink (s : State) (k : Nat) (f : Flit) : State :=
  let p := s.port k
  match p.replay.findIdx? (fun e => e.2.seq == f.ack) with
  | none => s
  | some i =>
    let n := if f.nak then i else i + 1
    let s := s.setPort k { p with replay := p.replay.drop n, fails := if n == 0 then p.fails else 0 }
    if f.nak then s.replayLink k else s

/-- How a flit is received. -/
inductive Received where
  | accepted (s : State)
  | dropped (s : State)
  deriving DecidableEq, Repr

/-- A flit of a type arrives (R385): accepted when its CRC holds and its number is the next expected one; a duplicate is discarded; any
other draws a negative acknowledgement. A port that is not up receives nothing. `room`: a flit that is in order and needs an answer at once waits
to be sent again where the replay buffer has no place for that. -/
def State.receive (s : State) (k type : Nat) (room : Bool) (f : Flit) : Received :=
  let p := s.port k
  let ok := flitOk type f
  if !p.up then .dropped s
  else if ok && f.seq == p.rxNext then
    if !room then .dropped s
    else .accepted ((s.setPort k { p with
      rxNext := (p.rxNext + 1) % 4096, acked := f.ack, creditReq := p.creditReq + f.creditReq, creditRep := p.creditRep + f.creditRep }).ackLink k f)
  else if ok && (p.rxNext + 4096 - f.seq % 4096) % 4096 < 2048 then .dropped s
  else if p.replay.length < 1024 then .dropped (s.sendFlit k 3 { Flit.empty with nak := true })
  else .dropped s

/-! ### Requests and replies (R156, R210, R383) -/

/-- The runs of bytes that a mask names: first byte and number. -/
def maskRuns (mask : Nat) : List (Nat × Nat) :=
  (List.range 128).foldl (fun l i =>
    if !mask.testBit i then l
    else match l.getLast? with
      | some r => if r.1 + r.2 == i then l.dropLast ++ [(r.1, r.2 + 1)] else l ++ [(i, 1)]
      | none => [(i, 1)]) []

/-- The bytes up to the last one of a mask. -/
def maskSpan (mask : Nat) : Nat := ((maskRuns mask).getLast?.map (fun r => r.1 + r.2)).getD 0

/-- A peer's request is one that this package can perform: of this package's memory, within a line, with the data that it needs. -/
def State.peerOk (s : State) (q : Flit) : Bool :=
  let n := maskSpan q.mask
  pkgOf q.pa == s.pkgnum.toNat && !isSpad q.pa && q.mask.log2 < 128 && q.wr == q.op.writes && q.data.length == (if q.wr then n else 0) &&
    (match q.op with
      | .atom _ ty _ _ => maskRuns q.mask == [(0, ty.bits / 8)] && q.pa % (ty.bits / 8) == 0
      | .inkAdd _ | .inkRead _ | .inkClr => maskRuns q.mask == [(0, 8)] && q.pa % 128 == 0
      | _ => n != 0 && q.pa % 128 + n ≤ 128)

/-- The accesses that a peer's request makes at its home here: one for each run of its bytes. -/
def peerRuns (q : Flit) : List (Nat × Nat × Nat) :=
  (maskRuns q.mask).map (fun r => (r.1, (match q.op with | .inkAdd _ | .inkRead _ | .inkClr => 384 | _ => r.2), leNat ((q.data.drop r.1).take r.2)))

/-- A peer's request starts at the die where it enters, on its way to its home; one that this package cannot perform draws an error response (R156). -/
def State.peerAccess (s : State) (k : Nat) (q : Flit) : State :=
  let a : Agent := { who := .peer k q, src := q.src, vd := q.vd, prio := q.prio }
  let put (s : State) (key bytes data entry : Nat) (stage : Stage) : State :=
    { s with nextId := s.nextId + 1,
             flights := s.flights ++ [agentFlight a q.op key bytes data (q.ev % 8) 0 entry (q.tag % 65536) stage s.nextId] }
  if s.peerOk q then (peerRuns q).foldl (fun u r => put u (q.pa + r.1) r.2.1 r.2.2 (s.nextId + 1) .home) s
  else put s q.pa 1 0 0 .err

/-- The accesses of this package that a reply answers: those that left with its number, from its source, to its home. -/
def State.answeredBy (s : State) (r : Flit) : List Flight :=
  s.flights.filter (fun f => f.stage == .link && f.tag == r.tag && s.flightSrc f == r.src && f.kind == r.op &&
    (!f.tagged || s.homeKey f.key == s.homeKey r.pa))

/-- What a peer's memory held, as an answer says it. -/
def State.peerBytes (s : State) (a : Nat) (d : List Byte) : State := if d.isEmpty || s.bytes a d.length == d then s else s.write 999 a d

/-- An access is performed at a peer's home: the bytes that stood there are those of the answer, and the access has here the effects of one
performed (R189, R198, R215). -/
def State.peerDone (s : State) (f : Flight) (d : List Byte) : State :=
  match f.kind with
  | .inkAdd _ | .inkClr => s.ackWith f
  | .inkRead _ => s.replyWith f (leNat d)
  | _ => (s.peerBytes f.key d).performHome f

/-- A peer's reply to a request of this package: what the peer's memory held, then its accesses as performed there; or an error response. A reply
without the bytes that its request needs answers nothing. -/
def State.peerReply (s : State) (r : Flit) : State :=
  let fs := s.answeredBy r
  if r.data.isEmpty && !r.wr then fs.foldl State.refuse s
  else
    let sp := match fs with | h :: _ => requestSpan h fs | [] => (0, 0)
    let reads := fs.any (fun f => !f.kind.writes || f.atomic)
    if reads && r.data.length != sp.2 then s
    else
      let s := if reads && sp.2 == 128 then s.peerBytes sp.1 r.data else s
      fs.foldl (fun s f => s.peerDone f (if reads then (r.data.drop (f.key - sp.1)).take f.wire else [])) s

/-- The data of a request or reply that comes in several flits is put together at its port (R384). -/
def Port.gather (p : Port) (type : Nat) (f : Flit) : Flit × Port :=
  if type == 1 then ({ f with data := p.partReq ++ f.data }, { p with partReq := if f.more then p.partReq ++ f.data else [] })
  else ({ f with data := p.partRep ++ f.data }, { p with partRep := if f.more then p.partRep ++ f.data else [] })

/-- A flit of a request or a reply is taken; with its last flit, what it asks or answers takes its course. -/
def State.takeFlit (s : State) (k type : Nat) (f : Flit) (act : State → Flit → State) : State :=
  let g := (s.port k).gather type f
  let s := s.setPort k g.2
  if k == 0 || f.more then s else act s g.1

/-- LINK_REQUEST_FLIT (R384, R385). The host's accesses through port 0 are steps of their own. -/
def execLinkRequestFlit (port : Nat) (f : Flit) (s : State) : Out :=
  match s.receive port 1 true f with
  | .dropped s => .next s
  | .accepted s => .next (s.takeFlit port 1 f (fun s q => s.peerAccess port q))

/-- LINK_REPLY_FLIT (R384, R385): accepted, it returns a credit. -/
def execLinkReplyFlit (port : Nat) (f : Flit) (s : State) : Out :=
  match s.receive port 2 ((s.port port).replay.length < 1024) f with
  | .dropped s => .next s
  | .accepted s => .next (if port == 0 then s else (s.takeFlit port 2 f State.peerReply).sendFlit port 3 { Flit.empty with creditRep := 1 })

/-- LINK_ACK_FLIT (R384, R385). -/
def execLinkAckFlit (port : Nat) (f : Flit) (s : State) : Out :=
  match s.receive port 3 true f with
  | .dropped s => .next s
  | .accepted s => .next s

/-- LINK_IDLE_FLIT (R384). -/
def execLinkIdleFlit (port : Nat) (f : Flit) (s : State) : Out :=
  match s.receive port 0 true f with
  | .dropped s => .next s
  | .accepted s => .next s

/-- LINK_ACK_TIMEOUT (R385): no acknowledgement for 4 µs. -/
def execLinkAckTimeout (port : Nat) (s : State) : Out := .next (if (s.port port).up then s.replayLink port else s)

/-! ### Training (R15, R385) -/

/-- LINK_RETRAIN (R385): loss of lane lock. A port that bring-up has not trained does not train later (R15). -/
def execLinkRetrain (port : Nat) (s : State) : Out := .next (if port < 6 && (s.port port).trained then s.resetLink port else s)

/-- The requests that have gone by a port and are not answered go again: the replay filters of their homes apply each once (R210, R385). -/
def State.sendAgain (s : State) (k : Nat) : State :=
  { s with flights := s.flights.map (fun (f : Flight) => if f.stage == .link && s.portFor f.key == some k then { f with stage := .home } else f) }

/-- LINK_RETRAIN_COMPLETE (R385): the port is trained anew, with what is attached to it (R15); the replies not yet acknowledged and the
requests not yet answered are sent again. -/
def execLinkRetrainComplete (port : Nat) (x8 : Bool) (s : State) : Out :=
  let p := s.port port
  if !p.resetting || !s.partner port then .next s
  else
    let s := ((s.setPort port { Port.reset with trained := true, x8 }).reportPort port).sendAgain port
    .next ((p.replay.filter (fun e => e.1 == 2)).foldl (fun s e => s.sendFlit port e.1 e.2) s)

/-- A port leaves its ROUTE sets (R383, R385). -/
def State.leaveRoutes (s : State) (k : Nat) : State :=
  if k == 0 then s
  else if k == 5 then { s with route := s.route.set 1 0 }
  else { s with route := s.route.set 0 (clearBits (s.route.get 0) ((List.range 16).map (fun q => 4 * q + (k - 1)))) }

/-- LINK_TRAIN_TIMEOUT (R385): the port does not train within 1 ms; its requests go by the remaining ports; the log entry is of the port's
die. -/
def execLinkTrainTimeout (port : Nat) (s : State) : Out :=
  if !(s.port port).resetting then .next s
  else .next (((((s.sendAgain port).setPort port Port.reset).reportPort port).leaveRoutes port).log (portDie port) { kind := 0x10 })

end Sys2Proof.Machine
end

