-- ==== Sys2Proof/Machine/Engine.lean ====
section
/-! DEFINITION. The matrix engine (R288 to R304, R308, R313 to R315): passes, granules, the products of a pass, the close, errors, and
the order of its commands against DRAIN. -/

namespace Sys2Proof.Machine

open Sys2Proof

/-! ### Formats (R141, R300) -/

/-- The ten multiplier formats. -/
def multFmt : Fmt → Bool
  | .f64 | .f32 | .f16 | .bf16 | .e4m3 | .e5m2 | .s8 | .k8 | .s4 | .n4 => true
  | _ => false

def is8Float (f : Fmt) : Bool := f == .e4m3 || f == .e5m2

/-- A pair that the engine multiplies (R141). -/
def multPair (a b : Fmt) : Bool := multFmt a && (a == b || (is8Float a && is8Float b))

/-- Block length L (R141). -/
def blockLen : Fmt → Nat
  | .e4m3 | .e5m2 | .s8 | .k8 => 32
  | .s4 | .n4 => 64
  | _ => 1

/-- Logical k of a pass (R300). -/
def passK (f : Fmt) (sparse : Bool) : Nat :=
  match f with
  | .f64 => 1 | .f32 => 8
  | .f16 | .bf16 => if sparse then 32 else 16
  | .s4 | .n4 => 64
  | _ => 32

/-- A bytes of n elements (R301). -/
def rowBytes (f : Fmt) (n : Nat) : Nat := n * f.bits / 8

/-- An element's value (R127, R130, R136); K8 and N4 without their scales. -/
def multVal (f : Fmt) (code : Nat) : Num :=
  match f with
  | .s8 | .k8 => numOfInt (intVal .s8 code)
  | .s4 => numOfInt (intVal .s4 code)
  | .n4 => numOfInt (n4q code)
  | _ => (floatFmt f).decode code

/-! ### Commands and their order (R303, R304) -/

/-- The tiles that a command names. -/
def MOp.tiles : MOp → List Nat
  | .mma _ t _ .f64 _ _ => [t, t + 1]
  | .mma _ t _ _ _ _ => [t]
  | .mzero m => (List.range 16).filter (fun i => m.getLsbD i)
  | _ => []

/-- The slot that a command names. -/
def MOp.slot : MOp → Option Nat
  | .wload _ _ w _ _ _ => some w
  | .mma _ _ w _ _ _ => some w
  | _ => none

def MOp.isChart : MOp → Bool
  | .chart _ _ => true
  | _ => false
def MOp.isWload : MOp → Bool
  | .wload _ _ _ _ _ _ => true
  | _ => false
def MOp.isTile : MOp → Bool
  | .mma _ _ _ _ _ _ | .mzero _ => true
  | _ => false

/-- The first command of a kind in a core's queue, of a gang that is not stopped by the collector. -/
def State.firstCmd (s : State) (core : Nat) (kind : MOp → Bool) : Option MCmd :=
  (s.core core).mq.find? (fun m => kind m.op && s.gangRuns m.gang)

/-- The MMA or MZERO that the multipliers of a core are to perform; they stand while the arithmetic clock of the die is stopped (R386). -/
def State.firstTile (s : State) (core : Nat) : Option MCmd := if s.clockOn core then s.firstCmd core MOp.isTile else none

/-- No earlier command of the queue names the slot, but those of the command's own kind that stand behind it. -/
def State.slotFree (s : State) (core : Nat) (m : MCmd) : Bool :=
  ((s.core core).mq.takeWhile (fun x => x.id != m.id)).all (fun x => x.op.slot.isNone || x.op.slot != m.op.slot)

def State.dropCmd (s : State) (core id : Nat) : State :=
  s.setCore core { s.core core with mq := (s.core core).mq.filter (fun m => m.id != id) }

/-- The bytes of a lane slot, as the core would fetch them, where it can read them now. -/
def State.peekLane (s : State) (core vd : Nat) (pc : W64) : Option Nat :=
  match iLine (s.core core).icL vd pc with
  | some l => some (l.at pc 12)
  | none => match s.checkNow core vd needXL pc with
    | .key k => some (s.readLE k 12)
    | _ => none

/-- A DRAIN reads one of some tiles. -/
def drainsTile (tiles : List Nat) : Instr → Bool
  | .drain r => tiles.contains r.tile.toNat || (r.fmt == .f64 && tiles.contains (r.tile.toNat + 1))
  | _ => false

/-- n lane PCs from p. -/
def slotsFrom : Nat → W64 → List W64
  | 0, _ => []
  | n + 1, p => p :: slotsFrom n (nextLanePc p)

/-- The lane PCs that the runs of a strand numbered below `n` still hold, with the bodies of its open loops. -/
def Strand.slotsAhead (t : Strand) (n : Nat) : List W64 :=
  let old := (t.runsSaved ++ t.runs).filter (fun r => r.seq < n)
  (old.map (fun r => slotsFrom r.left r.pc)).flatten ++
    (if old.isEmpty then [] else (t.stack.map (fun c => match c with
      | .loopE pc imm => slotsFrom imm.toNat pc
      | .ifE _ => [])).flatten)

/-- A DRAIN that was enqueued before a command's acceptance has still to read one of its tiles (R304). A slot that cannot be read now may
hold one: the strand parks there, and goes on after RESUME. -/
def State.drainAhead (s : State) (core : Nat) (m : MCmd) : Bool :=
  m.before.any (fun b =>
    let t := s.strand b.1
    t.live && t.gang == m.gang && (t.slotsAhead b.2).any (fun pc =>
      match s.peekLane core (s.gang m.gang).vd pc with
      | some w => ((decodeLane (BitVec.ofNat 96 w)).toOption).any (drainsTile m.op.tiles)
      | none => true))

/-- A tile is not ready to a DRAIN: a command accepted before the DRAIN's run was enqueued has yet to write it (R304). -/
def State.tileBusy (s : State) (k : Nat) (tiles : List Nat) : Bool :=
  let t := s.strand k
  (s.core t.core).mq.any (fun m => m.gang == t.gang && m.op.tiles.any (fun x => tiles.contains x) &&
    ((m.before.find? (fun b => b.1 == k)).map (·.2)).getD 0 ≤ t.runSeq)

/-! ### Errors (R308, R310) -/

/-- A command ends with an error: MSTAT and the error log. -/
def State.matrixError (s : State) (core : Nat) (m : MCmd) (code : Nat) (va : W64) (tile slot chart : Nat) : State :=
  let g := s.gang m.gang
  let st : Mstat := if g.mstat.cnt == 0 then { cnt := 1, code, tile, slot, chart } else { g.mstat with cnt := min (g.mstat.cnt + 1) 65535 }
  (s.setGang m.gang { g with mstat := st }).log (core / 32) ({ kind := 0x15, va, die := core / 32, core := core % 32, pc := m.pc : Report }.ofGang g)

/-- The aperture address of an offset (R154, R308). -/
def apertureVa (off : Nat) : W64 := BitVec.ofNat 64 (0xFFFF0000000000 + off)

/-- n bytes leave every row FIFO; those that have not arrived are discarded as they come (R308). -/
def Matrix.discardRows (x : Matrix) (n : Nat) : Matrix :=
  let have_ (i : Nat) : List Byte := x.fifos.get [] i
  { x with
    fifos := (List.range 64).map (fun i => (i, (have_ i).drop n)),
    discard := (List.range 64).map (fun i => (i, x.discard.get 0 i + (n - (have_ i).length))) }

/-- The engine's MMA is over. -/
def Matrix.idle (x : Matrix) : Matrix := { x with run := none, await := none, waited := 0, seen := [] }

/-- Fail of R308 after `used` passes of an MMA. -/
def State.mmaFail (s : State) (core : Nat) (m : MCmd) (code : Nat) (va : W64) : State :=
  match m.op with
  | .mma form t w af _ _ =>
    let x := (s.core core).matrix
    let k := (x.slots.get Slot.zero w).k
    let done := (x.run.map (·.pass)).getD 0 * passK af (form != .dense)
    let s := s.setCore core { s.core core with matrix := (x.discardRows (rowBytes af (k - done))).idle }
    (s.matrixError core m code va t w 0).dropCmd core m.id
  | _ => s

/-! ### Tiles -/

/-- A tile with every element replaced. -/
def Matrix.setTile (x : Matrix) (t : Nat) (f : Nat → W32) : Matrix :=
  let new := ((List.range 4096).map (fun i => (4096 * t + i, f i))).filter (fun e => e.2 != 0)
  { x with tiles := x.tiles.filter (fun e => e.1 < 4096 * t) ++ new ++ x.tiles.filter (fun e => 4096 * (t + 1) ≤ e.1) }

/-- The bits of element n of a tile, or of a pair for f64 (R288). -/
def Matrix.tileBits (x : Matrix) (t : Nat) (wide : Bool) (n : Nat) : Nat :=
  (x.tiles.get (4096 * t + n)).toNat + (if wide then 2 ^ 32 * (x.tiles.get (4096 * (t + 1) + n)).toNat else 0)

/-- A map of 4,096 words. -/
def packWords (f : Nat → Nat) : SMap 64 :=
  ((List.range 4096).map (fun n => (n, BitVec.ofNat 64 (f n)))).filter (fun e => e.2 != 0)

/-! ### Granules (R296 to R299) -/

/-- Granules of [lo, lo + n) of a core's scratchpad. -/
def granulesOf (core lo n : Nat) : List Nat := (List.range ((lo + n + 15) / 16 - lo / 16)).map (fun i => spadKey core 0 / 16 + lo / 16 + i)

/-- The groups of 32 that a pass covers. -/
def passGroups (k pk p : Nat) : List Nat := (List.range (min (pk / 32) ((k - p * pk + 31) / 32))).map (fun g => p * pk / 32 + g)

/-- The metadata and A-scale granules of a pass. -/
def passGranules (core : Nat) (form : MmaForm) (af : Fmt) (sl : Slot) (ascale amask p : Nat) : List Nat :=
  let pk := passK af (form != .dense)
  (match form with
    | .dense => []
    | .ns => ((passGroups sl.k pk p).map (fun g => granulesOf core (amask + g * 64 * sl.n) (64 * sl.n))).flatten
    | .bm => ((passGroups sl.k pk p).map (fun g => granulesOf core (amask + g * 256) 256)).flatten) ++
  (if blockedFmt af then (List.range 64).map (fun i => spadKey core (ascale + 32 * i + p) / 16) else []) ++
  (if af == .n4 then granulesOf core (ascale + 2048) 256 else [])

/-- How the reading of a pass's granules stands. -/
inductive GranRes where
  | done
  | refused (granule : Nat)
  | await (granule : Nat)
  deriving DecidableEq, Repr

/-- The engine reads the granules that are full, one at a time, up to the first that is not (R299, R317). -/
def State.readGranules (s : State) (core : Nat) (m : MCmd) : List Nat → GranRes × State
  | [] => (.done, s)
  | g :: gs =>
    let c := s.core core
    if c.matrix.seen.any (fun e => e.1 == g) then s.readGranules core m gs
    else match s.spadAccess m.strand m.gang (16 * g) 16 false false (s.isSup m.strand) with
      | none => (.refused g, s)
      | some s =>
        if s.isFull (16 * g) then
          let c := s.core core
          (s.setCore core { c with matrix := { c.matrix with seen := c.matrix.seen ++ [(g, s.readLE (16 * g) 16)], await := none, waited := 0 } }).readGranules core m gs
        else (.await g, s)

/-- Byte `off` of the core's scratchpad, as the engine has read it. -/
def Matrix.seenByte (x : Matrix) (core off : Nat) : Nat :=
  let k := spadKey core off
  ((x.seen.find? (fun e => e.1 == k / 16)).map (·.2)).getD 0 / 256 ^ (k % 16) % 256

def Matrix.seenLE (x : Matrix) (core off n : Nat) : Nat :=
  ((List.range n).map (fun i => x.seenByte core (off + i) * 256 ^ i)).sum

/-! ### B of a pass -/

/-- The positions of column j in group g, by N-of-32 metadata. -/
def Matrix.nsPositions (x : Matrix) (core amask n g j : Nat) : List Nat :=
  (List.range n).map (fun i => x.seenByte core (amask + (g * 64 + j) * n + i))

/-- The first position that breaks R296 (bits [7:5] zero, strictly ascending), by its place. -/
def badPosition (ps : List Nat) : Option Nat :=
  (List.range ps.length).find? (fun i => 32 ≤ ps.getD i 0 || (i != 0 && ps.getD i 0 ≤ ps.getD (i - 1) 0))

/-- The mask of column j in group g (R297). -/
def Matrix.bmMask (x : Matrix) (core amask g j : Nat) : Nat := x.seenLE core (amask + (g * 64 + j) * 4) 4

def popc32 (m : Nat) : Nat := ((List.range 32).filter (fun b => m.testBit b)).length

/-- Population counts of the masks of some groups, by group and column. -/
def Matrix.bmCount (x : Matrix) (core amask : Nat) (groups : List Nat) : Nat :=
  ((groups.map (fun g => ((List.range 64).map (fun j => popc32 (x.bmMask core amask g j))).sum))).sum

/-- The code of B(k, j) for each k of a pass, or nothing where it is absent (R144, R295 to R297). -/
def Matrix.column (x : Matrix) (core : Nat) (form : MmaForm) (sl : Slot) (amask pk p kn used j : Nat) : List (Option Nat) :=
  let elem (i : Nat) : Nat := (sl.elems.get i).toNat
  let groups := passGroups sl.k pk p
  match form with
  | .dense => (List.range kn).map (fun i => let k := p * pk + i; some (elem ((k / pk * 64 + j) * pk + k % pk)))
  | .ns => (groups.map (fun g =>
      let ps := x.nsPositions core amask sl.n g j
      (List.range 32).map (fun b => (ps.findIdx? (fun y => y == b)).map (fun m => elem ((g * 64 + j) * sl.n + m))))).flatten
  | .bm => (groups.map (fun g =>
      let before := used + x.bmCount core amask (groups.filter (fun h => h < g)) +
        ((List.range j).map (fun i => popc32 (x.bmMask core amask g i))).sum
      let w := x.bmMask core amask g j
      (List.range 32).map (fun b => if w.testBit b then some (elem (before + popc32 (w % 2 ^ b))) else none))).flatten

/-! ### Products and chains (R142, R143) -/

def chainFmt (af : Fmt) : FloatFmt := if af == .f64 then fmtF64 else fmtF32

/-- Acc of R143 on the bits of a chain. -/
def acc (x : FloatFmt) (c : Nat) (v : Num) : Nat := if v.isZero then c else x.arith .rne false ((x.decode c).add .rne v)

/-- The products of a pass for one element. One whose B is absent is left out, whatever A holds there, a NaN or an infinity too (R144; DESIGN CHOICE,
log entry 82). -/
def products (bf : Fmt) (row : List Num) (col : List (Option Nat)) : List (Nat × Num) :=
  (indexed (row.zip col)).filterMap (fun e => e.2.2.map (fun b => (e.1, e.2.1.mul (multVal bf b))))

/-- The scale of an operand's block: K8 and N4 (R142). -/
structure Scale where
  b : Nat
  super : Num
  deriving DecidableEq, Repr

/-- V(n) of R142. -/
def blockValue (af : Fmt) (ps : List Num) (sa sb : Scale) : Num :=
  let sum := ps.foldl (fun a p => a.add .rne p) (.fin false 0 0)
  match af with
  | .k8 => if sa.b == 255 || sb.b == 255 then .nan else sum.mul (.fin false 1 ((sa.b : Int) + sb.b - 254))
  | .n4 => ((sum.mul (.fin false ((sa.b + 1) * (sb.b + 1)) (-32))).mul sa.super).mul sb.super
  | _ => sum

/-- The chains of one element after a pass: a product at a time without blocks, one block otherwise. -/
def passElem (af bf : Fmt) (p pk : Nat) (row : List Num) (col : List (Option Nat)) (sa sb : Scale) (c : Nat × Nat) : Nat × Nat :=
  let x := chainFmt af
  let ps := products bf row col
  let add (c : Nat × Nat) (h : Nat) (v : Num) : Nat × Nat := if h % 2 = 0 then (acc x c.1 v, c.2) else (c.1, acc x c.2 v)
  if blockLen af == 1 then ps.foldl (fun c e => add c (p * pk + e.1) e.2) c
  else add c p (blockValue af (ps.map (·.2)) sa sb)

/-- Codes of a row's bytes (R131, R301). -/
def rowCodes (af : Fmt) (bs : List Byte) (n : Nat) : List Nat :=
  let v := leNat bs
  (List.range n).map (fun i => v / 2 ^ (af.bits * i) % 2 ^ af.bits)

/-- A pass over the whole tile (R143, R302). -/
def Matrix.doPass (x : Matrix) (core : Nat) (form : MmaForm) (af : Fmt) (sl : Slot) (ascale amask : Nat) (r : MmaRun) : Matrix :=
  let pk := passK af (form != .dense)
  let p := r.pass
  let kn := min pk (sl.k - p * pk)
  let nb := rowBytes af kn
  let rows := (List.range 64).map (fun i => (rowCodes af ((x.fifos.get [] i).take nb) kn).map (multVal af))
  let cols := (List.range 64).map (fun j => x.column core form sl amask pk p kn r.used j)
  let sa (i : Nat) : Scale := { b := x.seenByte core (ascale + 32 * i + p), super := fmtF32.decode (x.seenLE core (ascale + 2048 + 4 * i) 4) }
  let sb (j : Nat) : Scale := { b := (sl.scales.get (p * 64 + j)).toNat, super := fmtF32.decode (sl.supers.get (p * 64 + j)).toNat }
  let out := ((List.range 64).zip rows).map (fun i => ((List.range 64).zip cols).map (fun j =>
    let n := 64 * i.1 + j.1
    passElem af sl.fmt p pk i.2 j.2 (sa i.1) (sb j.1) ((r.c0.get n).toNat, (r.c1.get n).toNat)))
  let flat := indexed out.flatten
  let pack (f : Nat × Nat → Nat) : SMap 64 := (flat.map (fun e => (e.1, BitVec.ofNat 64 (f e.2)))).filter (fun e => e.2 != 0)
  let used := match form with | .bm => r.used + x.bmCount core amask (passGroups sl.k pk p) | _ => 0
  { x with
    fifos := (List.range 64).map (fun i => (i, (x.fifos.get [] i).drop nb)),
    run := some { pass := p + 1, used, c0 := pack (·.1), c1 := pack (·.2) } }

/-- Passes of a panel. -/
def passes (af : Fmt) (form : MmaForm) (k : Nat) : Nat := let pk := passK af (form != .dense); (k + pk - 1) / pk

/-- The metadata of a pass is malformed: the address that R308 logs. -/
def Matrix.badMeta (x : Matrix) (core : Nat) (form : MmaForm) (af : Fmt) (sl : Slot) (amask : Nat) (r : MmaRun) : Option W64 :=
  let groups := passGroups sl.k (passK af (form != .dense)) r.pass
  match form with
  | .dense => none
  | .ns =>
    ((groups.map (fun g => (List.range 64).map (fun j => (g, j)))).flatten).findSome? (fun e =>
      (badPosition (x.nsPositions core amask sl.n e.1 e.2)).map (fun m =>
        apertureVa ((amask + (e.1 * 64 + e.2) * sl.n + m) / 16 * 16)))
  | .bm => if sl.v < r.used + x.bmCount core amask groups then some (apertureVa amask) else none

end Sys2Proof.Machine
end

