-- ==== Sys2Proof/Machine/Matrix.lean ====
section
/-! DEFINITION. The matrix instructions (R305 to R312) and the steps of the matrix engine (R302, R306 to R309, R315). -/

namespace Sys2Proof.Machine

open Sys2Proof

/-! ### Acceptance (R80, R305) -/

/-- The queue accepts a command of the current strand. -/
def State.acceptCmd (s : State) (d : SReg) (op : MOp) : State :=
  let t := s.me
  let c := s.core t.core
  let m : MCmd := { id := s.nextId, gang := t.gang, strand := s.cur, pc := t.pc, bound := t.accs,
                    before := (s.strandsOf t.gang).map (fun k => (k, (s.strand k).nextRun)), op }
  ({ s.setCore t.core { c with mq := c.mq ++ [m] } with nextId := s.nextId + 1 } : State).scalarResult d 0

/-- The front end's part of a command: CANCELLED, a stall while the queue is full or a chart that the command names is pending
(R80, R294), an acceptance error with its logged address, or acceptance. -/
def State.command (s : State) (d : SReg) (named : Option Nat) (bad : State → Option W64) (op : State → MOp) : State :=
  if s.cancelled s.cur then s.scalarResult d 1
  else if Config.matrixDepth ≤ (s.core s.me.core).mq.length || named.any (fun e => s.chartPending s.me.core s.me.gang e) then s
  else match bad s with
    | some va => s.refuseCmd d va
    | none => s.acceptCmd d (op s)

/-- The current strand's gang holds the engine (R289). -/
def State.holdsEngine (s : State) : Bool := (s.core s.me.core).holder == some s.me.gang

/-- Chart entries that the store of a core keeps or has promised (R294). -/
def State.chartsTaken (s : State) (core : Nat) : Nat :=
  s.chartsOn core none + (((s.core core).mq.filterMap (fun m => match m.op with
    | .chart e _ => if ((s.gang m.gang).chart? e).isNone then some (m.gang, e) else none
    | _ => none)).eraseDups).length

/-- CHART (R306). -/
def execChart (d a b : SReg) (s : State) : Out :=
  let va := s.me.s a
  let n := (s.me.s b).toNat
  let form : AccForm := { bytes := 256, align := 256, need := needR, wp := wpNone }
  let accept (s : State) : State := s.command d none
    (fun s => if 256 ≤ n || ((s.gangOf s.cur).chart? n |>.isNone) && !s.chartPending s.me.core s.me.gang n &&
        Config.chartStore ≤ s.chartsTaken s.me.core then some va else none)
    (fun _ => .chart n va)
  .next (s.withVa (.chart d a b) form va (fun s _ => accept s) accept)

/-- A chart entry holds no chart. -/
def State.clearChart (s : State) (gang e : Nat) : State :=
  s.setGang gang { s.gang gang with charts := (s.gang gang).charts.filter (fun c => c.1 != e) }

/-- CHART_FREE (R306): every earlier command that names the entry has read it at its acceptance; a CHART of the entry that has not
completed comes first. A number above 255 answers ERROR, as in CHART (DEDUCED, log entry 96). -/
def execChartFree (d b : SReg) (s : State) : Out :=
  let n := (s.me.s b).toNat
  .next (if s.cancelled s.cur then s.scalarResult d 1
    else if Config.matrixDepth ≤ (s.core s.me.core).mq.length then s
    else if 256 ≤ n then s.refuseCmd d 0
    else if s.chartPending s.me.core s.me.gang n then s.acceptCmd d (.chartFree n)
    else (s.clearChart s.me.gang n).scalarResult d 0)

/-- The operands of WLOAD are refused, with the chart as it stands (R307). -/
def wloadBad (c : Chart) (ra rb : W64) : Bool :=
  let k := fieldOf ra 16 11
  let f := c.fmt
  let unit := if f == .s4 || f == .n4 then 64 else 32
  let bits := match c.sparse with
    | 0 => 64 * k * f.bits
    | 1 => 64 * (k / 32) * c.nnz * f.bits
    | _ => fieldOf rb 32 32 * f.bits
  fieldOf ra 11 5 != 0 || fieldOf ra 27 37 != 0 || !multFmt f || k == 0 || 1024 < k ||
    ((blockLen f != 1 || c.sparse != 0) && (k % unit != 0 || (c.sparse != 2 && fieldOf rb 0 32 % unit != 0))) ||
    (c.sparse == 2 && fieldOf rb 32 32 == 0) || 32768 * 8 < bits

/-- WLOAD (R307). -/
def execWload (d a b : SReg) (s : State) : Out :=
  let ra := s.me.s a
  let rb := s.me.s b
  let e := fieldOf ra 0 8
  .next (s.command d (some e)
    (fun s => match (s.gangOf s.cur).chart? e with
      | none => some 0
      | some c => if !s.holdsEngine || wloadBad c ra rb then some c.va else none)
    (fun s => .wload e (((s.gangOf s.cur).chart? e).getD { words := [], va := 0 }) (fieldOf ra 8 3) (fieldOf ra 16 11)
      (fieldOf rb 0 32) (fieldOf rb 32 32)))

/-- The operands of an MMA are refused (R308). -/
def mmaBad (form : MmaForm) (ra rb : W64) : Bool :=
  let af := (chartFmt (fieldOf ra 8 5)).getD .none
  let scale := fieldOf ra 16 19
  let amask := fieldOf rb 0 19
  fieldOf ra 7 1 != 0 || fieldOf ra 13 3 != 0 || fieldOf ra 35 29 != 0 || fieldOf rb 19 45 != 0 || !multFmt af ||
    (af == .f64 && fieldOf ra 0 1 == 1) || scale % 16 != 0 || amask % 16 != 0 ||
    (if blockedFmt af then Config.spadBytes < scale + (if af == .n4 then 2304 else 2048) else scale != 0) ||
    (match form with
      | .dense => amask != 0
      | .ns => Config.spadBytes < amask + 32768
      | .bm => Config.spadBytes < amask + 8192)

/-- MMA in one of its forms (R308). -/
def State.mma (s : State) (form : MmaForm) (d a b : SReg) : State :=
  let ra := s.me.s a
  let rb := s.me.s b
  s.command d none (fun s => if !s.holdsEngine || mmaBad form ra rb then some 0 else none)
    (fun _ => .mma form (fieldOf ra 0 4) (fieldOf ra 4 3) ((chartFmt (fieldOf ra 8 5)).getD .none) (fieldOf ra 16 19) (fieldOf rb 0 19))

/-- MMA (R308). -/
def execMma (d a b : SReg) (s : State) : Out := .next (s.mma .dense d a b)

/-- MMA.NS (R308). -/
def execMmaNs (d a b : SReg) (s : State) : Out := .next (s.mma .ns d a b)

/-- MMA.BM (R308). -/
def execMmaBm (d a b : SReg) (s : State) : Out := .next (s.mma .bm d a b)

/-- MZERO (R309). -/
def execMzero (d a : SReg) (s : State) : Out :=
  let ra := s.me.s a
  .next (s.command d none (fun s => if !s.holdsEngine || fieldOf ra 16 48 != 0 then some 0 else none) (fun _ => .mzero (ra.setWidth 16)))

/-- MWAIT (R310): the commands that its gang had accepted when it issued. -/
def execMwait (d : SReg) (s : State) : Out :=
  let t := s.me
  let waits (n : Nat) : Bool := (s.core t.core).mq.any (fun m => m.gang == t.gang && m.id < n)
  let done (s : State) : State :=
    let g := s.gang t.gang
    ((s.setGang t.gang { g with mstat := Mstat.zero }).clearWait).scalarResult d g.mstat.word
  .next (match t.wait with
    | .mwait n => if waits n then s else done s
    | _ =>
      if s.cancelled s.cur then s.scalarResult d (BitVec.ofNat 64 (1 * 2 ^ 61))
      else if waits s.nextId then s.setMe { t with wait := .mwait s.nextId } else done s)

/-! ### FEED and DRAIN (R289, R311, R312) -/

/-- Bytes enter a row FIFO; those of a failed MMA are discarded (R308, R311). -/
def Matrix.push (x : Matrix) (row : Nat) (bs : List Byte) : Matrix :=
  let n := x.discard.get 0 row
  { x with fifos := x.fifos.set row (x.fifos.get [] row ++ bs.drop n), discard := x.discard.set row (n - bs.length) }

/-- FEED (R311). -/
def execFeed (r : Feed) (s : State) : Out :=
  .next (s.laneIssue r.vregs r.m (fun x s =>
    let t := s.me
    let c := s.core t.core
    let bs := ((threadsIn x).map (fun i => leBytes 4 (s.src32 s.cur i r.imm r.a).toNat)).flatten
    if !t.pinned then s.raiseLane cMatOwn 0 x
    else if 256 < (c.matrix.fifos.get [] t.lane).length + bs.length then s
    else (s.setCore t.core { c with matrix := c.matrix.push t.lane bs }).setMe t.laneAdvance))

/-- The columns that a thread of a DRAIN reads (R312). -/
def drainCols (r : Drain) (t : Nat) : List Nat :=
  match r.fmt with
  | .f16x2 | .bf16x2 => [2 * t, 2 * t + 1]
  | .e4m3 | .e5m2 => if t < 16 then [4 * t, 4 * t + 1, 4 * t + 2, 4 * t + 3] else []
  | _ => [(if r.h then 32 else 0) + t]

/-- What a thread of a DRAIN writes (R312): RoundF at the element's place in the tile. -/
def drainValue (r : Drain) (x : Matrix) (row : Nat) (seed : W32) (t : Nat) : Nat :=
  let wide := r.fmt == .f64
  let elem (j : Nat) : Nat := x.tileBits r.tile.toNat wide (64 * row + j)
  let out (j : Nat) : Nat := (floatFmt r.fmt).round r.rm r.sat (ftzOf r.ftz r.fmt) seed (64 * row + j) (fmtF32.decode (elem j))
  match r.fmt with
  | .f16x2 | .bf16x2 => pairOf (out (2 * t)) (out (2 * t + 1))
  | .e4m3 | .e5m2 => if t < 16 then ((List.range 4).map (fun b => out (4 * t + b) * 256 ^ b)).sum else 0
  | _ => elem ((if r.h then 32 else 0) + t)

/-- Tiles of a DRAIN. -/
def drainTiles (r : Drain) : List Nat := if r.fmt == .f64 then [r.tile.toNat, r.tile.toNat + 1] else [r.tile.toNat]

/-- `.clr`: the columns that were read become +0. -/
def drainClear (r : Drain) (x : W32) (row : Nat) (m : Matrix) : Matrix :=
  if r.clr then
    let cols := ((threadsIn x).map (drainCols r)).flatten
    (drainTiles r).foldl (fun m t => cols.foldl (fun m j => { m with tiles := m.tiles.set (4096 * t + 64 * row + j) 0 }) m) m
  else m

/-- DRAIN (R312): it waits for its tile (R93, R304). -/
def execDrain (r : Drain) (s : State) : Out :=
  .next (s.laneIssue r.vregs r.m (fun x s =>
    let t := s.me
    let c := s.core t.core
    let seed := (((s.gang t.gang).chart? r.chart.toNat).map (·.seed)).getD 0
    if !t.pinned then s.raiseLane cMatOwn 0 x
    else if s.tileBusy s.cur (drainTiles r) then s
    else
      (s.setCore t.core { c with matrix := drainClear r x t.lane c.matrix }).laneWrite x r.d.toNat (if r.fmt == .f64 then 2 else 1)
        (fun i => drainValue r c.matrix t.lane seed i)))

/-! ### Steps of the engine -/

/-- `chart.free` commands with no CHART of their entry before them take effect (R306). -/
def State.settleFrees (s : State) (core : Nat) : Nat → State
  | 0 => s
  | n + 1 =>
    let q := (s.core core).mq
    let due (m : MCmd) : Option Nat := match m.op with
      | .chartFree e => if (q.takeWhile (fun y => y.id != m.id)).any (fun y => y.gang == m.gang && (match y.op with | .chart e' _ => e == e' | _ => false))
          then none else some e
      | _ => none
    match q.find? (fun m => (due m).isSome) with
    | some m => ((s.clearChart m.gang ((due m).getD 0)).dropCmd core m.id).settleFrees core n
    | none => s

/-- The chart of a descriptor's bytes. -/
def chartOf (va : W64) (v : Nat) : Chart := { words := (List.range 32).map (fun i => BitVec.ofNat 64 (v / 2 ^ (64 * i))), va }

/-- An access of the matrix engine for a command: the core's translations (R183). -/
def cmdAccess (core : Nat) (m : MCmd) : EngAccess := { core, gang := m.gang, strand := m.strand, units := [4], id := m.id, thr := 0 }

/-- CHART_DESCRIPTOR_READ (R306): the oldest CHART of a core reads its descriptor. -/
def execChartDescriptorRead (core : Nat) (s : State) : Out :=
  match s.firstCmd core MOp.isChart with
  | none => .next s
  | some m =>
    match m.op with
    | .chart e va =>
      let done (s : State) : Out := .next ((s.dropCmd core m.id).settleFrees core Config.matrixDepth)
      let fails (s : State) : Out := done ((s.clearChart m.gang e).matrixError core m 1 va 0 0 e)
      if !s.storesDone m.strand m.bound then .next s
      else
        let r := s.engineRead (cmdAccess core m) 256 va
        let t : State := { r.2.dropAsks (fun _ who => who == .command m.id) with burst := s.burst }
        match r.1 with
        | .ok v =>
          let c := chartOf va v
          if c.wellFormed then done (t.setGang m.gang { t.gang m.gang with charts := (t.gang m.gang).charts.set e c }) else fails t
        | .wait => .next (s.waitingAs r.2)
        | _ => fails t
    | _ => .next s

/-- One read of a WLOAD: the place it fills, its address (none where the zero of the format stands), bytes, and the field taken. -/
structure PanelRead where
  pos : Nat
  va : Option W64
  bytes : Nat
  shift : Nat
  width : Nat
  zero : Nat
  deriving DecidableEq, Repr

/-- The read of a chart element. -/
def Chart.elemRead (c : Chart) (pos : Nat) (idx : List Nat) : PanelRead :=
  let e := c.offset idx
  { pos, va := if c.inRange idx then some (c.addr e) else none, bytes := elemBytes c.fmt,
    shift := if isFmt4 c.fmt && e % 2 != 0 then 4 else 0, width := c.fmt.bits, zero := zeroCode c.fmt }

/-- The element reads of a panel, by their place in the slot (R295, R307). -/
def wloadElems (c : Chart) (k k0 j0 : Nat) : List PanelRead :=
  match c.sparse with
  | 0 =>
    let p := passK c.fmt false
    ((List.range ((k + p - 1) / p)).map (fun b => ((List.range 64).map (fun j => (List.range (min p (k - b * p))).map (fun i =>
      c.elemRead ((b * 64 + j) * p + i) [k0 + b * p + i, j0 + j]))).flatten)).flatten
  | 1 =>
    ((List.range (k / 32)).map (fun g => ((List.range 64).map (fun j => (List.range c.nnz).map (fun m =>
      c.elemRead ((g * 64 + j) * c.nnz + m) [(k0 / 32 + g) * c.nnz + m, j0 + j]))).flatten)).flatten
  | _ => (List.range j0).map (fun v => c.elemRead v [k0 + v])

/-- The blocks of a panel: place, block of the chart, column, and whether it is in range. -/
def wloadBlocks (c : Chart) (k k0 j0 : Nat) : List (Nat × Nat × Nat × Bool) :=
  let l := blockLen c.fmt
  ((List.range (k / l)).map (fun n => (List.range 64).map (fun j =>
    let b := k0 / l + n
    let first := if c.sparse == 1 then b * l / 32 * c.nnz else b * l
    (n * 64 + j, b, j0 + j, c.inRange [first, j0 + j])))).flatten

/-- The reads of the block scales, and of the superscales (R292). -/
def wloadScales (c : Chart) (k k0 j0 : Nat) (super : Bool) : List PanelRead :=
  if !blockedFmt c.fmt || (super && c.fmt != .n4) then []
  else (wloadBlocks c k k0 j0).map (fun b =>
    let va := if super then c.superVa + BitVec.ofNat 64 (4 * (b.2.2.1 * c.ssst + b.2.1 / 256)) else c.scaleVa + BitVec.ofNat 64 (b.2.2.1 * c.scst + b.2.1)
    { pos := b.1, va := if b.2.2.2 then some va else none, bytes := if super then 4 else 1, shift := 0, width := if super then 32 else 8, zero := 0 })

/-- How the reads of a panel end: their values by place, and the first that failed, where one has. -/
inductive PanelRes where
  | got (vals : List (Nat × Nat))
  | stop (vals : List (Nat × Nat)) (r : EngRes) (va : W64)
  deriving DecidableEq, Repr

/-- The number of a read in `Matrix.panel`: of kind 0 an element, 1 a block scale, 2 a superscale. -/
def panelKey (kind pos : Nat) : Nat := 2 ^ 20 * kind + pos

/-- Reads of a kind in order, up to the first that fails; those performed ahead of their turn have their values (R187). -/
def State.readPanel (s : State) (core : Nat) (m : MCmd) (kind : Nat) (rs : List PanelRead) : PanelRes × State :=
  let ahead := (s.core core).matrix.panel
  let r := rs.foldl (fun (r : PanelRes × State) x =>
    match r.1 with
    | .stop _ _ _ => r
    | .got vals =>
      match ahead.find? (fun e => e.1 == panelKey kind x.pos), x.va with
      | some e, _ => (.got ((x.pos, e.2) :: vals), r.2)
      | none, none => (.got ((x.pos, x.zero) :: vals), r.2)
      | none, some va =>
        match r.2.engineRead (cmdAccess core m) x.bytes va with
        | (.ok v, s) => (.got ((x.pos, v / 2 ^ x.shift % 2 ^ x.width) :: vals), s)
        | (.wait, s) => (.stop vals .wait va, r.2.waitingAs s)
        | (e, s) => (.stop vals e va, s)) (.got [], s)
  match r.1 with
  | .got vals => (.got vals.reverse, r.2)
  | e => (e, r.2)

/-- The values of some reads of a kind are kept for a WLOAD that waits: its slot is invalid from then on (R307). -/
def State.keepPanel (s : State) (core w kind : Nat) (vals : List (Nat × Nat)) : State :=
  let x := (s.core core).matrix
  let fresh := vals.filter (fun v => !x.panel.any (fun e => e.1 == panelKey kind v.1))
  if fresh.isEmpty then s
  else s.setCore core { s.core core with matrix := { x with
    slots := x.slots.set w { x.slots.get Slot.zero w with valid := false }, panel := x.panel ++ fresh.map (fun v => (panelKey kind v.1, v.2)) } }

/-- Values by place, places rising. -/
def packVals (w : Nat) (vs : List (Nat × Nat)) : SMap w := (vs.map (fun e => (e.1, BitVec.ofNat w e.2))).filter (fun e => e.2 != 0)

/-- A translation fault of matrix operand fetch kills the gang (R313); the step waits while the relaunch has no room. -/
def State.operandFault (s : State) (core : Nat) (m : MCmd) (xkind : Nat) (va : W64) : Option State :=
  (s.log (core / 32) ({ kind := 0x11, xkind, va, die := core / 32, core := core % 32, pc := m.pc : Report }.ofGang (s.gang m.gang))).killGang m.gang

/-- A WLOAD in its slot. -/
def State.fillSlot (s : State) (core : Nat) (w : Nat) (sl : Slot) : State :=
  let c := s.core core
  s.setCore core { c with matrix := { c.matrix with slots := c.matrix.slots.set w sl, panel := [] } }

/-- The reads of a WLOAD, of one kind. -/
def wloadReads (c : Chart) (k k0 j0 kind : Nat) : List PanelRead :=
  if kind == 0 then wloadElems c k k0 j0 else wloadScales c k k0 j0 (kind == 2)

/-- The oldest WLOAD of a core reads one element, scale or superscale of its panel ahead of the others (R187, R307): its slot is invalid from then
on. A read that does not answer is left to the WLOAD's end. -/
def State.panelAhead (s : State) (core position : Nat) : State :=
  match s.firstCmd core MOp.isWload with
  | none => s
  | some m =>
    match m.op with
    | .wload _ c w k k0 j0 =>
      if !s.slotFree core m || !s.storesDone m.strand m.bound || (s.core core).matrix.panel.any (fun e => e.1 == position) then s
      else match (wloadReads c k k0 j0 (position / 2 ^ 20)).find? (fun x => x.pos == position % 2 ^ 20) with
        | none => s
        | some x => match s.readPanel core m (position / 2 ^ 20) [x] with
          | (.got vals, t) => ({ t.keepPanel core w (position / 2 ^ 20) vals with burst := s.burst } : State)
          | (.stop _ .wait _, t) => t
          | _ => s
    | _ => s

/-- WLOAD_EXECUTE (R303, R307, R313): the oldest WLOAD of a core reads its panel. -/
def execWloadExecute (core : Nat) (s : State) : Out :=
  match s.firstCmd core MOp.isWload with
  | none => .next s
  | some m =>
    match m.op with
    | .wload e c w k k0 j0 =>
      if !s.slotFree core m || !s.storesDone m.strand m.bound then .next s
      else
        let old := (s.core core).matrix.slots.get Slot.zero w
        let spent (t : State) : State := { t.dropAsks (fun _ who => who == .command m.id) with burst := s.burst }
        let stop (t : State) (kind : Nat) (vals : List (Nat × Nat)) (r : EngRes) (va : W64) : Out := match r with
          | .fault x => match (spent t).operandFault core m x va with
            | some t => .next t
            | none => .next (spent t)
          | .wait => .next ({ t.keepPanel core w kind vals with burst := s.burst } : State)
          | _ => .next ((((spent t).fillSlot core w { old with valid := false }).matrixError core m 5 va 0 w e).dropCmd core m.id)
        match s.readPanel core m 0 (wloadElems c k k0 j0) with
        | (.stop vs r va, t) => stop t 0 vs r va
        | (.got es, t) =>
          match t.readPanel core m 1 (wloadScales c k k0 j0 false) with
          | (.stop vs r va, t) => stop (t.keepPanel core w 0 es) 1 vs r va
          | (.got ss, t) =>
            match t.readPanel core m 2 (wloadScales c k k0 j0 true) with
            | (.stop vs r va, t) => stop ((t.keepPanel core w 0 es).keepPanel core w 1 ss) 2 vs r va
            | (.got us, t) =>
              let sl : Slot := { valid := true, fmt := c.fmt, sparse := c.sparse, n := c.nnz, k, v := if c.sparse == 2 then j0 else 0,
                                 elems := packVals 64 es, scales := packVals 8 ss, supers := packVals 32 us }
              .next (((spent t).fillSlot core w sl).dropCmd core m.id)
    | _ => .next s

/-- A slot serves an MMA: valid, a pair of R141, the form its SPARSE (R308). -/
def slotServes (form : MmaForm) (af : Fmt) (sl : Slot) : Bool :=
  sl.valid && multPair af sl.fmt && (match form with | .dense => sl.sparse == 0 | .ns => sl.sparse == 1 | .bm => sl.sparse == 2) &&
    !(form != .dense && (af == .f64 || af == .f32))

/-- An MMA starts: SLOTBAD, or its chains (R143, R308). -/
def State.startMma (s : State) (core : Nat) (m : MCmd) (form : MmaForm) (t w : Nat) (af : Fmt) : State :=
  let c := s.core core
  if !slotServes form af (c.matrix.slots.get Slot.zero w) then s.mmaFail core m 2 0
  else s.setCore core { c with matrix := { c.matrix with
    run := some { pass := 0, used := 0, c0 := packWords (fun n => c.matrix.tileBits t (af == .f64) n), c1 := [] }, seen := [] } }

/-- Every row FIFO holds the bytes of a pass (R302). -/
def Matrix.rowsReady (x : Matrix) (n : Nat) : Bool := (List.range 64).all (fun i => n ≤ (x.fifos.get [] i).length)

/-- The engine's wait for a granule starts, where the port's table has room (R169, R299). -/
def State.awaitGranule (s : State) (core g : Nat) : State :=
  let c := s.core core
  if c.matrix.await == some g || Config.waitTable ≤ s.waitCount core then s
  else s.setCore core { c with matrix := { c.matrix with await := some g, waited := 0 } }

/-- The next pass of the MMA in progress (R302, R308). Bytes that can no longer come end the MMA with its gang (R315). -/
def State.passMma (s : State) (core : Nat) (m : MCmd) (form : MmaForm) (w : Nat) (af : Fmt) (ascale amask : Nat) (r : MmaRun) : State :=
  let x := (s.core core).matrix
  let sl := x.slots.get Slot.zero w
  let nb := rowBytes af (min (passK af (form != .dense)) (sl.k - r.pass * passK af (form != .dense)))
  if passes af form sl.k ≤ r.pass then s
  else if !x.rowsReady nb then
    if (s.strandsOf m.gang).isEmpty then (s.setCore core { s.core core with matrix := x.idle }).dropCmd core m.id else s
  else if !s.storesDone m.strand m.bound then s
  else match s.readGranules core m (passGranules core form af sl ascale amask r.pass) with
    | (.refused g, s) => s.mmaFail core m 5 (apertureVa (spadOff (16 * g)))
    | (.await g, s) => s.awaitGranule core g
    | (.done, s) =>
      let x := (s.core core).matrix
      match x.badMeta core form af sl amask r with
      | some va => s.mmaFail core m 3 va
      | none => s.setCore core { s.core core with matrix := x.doPass core form af sl ascale amask r }

/-- The MMA in progress reads one granule of its next pass ahead of the others, where it is full (R187, R299); the wait for another goes on. -/
def State.granuleAhead (s : State) (core i : Nat) : State :=
  match s.firstTile core with
  | none => s
  | some m =>
    let x := (s.core core).matrix
    match m.op, x.run with
    | .mma form _ w af ascale amask, some r =>
      let sl := x.slots.get Slot.zero w
      match (if passes af form sl.k ≤ r.pass || !s.storesDone m.strand m.bound then none else (passGranules core form af sl ascale amask r.pass)[i]?) with
      | none => s
      | some g => match s.readGranules core m [g] with
        | (.done, t) => t.setCore core { t.core core with matrix := { (t.core core).matrix with await := x.await, waited := x.waited } }
        | _ => s
    | _, _ => s

/-- A read of a core's matrix engine ahead of the others (R187): of a WLOAD's panel, or from 3 · 2^20 on of a pass's granules. -/
def State.readAhead (s : State) (core position : Nat) : State :=
  if position < 3 * 2 ^ 20 then s.panelAhead core position else s.granuleAhead core (position - 3 * 2 ^ 20)

/-- MMA_PASS (R302 to R304, R308): the oldest MMA of a core starts, or takes its next pass. -/
def execMmaPass (core : Nat) (s : State) : Out :=
  match s.firstTile core with
  | none => .next s
  | some m =>
    match m.op with
    | .mma form t w af ascale amask =>
      .next (match (s.core core).matrix.run with
        | some r => s.passMma core m form w af ascale amask r
        | none =>
          if !s.slotFree core m || s.drainAhead core m then s
          else
            let s := s.startMma core m form t w af
            match (s.core core).matrix.run with
            | some r => s.passMma core m form w af ascale amask r
            | none => s)
    | _ => .next s

/-- MMA_CLOSE (R143, R302, R308): the chains close and the tile is written at once. -/
def execMmaClose (core : Nat) (s : State) : Out :=
  match s.firstTile core with
  | none => .next s
  | some m =>
    match m.op, (s.core core).matrix.run with
    | .mma form t w af _ amask, some r =>
      let c := s.core core
      let sl := c.matrix.slots.get Slot.zero w
      if r.pass < passes af form sl.k then .next s
      else if form == .bm && r.used != sl.v then .next (s.mmaFail core m 3 (apertureVa amask))
      else
        let f := chainFmt af
        let out := packWords (fun n => f.arith .rne false ((f.decode (r.c0.get n).toNat).add .rne (f.decode (r.c1.get n).toNat)))
        let x := c.matrix.setTile t (fun n => (out.get n).setWidth 32)
        let x := if af == .f64 then x.setTile (t + 1) (fun n => BitVec.ofNat 32 ((out.get n).toNat / 2 ^ 32)) else x
        .next ((s.setCore core { c with matrix := x.idle }).dropCmd core m.id)
    | _, _ => .next s

/-- MZERO_EXECUTE (R303, R304, R309). -/
def execMzeroExecute (core : Nat) (s : State) : Out :=
  match s.firstTile core with
  | none => .next s
  | some m =>
    match m.op with
    | .mzero mask =>
      if s.drainAhead core m then .next s
      else
        let c := s.core core
        .next ((s.setCore core { c with matrix := (MOp.mzero mask).tiles.foldl (fun x t => x.setTile t (fun _ => 0)) c.matrix }).dropCmd core m.id)
    | _ => .next s

/-- MATRIX_WATCHDOG (R315): the wait for a granule has lasted 2^20 cycles. -/
def execMatrixWatchdog (core : Nat) (s : State) : Out :=
  let x := (s.core core).matrix
  match s.firstTile core, x.await with
  | some m, some g => if 2 ^ 20 ≤ x.waited then .next (s.mmaFail core m 4 (apertureVa (spadOff (16 * g)))) else .next s
  | _, _ => .next s

end Sys2Proof.Machine
end

