-- ==== Sys2Proof/Machine/Auto.lean ====
section
/-! DEFINITION. The step of the hardware that comes next when no turn is given (log entry 3): the first of a list that has
something to do. -/

namespace Sys2Proof.Machine

open Sys2Proof

/-- A step, where a condition holds. -/
def whenDue (c : Bool) (i : Instr) : Option Instr := if c then some i else none

/-- A core of a list, by a condition. -/
def coreDue (cores : List Nat) (p : Nat → Bool) (i : Nat → Instr) : Option Instr := (cores.find? p).map i

/-! ### Requests and answers -/

/-- The next step of a request (R163, R189, R386). A bin goes when nothing else is left to do (R163). -/
def State.flightDue (s : State) (f : Flight) : Option Instr :=
  let on := if f.agent.isSome then State.answerWith (fun s _ => s) s f != s else s.clockOn (s.flightCore f)
  match f.stage with
  | .reply => whenDue on (.loadReply f.id)
  | .ack => whenDue on (.writeAcknowledgement f.id)
  | .err => whenDue on (.errorResponse f.id)
  | _ => whenDue (f.stage.goesOn && s.arrive f != s) (.requestAtHomeSlice f.id)

/-- An open entry of a window, or a bin, leaves. -/
def State.entryDue (s : State) : Option Instr :=
  s.flights.findSome? (fun f =>
    match f.stage with
    | .window => some (.coalescingEntrySend f.id)
    | .bin => some (.binSend (s.flightCore f / 32) (s.homeKey f.key))
    | _ => none)

/-- A line that another core waits for (R208). -/
def State.ownedDue (s : State) : Option Instr :=
  s.cores.findSome? (fun c => (c.2.l1.find? (fun l => s.recallDue c.1 l.line)).map (fun l => .lineRecall c.1 l.line))

/-! ### Dies -/

/-- An invalidation, a refresh window, a held entry (R167, R198, R351). -/
def State.dieDue (s : State) (n : Nat) (d : Die) : Option Instr :=
  ((d.invals.findIdx? d.mayApply).map (fun i => .invalidationApply n i)) <|>
  (((List.range 32).find? (fun b => d.banks.getLsbD b && d.inWindow b != d.refreshing.contains b)).map (fun b => .edramRefresh n b)) <|>
  whenDue (!d.held.isEmpty && (s.heldWrite n [] d.unwritten).isSome) (.faultQueueHeldWrite n)

/-! ### Strands and gangs -/

/-- A walk, a line of instructions, a park to be tried again, an owner to be acted on, a timeout (R183, R236, R276, R368, R396). -/
def State.strandDue (s : State) (k : Nat) (t : Strand) : Option Instr :=
  let walks : Wait → Bool
    | .walk _ _ _ => true
    | _ => false
  let late : Wait → Bool
    | .wfe _ _ _ 0 _ => true
    | _ => false
  if !t.live then none
  else whenDue (walks t.laneWait) (.pageWalk (2 * k + 1)) <|> whenDue (walks t.wait) (.pageWalk (2 * k)) <|>
    whenDue (s.fetchDue k true) (.fetchMissLineArrival k true) <|> whenDue (s.fetchDue k false) (.fetchMissLineArrival k false) <|>
    whenDue (t.wait == .refused) (.lockParkReissue k) <|> whenDue t.owner.isSome (.helping k) <|> whenDue (late t.wait) (.wfeTimeout k)

/-- Retirement, a save, a deadline (R86, R263, R356). A slice of 0 changes nothing but a pre-emption. -/
def State.gangDue (s : State) (g : Nat) (x : Gang) : Option Instr :=
  let saves := match x.place with
    | .collecting cause => x.live && !(s.strandsOf g).isEmpty && s.collected g && (s.finishSave g cause).isSome
    | _ => false
  whenDue (s.retireDue g) (.taskRetire g) <|> whenDue saves (.contextSave g) <|>
    whenDue (s.deadlineDue g && (s.slice x.vd != 0 || (s.competitor g && (s.preemptStack (s.rootOf g 8)).isSome))) (.deadlineExpiry g)

/-! ### Engines -/

/-- The oldest CHART can be answered (R306). -/
def State.chartDue (s : State) (core : Nat) : Bool :=
  match s.firstCmd core MOp.isChart with
  | some m => match m.op with
    | .chart _ va => s.storesDone m.strand m.bound && (let r := s.engineRead (cmdAccess core m) 256 va; r.1 != .wait || s.waitingAs r.2 != s)
    | _ => false
  | none => false

/-- The oldest WLOAD can go on (R303, R307, R313). -/
def State.wloadDue (s : State) (core : Nat) : Bool :=
  (s.firstCmd core MOp.isWload).isSome && (match execWloadExecute core s with
    | .next t => t != s
    | _ => false)

/-- The step of the oldest MMA or MZERO (R302 to R304, R308, R309, R315). -/
def State.tileDue (s : State) (core : Nat) : Option Instr :=
  match s.firstTile core with
  | none => none
  | some m =>
    let x := (s.core core).matrix
    match m.op, x.run with
    | .mzero _, _ => whenDue (!s.drainAhead core m) (.mzeroExecute core)
    | .mma form _ w af ascale amask, some r =>
      let sl := x.slots.get Slot.zero w
      let nb := rowBytes af (min (passK af (form != .dense)) (sl.k - r.pass * passK af (form != .dense)))
      if passes af form sl.k ≤ r.pass then some (.mmaClose core)
      else if x.await.isSome && 2 ^ 20 ≤ x.waited then some (.matrixWatchdog core)
      else if !x.rowsReady nb then whenDue (s.strandsOf m.gang).isEmpty (.mmaPass core)
      else whenDue (s.storesDone m.strand m.bound && match s.readGranules core m (passGranules core form af sl ascale amask r.pass) with
        | (.await g, t) => (t.core core).matrix.seen.length != x.seen.length ||
            ((t.core core).matrix.await != some g && t.waitCount core < Config.waitTable)
        | _ => true) (.mmaPass core)
    | .mma _ _ _ _ _ _, none => whenDue (s.slotFree core m && !s.drainAhead core m) (.mmaPass core)
    | _, _ => none

/-- The steps of a core's matrix queue. -/
def State.matrixDue (s : State) (core : Nat) (c : Core) : Option Instr :=
  if c.mq.isEmpty then none
  else whenDue (s.chartDue core) (.chartDescriptorRead core) <|> whenDue (s.wloadDue core) (.wloadExecute core) <|> s.tileDue core

/-- The step of a command of a copy engine (R317, R319): of a chunk that can go on. -/
def State.chunkDue (s : State) (die e slot : Nat) : Option Instr :=
  ((List.range 5).find? (fun i => s.chunkStep die e slot i != s)).map (fun i => .copyChunkComplete die e slot i)

/-- The steps of a die's copy engines. -/
def State.copyDue (s : State) (die : Nat) (d : Die) : Option Instr :=
  d.engines.findSome? (fun e => (indexed e.2).findSome? (fun c => s.chunkDue die e.1 c.1)) <|>
  (match s.copyOrder die with
    | c :: _ => ((List.range 8).find? (fun e => (s.engine die e).length < 2)).map (fun e => .copyCommandStart die e c.core)
    | [] => none)

/-! ### Jobs and queues -/

/-- Entries of queues move down, and cores start gangs (R256, R257). -/
def State.queueDue (s : State) : Option Instr :=
  coreDue (s.cores.map (·.1)) (fun c => (s.dispatch c).isSome) .dispatch <|>
  ((s.clusters.filter (fun c => !c.2.queue.isEmpty)).findSome? (fun c =>
    coreDue [2 * c.1, 2 * c.1 + 1] (fun k => s.coreHungry k && (s.core k).queue.length + (highestEight c.2.queue).length ≤ Config.coreQueue)
      (fun k => .queueBlockMove (.coreTake k)))) <|>
  ((s.dies.filter (fun d => !d.2.queue.isEmpty)).findSome? (fun d =>
    coreDue ((List.range 16).map (fun i => 16 * d.1 + i))
      (fun k => (s.cluster k).queue.isEmpty && (s.coreHungry (2 * k) || s.coreHungry (2 * k + 1)))
      (fun k => .queueBlockMove (.clusterTake k)))) <|>
  (if s.dies.any (fun d => 64 < d.2.queue.length) then
    ((s.dies.map (·.1)).find? (fun d => (s.die d).queue.isEmpty && (List.range 32).any (fun c => s.coreHungry (32 * d + c)) &&
      (List.range 9).any (fun x => x != d && 64 < (s.die x).queue.length && !(s.stealable x d).isEmpty))).map .dieQueueSteal
  else none)

/-- A LAUNCH write to be checked, entries that wait for a die queue, a cancel state on its way (R253, R282, R381). -/
def State.jobDue (s : State) : Option Instr :=
  (s.launchOrder.head?.map .launchCheck) <|>
  s.jobs.findSome? (fun j =>
    whenDue (j.2.live && (match j.2.left.head? with
        | some e => (s.die e.2).queue.length < Config.dieQueue
        | none => false)) (.launchCheck (j.1 / 65536)) <|>
      (if j.2.cancelling then ((s.cancelUnits j.1).find? (fun u => !j.2.reached.contains u)).map (fun u => .cancelStateArrival j.1 u) else none))

/-- A retirement that waited for room (R264). -/
def State.retiringDue (s : State) : Option Instr :=
  (s.retiring.find? (fun r => match execTaskRetire r.key s with | .next t => t != s | _ => false)).map (fun r => .taskRetire r.key)

/-- Bins whose timers have run out (R271). -/
def State.binDue (s : State) : Option Instr :=
  (s.bins.find? (fun b => binFill (s.binWord b.1 0) == 0 ||
    (s.binWord b.1 3 ≤ (s.die (s.homeOf b.1).1).refcnt.toNat && (s.launchBatch b.2 b.1).isSome))).map (fun b => .binTimerExpiry b.1)

/-! ### Management -/

/-- The command that a busy mailbox is to perform, when it is its turn; a halt operation, when its collection has ended (R392). -/
def State.boxDue (s : State) (fn : Nat) (b : Mailbox) : Option Instr :=
  let code := fieldOf b.doorbell 48 16
  let req := b.request (fieldOf b.doorbell 0 32)
  let w := leNat (req.take 8)
  if b.state != 1 || !s.boxTurn fn code then none
  else match code with
    | 0x01 => some (.attestationReport fn b.seq req)
    | 0x02 => some (.deviceCertificate fn b.seq)
    | 0x10 => some (.stageFirmwareImage fn b.seq req)
    | 0x11 => some (.commitStagedImage fn b.seq)
    | 0x20 => some (.readFenceList fn b.seq)
    | 0x21 => some (.fenceUnit fn b.seq (BitVec.ofNat 8 (bitsOf w 56 8)) (bitsOf w 0 56))
    | 0x30 =>
      let vd := bitsOf w 16 9
      let h := bitsOf w 32 32
      match s.mgmtHalt vd h (w % 4) with
      | .busy t => if t == s then none else some (.haltOperation fn b.seq (BitVec.ofNat 32 h) vd (BitVec.ofNat 2 w))
      | _ => some (.haltOperation fn b.seq (BitVec.ofNat 32 h) vd (BitVec.ofNat 2 w))
    | 0x40 => some (.telemetry fn b.seq)
    | _ => none

/-- A partition reset ends, or the command of a mailbox is performed (R376, R392). -/
def State.mgmtDue (s : State) : Option Instr :=
  ((s.parts.find? (fun p => p.2.rbusy)).map (fun p => .partitionResetComplete p.1)) <|>
  s.mgmt.boxes.findSome? (fun b => s.boxDue b.1 b.2)

/-- The step that the hardware takes next, if one can be taken. -/
def State.autoEvent (s : State) : Option Instr :=
  s.flights.findSome? s.flightDue <|>
  s.dies.findSome? (fun d => s.dieDue d.1 d.2) <|>
  s.ownedDue <|>
  s.strands.findSome? (fun t => s.strandDue t.1 t.2) <|>
  whenDue (!s.msgs.isEmpty) (.messageArrival 0) <|>
  s.cores.findSome? (fun c => s.matrixDue c.1 c.2) <|>
  s.dies.findSome? (fun d => s.copyDue d.1 d.2) <|>
  s.entryDue <|>
  s.gangs.findSome? (fun g => s.gangDue g.1 g.2) <|>
  s.retiringDue <|>
  s.binDue <|>
  s.jobDue <|>
  s.queueDue <|>
  s.mgmtDue

end Sys2Proof.Machine
end

