-- ==== Sys2Proof/Machine/Branching.lean ====
section
/-! DEFINITION. Structured control of the lanes: IF, ELSE, ENDIF, LOOP, ENDLOOP, BRK, CONT (R111 to R117). -/

namespace Sys2Proof.Machine

open Sys2Proof

/-- Every counter replaced (R111). -/
def Strand.mapNest (t : Strand) (f : Nat → Nat → Nat) : Strand :=
  { t with nest := (List.range 32).foldl (fun m i => m.set i (BitVec.ofNat 8 (f i (t.nest.get i).toNat))) t.nest }

/-- E (R111). -/
def Strand.depth (t : Strand) : Nat := stackDepth t.stack

/-- cond(t) (R111, R45). -/
def Strand.cond (t : Strand) (m : Mask) (i : Nat) : Bool := (t.selects m).getLsbD i

/-- Slots before a lane PC. -/
def slotIndex (p : W64) : Nat := p.toNat / 64 * 5 + p.toNat % 64 / 12

/-- A control instruction: the illegal-nesting trap, or its effect on the strand (R112, R116). -/
def State.control (s : State) (trap : Bool) (t : Strand) : Out :=
  .next (if trap then s.raiseLane cNest 0 0xFFFFFFFF else s.setMe t)

/-- IF (R113). -/
def execIfm (m : Mask) (s : State) : Out :=
  let t := s.me
  s.control (255 < t.depth + 1)
    ({ t.mapNest (fun i c => if 0 < c then c + 1 else if t.cond m i then 0 else 1) with stack := .ifE false :: t.stack } : Strand).laneAdvance

/-- ELSE (R113). -/
def execElsem (s : State) : Out :=
  let t := s.me
  match t.stack with
  | .ifE false :: rest =>
    s.control false ({ t.mapNest (fun _ c => if c = 0 then 1 else if c = 1 then 0 else c) with stack := .ifE true :: rest } : Strand).laneAdvance
  | _ => s.control true t

/-- ENDIF (R113). -/
def execEndif (s : State) : Out :=
  let t := s.me
  match t.stack with
  | .ifE _ :: rest => s.control false ({ t.mapNest (fun _ c => c - 1) with stack := rest } : Strand).laneAdvance
  | _ => s.control true t

/-- LOOP (R114): the run must hold the slots to the matching ENDLOOP (R76). -/
def execLoop (imm : W32) (s : State) : Out :=
  let t := s.me
  let left := match t.runs with | [] => 0 | r :: _ => r.left
  s.control (255 < t.depth + 2 || 16 ≤ (t.stack.filter (·.isLoop)).length || imm.toNat < 2 || left < imm.toNat)
    ({ t.mapNest (fun _ c => if 0 < c then c + 2 else c) with stack := .loopE t.lanePc imm :: t.stack, loopBuf := [] } : Strand).laneAdvance

/-- The lane PC goes back to the slot after a LOOP; no count is consumed (R76, R114). -/
def Strand.iterate (t : Strand) (pc : W64) (imm : Nat) : Strand :=
  match t.runs with
  | [] => t
  | r :: rs => { t with runs := { r with pc := nextLanePc pc, left := r.left + imm - 2 } :: rs, redo := none }

/-- ENDLOOP (R114). -/
def execEndloop (imm : W32) (s : State) : Out :=
  let t := s.me
  match t.stack with
  | .loopE pc n :: rest =>
    let trap := imm != n || slotIndex t.lanePc + 1 != slotIndex pc + imm.toNat
    let u := t.mapNest (fun _ c => if c = 1 then 0 else c)
    s.control trap
      (if u.activeSet != 0 then u.iterate pc imm.toNat
      else ({ u.mapNest (fun _ c => c - 2) with stack := rest, loopBuf := [] } : Strand).laneAdvance)
  | _ => s.control true t

/-- The IF entries above the innermost LOOP (R111). -/
def Strand.relDepth (t : Strand) : Nat := (t.stack.takeWhile (fun c => !c.isLoop)).length

/-- Active threads whose condition holds take a counter (R115). -/
def State.leaveLoop (s : State) (m : Mask) (n : Nat) : Out :=
  let t := s.me
  s.control (!t.stack.any (·.isLoop)) (t.mapNest (fun i c => if c = 0 && t.cond m i then t.relDepth + n else c)).laneAdvance

/-- BRK (R115). -/
def execBrk (m : Mask) (s : State) : Out := s.leaveLoop m 2
/-- CONT (R115). -/
def execCont (m : Mask) (s : State) : Out := s.leaveLoop m 1

end Sys2Proof.Machine
end

