-- ==== Sys2Proof/Machine/Bringup.lean ====
section
/-! DEFINITION. Package reset and bring-up (R372, R373, R390, R393), and errors that ECC finds (R27, R352). -/

namespace Sys2Proof.Machine

open Sys2Proof

/-! ### Package reset -/

/-- A unit of the fence list is out of use after bring-up (R373). -/
def State.applyFence (s : State) (w : W64) : State :=
  let u := fieldOf w 0 56
  match fieldOf w 56 8 with
  | 1 => if u < 9 then s.setDie u { s.die u with fenced := true } else s
  | 2 => if u < 144 then s.setDie (u / 16) { s.die (u / 16) with cores := clearBits (s.die (u / 16)).cores [2 * (u % 16), 2 * (u % 16) + 1] } else s
  | 3 => if u < 288 then s.setDie (u / 32) { s.die (u / 32) with cores := clearBits (s.die (u / 32)).cores [u % 32] } else s
  | 4 => if u < 96 then
      let d := (stackHome (u / 8)).1
      s.setDie d { s.die d with hbmg := clearBits (s.die d).hbmg [groupBit (u / 8) (u % 8)] } else s
  | 5 => if u < 144 then s.setDie (u / 16) { s.die (u / 16) with slices := clearBits (s.die (u / 16)).slices [u % 16] } else s
  | _ => s

/-- A unit that fails its training or test is out of use (R393); an eDRAM bank leaves BANKS (log entry 45). -/
def State.applyDefect (s : State) (w : W64) : State :=
  let u := fieldOf w 0 56
  if fieldOf w 56 8 == 6 && u < 288 then s.setDie (u / 32) { s.die (u / 32) with banks := clearBits (s.die (u / 32)).banks [u % 32] }
  else s.applyFence w

/-- The firmware that runs: the committed image if it is accepted, else the previous one (R390). -/
def Mgmt.boot (m : Mgmt) : Mgmt :=
  { Mgmt.reset with
    running := (match m.committed with | some i => if m.accepts i then some i else m.running | none => m.running),
    committed := m.committed, counter := m.counter, fenceList := m.fenceList }

/-- The ports train with whatever is attached to them (R15). -/
def State.trainPorts (s : State) : State := [0, 1, 2, 3, 4, 5].foldl State.trainPort s

/-- PACKAGE_RESET (R393): the units of the fence list, and those that fail their training or test, are fenced, and bring-up goes on. Memory behind
the card and in peers is not the package's, and stays; the counter of free values goes on. -/
def execPackageReset (s : State) : Out :=
  let host : List Host.Cell := (s.mem.filter (fun c => !isSpad c.1 && pkgOf c.1 == s.pkgnum.toNat && s.region c.1 == .host)).map
    (fun c => (within c.1, c.2))
  let peers : List Host.Cell := s.mem.filter (fun c => !isSpad c.1 && pkgOf c.1 != s.pkgnum.toNat && pkgOf c.1 != 0)
  let r := { State.reset with
    mem := host.foldl (fun m c => SMap.set m c.1 c.2) peers, mgmt := s.mgmt.boot, irqs := s.irqs, outbox := s.outbox, turns := s.turns,
    free := s.free, nextId := s.nextId, attached := s.attached, defects := s.defects }
  .next ((s.defects.foldl State.applyDefect (s.mgmt.fenceList.foldl State.applyFence r)).trainPorts)

/-! ### ECC (R27, R352) -/

/-- ECC_ERROR (R27, R352, R373): a correction is logged; an uncorrectable error is logged and reported to whoever reads, and may
disable the unit. -/
def execEccError (die : Nat) (addr : Nat) (correctable : Bool) (unit : Option (BitVec 8 × Nat)) (s : State) : Out :=
  let s := s.log die { kind := if correctable then 0x13 else 0x14, va := BitVec.ofNat 64 addr }
  if correctable then .next s
  else
    let s := { s with ecc := [addr / 128] }
    match unit with
    | none => .next s
    | some (k, n) => .next ((s.fenceUnit k.toNat n).getD s)

end Sys2Proof.Machine
end

