-- ==== Sys2Proof/Machine/Dispatch.lean ====
section
/-! DEFINITION. One arm per instruction or step: a direct call of its meaning. -/

namespace Sys2Proof.Machine

def exec (i : Instr) (s : State) : Host.Outcome State Fault Refusal :=
  match i with
  | .add d a b => Sys2Proof.Machine.execAdd d a b s
  | .sub d a b => Sys2Proof.Machine.execSub d a b s
  | .and d a b => Sys2Proof.Machine.execAnd d a b s
  | .or d a b => Sys2Proof.Machine.execOr d a b s
  | .xor d a b => Sys2Proof.Machine.execXor d a b s
  | .shl d a b => Sys2Proof.Machine.execShl d a b s
  | .shr d a b => Sys2Proof.Machine.execShr d a b s
  | .sar d a b => Sys2Proof.Machine.execSar d a b s
  | .mul d a b => Sys2Proof.Machine.execMul d a b s
  | .mulh d a b => Sys2Proof.Machine.execMulh d a b s
  | .mulhu d a b => Sys2Proof.Machine.execMulhu d a b s
  | .min d a b => Sys2Proof.Machine.execMin d a b s
  | .max d a b => Sys2Proof.Machine.execMax d a b s
  | .minu d a b => Sys2Proof.Machine.execMinu d a b s
  | .maxu d a b => Sys2Proof.Machine.execMaxu d a b s
  | .slt d a b => Sys2Proof.Machine.execSlt d a b s
  | .sltu d a b => Sys2Proof.Machine.execSltu d a b s
  | .clz d a => Sys2Proof.Machine.execClz d a s
  | .popc d a => Sys2Proof.Machine.execPopc d a s
  | .addi d a imm => Sys2Proof.Machine.execAddi d a imm s
  | .andi d a imm => Sys2Proof.Machine.execAndi d a imm s
  | .ori d a imm => Sys2Proof.Machine.execOri d a imm s
  | .xori d a imm => Sys2Proof.Machine.execXori d a imm s
  | .slti d a imm => Sys2Proof.Machine.execSlti d a imm s
  | .sltiu d a imm => Sys2Proof.Machine.execSltiu d a imm s
  | .lui d imm => Sys2Proof.Machine.execLui d imm s
  | .addpc d imm => Sys2Proof.Machine.execAddpc d imm s
  | .lhi d imm => Sys2Proof.Machine.execLhi d imm s
  | .shli d a amt => Sys2Proof.Machine.execShli d a amt s
  | .shri d a amt => Sys2Proof.Machine.execShri d a amt s
  | .sari d a amt => Sys2Proof.Machine.execSari d a amt s
  | .muli d a imm => Sys2Proof.Machine.execMuli d a imm s
  | .beq a b off => Sys2Proof.Machine.execBeq a b off s
  | .bne a b off => Sys2Proof.Machine.execBne a b off s
  | .blt a b off => Sys2Proof.Machine.execBlt a b off s
  | .bge a b off => Sys2Proof.Machine.execBge a b off s
  | .bltu a b off => Sys2Proof.Machine.execBltu a b off s
  | .bgeu a b off => Sys2Proof.Machine.execBgeu a b off s
  | .jal d off => Sys2Proof.Machine.execJal d off s
  | .jalr d a imm => Sys2Proof.Machine.execJalr d a imm s
  | .ldb d a imm => Sys2Proof.Machine.execLdb d a imm s
  | .ldh d a imm => Sys2Proof.Machine.execLdh d a imm s
  | .ldw d a imm => Sys2Proof.Machine.execLdw d a imm s
  | .ldd d a imm => Sys2Proof.Machine.execLdd d a imm s
  | .stb d a imm => Sys2Proof.Machine.execStb d a imm s
  | .sth d a imm => Sys2Proof.Machine.execSth d a imm s
  | .stw d a imm => Sys2Proof.Machine.execStw d a imm s
  | .std d a imm => Sys2Proof.Machine.execStd d a imm s
  | .ldbs d a imm => Sys2Proof.Machine.execLdbs d a imm s
  | .ldhs d a imm => Sys2Proof.Machine.execLdhs d a imm s
  | .ldws d a imm => Sys2Proof.Machine.execLdws d a imm s
  | .bar d a => Sys2Proof.Machine.execBar d a s
  | .arrive d a => Sys2Proof.Machine.execArrive d a s
  | .arriveCb a b => Sys2Proof.Machine.execArriveCb a b s
  | .lock d a => Sys2Proof.Machine.execLock d a s
  | .unlock a => Sys2Proof.Machine.execUnlock a s
  | .join d a => Sys2Proof.Machine.execJoin d a s
  | .leave d a => Sys2Proof.Machine.execLeave d a s
  | .cbwait d a b => Sys2Proof.Machine.execCbwait d a b s
  | .msend d a b => Sys2Proof.Machine.execMsend d a b s
  | .mrecv d a b => Sys2Proof.Machine.execMrecv d a b s
  | .lrun count sheet slot => Sys2Proof.Machine.execLrun count sheet slot s
  | .lrunr a b => Sys2Proof.Machine.execLrunr a b s
  | .ldrain => Sys2Proof.Machine.execLdrain s
  | .sfence ord scope => Sys2Proof.Machine.execSfence ord scope s
  | .mfc d cr => Sys2Proof.Machine.execMfc d cr s
  | .mtc a cr => Sys2Proof.Machine.execMtc a cr s
  | .yield => Sys2Proof.Machine.execYield s
  | .trap code => Sys2Proof.Machine.execTrap code s
  | .bkpt => Sys2Proof.Machine.execBkpt s
  | .haltInPlace d a b => Sys2Proof.Machine.execHaltInPlace d a b s
  | .haltRelease d a b => Sys2Proof.Machine.execHaltRelease d a b s
  | .haltAndSuspend d a b => Sys2Proof.Machine.execHaltAndSuspend d a b s
  | .wfe d a b => Sys2Proof.Machine.execWfe d a b s
  | .rft => Sys2Proof.Machine.execRft s
  | .isync => Sys2Proof.Machine.execIsync s
  | .resumeRestart d a b => Sys2Proof.Machine.execResumeRestart d a b s
  | .resumePage d a b => Sys2Proof.Machine.execResumePage d a b s
  | .resumeDeliverFault d a b => Sys2Proof.Machine.execResumeDeliverFault d a b s
  | .resumeFailTask d a b => Sys2Proof.Machine.execResumeFailTask d a b s
  | .csave d a b => Sys2Proof.Machine.execCsave d a b s
  | .crstr d a b => Sys2Proof.Machine.execCrstr d a b s
  | .chart d a b => Sys2Proof.Machine.execChart d a b s
  | .chartFree d b => Sys2Proof.Machine.execChartFree d b s
  | .wload d a b => Sys2Proof.Machine.execWload d a b s
  | .mma d a b => Sys2Proof.Machine.execMma d a b s
  | .mmaNs d a b => Sys2Proof.Machine.execMmaNs d a b s
  | .mmaBm d a b => Sys2Proof.Machine.execMmaBm d a b s
  | .mzero d a => Sys2Proof.Machine.execMzero d a s
  | .mwait d => Sys2Proof.Machine.execMwait d s
  | .tcopy d a b => Sys2Proof.Machine.execTcopy d a b s
  | .gcopy d a b => Sys2Proof.Machine.execGcopy d a b s
  | .cwait d => Sys2Proof.Machine.execCwait d s
  | .spawn d a b => Sys2Proof.Machine.execSpawn d a b s
  | .nodeput d a b => Sys2Proof.Machine.execNodeput d a b s
  | .ffill d a b => Sys2Proof.Machine.execFfill d a b s
  | .ffillCancel d a => Sys2Proof.Machine.execFfillCancel d a s
  | .fwait d a => Sys2Proof.Machine.execFwait d a s
  | .fwaitNb d a => Sys2Proof.Machine.execFwaitNb d a s
  | .fget d a => Sys2Proof.Machine.execFget d a s
  | .tdone a => Sys2Proof.Machine.execTdone a s
  | .cancel d => Sys2Proof.Machine.execCancel d s
  | .cancelJob d a => Sys2Proof.Machine.execCancelJob d a s
  | .prio d a => Sys2Proof.Machine.execPrio d a s
  | .laneAddInt r => Sys2Proof.Machine.execLaneAddInt r s
  | .laneSubInt r => Sys2Proof.Machine.execLaneSubInt r s
  | .laneMulInt r => Sys2Proof.Machine.execLaneMulInt r s
  | .laneMulh r => Sys2Proof.Machine.execLaneMulh r s
  | .laneMad r => Sys2Proof.Machine.execLaneMad r s
  | .laneMinInt r => Sys2Proof.Machine.execLaneMinInt r s
  | .laneMaxInt r => Sys2Proof.Machine.execLaneMaxInt r s
  | .laneAbsInt r => Sys2Proof.Machine.execLaneAbsInt r s
  | .laneNegInt r => Sys2Proof.Machine.execLaneNegInt r s
  | .laneCmpInt r => Sys2Proof.Machine.execLaneCmpInt r s
  | .laneShl r => Sys2Proof.Machine.execLaneShl r s
  | .laneShr r => Sys2Proof.Machine.execLaneShr r s
  | .laneSar r => Sys2Proof.Machine.execLaneSar r s
  | .laneAnd r => Sys2Proof.Machine.execLaneAnd r s
  | .laneOr r => Sys2Proof.Machine.execLaneOr r s
  | .laneXor r => Sys2Proof.Machine.execLaneXor r s
  | .laneNot r => Sys2Proof.Machine.execLaneNot r s
  | .lanePopc r => Sys2Proof.Machine.execLanePopc r s
  | .laneClz r => Sys2Proof.Machine.execLaneClz r s
  | .laneBrev r => Sys2Proof.Machine.execLaneBrev r s
  | .laneSel r => Sys2Proof.Machine.execLaneSel r s
  | .laneMov r => Sys2Proof.Machine.execLaneMov r s
  | .laneAddFloat r => Sys2Proof.Machine.execLaneAddFloat r s
  | .laneSubFloat r => Sys2Proof.Machine.execLaneSubFloat r s
  | .laneMulFloat r => Sys2Proof.Machine.execLaneMulFloat r s
  | .laneFma r => Sys2Proof.Machine.execLaneFma r s
  | .laneMinFloat r => Sys2Proof.Machine.execLaneMinFloat r s
  | .laneMaxFloat r => Sys2Proof.Machine.execLaneMaxFloat r s
  | .laneCmpFloat r => Sys2Proof.Machine.execLaneCmpFloat r s
  | .laneSqrte r => Sys2Proof.Machine.execLaneSqrte r s
  | .laneRcpe r => Sys2Proof.Machine.execLaneRcpe r s
  | .laneRsqrte r => Sys2Proof.Machine.execLaneRsqrte r s
  | .laneAbsFloat r => Sys2Proof.Machine.execLaneAbsFloat r s
  | .laneNegFloat r => Sys2Proof.Machine.execLaneNegFloat r s
  | .cvt r => Sys2Proof.Machine.execCvt r s
  | .qnt r => Sys2Proof.Machine.execQnt r s
  | .dqnt r => Sys2Proof.Machine.execDqnt r s
  | .bscale r => Sys2Proof.Machine.execBscale r s
  | .ifm m => Sys2Proof.Machine.execIfm m s
  | .elsem => Sys2Proof.Machine.execElsem s
  | .endif => Sys2Proof.Machine.execEndif s
  | .loop imm => Sys2Proof.Machine.execLoop imm s
  | .endloop imm => Sys2Proof.Machine.execEndloop imm s
  | .brk m => Sys2Proof.Machine.execBrk m s
  | .cont m => Sys2Proof.Machine.execCont m s
  | .shfl mode zf r => Sys2Proof.Machine.execShfl mode zf r s
  | .gatherv w r => Sys2Proof.Machine.execGatherv w r s
  | .vote op r => Sys2Proof.Machine.execVote op r s
  | .ballot r => Sys2Proof.Machine.execBallot r s
  | .scan op excl r => Sys2Proof.Machine.execScan op excl r s
  | .intersect r => Sys2Proof.Machine.execIntersect r s
  | .ld r => Sys2Proof.Machine.execLd r s
  | .st r => Sys2Proof.Machine.execSt r s
  | .ldl r => Sys2Proof.Machine.execLdl r s
  | .ldx r => Sys2Proof.Machine.execLdx r s
  | .stNt r => Sys2Proof.Machine.execStNt r s
  | .lds r => Sys2Proof.Machine.execLds r s
  | .sts r => Sys2Proof.Machine.execSts r s
  | .pref r => Sys2Proof.Machine.execPref r s
  | .tlbsync r => Sys2Proof.Machine.execTlbsync r s
  | .fence ord scope ev m => Sys2Proof.Machine.execFence ord scope ev m s
  | .atom r => Sys2Proof.Machine.execAtom r s
  | .red r => Sys2Proof.Machine.execRed r s
  | .inkAdd r => Sys2Proof.Machine.execInkAdd r s
  | .inkRead r => Sys2Proof.Machine.execInkRead r s
  | .inkClr r => Sys2Proof.Machine.execInkClr r s
  | .qpush r => Sys2Proof.Machine.execQpush r s
  | .qpop r => Sys2Proof.Machine.execQpop r s
  | .fewait r => Sys2Proof.Machine.execFewait r s
  | .spawnv r => Sys2Proof.Machine.execSpawnv r s
  | .feed r => Sys2Proof.Machine.execFeed r s
  | .drain r => Sys2Proof.Machine.execDrain r s
  | .yielddlWrite strand value => Sys2Proof.Machine.execYielddlWrite strand value s
  | .loadReply id => Sys2Proof.Machine.execLoadReply id s
  | .errorResponse id => Sys2Proof.Machine.execErrorResponse id s
  | .pageWalk party => Sys2Proof.Machine.execPageWalk party s
  | .faultQueueHeldWrite die => Sys2Proof.Machine.execFaultQueueHeldWrite die s
  | .trapEntry strand => Sys2Proof.Machine.execTrapEntry strand s
  | .coalescingEntrySend id => Sys2Proof.Machine.execCoalescingEntrySend id s
  | .binSend die home => Sys2Proof.Machine.execBinSend die home s
  | .invalidationApply die index => Sys2Proof.Machine.execInvalidationApply die index s
  | .lineRecall core line => Sys2Proof.Machine.execLineRecall core line s
  | .edramRefresh die bank => Sys2Proof.Machine.execEdramRefresh die bank s
  | .deadlineExpiry gang => Sys2Proof.Machine.execDeadlineExpiry gang s
  | .contextSave gang => Sys2Proof.Machine.execContextSave gang s
  | .dispatch core => Sys2Proof.Machine.execDispatch core s
  | .queueBlockMove mv => Sys2Proof.Machine.execQueueBlockMove mv s
  | .dieQueueSteal die => Sys2Proof.Machine.execDieQueueSteal die s
  | .rebalanceEpoch gang => Sys2Proof.Machine.execRebalanceEpoch gang s
  | .strandMove strand lane => Sys2Proof.Machine.execStrandMove strand lane s
  | .taskRetire gang => Sys2Proof.Machine.execTaskRetire gang s
  | .helping strand => Sys2Proof.Machine.execHelping strand s
  | .binTimerExpiry pa => Sys2Proof.Machine.execBinTimerExpiry pa s
  | .cancelStateArrival job core => Sys2Proof.Machine.execCancelStateArrival job core s
  | .lockParkReissue strand => Sys2Proof.Machine.execLockParkReissue strand s
  | .messageArrival index => Sys2Proof.Machine.execMessageArrival index s
  | .chartDescriptorRead core => Sys2Proof.Machine.execChartDescriptorRead core s
  | .wloadExecute core => Sys2Proof.Machine.execWloadExecute core s
  | .mmaPass core => Sys2Proof.Machine.execMmaPass core s
  | .mmaClose core => Sys2Proof.Machine.execMmaClose core s
  | .mzeroExecute core => Sys2Proof.Machine.execMzeroExecute core s
  | .matrixWatchdog core => Sys2Proof.Machine.execMatrixWatchdog core s
  | .copyCommandStart die engine core => Sys2Proof.Machine.execCopyCommandStart die engine core s
  | .copyChunkComplete die engine slot chunk => Sys2Proof.Machine.execCopyChunkComplete die engine slot chunk s
  | .launch vd value => Sys2Proof.Machine.execLaunch vd value s
  | .launchCheck vd => Sys2Proof.Machine.execLaunchCheck vd s
  | .dieFence die => Sys2Proof.Machine.execDieFence die s
  | .partitionReset part => Sys2Proof.Machine.execPartitionReset part s
  | .partitionResetComplete part => Sys2Proof.Machine.execPartitionResetComplete part s
  | .partitionRecordWrite part off value => Sys2Proof.Machine.execPartitionRecordWrite part off value s
  | .vdRecordWrite vd off value => Sys2Proof.Machine.execVdRecordWrite vd off value s
  | .pkgnumWrite value => Sys2Proof.Machine.execPkgnumWrite value s
  | .npkgWrite value => Sys2Proof.Machine.execNpkgWrite value s
  | .controlSpaceWrite off value => Sys2Proof.Machine.execControlSpaceWrite off value s
  | .linkRequestFlit port f => Sys2Proof.Machine.execLinkRequestFlit port f s
  | .linkReplyFlit port f => Sys2Proof.Machine.execLinkReplyFlit port f s
  | .linkAckFlit port f => Sys2Proof.Machine.execLinkAckFlit port f s
  | .linkIdleFlit port f => Sys2Proof.Machine.execLinkIdleFlit port f s
  | .linkAckTimeout port => Sys2Proof.Machine.execLinkAckTimeout port s
  | .linkRetrain port => Sys2Proof.Machine.execLinkRetrain port s
  | .linkTrainTimeout port => Sys2Proof.Machine.execLinkTrainTimeout port s
  | .powerWindow mean => Sys2Proof.Machine.execPowerWindow mean s
  | .clockRelockEnd die => Sys2Proof.Machine.execClockRelockEnd die s
  | .thermalTrip die temp => Sys2Proof.Machine.execThermalTrip die temp s
  | .hostBar2Access fn va wr data => Sys2Proof.Machine.execHostBar2Access fn va wr data s
  | .attestationReport fn seq nonce => Sys2Proof.Machine.execAttestationReport fn seq nonce s
  | .deviceCertificate fn seq => Sys2Proof.Machine.execDeviceCertificate fn seq s
  | .stageFirmwareImage fn seq image => Sys2Proof.Machine.execStageFirmwareImage fn seq image s
  | .commitStagedImage fn seq => Sys2Proof.Machine.execCommitStagedImage fn seq s
  | .readFenceList fn seq => Sys2Proof.Machine.execReadFenceList fn seq s
  | .fenceUnit fn seq kind unit => Sys2Proof.Machine.execFenceUnit fn seq kind unit s
  | .haltOperation fn seq handle vd op => Sys2Proof.Machine.execHaltOperation fn seq handle vd op s
  | .telemetry fn seq => Sys2Proof.Machine.execTelemetry fn seq s
  | .packageReset => Sys2Proof.Machine.execPackageReset s
  | .eccError die addr correctable unit => Sys2Proof.Machine.execEccError die addr correctable unit s
  | .wfeTimeout strand => Sys2Proof.Machine.execWfeTimeout strand s
  | .requestAtHomeSlice id => Sys2Proof.Machine.execRequestAtHomeSlice id s
  | .writeAcknowledgement id => Sys2Proof.Machine.execWriteAcknowledgement id s
  | .linkRetrainComplete port x8 => Sys2Proof.Machine.execLinkRetrainComplete port x8 s
  | .fetchMissLineArrival strand lane => Sys2Proof.Machine.execFetchMissLineArrival strand lane s

end Sys2Proof.Machine
end

