-- ==== Sys2Proof/Machine/Step.lean ====
section
/-! DEFINITION. One step of the machine: the agent that `turns` names acts, or, with no turn given, the hardware's next step
or the current strand (log entry 3). -/

namespace Sys2Proof.Machine

open Sys2Proof

/-- What a strand's turn answers. -/
def Choice.outcome : Choice → Host.Outcome State Fault Refusal
  | .run i s => exec i s
  | .rest s => .next s
  | .absent => .fault .noStrand

/-- The agent whose turn it is acts. -/
def State.once (s : State) : Host.Outcome State Fault Refusal :=
  match s.turns with
  | .event i :: r => exec i { s with turns := r }
  | .strand k lane :: r => (({ s with turns := r, cur := k } : State).turn lane).outcome
  | .pass die n :: r => .next (({ s with turns := r } : State).pass die n)
  | .outside pa data :: r => .next (({ s with turns := r } : State).outsideWrite pa data)
  | .message m :: r => .next { s with turns := r, msgs := if m.src / 256 == s.pkgnum.toNat then s.msgs else s.msgs ++ [{ m with strand := none }] }
  | .attach port what :: r => .next { s with turns := r, attached := s.attached.set port what }
  | .resend id :: r => .next (({ s with turns := r } : State).resend id)
  | .host fn bar2 off wr data :: r => .next (({ s with turns := r } : State).hostAccess fn bar2 off wr data)
  | .store units :: r => .next (({ s with turns := r } : State).storeFenceList units)
  | .defects units :: r => .next { s with turns := r, defects := units }
  | .element die engine slot chunk unit :: r => .next (({ s with turns := r } : State).elementAhead die engine slot chunk unit)
  | .mgmtFailure fn :: r => .next (({ s with turns := r } : State).mgmtFailure fn)
  | .panel core position :: r => .next (({ s with turns := r } : State).readAhead core position)
  | [] =>
    match s.autoEvent with
    | some i => exec i s
    | none =>
      match s.autoTurn.outcome with
      | .next t => .next t.rotate
      | o => o

/-- One step. An uncorrectable error that it meets leaves no mark on the line (R27). -/
def step (s : State) : Host.Outcome State Fault Refusal :=
  match s.once with
  | .next t => .next (if s.ecc.isEmpty then t else { t with ecc := [] })
  | o => o

/-- The state with an instruction of `nbits` bits placed where the next step fetches it, by a turn of the current strand. -/
def State.withFetchWord (s : State) (nbits w : Nat) : State := if nbits ≤ 32 then s.placeScalar w else s.placeLane w

end Sys2Proof.Machine
end

