-- ==== Sys2Proof/Certificates/Slice0/Obligations.lean ====
section
/-! DEFINITION. The statements about the model, for the provers. The predicates that several of them share come first. -/

namespace Sys2Proof.Claims

open Sys2Proof Sys2Proof.Machine

/-- An instruction answers a next state of which P holds. -/
def Gives (i : Instr) (s : State) (P : State → Prop) : Prop := ∃ t, exec i s = .next t ∧ P t

/-- Nothing but the current strand changes: no other strand, no byte of memory, no other part of the state. -/
def OnlyMe (s t : State) : Prop :=
  (∀ k, k ≠ s.cur → t.strand k = s.strand k) ∧ (∀ a, t.byte a = s.byte a) ∧ { t with strands := s.strands } = s

/-- Register d of the current strand takes v, s0 stays zero (R64), the scalar PC becomes pc; the lane instructions of the runs
already enqueued go on reading what they read before (R77); nothing else changes. -/
def Wrote (s t : State) (d : SReg) (v pc : W64) : Prop :=
  OnlyMe s t ∧ t.me.pc = pc ∧ t.me.s 0 = 0 ∧ (d ≠ 0 → t.me.s d = v) ∧ (∀ r, r ≠ d → t.me.s r = s.me.s r) ∧
    (∀ m q r, s.me.lastSeq = some m → q ≤ m → t.me.laneS q r = s.me.laneS q r) ∧
    { t.me with pc := s.me.pc, sregs := s.me.sregs, ren := s.me.ren, wstep := s.me.wstep } = s.me

/-- The scalar PC of the current strand becomes pc, and nothing else changes. -/
def WentTo (s t : State) (pc : W64) : Prop :=
  OnlyMe s t ∧ t.me.pc = pc ∧ { t.me with pc := s.me.pc, wstep := s.me.wstep } = s.me

end Sys2Proof.Claims

open Sys2Proof Sys2Proof.Machine Sys2Proof.Claims

/-! ### Scalar arithmetic, branches and calls -/

/-- R66: the register forms of the scalar arithmetic, for every register, rd = s0 among them: the word of each, and its effect. -/
def Obligations.ScalarRegisterArithmetic : Prop :=
  ∀ (s : State) (d a b : SReg),
    let x := s.me.s a
    let y := s.me.s b
    let n := y.toNat % 64
    let word (minor : BitVec 8) : W32 := (0x01 : BitVec 6) ++ d ++ a ++ b ++ minor
    let does (i : Instr) (v : W64) : Prop := Gives i s (fun t => Wrote s t d v (s.me.pc + 4))
    let put (minor : BitVec 8) (i : Instr) (v : W64) : Prop := decodeScalar (word minor) = .ok i ∧ does i v
    put 0x00 (.add d a b) (x + y) ∧ put 0x01 (.sub d a b) (x - y) ∧ put 0x02 (.and d a b) (x &&& y) ∧
      put 0x03 (.or d a b) (x ||| y) ∧ put 0x04 (.xor d a b) (x ^^^ y) ∧
      put 0x05 (.shl d a b) (BitVec.ofNat 64 (x.toNat * 2 ^ n)) ∧ put 0x06 (.shr d a b) (BitVec.ofNat 64 (x.toNat / 2 ^ n)) ∧
      put 0x07 (.sar d a b) (BitVec.ofInt 64 (x.toInt / 2 ^ n)) ∧ put 0x08 (.mul d a b) (x * y) ∧
      put 0x09 (.mulh d a b) (((x.signExtend 128 * y.signExtend 128) >>> 64).setWidth 64) ∧
      put 0x0A (.mulhu d a b) (((x.setWidth 128 * y.setWidth 128) >>> 64).setWidth 64) ∧
      put 0x0B (.min d a b) (BitVec.ofInt 64 (min x.toInt y.toInt)) ∧ put 0x0C (.max d a b) (BitVec.ofInt 64 (max x.toInt y.toInt)) ∧
      put 0x0D (.minu d a b) (BitVec.ofNat 64 (min x.toNat y.toNat)) ∧
      put 0x0E (.maxu d a b) (BitVec.ofNat 64 (max x.toNat y.toNat)) ∧
      put 0x0F (.slt d a b) (if x.toInt < y.toInt then 1 else 0) ∧ put 0x10 (.sltu d a b) (if x.toNat < y.toNat then 1 else 0) ∧
      (b = 0 → decodeScalar (word 0x11) = .ok (.clz d a) ∧ decodeScalar (word 0x12) = .ok (.popc d a)) ∧
      (b ≠ 0 → ∀ i, decodeScalar (word 0x11) ≠ .ok i ∧ decodeScalar (word 0x12) ≠ .ok i) ∧
      (∀ z : Nat, (∀ i, 64 - z ≤ i → x.getLsbD i = false) → (z = 64 ∨ z < 64 ∧ x.getLsbD (63 - z) = true) →
        does (.clz d a) (BitVec.ofNat 64 z)) ∧
      does (.popc d a) (BitVec.ofNat 64 ((List.range 64).map (fun i => (x.getLsbD i).toNat)).sum)

/-- R67: the immediate forms, each with its word. The i14 of the table is the immediate sign-extended, its u14 zero-extended. -/
def Obligations.ScalarImmediateArithmetic : Prop :=
  ∀ (s : State) (d a : SReg) (imm : BitVec 14) (amt : BitVec 6) (big : BitVec 20),
    let x := s.me.s a
    let sx : W64 := imm.signExtend 64
    let zx : W64 := imm.setWidth 64
    let put (w : W32) (i : Instr) (v : W64) : Prop :=
      decodeScalar w = .ok i ∧ Gives i s (fun t => Wrote s t d v (s.me.pc + 4))
    let si (major : BitVec 6) : W32 := major ++ d ++ a ++ imm
    let su (major : BitVec 6) : W32 := major ++ d ++ big
    let sh (major : BitVec 6) : W32 := major ++ d ++ a ++ (0 : BitVec 8) ++ amt
    put (si 0x02) (.addi d a imm) (x + sx) ∧ put (si 0x03) (.andi d a imm) (x &&& zx) ∧ put (si 0x04) (.ori d a imm) (x ||| zx) ∧
      put (si 0x05) (.xori d a imm) (x ^^^ zx) ∧ put (si 0x06) (.slti d a imm) (if x.toInt < imm.toInt then 1 else 0) ∧
      put (si 0x07) (.sltiu d a imm) (if x.toNat < sx.toNat then 1 else 0) ∧
      put (su 0x08) (.lui d big) (BitVec.ofInt 64 (big.toInt * 4096)) ∧
      put (su 0x09) (.addpc d big) (s.me.pc + BitVec.ofInt 64 (big.toInt * 4096)) ∧
      put (su 0x0A) (.lhi d big) (BitVec.ofNat 64 (big.toNat * 2 ^ 32 + (s.me.s d).toNat % 2 ^ 32)) ∧
      put (sh 0x0B) (.shli d a amt) (BitVec.ofNat 64 (x.toNat * 2 ^ amt.toNat)) ∧
      put (sh 0x0C) (.shri d a amt) (BitVec.ofNat 64 (x.toNat / 2 ^ amt.toNat)) ∧
      put (sh 0x0D) (.sari d a amt) (BitVec.ofInt 64 (x.toInt / 2 ^ amt.toNat)) ∧ put (si 0x0E) (.muli d a imm) (x * sx)

/-- R68: the compare-and-branch instructions: the word of each, and where it goes. -/
def Obligations.CompareAndBranch : Prop :=
  ∀ (s : State) (a b : SReg) (off : BitVec 14),
    let x := s.me.s a
    let y := s.me.s b
    let go (major : BitVec 6) (i : Instr) (c : Prop) : Prop :=
      decodeScalar (major ++ a ++ b ++ off) = .ok i ∧
        (c → Gives i s (fun t => WentTo s t (s.me.pc + BitVec.ofInt 64 (off.toInt * 4)))) ∧
        (¬c → Gives i s (fun t => WentTo s t (s.me.pc + 4)))
    go 0x10 (.beq a b off) (x = y) ∧ go 0x11 (.bne a b off) (x ≠ y) ∧ go 0x12 (.blt a b off) (x.toInt < y.toInt) ∧
      go 0x13 (.bge a b off) (y.toInt ≤ x.toInt) ∧ go 0x14 (.bltu a b off) (x.toNat < y.toNat) ∧
      go 0x15 (.bgeu a b off) (y.toNat ≤ x.toNat)

/-- R69, R40: JAL and JALR, each with its word; the target of JALR is formed from ra before rd is written. A JALR to an address that is
no multiple of 4 has written rd, and raises the misaligned-fetch trap at its target. -/
def Obligations.JumpAndLink : Prop :=
  ∀ (s : State) (d a : SReg) (imm : BitVec 14) (off : BitVec 20),
    let target : W64 := s.me.s a + imm.signExtend 64
    decodeScalar ((0x16 : BitVec 6) ++ d ++ off) = .ok (.jal d off) ∧
      decodeScalar ((0x17 : BitVec 6) ++ d ++ a ++ imm) = .ok (.jalr d a imm) ∧
      Gives (.jal d off) s (fun t => Wrote s t d (s.me.pc + 4) (s.me.pc + BitVec.ofInt 64 (off.toInt * 4))) ∧
      (target.toNat % 4 = 0 → Gives (.jalr d a imm) s (fun t => Wrote s t d (s.me.pc + 4) target)) ∧
      (target.toNat % 4 ≠ 0 → ∃ u, Wrote s u d (s.me.pc + 4) target ∧
        exec (.jalr d a imm) s = .next (u.raise s.cur (u.me.scalarTrap cMisfetch target)))

/-! ### Scalar loads and stores -/

namespace Sys2Proof.Claims

/-- A request of the current strand has started, with the next number. Every other request, every byte of memory, every other strand and
every cache stay as they are. -/
def Asked (s t : State) (P : Flight → Prop) : Prop :=
  (∃ f ∈ t.flights, f.id = s.nextId ∧ f.strand = s.cur ∧ f.orphan = false ∧ P f) ∧
    (∀ g, g.id ≠ s.nextId → (g ∈ t.flights ↔ g ∈ s.flights)) ∧ t.nextId = s.nextId + 1 ∧ (∀ a, t.byte a = s.byte a) ∧
    (∀ k, k ≠ s.cur → t.strand k = s.strand k) ∧
    { t with strands := s.strands, flights := s.flights, nextId := s.nextId } = s

/-- The same of a request that writes: before it, lines of the write-combining buffer may leave (R176). -/
def AskedWrite (s t : State) (P : Flight → Prop) : Prop :=
  (∃ f ∈ t.flights, f.id = s.nextId ∧ f.strand = s.cur ∧ f.orphan = false ∧ P f) ∧
    (∀ g ∈ s.flights, g.stage ≠ .wc → g ∈ t.flights) ∧
    (∀ g ∈ t.flights, g.id ≠ s.nextId → g ∈ s.flights ∨ ∃ h ∈ s.flights, h.stage = .wc ∧ { g with stage := .wc, entry := h.entry } = h) ∧
    t.nextId = s.nextId + 1 ∧ (∀ a, t.byte a = s.byte a) ∧ (∀ k, k ≠ s.cur → t.strand k = s.strand k) ∧
    { t with strands := s.strands, flights := s.flights, nextId := s.nextId } = s

/-- The current strand goes on after an access of its scalar stream; no register changes yet. -/
def AccessIssued (s t : State) : Prop :=
  t.me.pc = s.me.pc + 4 ∧ t.me.accs = s.me.accs + 1 ∧ t.me.wait = .none ∧ (∀ r, t.me.s r = s.me.s r) ∧
    { t.me with pc := s.me.pc, accs := s.me.accs, wait := s.me.wait, ren := s.me.ren, wstep := s.me.wstep } = s.me

/-- No watchpoint of the current strand stops an access of its scalar stream. -/
def Unwatched (s : State) (bit : Nat) (va : W64) (n : Nat) : Prop := s.me.exempt false = true ∨ s.me.watched bit va n = false

end Sys2Proof.Claims

/-- R71, R73: a scalar load whose address is aligned, translated and readable starts a relaxed access of its width at eviction
priority 4, for rd, s0 among them; the strand goes on. R71, R73: a scalar store starts an access that carries the low bytes of rd.
R72: a scalar load or store at an address that is no multiple of its width raises the misaligned-data trap at that address and
starts no access. -/
def Obligations.ScalarAccessesStart : Prop :=
  (∀ (s : State) (d a : SReg) (imm : BitVec 14) (i : Instr) (n : Nat) (sx : Bool) (key : Nat),
     (i, n, sx) ∈ [(Instr.ldb d a imm, 1, false), (.ldh d a imm, 2, false), (.ldw d a imm, 4, false), (.ldd d a imm, 8, false),
       (.ldbs d a imm, 1, true), (.ldhs d a imm, 2, true), (.ldws d a imm, 4, true)] →
     let va : W64 := s.me.s a + imm.signExtend 64
     va.toNat % n = 0 → s.translate s.cur false needR va = .key key → Unwatched s wpLd va n →
     Gives i s (fun t => AccessIssued s t ∧ Asked s t (fun f =>
       f.lane = false ∧ f.kind = .load ∧ f.va = va ∧ f.key = key ∧ f.bytes = n ∧ f.sx = sx ∧ f.dest = .s d ∧ f.ord = .rlx ∧
         f.ev = 4 ∧ f.stage = if isSpad key then .home else .l1))) ∧
  (∀ (s : State) (d a : SReg) (imm : BitVec 14) (i : Instr) (n : Nat) (key : Nat),
     (i, n) ∈ [(Instr.stb d a imm, 1), (.sth d a imm, 2), (.stw d a imm, 4), (.std d a imm, 8)] →
     let va : W64 := s.me.s a + imm.signExtend 64
     va.toNat % n = 0 → s.translate s.cur false needW va = .key key → Unwatched s wpSt va n →
     Gives i s (fun t => AccessIssued s t ∧ AskedWrite s t (fun f =>
       f.lane = false ∧ f.kind = .store ∧ f.va = va ∧ f.key = key ∧ f.bytes = n ∧ f.data = (s.me.s d).toNat % 256 ^ n ∧
         f.dest = .none ∧ f.ord = .rlx ∧ f.ev = 4 ∧ f.stage = .held))) ∧
  (∀ (s : State) (d a : SReg) (imm : BitVec 14) (i : Instr) (n : Nat),
     (i, n) ∈ [(Instr.ldh d a imm, 2), (.ldw d a imm, 4), (.ldd d a imm, 8), (.ldhs d a imm, 2), (.ldws d a imm, 4),
       (.sth d a imm, 2), (.stw d a imm, 4), (.std d a imm, 8)] →
     let va : W64 := s.me.s a + imm.signExtend 64
     va.toNat % n ≠ 0 →
     exec i s = .next ((s.setMe { s.me with accs := s.me.accs + 1, wait := .none }).raiseScalar cMisdata va))

/-! ### Lane runs, fences, control registers -/

/-- R49, R75: LRUN, and LRUNR with a legal lane PC, append an entry to a decision queue that holds fewer than sixteen. R75, R48,
R49: both stall on a full queue; LRUNR traps on a lane PC that is not legal, and on a count above 65,535 whatever the lane PC (log entry
79). -/
def Obligations.LaneRunsEnqueue : Prop :=
  (∀ (s : State) (count : BitVec 6) (sheet : BitVec 17) (slot : BitVec 3) (a b : SReg) (key : Nat),
     let added (t : State) (pc : W64) (n : Nat) : Prop :=
       OnlyMe s t ∧ t.me.pc = s.me.pc + 4 ∧ t.me.nextRun = s.me.nextRun + 1 ∧
         t.me.runs = s.me.runs ++ [{ seq := s.me.nextRun, pc, left := n, bound := s.me.accs }] ∧
         { t.me with pc := s.me.pc, runs := s.me.runs, nextRun := s.me.nextRun, wstep := s.me.wstep, wait := s.me.wait } = s.me
     s.me.runs.length < 16 →
       Gives (.lrun count sheet slot) s (fun t =>
         added t (s.me.lbase + BitVec.ofNat 64 (64 * sheet.toNat + 12 * slot.toNat)) count.toNat) ∧
       ((s.me.s b).toNat = 0 → (s.me.s a).toNat < 2 ^ 56 → (s.me.s a).toNat % 64 % 12 = 0 → (s.me.s a).toNat % 64 ≤ 48 →
         Gives (.lrunr a b) s (fun t => WentTo s t (s.me.pc + 4))) ∧
       (0 < (s.me.s b).toNat → (s.me.s b).toNat ≤ 65535 → (s.me.s a).toNat < 0xFFFF0000000000 →
         (s.me.s a).toNat % 64 % 12 = 0 → (s.me.s a).toNat % 64 ≤ 48 → s.translate s.cur false needXL (s.me.s a) = .key key →
         Gives (.lrunr a b) s (fun t => added t (s.me.s a) (s.me.s b).toNat))) ∧
  (∀ (s : State) (count : BitVec 6) (sheet : BitVec 17) (slot : BitVec 3) (a b : SReg),
     (16 ≤ s.me.runs.length → exec (.lrun count sheet slot) s = .next s ∧
         ∀ key, 0 < (s.me.s b).toNat → (s.me.s b).toNat ≤ 65535 → (s.me.s a).toNat < 0xFFFF0000000000 →
           (s.me.s a).toNat % 64 % 12 = 0 → (s.me.s a).toNat % 64 ≤ 48 → s.translate s.cur false needXL (s.me.s a) = .key key →
           exec (.lrunr a b) s = .next (s.setMe { s.me with wait := .none })) ∧
       (65535 < (s.me.s b).toNat → exec (.lrunr a b) s = .next (s.raiseScalar cIllegal 0)) ∧
       ((s.me.s b).toNat ≤ 65535 →
         (2 ^ 56 ≤ (s.me.s a).toNat ∨ (s.me.s a).toNat % 64 % 12 ≠ 0 ∨ 48 < (s.me.s a).toNat % 64) →
         exec (.lrunr a b) s = .next (s.raiseScalar cLanePc (s.me.s a))))

namespace Sys2Proof.Claims

/-- No request of the current strand stands in a coalescing window or in the write-combining buffer. -/
def WindowsEmpty (s : State) : Prop := ∀ f ∈ s.flights, f.strand = s.cur → f.stage ≠ .window ∧ f.stage ≠ .wc

/-- The conditions of LDRAIN (R78): no run in the decision queue, no lane access of the strand outstanding; a prefetch is none. -/
def Drained (s : State) : Prop :=
  s.me.runs = [] ∧ ∀ f ∈ s.flights, f.strand = s.cur → f.lane = true → f.orphan = true ∨ f.kind = .pref

/-- No store waits to reach memory that the loads of the current strand would observe: none of its own, none that has left its core. -/
def StoresDone (s : State) : Prop :=
  ∀ f ∈ s.flights, f.kind.writes = true → f.unperformed = true → isSpad f.key = false →
    (f.strand = s.cur → f.orphan = true) ∧ (f.sent = true → s.flightCore f ≠ s.me.core)

end Sys2Proof.Claims

/-- R78, R186: LDRAIN and ISYNC wait until the strand's lane work is done; then LDRAIN goes on, and ISYNC, once the stores that the
strand's loads would observe stand in memory, drops every line of the core's instruction caches and what the strand has buffered. R74,
R193: SFENCE goes on once its ordering and scope hold, and the reads of the engine commands that the strand has issued are done; an
acquire at domain or system scope drops the L1 lines homed on other packages (R199). Until then it waits; ordering 00 is illegal. -/
def Obligations.DrainsAndFences : Prop :=
  (∀ (s : State), WindowsEmpty s →
     (Drained s → Gives .ldrain s (fun t => WentTo s t (s.me.pc + 4)) ∧ (¬StoresDone s → exec .isync s = .next s) ∧
       (StoresDone s → Gives .isync s (fun t => t.me.pc = s.me.pc + 4 ∧ t.me.loopBuf = [] ∧
         { t.me with pc := s.me.pc, wstep := s.me.wstep, loopBuf := s.me.loopBuf } = s.me ∧
         (t.core s.me.core).icS = [] ∧ (t.core s.me.core).icL = [] ∧
         (∀ k, { t.core k with icS := (s.core k).icS, icL := (s.core k).icL } = s.core k) ∧
         (∀ k, k ≠ s.me.core → t.core k = s.core k) ∧ (∀ k, k ≠ s.cur → t.strand k = s.strand k) ∧
         (∀ a, t.byte a = s.byte a) ∧ { t with strands := s.strands, cores := s.cores } = s))) ∧
       (¬Drained s → exec .ldrain s = .next s ∧ exec .isync s = .next s)) ∧
  (∀ (s : State) (ord : BitVec 2) (scope : BitVec 3), WindowsEmpty s →
     (ord = 0 → exec (.sfence ord scope) s = .next (s.raiseScalar cIllegal 0)) ∧
       (ord ≠ 0 → s.fenceReady s.cur false (ordOf ord) (scopeOf scope) = false ∨ s.engineReads s.cur = true →
         exec (.sfence ord scope) s = .next s) ∧
       (ord ≠ 0 → s.fenceReady s.cur false (ordOf ord) (scopeOf scope) = true → s.engineReads s.cur = false →
         Gives (.sfence ord scope) s (fun t => t.me.pc = s.me.pc + 4 ∧
           (ord = 1 → t.me.relVec = s.me.relVec) ∧
           { t.me with pc := s.me.pc, wstep := s.me.wstep, relVec := s.me.relVec } = s.me ∧
           (∀ k, k ≠ s.cur → t.strand k = s.strand k) ∧ (∀ a, t.byte a = s.byte a) ∧
           (∀ k, { t.core k with l1 := (s.core k).l1 } = s.core k) ∧
           (∀ k l, l ∈ (t.core k).l1 ↔ l ∈ (s.core k).l1 ∧
             ¬(k = s.me.core ∧ ord ≠ 2 ∧ 6 ≤ scope.toNat ∧ pkgOf (128 * l.line) ≠ s.pkgnum.toNat)) ∧
           { t with strands := s.strands, cores := s.cores } = s)))

/-- R41, R82: MFC reads every control register of the table; a number outside it is illegal. The fault-queue registers read as
zero outside a supervisor strand (R351), the halt bits of the watchpoints as zero with debugging off (R367). -/
def Obligations.ControlRegisterReads : Prop :=
  ∀ (s : State) (d : SReg),
    let reads (n : BitVec 12) (v : W64) : Prop := Gives (.mfc d n) s (fun t => Wrote s t d v (s.me.pc + 4))
    let die := s.die s.me.die
    let part := s.part (s.vdPart (s.gangOf s.cur).vd)
    let sup := s.isSup s.cur
    reads 0x000 (s.config s.me.die) ∧ reads 0x001 die.cyccnt ∧ reads 0x002 die.refcnt ∧
      reads 0x003 ((s.gangOf s.cur).count.setWidth 64) ∧ reads 0x004 (s.me.lbase &&& 0xFFFFFFFFFFFFC0) ∧ reads 0x010 s.me.trapcause ∧
      reads 0x011 s.me.trapva ∧ reads 0x012 s.me.trappc ∧ reads 0x013 s.me.tmaskp ∧ reads 0x014 s.me.tmaskf ∧
      (∀ i < 8, reads (BitVec.ofNat 12 (0x020 + i)) (s.me.wp.get i)) ∧
      (∀ i < 4, reads (BitVec.ofNat 12 (0x028 + i))
        (if s.vdDebug (s.gangOf s.cur).vd then s.me.wp.get (8 + i) else s.me.wp.get (8 + i) &&& ~~~(0x20 : W64))) ∧
      (∀ b < 32, reads (BitVec.ofNat 12 (0x040 + b)) (die.ephem.get b)) ∧
      reads 0x060 (if sup then part.fqbase else 0) ∧ reads 0x061 (if sup then part.fqhead else 0) ∧
      reads 0x062 (if sup then part.fqtail else 0) ∧
      (∀ n : BitVec 12, (5 ≤ n.toNat ∧ n.toNat < 0x10) ∨ (0x15 ≤ n.toNat ∧ n.toNat < 0x20) ∨ (0x2C ≤ n.toNat ∧ n.toNat < 0x40) ∨
        0x63 ≤ n.toNat →
        exec (.mfc d n) s = .next (s.raiseScalar cIllegal 0) ∧ exec (.mtc d n) s = .next (s.raiseScalar cIllegal 0))

/-- R82, R85, R344 to R346, R351, R362: what MTC writes, field by field; a register that is read-only discards the write. R84, R85:
a write of YIELDDL by a live strand, in whatever step it stands; with it the gang's deadline may expire (R86). No other gang's COUNT follows, that of a
resident waiter of R87 included (log entry 70). -/
def Obligations.ControlRegisterWrites : Prop :=
  (∀ (s : State) (a : SReg),
     let v := s.me.s a
     let on (n : BitVec 12) (P : State → Prop) : Prop := Gives (.mtc a n) s P
     let mine (n : BitVec 12) (u : Strand) : Prop :=
       on n (fun t => OnlyMe s t ∧ t.me = { u with pc := s.me.pc + 4, wstep := none })
     let part := s.part (s.vdPart (s.gangOf s.cur).vd)
     let partIs (n : BitVec 12) (p : Part) : Prop :=
       on n (fun t => t.me.pc = s.me.pc + 4 ∧ (∀ q, t.part q = if q = s.vdPart (s.gangOf s.cur).vd then p else s.part q) ∧
         { t.me with pc := s.me.pc, wstep := s.me.wstep } = s.me ∧ (∀ k, k ≠ s.cur → t.strand k = s.strand k) ∧
         (∀ b, t.byte b = s.byte b) ∧ { t with strands := s.strands, parts := s.parts } = s)
     (∀ n : BitVec 12, n.toNat ∈ [0, 1, 2, 4, 0x13, 0x62] ∨ (0x40 ≤ n.toNat ∧ n.toNat < 0x60) → mine n s.me) ∧
       mine 0x010 { s.me with trapcause := (s.me.trapcause &&& ~~~(0x200000000 : W64)) ||| (v &&& 0x200000000) } ∧
       mine 0x011 { s.me with trapva := v } ∧ mine 0x012 { s.me with trappc := v } ∧
       mine 0x014 { s.me with tmaskf := v &&& 0xFFFFFFFF } ∧
       (∀ i < 4, mine (BitVec.ofNat 12 (0x020 + i)) { s.me with wp := SMap.set s.me.wp i (v &&& 0xFFFFFFFFFFFFF0) } ∧
         mine (BitVec.ofNat 12 (0x024 + i)) { s.me with wp := SMap.set s.me.wp (4 + i) (v &&& 0xFFFF) } ∧
         mine (BitVec.ofNat 12 (0x028 + i)) { s.me with wp := SMap.set s.me.wp (8 + i) (v &&& 0x3F) }) ∧
       on 0x003 (fun t => t.me.pc = s.me.pc + 4 ∧ { t.me with pc := s.me.pc, wstep := s.me.wstep } = s.me ∧
         (t.gang s.me.gang).count = (if s.isSup s.cur then v.setWidth 32 else
           BitVec.ofNat 32 (min (v.toNat % 2 ^ 32) (s.gang s.me.gang).count.toNat)) ∧
         (∀ g, { t.gang g with count := (s.gang g).count, due := (s.gang g).due } = s.gang g) ∧
         (∀ g, g ≠ s.me.gang → t.gang g = s.gang g) ∧
         (∀ k, k ≠ s.cur → t.strand k = s.strand k) ∧ (∀ b, t.byte b = s.byte b) ∧
         { t with strands := s.strands, gangs := s.gangs } = s) ∧
       (s.isSup s.cur = false → mine 0x060 s.me ∧ mine 0x061 s.me) ∧
       (s.isSup s.cur = true →
         partIs 0x060 { part with fqbase := (v &&& 0xFFFFFFFFFFF000) ||| BitVec.ofNat 64 (min (v.toNat % 16) 10) } ∧
         partIs 0x061 { part with fqhead := v &&& 0xFFFF })) ∧
  (∀ (s : State) (k : Nat) (v : W64), (s.strand k).live = true →
     Gives (.yielddlWrite k v) s (fun t =>
       (t.gang (s.strand k).gang).count = (if s.isSup k then v.setWidth 32 else
         BitVec.ofNat 32 (min (v.toNat % 2 ^ 32) (s.gang (s.strand k).gang).count.toNat)) ∧
       (∀ g, { t.gang g with count := (s.gang g).count, due := (s.gang g).due } = s.gang g) ∧
       (∀ g, g ≠ (s.strand k).gang → t.gang g = s.gang g) ∧ { t with gangs := s.gangs } = s))

/-! ### Traps and the system instructions -/

namespace Sys2Proof.Claims

/-- The frame of a trap of strand k, whose scalar stream is to resume at spc, can be written now: the keys of its two pages, each as the
trap entry finds it. -/
def FrameWritable (s : State) (k k0 k1 : Nat) (spc : W64) : Prop :=
  ∃ s1 s2, s.framePage k (s.trapFrameVa k) true = some (k0, s1) ∧
    (s1.writePage (s.strand k).core k0 0 ({ s.strand k with pc := spc } : Strand).frame).framePage k (s.trapFrameVa k + 4096) true = some (k1, s2)

/-- Nothing holds back or doubles the entry of a trap of strand k: no lane run is unfinished, no reply is owed that it waits for,
it is in no handler, and its virtual device has one. -/
def TrapFree (s : State) (k : Nat) : Prop :=
  (s.strand k).runs = [] ∧ (s.withdrawWaiting k).2.owed k = false ∧ (s.strand k).handler = false ∧ s.tentry (s.gangOf k).vd ≠ 0

/-- R342, R344, R346: strand k has entered its handler. The trap registers hold the trap; all threads are active; the decision queue
and the construct stack are empty; s2 to s5 hold the record, the argument, the index and the frame, every other s register zero. The
v and mask registers and the memberships stay. -/
def Entered (s t : State) (k : Nat) (cause va pc tmaskf : W64) : Prop :=
  let u := s.strand k
  let w := t.strand k
  let g := s.gangOf k
  w.trapcause = cause ∧ w.trapva = va ∧ w.trappc = pc ∧ w.tmaskp = u.activeSet.setWidth 64 ∧ w.tmaskf = tmaskf ∧
    w.handler = true ∧ w.pc = s.tentry g.vd ∧ w.lbase = (s.tlbase g.vd &&& 0xFFFFFFFFFFFFC0) ∧ w.activeSet = 0xFFFFFFFF ∧ w.stack = [] ∧ w.runs = [] ∧
    w.wait = .none ∧ w.laneWait = .none ∧ w.pendTrap = none ∧
    (∀ r : SReg, w.s r = if r = 2 then s.recordVa g.vd g.handle else if r = 3 then g.arg else
      if r = 4 then BitVec.ofNat 64 u.idx else if r = 5 then s.trapFrameVa k else 0) ∧
    w.vregs = u.vregs ∧ w.kregs = u.kregs ∧ w.members = u.members ∧ w.live = u.live ∧ w.wp = u.wp ∧ w.pend = u.pend

end Sys2Proof.Claims

/-- R343: the frame that a TRAP leaves in memory: s1 to s63, the scalar PC at which it resumes, LBASE, k1 to k7, the nesting counters and
the number of runs; every byte outside its two pages is unchanged. For a frame in memory, its pages apart. -/
def Obligations.TrapFrameContents : Prop :=
  ∀ (s : State) (code : BitVec 12) (k0 k1 : Nat), TrapFree s s.cur → FrameWritable s s.cur k0 k1 (s.me.pc + 4) →
    isSpad k0 = false → isSpad k1 = false → (k0 + 4096 ≤ k1 ∨ k1 + 4096 ≤ k0) →
    Gives (.trap code) s (fun t =>
      (∀ r : SReg, r ≠ 0 → t.readLE (k0 + 8 * (r.toNat - 1)) 8 = (s.me.s r).toNat) ∧
        t.readLE (k0 + 0x1F8) 8 = (s.me.pc + 4).toNat ∧ t.readLE (k0 + 0x200) 8 = s.me.lbase.toNat ∧
        (∀ i, 1 ≤ i → i < 8 → t.readLE (k0 + 0x208 + 4 * (i - 1)) 4 = (s.me.kregs.get i).toNat) ∧
        (∀ i < 32, t.readLE (k0 + 0x228 + i) 1 = (s.me.nest.get i).toNat) ∧ t.readLE (k0 + 0x490) 1 = s.me.runs.length ∧
        (∀ a, (a < k0 ∨ k0 + 4096 ≤ a) → (a < k1 ∨ k1 + 4096 ≤ a) → t.byte a = s.byte a))

/-- R349, R342, R344: TRAP, and BKPT with debugging off, enter the handler; TRAPPC is the address after the instruction, and the
trap code of TRAP stands in TCODE. No other strand changes. R340, R342: a trap of TRAP waits while lane runs are unfinished: it is
pending, the strand stays at the TRAP, and nothing else changes. -/
def Obligations.TrapInstructions : Prop :=
  (∀ (s : State) (code : BitVec 12) (k0 k1 : Nat), TrapFree s s.cur → FrameWritable s s.cur k0 k1 (s.me.pc + 4) →
     Gives (.trap code) s (fun t => (∀ k, k ≠ s.cur → t.strand k = s.strand k) ∧
       Entered s t s.cur (BitVec.ofNat 64 (code.toNat * 2 ^ 40 + 11)) 0 (s.me.pc + 4) 0) ∧
     (s.vdDebug (s.gangOf s.cur).vd = false →
       Gives .bkpt s (fun t => (∀ k, k ≠ s.cur → t.strand k = s.strand k) ∧ Entered s t s.cur 12 0 (s.me.pc + 4) 0))) ∧
  (∀ (s : State) (code : BitVec 12), s.me.runs ≠ [] →
     Gives (.trap code) s (fun t => OnlyMe s t ∧
       (∃ r, t.me.pendTrap = some r ∧ r.code = 11 ∧ r.tcode = code.toNat ∧ r.pc = s.me.pc + 4 ∧ r.lane = false) ∧
       { t.me with pendTrap := s.me.pendTrap, wait := s.me.wait } = s.me))

/-- R340, R341, R342: TRAP_ENTRY enters the handler for the pending trap of a strand; with none pending, for the oldest asynchronous
cause, with the scalar PC as TRAPPC. A trap in a handler, or with no handler, is a double trap: every strand of the task stops (R348). -/
def Obligations.TrapEntryEvent : Prop :=
  ∀ (s : State) (k k0 k1 : Nat) (r : TrapReq), s.trapEntryDue k = true →
    (FrameWritable s k k0 k1 (if r.lane then (s.strand k).pc else r.pc) → (s.strand k).handler = false →
      s.tentry (s.gangOf k).vd ≠ 0 → (s.strand k).pendTrap = some r → Gives (.trapEntry k) s (fun t => Entered s t k r.cause r.va r.pc (r.tmaskf.setWidth 64))) ∧
    (let s' := s.setStrand k { s.strand k with pend := (s.strand k).pend.tail };
      (s.strand k).pendTrap = none → (s.strand k).pend.head? = some r → s.tentry (s.gangOf k).vd ≠ 0 → FrameWritable s' k k0 k1 (s.strand k).pc →
        Gives (.trapEntry k) s (fun t => Entered s' t k r.cause r.va (s.strand k).pc (r.tmaskf.setWidth 64))) ∧
    ((s.strand k).handler = true ∨ s.tentry (s.gangOf k).vd = 0 →
      (s.strand k).pendTrap = some r ∨ (s.strand k).pendTrap = none ∧ (s.strand k).pend.head? = some r →
      Gives (.trapEntry k) s (fun t => ∀ j, (s.strand j).gang = (s.strand k).gang → (t.strand j).live = false))

/-- R347: RFT restores the registers that the frame holds and leaves the handler: it goes on at TRAPPC for a scalar cause, at the
PC of the frame for a lane cause. It waits for the strand's own stores and for a bank in its refresh window (R73, R167). Outside a
handler it is illegal. -/
def Obligations.ReturnFromTrap : Prop :=
  ∀ (s : State) (k0 k1 : Nat) (s1 s2 : State),
    (s.me.handler = false → exec .rft s = .next (s.raiseScalar cIllegal 0)) ∧
      (s.me.handler = true → WindowsEmpty s → Drained s → s.frameReady s.cur = false → exec .rft s = .next s) ∧
      (s.me.handler = true → WindowsEmpty s → Drained s → s.frameReady s.cur = true → s.me.wait = .none → s.me.laneWait = .none →
        s.framePage s.cur s.me.frameVa false = some (k0, s1) → s.framePage s.cur (s.me.frameVa + 4096) false = some (k1, s2) →
        (s.me.restore (s.frameRead k0 k1)).isSome = true →
        let word (off n : Nat) : Nat := s.frameRead k0 k1 off n
        Gives .rft s (fun t => t.me.handler = false ∧
          (∀ r : SReg, r ≠ 0 → t.me.s r = BitVec.ofNat 64 (word (8 * (r.toNat - 1)) 8)) ∧
          t.me.pc = (if s.me.trapcause.getLsbD 32 then BitVec.ofNat 64 (word 0x1F8 8) else s.me.trappc) ∧
          t.me.lbase = (BitVec.ofNat 64 (word 0x200 8) &&& 0xFFFFFFFFFFFFC0) ∧
          (∀ i, 1 ≤ i → i < 8 → t.me.kregs.get i = BitVec.ofNat 32 (word (0x208 + 4 * (i - 1)) 4)) ∧
          (∀ i < 32, t.me.nest.get i = BitVec.ofNat 8 (word (0x228 + i) 1)) ∧
          t.me.runs.length = word 0x490 1 ∧ t.me.vregs = s.me.vregs ∧ t.me.members = s.me.members ∧
          t.me.trapcause = s.me.trapcause ∧ t.me.trapva = s.me.trapva ∧ t.me.trappc = s.me.trappc))

/-- R39: HALT, RESUME, CSAVE and CRSTR raise the privileged-instruction trap in a strand that is no supervisor strand, and have no
other effect. R365: HALT by a supervisor strand on another task of its partition. The operation 0 halts the stack in place, 1
releases it, 2 marks a saved task halted; each answers DONE. An operation or a task that is not there answers ERROR. -/
def Obligations.PrivilegeAndHalt : Prop :=
  (∀ (s : State) (d a b : SReg) (i : Instr),
     i ∈ [Instr.haltInPlace d a b, .haltRelease d a b, .haltAndSuspend d a b, .resumeRestart d a b, .resumePage d a b,
       .resumeDeliverFault d a b, .resumeFailTask d a b, .csave d a b, .crstr d a b] →
     s.isSup s.cur = false → exec i s = .next (s.raiseScalar cPriv 0)) ∧
  (∀ (s : State) (d a b : SReg) (i : Instr) (g : Nat),
     i ∈ [Instr.haltInPlace d a b, .haltRelease d a b, .haltAndSuspend d a b] → s.isSup s.cur = true → d ≠ 0 →
     let task := s.taskOf (s.vdPart (s.gangOf s.cur).vd) ((s.me.s a).toNat % 2 ^ 32)
     let answers (v : W64) (P : State → Prop) : Prop :=
       Gives i s (fun t => t.me.s d = v ∧ t.me.pc = s.me.pc + 4 ∧ (∀ r, r ≠ d → t.me.s r = s.me.s r) ∧
         (∀ x, t.byte x = s.byte x) ∧ P t)
     (3 ≤ (s.me.s b).toNat ∨ task = none → answers 3 (fun t => t.gangs = s.gangs)) ∧
       (task = some g → s.me.gang ∉ s.stackOf g →
         (s.me.s b = 0 → (∀ x ∈ (s.haltStack g true).stackOf g, (s.haltStack g true).collected x = true) →
           answers 0 (fun t => ∀ x ∈ s.stackOf g, (t.gang x).halted = true)) ∧
         (s.me.s b = 1 → (∀ j, (s.job j).reached = []) →
           answers 0 (fun t => ∀ x ∈ s.stackOf g, (t.gang x).halted = false ∧ (t.gang x).hsusp = false)) ∧
         (s.me.s b = 2 → ((s.gang g).place = .saved ∨ (s.gang g).place = .beneath) →
           answers 0 (fun t => (t.gang g).hsusp = true ∧ (t.gang g).place = (s.gang g).place))))

/-- R368: WFE by a supervisor strand for the fault queue: with an entry unread it answers at once, else it waits, for 2^32 ticks where
the count is 0; a mask that it may not have answers ERROR; WFE_TIMEOUT answers bit 63 when no ticks are left. -/
def Obligations.WaitForEvent : Prop :=
  ∀ (s : State) (d a b : SReg) (k : Nat) (m p : Nat) (w : W64),
    let part := s.part (s.vdPart (s.gangOf s.cur).vd)
    let mask := (s.me.s a).toNat % 2 ^ 32
    let ticks := (s.me.s a).toNat / 2 ^ 32
    (8 ≤ mask ∨ mask / 2 % 2 = 1 ∨ mask % 2 = 1 ∧ s.isSup s.cur = false ∨ mask / 4 % 2 = 1 ∧ (s.me.s b).toNat % 8 ≠ 0 →
        Gives (.wfe d a b) s (fun t => Wrote s t d 3 (s.me.pc + 4))) ∧
      (mask = 1 → s.isSup s.cur = true → part.fqtail ≠ part.fqhead →
        Gives (.wfe d a b) s (fun t => (d ≠ 0 → t.me.s d = 1) ∧ (∀ r, r ≠ d → t.me.s r = s.me.s r) ∧ t.me.pc = s.me.pc + 4 ∧
          t.me.wait = .none ∧ ∀ x, t.byte x = s.byte x)) ∧
      (mask = 1 → s.isSup s.cur = true → part.fqtail = part.fqhead →
        Gives (.wfe d a b) s (fun t => OnlyMe s t ∧
          t.me = { s.me with wait := .wfe 1 0 0 (if ticks = 0 then 2 ^ 32 else ticks) d })) ∧
      ((s.strand k).live = true → (s.strand k).wait = .wfe m p w 0 d →
        Gives (.wfeTimeout k) s (fun t => (d ≠ 0 → (t.strand k).s d = 0x8000000000000000) ∧
          (∀ r, r ≠ d → (t.strand k).s r = (s.strand k).s r) ∧ (t.strand k).pc = (s.strand k).pc + 4 ∧
          (t.strand k).wait = .none ∧ (∀ j, j ≠ k → t.strand j = s.strand j) ∧ ∀ x, t.byte x = s.byte x))

namespace Sys2Proof.Claims

/-- Strand k is in no wait of WFE, which a write of memory could end. -/
def NotInWfe (s : State) (k : Nat) : Prop := ∀ c ∈ s.strands, c.1 = k → ∀ m p w n d, c.2.wait ≠ .wfe m p w n d

end Sys2Proof.Claims

/-- R353: RESUME by a supervisor strand answers how many parties of its partition its action takes: those that the identifier names,
and with action 1 those of the same virtual device and page. A restart ends the park of each such strand that holds back no access; a
delivery ends it with the strand's trap pending, which it enters when it runs (log entry 40); a failure ends the task of each, and the
issuing strand with its own. Memory changes only where the status of a saved strand stands in its context image, and there holds its
status (R354, R358); a failed task changes it only at the constellations of its strands. An action that is not listed answers ERROR. -/
def Obligations.ResumeActions : Prop :=
  ∀ (s : State) (d a b : SReg) (i : Instr),
    i ∈ [Instr.resumeRestart d a b, .resumePage d a b, .resumeDeliverFault d a b, .resumeFailTask d a b] →
    s.isSup s.cur = true → WindowsEmpty s → Drained s → s.releaseReady s.cur false .domain = true → NotInWfe s s.cur →
    let all := s.parties (s.vdPart (s.gangOf s.cur).vd)
    let named (x : Party) : Bool := x.p.fid == (s.me.s a).toNat % 2 ^ 32
    let paged (x : Party) : Bool := all.any (fun y => named y && y.vd == x.vd && y.p.va.toNat / 4096 == x.p.va.toNat / 4096)
    let each (f : Party → Bool) (P : Nat → Prop) : Prop := ∀ x ∈ all, f x = true → ∀ k, x.strand = some k → P k
    let answers (t : State) (f : Party → Bool) : Prop := (d ≠ 0 → t.me.s d = BitVec.ofNat 64 (all.countP f)) ∧ t.me.pc = s.me.pc + 4 ∧
      ∀ r, r ≠ d → t.me.s r = s.me.s r
    let saved (k : Nat) : Prop := (s.gangOf k).place ≠ .resident ∧ (s.gangOf k).ctx ≠ []
    let same (t : State) (f : Party → Bool) : Prop :=
      (each f (fun k => ¬saved k) → ∀ x, t.byte x = s.byte x) ∧
        each f (fun k => each f (fun j => j = k ∨ ¬saved j) → ∀ x, (∀ q, s.statusKey k = some q → x < q ∨ q + 4 ≤ x) → t.byte x = s.byte x) ∧
        each f (fun k => each f (fun j => j = k ∨ ¬saved j) → ∀ q, s.statusKey k = some q → q % 128 ≤ 124 → (∀ y < 4, s.roByte (q + y) = false) →
          t.readLE q 4 = (t.strand k).statusWord)
    let restarts (f : Party → Bool) : Prop := each f (fun k => (s.strand k).held = []) → Gives i s (fun t => answers t f ∧ same t f ∧
      each f (fun k => (t.strand k).parked = none ∧ (t.strand k).pendTrap = (s.strand k).pendTrap))
    (4 ≤ (s.me.s b).toNat → Gives i s (fun t => Wrote s t d 3 (s.me.pc + 4))) ∧
      (s.me.s b = 0 → restarts named) ∧
      (s.me.s b = 1 → restarts paged) ∧
      (s.me.s b = 2 → (∀ x ∈ all, named x = true → x.strand ≠ none ∧ x.strand ≠ some s.cur) →
        Gives i s (fun t => answers t named ∧ same t named ∧
          each named (fun k => (t.strand k).parked = none ∧ ∃ r, (t.strand k).pendTrap = some r ∧ (r.code = 7 ∨ r.code = 8)))) ∧
      (s.me.s b = 3 →
        ((∀ x ∈ all, named x = true → ∃ g, s.partyGang x = some g ∧ g ≠ s.me.gang ∧ s.cur ∉ s.strandsOf g) →
          Gives i s (fun t => answers t named ∧
            ((∀ x ∈ all, named x = true → ∀ g, s.partyGang x = some g → ∀ k ∈ s.strandsOf g, (s.strand k).members = []) → ∀ x, t.byte x = s.byte x) ∧
            each named (fun k => (t.strand k).live = false ∧ 2 ≤ (t.gang (s.strand k).gang).worst))) ∧
        ((∃ x ∈ all, named x = true ∧ s.partyGang x = some s.me.gang) → Gives i s (fun t => t.me.live = false)))

namespace Sys2Proof.Claims

/-- A scalar instruction has answered v in rd: the other registers stay, the PC is past it. -/
def Answered (s t : State) (d : SReg) (v : W64) : Prop :=
  (d ≠ 0 → t.me.s d = v) ∧ t.me.s 0 = 0 ∧ (∀ r, r ≠ d → t.me.s r = s.me.s r) ∧ t.me.pc = s.me.pc + 4

/-- The error log of the current strand's die has one entry more, whose VA field is va (R11, R355). -/
def LoggedVa (s t : State) (va : W64) : Prop :=
  (t.die s.me.die).errIdx = (s.die s.me.die).errIdx + 1 ∧
    ∃ e : LogEntry, (t.die s.me.die).errLog = (s.die s.me.die).errLog.set ((s.die s.me.die).errIdx.toNat % 1024) e ∧ e[1]? = some va

/-- The bytes of a buffer in memory that a scalar instruction of the current strand may reach now: its pages, each with a key. -/
def BufferAt (s : State) (write : Bool) (va : W64) (n : Nat) (keys : List (Nat × Nat)) : Prop :=
  va.toNat % 8 = 0 ∧ keys.map (·.2) = (pagesOf va n).map (·.2) ∧
    ∀ e ∈ (pagesOf va n).zip keys, isSpad e.2.1 = false ∧ s.paOk e.2.1 = true ∧ s.region e.2.1 = .hbm ∧
      s.vdRefused (s.gangOf s.cur).vd e.2.1 = false ∧
      ∀ al, al = 1 ∨ al = 8 ∧ e.1.1 = va →
        s.checkPage { bytes := e.1.2, align := al, need := if write then needW else needR, wp := if write then wpSt else wpLd } e.1.1 =
          .pass e.2.1

end Sys2Proof.Claims

/-- R361, R358: CSAVE writes the image of a saved task of the partition at the buffer and answers its size; CRSTR reads an image
whose header is that task's and answers DONE, COUNT being the image's; memory changes where the image stands in the context pool. A task
that is not saved answers ERROR; for a handle that no pool holds, the pool base of the strand's virtual device stands in the error log
(R245; log entry 39). -/
def Obligations.ContextSaveAndRestore : Prop :=
  ∀ (s : State) (d a b : SReg) (g : Nat) (keys keys0 : List (Nat × Nat)) (u : State),
    s.isSup s.cur = true → WindowsEmpty s → Drained s → s.releaseReady s.cur false .domain = true →
    let task := s.savedTask (s.vdPart (s.gangOf s.cur).vd) ((s.me.s a).toNat % 2 ^ 32)
    let n := (s.image g).length
    let h := (s.me.s a).toNat % 2 ^ 32
    (∀ i : Instr, i ∈ [Instr.csave d a b, .crstr d a b] → task = none →
      (s.namesTask (s.vdPart (s.gangOf s.cur).vd) h = true → Gives i s (fun t => Wrote s t d 3 (s.me.pc + 4))) ∧
        (s.namesTask (s.vdPart (s.gangOf s.cur).vd) h = false →
          Gives i s (fun t => Answered s t d 3 ∧ LoggedVa s t (s.poolVa (s.gangOf s.cur).vd) ∧ ∀ x, t.byte x = s.byte x))) ∧
      (task = some g → NotInWfe s s.cur → BufferAt s true (s.me.s b) n keys →
        Gives (.csave d a b) s (fun t => (d ≠ 0 → t.me.s d = BitVec.ofNat 64 n) ∧ t.me.pc = s.me.pc + 4 ∧
          (∀ r, r ≠ d → t.me.s r = s.me.s r) ∧ t.mem = (s.writeAreas s.me.core keys (s.image g)).mem ∧ t.gangs = s.gangs)) ∧
      (task = some g → NotInWfe s s.cur → s.cur ∉ s.strandsOf g → BufferAt s false (s.me.s b) 256 keys0 → BufferAt s false (s.me.s b) n keys →
        (s.readAreas keys0).take 44 = ((s.image g).take 44) → s.restoreImage g (s.readAreas keys) = some u →
        Gives (.crstr d a b) s (fun t => (d ≠ 0 → t.me.s d = 0) ∧ t.me.pc = s.me.pc + 4 ∧ (∀ r, r ≠ d → t.me.s r = s.me.s r) ∧
          (t.gang g).count = BitVec.ofNat 32 (leAt (s.readAreas keys) 44 4) ∧ t.mem = u.mem ∧
          ((s.gang g).ctx = [] → ∀ x, t.byte x = s.byte x)))

/-! ### Constellations, barriers, locks, messages -/

namespace Sys2Proof.Claims

/-- What an instruction that drains the lanes and releases at a scope waits for (R78, R200) holds. -/
def Released (s : State) (sc : Scope) : Prop := WindowsEmpty s ∧ Drained s ∧ s.releaseReady s.cur false sc = true

/-- The home of a location in memory may serve the current strand: it has received what the strand's own work released before it (R205),
and no store of the strand to the location is still on its way. -/
def HomeServes (s : State) (pa : Nat) : Prop :=
  s.homeReady s.cur pa = true ∧ s.ownClear s.cur s.me.accs (pa / 16 * 16) 16 = true

/-- The entry of constellation n of the current strand's job. -/
def conOf (s : State) (n : Nat) : Nat := (s.job (s.jobKey s.cur)).conPa n

/-- An entry's PHASE, ARRIVED and MEMBERS after MEMBERS and ARRIVED have become those given (CompleteCheck, R227): a phase in which
all of them have arrived ends. Only the entry's second doubleword changes. -/
def EntryBecomes (s t : State) (pa arrived members : Nat) : Prop :=
  let full : Prop := 0 < members ∧ arrived = members
  conMembers (t.conHi pa) = members ∧ (full → conArrived (t.conHi pa) = 0 ∧ conPhase (t.conHi pa) = !(conPhase (s.conHi pa))) ∧
    (¬full → conArrived (t.conHi pa) = arrived ∧ conPhase (t.conHi pa) = conPhase (s.conHi pa)) ∧
    ∀ a, a < pa + 8 ∨ pa + 16 ≤ a → t.byte a = s.byte a

end Sys2Proof.Claims

/-- R228: an arrival (ARRIVE, and the first step of BAR) counts once in the phase that stands, and is pending for it; BAR completes
when the phase has changed. R228, R224: a BAR or ARRIVE that names no membership answers ERROR, and one that meets the cancel state
CANCELLED; nothing arrives. A BAR that has begun waits for the phase whatever VALID becomes. -/
def Obligations.Barriers : Prop :=
  (∀ (s : State) (d a : SReg) (m : Member), s.cancelled s.cur = false →
     let n := (s.me.s a).toNat % 256
     let pa := conOf s n
     let hi := s.conHi pa
     let arrives (t : State) (bar : Bool) : Prop := EntryBecomes s t pa ((conArrived hi + 1) % 2 ^ 20) (conMembers hi) ∧
       ∀ x ∈ t.me.members, x.cn = n → x = { m with pending := true, phase := conPhase hi, inBar := bar }
     let begun : Prop := s.memberOf s.cur n = some m ∨
       s.memberOf s.cur n = none ∧ s.me.members.find? (fun x => x.cn == n && x.inBar) = some m
     (s.memberOf s.cur n = some m → HomeServes s pa →
       (Released s m.scope → (m.pending = true → m.phase ≠ conPhase hi) →
         Gives (.arrive d a) s (fun t => Answered s t d 0 ∧ arrives t m.inBar)) ∧
       (Released s m.scope → m.pending = false → Gives (.bar d a) s (fun t => arrives t true ∧ t.me.pc = s.me.pc ∧ ∀ r, t.me.s r = s.me.s r))) ∧
     (begun → m.pending = true → conPhase hi = m.phase →
       Gives (.bar d a) s (fun t => OnlyMe s t ∧ { t.me with members := s.me.members } = s.me ∧
         ∀ x ∈ t.me.members, x.cn = n → x = { m with inBar := true })) ∧
     (begun → m.pending = true → conPhase hi ≠ m.phase → HomeServes s pa →
       Gives (.bar d a) s (fun t => Answered s t d 0 ∧ (∀ x, t.byte x = s.byte x) ∧
         ∀ x ∈ t.me.members, x.cn = n → x = { m with pending := false, inBar := false }))) ∧
  (∀ (s : State) (d a : SReg) (i : Instr), i ∈ [Instr.bar d a, .arrive d a] →
     (s.cancelled s.cur = true → Gives i s (fun t => Wrote s t d 1 (s.me.pc + 4))) ∧
       (s.cancelled s.cur = false → s.memberOf s.cur ((s.me.s a).toNat % 256) = none →
         (∀ x ∈ s.me.members, x.cn = (s.me.s a).toNat % 256 → x.inBar = false) →
         Gives i s (fun t => Answered s t d 3 ∧ (∀ x, t.byte x = s.byte x) ∧ ∀ k, k ≠ s.cur → t.strand k = s.strand k)))

/-- R227: JOIN adds a membership and counts it in MEMBERS; LEAVE takes both away, with a pending arrival of the phase that stands. A
strand that is already a member joins, and one that is none leaves, without effect on the entry. R225: JOIN reads VALID in the entry: with
the bit clear, or no table, it answers ERROR. -/
def Obligations.JoinAndLeave : Prop :=
  ∀ (s : State) (d a : SReg), WindowsEmpty s → Drained s →
    let n := (s.me.s a).toNat % 256
    let pa := conOf s n
    let lo := s.conLo pa
    let hi := s.conHi pa
    HomeServes s pa →
      ((s.job (s.jobKey s.cur)).ctabPa = [] ∨ lo.getLsbD 63 = false →
        Gives (.join d a) s (fun t => Answered s t d 3 ∧ t.me.members = s.me.members ∧ ∀ x, t.byte x = s.byte x)) ∧
      ((s.job (s.jobKey s.cur)).ctabPa ≠ [] → lo.getLsbD 63 = true → fieldOf lo 32 15 + fieldOf lo 0 16 ≤ 32768 → conMembers hi < 2 ^ 20 - 1 →
        ((∀ x ∈ s.me.members, x.cn ≠ n) → s.me.members.length < 4 →
          Gives (.join d a) s (fun t => Answered s t d 0 ∧ conMembers (t.conHi pa) = conMembers hi + 1 ∧
            conArrived (t.conHi pa) = conArrived hi ∧ conPhase (t.conHi pa) = conPhase hi ∧
            (∀ x, x < pa + 8 ∨ pa + 16 ≤ x → t.byte x = s.byte x) ∧
            ∃ x, t.me.members = s.me.members ++ [x] ∧ x.cn = n ∧ x.pending = false)) ∧
        ((∃ x ∈ s.me.members, x.cn = n) →
          Gives (.join d a) s (fun t => Answered s t d 0 ∧ t.me.members = s.me.members ∧ ∀ x, t.byte x = s.byte x))) ∧
      ((∀ x ∈ s.me.members, x.cn ≠ n) →
        Gives (.leave d a) s (fun t => Answered s t d 0 ∧ t.me.members = s.me.members ∧ ∀ x, t.byte x = s.byte x)) ∧
      (∀ m, s.me.members.find? (fun x => x.cn == n) = some m →
        Gives (.leave d a) s (fun t => Answered s t d 0 ∧ (∀ x, x ∈ t.me.members ↔ x ∈ s.me.members ∧ x.cn ≠ n) ∧
          EntryBecomes s t pa (if m.pending = true ∧ m.phase = conPhase hi then conArrived hi - 1 else conArrived hi)
            (conMembers hi - 1)))

namespace Sys2Proof.Claims

/-- The location that a scalar instruction of the current strand names passes its checks, with a key. -/
def Reaches (s : State) (f : AccForm) (va : W64) (key : Nat) : Prop :=
  va.toNat % f.align = 0 ∧ (f.spadOnly = true → inAperture va = true) ∧ s.translate s.cur false f.need va = .key key ∧
    Unwatched s f.wp va f.bytes

/-- A cell of 16 bytes in HBM4 that the current strand reaches, at a home that may serve it; no constellation table holds it, and the
strand waits for no write of memory. -/
def CellAt (s : State) (need : Nat) (va : W64) (key : Nat) : Prop :=
  Reaches s (cellForm need) va key ∧ key % 16 = 0 ∧ s.hbmCell s.cur key = true ∧ HomeServes s key ∧ NotInWfe s s.cur ∧
    ∀ i < 16, s.roByte (key + i) = false

/-- Only the 16 bytes at key have changed, and they hold v. -/
def CellBecomes (s t : State) (key v : Nat) : Prop :=
  t.readLE key 16 = v ∧ ∀ a, a < key ∨ key + 16 ≤ a → t.byte a = s.byte a

end Sys2Proof.Claims

/-- R235, R238: LOCK of a free cell takes it for the strand and answers DONE, or ABANDONED where its last holder ended with it; of a
cell that another strand holds, it waits in the home's table; UNLOCK by the holder frees the cell, or passes it to the earliest
waiter: the cell names the waiter, it leaves the holder's list of held locks for the waiter's, and the waiter is answered DONE. R236: a park that a full waiter table refused is issued again: LOCK_PARK_REISSUE ends the strand's
wait and changes nothing else. -/
def Obligations.Locks : Prop :=
  (∀ (s : State) (d a : SReg) (key : Nat), CellAt s needRW (s.me.s a) key →
     let g := s.gangOf s.cur
     let c := s.readLE key 16
     let own := lockOwn g.handle s.me.role s.me.idx
     let mine : Prop := c / 2 ^ 32 % 2 ^ 43 = own / 2 ^ 32 % 2 ^ 43
     (s.cancelled s.cur = false → c % 2 = 0 → g.locks.length < 8 →
         Gives (.lock d a) s (fun t => Answered s t d (if c / 2 % 2 = 1 then 4 else 0) ∧ CellBecomes s t key own ∧
           (t.gang s.me.gang).locks = g.locks ++ [(key, s.me.s a)])) ∧
       (s.cancelled s.cur = false → c % 2 = 1 → ¬mine → s.tableFull key = false →
         Gives (.lock d a) s (fun t => t.me.wait = .lock key (s.me.s a) d ∧ t.me.pc = s.me.pc ∧ (∀ r, t.me.s r = s.me.s r) ∧
           ({ pa := key, strand := s.cur, kind := 1 } : Waiter) ∈ t.waiters)) ∧
       (Released s .domain → c % 2 = 1 → mine →
         ((∀ w ∈ s.waiters, w.pa = key → w.kind ≠ 1) →
           Gives (.unlock a) s (fun t => t.me.pc = s.me.pc + 4 ∧ (∀ r, t.me.s r = s.me.s r) ∧ CellBecomes s t key (c / 2 % 2 * 2) ∧
             (t.gang s.me.gang).locks = g.locks.filter (fun l => l.1 != key))) ∧
         (∀ w x y e, s.waiters.find? (fun w => w.pa == key && w.kind == 1) = some w → w.strand ≠ s.cur → NotInWfe s w.strand →
           (s.strand w.strand).wait = .lock x y e →
           let h := (s.strand w.strand).gang
           let its := lockOwn (s.gang h).handle (s.strand w.strand).role (s.strand w.strand).idx
           let apart : Prop := ∀ q, (s.writeLE 999 key 16 its).recKey (s.gang h).vd (s.gang h).handle = some q → q + 8 ≤ key ∨ key + 16 ≤ q
           let left := g.locks.filter (fun l => l.1 != key)
           Gives (.unlock a) s (fun t => t.me.pc = s.me.pc + 4 ∧ (∀ r, t.me.s r = s.me.s r) ∧
             ((s.gang h).present = true → (t.strand w.strand).wait = .none ∧ (e ≠ 0 → (t.strand w.strand).s e = 0) ∧
               (apart → t.readLE key 16 = its)) ∧
             ((s.gang h).present = false → (t.strand w.strand).wait = .answered e 0 ∧ CellBecomes s t key its) ∧
             (t.gang s.me.gang).locks = (if h = s.me.gang then left ++ [(key, y)] else left) ∧
             (h ≠ s.me.gang → (t.gang h).locks = (s.gang h).locks ++ [(key, y)]))))) ∧
  (∀ (s : State) (k : Nat), (s.strand k).wait = .refused →
     Gives (.lockParkReissue k) s (fun t => t.strand k = { s.strand k with wait := .none } ∧
       (∀ j, j ≠ k → t.strand j = s.strand j) ∧ { t with strands := s.strands } = s))

/-- R205, R232: ARRIVE.CB counts bytes at a count barrier of the aperture: ARRIVED grows by sb[47:0]; when it reaches a threshold
that is not 0 the phase flips and the excess stays. R231: CBWAIT starts a wait at the granule's port, for the phase or the
full/empty bit that sb selects; the strand waits there. Its reply answers DONE in rd and the strand goes on. -/
def Obligations.CountBarriers : Prop :=
  (∀ (s u : State) (a b : SReg) (key : Nat), Released s .die → Reaches s granuleForm (s.me.s a) key →
     s.portReady s.cur key = true →
     s.clearWait.spadAccess s.cur s.me.gang key 16 (apertureSel (s.me.s a) != 0) true (s.isSup s.cur) = some u →
     let v := u.readLE key 16
     let expected := v % 2 ^ 48
     let arrived := v / 2 ^ 48 % 2 ^ 48 + (s.me.s b).toNat % 2 ^ 48
     let phase := v / 2 ^ 127 % 2
     (expected ≠ 0 → arrived < expected + 2 ^ 48) → (∀ i < 16, inQueueDesc (key + i) = false) → NotInWfe s s.cur →
     Gives (.arriveCb a b) s (fun t => t.me.pc = s.me.pc + 4 ∧ (∀ r, t.me.s r = s.me.s r) ∧
       (if expected ≠ 0 ∧ expected ≤ arrived then
         CellBecomes u t key (expected + (arrived - expected) * 2 ^ 48 + (1 - phase) * 2 ^ 127)
       else CellBecomes u t key (expected + min arrived (2 ^ 48 - 1) * 2 ^ 48 + phase * 2 ^ 127)))) ∧
  (∀ (s : State) (d a b : SReg) (key id : Nat) (f : Flight),
     let mode := (s.me.s b).toNat % 4
     (s.cancelled s.cur = false → Reaches s granuleForm (s.me.s a) key →
       Gives (.cbwait d a b) s (fun t => t.me.wait = .port d ∧ t.me.pc = s.me.pc ∧ (∀ r, t.me.s r = s.me.s r) ∧
         Asked s t (fun f => f.lane = false ∧ f.key = key ∧ f.bytes = 16 ∧ f.dest = .s d ∧ f.stage = .home ∧
           f.kind = (if mode < 2 then .phase (mode == 1) else .fewait (mode == 2)) ∧ f.ord = .acq ∧
           f.scope = (if mode < 2 then .domain else .die)))) ∧
     (s.flight? id = some f → f.agent = none → f.stage = .reply → s.clockOn (s.flightCore f) = true → f.orphan = false → f.watch = false →
       (∃ one, f.kind = .phase one) ∨ (∃ full, f.kind = .fewait full) → f.dest = .s d → (s.strand f.strand).wait = .port d →
       Gives (.loadReply id) s (fun t => (d ≠ 0 → (t.strand f.strand).s d = 0) ∧
         (∀ r, r ≠ d → (t.strand f.strand).s r = (s.strand f.strand).s r) ∧
         (t.strand f.strand).pc = (s.strand f.strand).pc + 4 ∧ (t.strand f.strand).wait = .none)))

/-- R242, R243, R244: MSEND reads its payload, sends the message and waits; MRECV posts its receive and waits. A message arrives in the
order of its clusters' pair: it goes into a posted receive that takes it, which is posted no more and whose strand is answered, or into
the port's overflow store; it leaves the list of messages, and its sender is answered DONE. -/
def Obligations.Messages : Prop :=
  ∀ (s u : State) (d a b : SReg) (key n : Nat) (m : Msg),
    let va := s.me.s a
    let w := s.me.s b
    let units := w.toNat % 4 + 1
    let c := s.me.core / 2
    (Released s .domain → Reaches s payloadForm va key → fieldOf w 48 16 = 0 → fieldOf w 2 18 = 0 → ownPayload va units = true →
        s.hasCluster (fieldOf w 20 12) = true → s.clearWait.spadGranules s.cur key false units = some u →
        Gives (.msend d a b) s (fun t => t.me.wait = .send d ∧ t.me.pc = s.me.pc ∧ (∀ r, t.me.s r = s.me.s r) ∧
          ∃ x, t.msgs = s.msgs ++ [x] ∧ x.src = s.clusterNum s.me.core ∧ x.dst = fieldOf w 20 12 ∧ x.tag = fieldOf w 32 16 ∧
            x.units = units ∧ x.payload = u.bytes key (16 * units) ∧ x.strand = some s.cur)) ∧
      (s.cancelled s.cur = false → Reaches s payloadForm va key → fieldOf w 50 14 = 0 → fieldOf w 2 18 = 0 →
        ownPayload va units = true → s.clearWait.spadGranules s.cur key true units = some u → (s.cluster c).overflow = [] →
        (s.cluster c).posted.length < 32 →
        Gives (.mrecv d a b) s (fun t => t.me.wait = .recv d ∧ t.me.pc = s.me.pc ∧ (∀ r, t.me.s r = s.me.s r) ∧
          (t.cluster c).posted = (s.cluster c).posted ++
            [Posted.mk s.cur (w.getLsbD 49) (w.getLsbD 48) (fieldOf w 20 12) (fieldOf w 32 16) units va])) ∧
      (s.msgs[n]? = some m → (∀ x ∈ s.msgs.take n, x.src ≠ m.src ∨ x.dst ≠ m.dst) → m.dst / 256 = s.pkgnum.toNat →
        s.hasCluster m.dst = true →
        ((∀ p ∈ (s.cluster (m.dst % 256)).posted, p.takes m = false) → (s.cluster (m.dst % 256)).overflow.length < 64 →
          Gives (.messageArrival n) s (fun t => t.msgs = s.msgs.eraseIdx n ∧
            (t.cluster (m.dst % 256)).overflow = (s.cluster (m.dst % 256)).overflow ++ [m] ∧
            ∀ k e, m.strand = some k → (s.strand k).wait = .send e → (t.strand k).wait = .none ∧
              (e ≠ 0 → (t.strand k).s e = 0) ∧ (t.strand k).pc = (s.strand k).pc + 4)) ∧
        (∀ p e i, (s.cluster (m.dst % 256)).posted.find? (fun p => p.takes m) = some p →
          (s.cluster (m.dst % 256)).posted.findIdx? (fun p => p.takes m) = some i → (s.strand p.strand).wait = .recv e →
          m.strand ≠ some p.strand → NotInWfe s p.strand → (∀ k, m.strand = some k → NotInWfe s k) →
          let at_ := spadKey (s.strand p.strand).core (apertureOff p.va)
          (∀ j < m.payload.length, inQueueDesc (at_ + j) = false) →
          (∀ f ∈ s.flights, f.stage = .waiting → f.key / 16 < at_ / 16 ∨ at_ / 16 + m.units ≤ f.key / 16) →
          (({ s with msgs := s.msgs.eraseIdx n } : State).setCluster (m.dst % 256)
            { s.cluster (m.dst % 256) with posted := (s.cluster (m.dst % 256)).posted.eraseIdx i }).putPayload p.strand at_ m = some u →
          Gives (.messageArrival n) s (fun t => t.msgs = s.msgs.eraseIdx n ∧
            (t.cluster (m.dst % 256)).posted = (s.cluster (m.dst % 256)).posted.eraseIdx i ∧
            (t.cluster (m.dst % 256)).overflow = (s.cluster (m.dst % 256)).overflow ∧
            (t.strand p.strand).wait = .none ∧ (t.strand p.strand).pc = (s.strand p.strand).pc + 4 ∧
            (e ≠ 0 → (t.strand p.strand).s e = recvValue 0 m) ∧
            (∀ k x, m.strand = some k → (s.strand k).wait = .send x → (t.strand k).wait = .none ∧
              (x ≠ 0 → (t.strand k).s x = 0) ∧ (t.strand k).pc = (s.strand k).pc + 4) ∧
            ∀ j (h : j < m.payload.length), t.byte (at_ + j) = m.payload[j])))

/-! ### Tasks, futures, the scheduler -/

namespace Sys2Proof.Claims

/-- n bytes from va, which begin at k0 and whose last eight stand at k1, can be read by the current strand in this step: no store of its own
to them is on its way, and no bank that holds them is in its refresh window. -/
def ReadsNow (s : State) (va : W64) (k0 k1 n : Nat) : Prop :=
  let first := min n (4096 - va.toNat % 4096)
  s.readNow s.cur false k0 first = true ∧ (first < n → s.readNow s.cur false (k1 + 8 - (n - first)) (n - first) = true)

/-- The record of a handle may be spawned for the current strand's virtual device, with the image that a template gives it (R265, R268). -/
def SpawnOk (s : State) (h : Nat) (t : Option Image) : Prop :=
  let vd := (s.gangOf s.cur).vd
  s.spawnable vd h = true ∧ s.malformed s.me.core vd ((s.job (s.jobKey s.cur)).ctab != 0) (s.spawnImage vd h t) = false

/-- The 128 bytes of a template in memory that the current strand may read now (R267). -/
def TemplateAt (s : State) (va : W64) (bs : List Byte) : Prop :=
  ∃ k0 k1, ReadsNow s va k0 k1 128 ∧ va.toNat % 8 = 0 ∧ s.translate s.cur false needR va = .key k0 ∧ s.translate s.cur false needR (va + 120) = .key k1 ∧
    Unwatched s wpLd va 128 ∧ Unwatched s wpNone (va + 120) 128 ∧ s.hbmCell s.cur k0 = true ∧ s.hbmCell s.cur k1 = true ∧
    bs = (let first := min 128 (4096 - va.toNat % 4096); s.bytes k0 first ++ s.bytes (k1 + 8 - (128 - first)) (128 - first))

/-- A task's entry stands last in the queue of the current strand's core. -/
def EntryLast (s t : State) (h : Nat) : Prop :=
  ∃ e, (t.core s.me.core).queue = (s.core s.me.core).queue ++ [e] ∧ e.handle = h ∧ e.vd = (s.gangOf s.cur).vd ∧ e.resume = false

end Sys2Proof.Claims

/-- R271: NODEPUT into a batch with room writes the record into the bin's buffer and raises FILL; it answers BUSY while the buffer's
batch runs, without reading its record, and CANCELLED when the cancel state has reached the core. -/
def Obligations.NodePut : Prop :=
  ∀ (s : State) (d a b : SReg) (key : Nat) (bs : List Byte) (dst : List (Nat × Nat)), Released s .domain → s.me.wait = .none →
    let va := s.me.s a
    let src := s.me.s b
    let vd := (s.gangOf s.cur).vd
    let w := s.binWord key 0
    let w1 := s.binWord key 1
    let n := binSize w
    (s.cancelled s.cur = true → Gives (.nodeput d a b) s (fun t => Wrote s t d 1 (s.me.pc + 4))) ∧
      (s.cancelled s.cur = false → va.toNat % 64 = 0 → key % 64 = 0 → s.translate s.cur false needRW va = .key key →
        Unwatched s wpNone va 64 → s.hbmCell s.cur key = true → HomeServes s key → NotInWfe s s.cur →
        s.binBad key = false → w1 / 2 ^ 32 % 2 ^ 16 = (s.gangOf s.cur).job →
        (w1.testBit (48 + binCur w) = true →
          Gives (.nodeput d a b) s (fun t => Answered s t d 2 ∧ ∀ x, t.byte x = s.byte x)) ∧
        (∀ x y, w1.testBit (48 + binCur w) = false → binFill w + 1 < binCoal w + 1 → (0 < binFill w ∨ w1 % 2 ^ 32 = 0) →
          (∀ i < 8, s.roByte (key + i) = false) →
          src.toNat % 8 = 0 → src.toNat % 4096 ≤ 4096 - n → s.translate s.cur false needR src = .key x → s.hbmCell s.cur x = true →
          s.translate s.cur false needR (src + BitVec.ofNat 64 (n - 8)) = .key y → s.hbmCell s.cur y = true → ReadsNow s src x y n →
          Unwatched s wpLd src n → Unwatched s wpNone (src + BitVec.ofNat 64 (n - 8)) n → bs = s.bytes x n →
          s.pageRuns s.me.core vd needW true (pagesOf (s.binBuf key (binCur w) + BitVec.ofNat 64 (binFill w * n)) n) = some dst →
          dst.Pairwise (fun p q => p.1 + p.2 ≤ q.1 ∨ q.1 + q.2 ≤ p.1) →
          (∀ p ∈ dst, isSpad p.1 = false ∧ (p.1 + p.2 ≤ key ∨ key + 8 ≤ p.1) ∧ ∀ i < p.2, s.roByte (p.1 + i) = false) →
          Gives (.nodeput d a b) s (fun t => Answered s t d 0 ∧ t.readLE key 8 = setBits w 56 8 (binFill w + 1) ∧
            t.readAreas dst = bs ∧ ∀ x, (x < key ∨ key + 8 ≤ x) → (∀ p ∈ dst, x < p.1 ∨ p.1 + p.2 ≤ x) → t.byte x = s.byte x)))

/-- R274, R273: FFILL fills an empty future and answers DONE; ffill.cancel cancels it. The strands parked on it are answered DONE or
CANCELLED. A cell that is full or cancelled answers ERROR and stays. R275: FWAIT answers DONE for a full future and CANCELLED for a
cancelled one; on an empty one it parks in the home's table, or, as FWAIT.NB, answers BUSY. FGET reads the value of a full future,
and zero of any other. None writes the cell. A strand whose gang is saved takes its answer with it, and has it on resumption (R278). -/
def Obligations.Futures : Prop :=
  (∀ (s : State) (d a b : SReg) (key : Nat), Released s .domain → CellAt s needW (s.me.s a) key →
     let c := s.readLE key 16
     let idle : Prop := ∀ w ∈ s.waiters, w.pa = key → w.kind ≠ 0
     let wakes (t : State) (v : W64) : Prop := ∀ w ∈ s.waiters, ∀ x y e, w.pa = key → w.kind = 0 → w.strand ≠ s.cur →
       NotInWfe s w.strand → (s.strand w.strand).wait = .future x y e →
       if (s.gangOf w.strand).present = true then (t.strand w.strand).wait = .none ∧ (e ≠ 0 → (t.strand w.strand).s e = v)
       else (t.strand w.strand).wait = .answered e v
     (c.testBit 96 = false → c.testBit 97 = false →
         Gives (.ffill d a b) s (fun t => Answered s t d 0 ∧ wakes t 0 ∧
           (idle → CellBecomes s t key ((s.me.s b).toNat + c / 2 ^ 64 % 2 ^ 32 * 2 ^ 64 + 2 ^ 96))) ∧
         Gives (.ffillCancel d a) s (fun t => Answered s t d 0 ∧ wakes t 1 ∧ (idle → CellBecomes s t key (c % 2 ^ 96 + 2 ^ 97)))) ∧
       (c.testBit 96 = true ∨ c.testBit 97 = true →
         Gives (.ffill d a b) s (fun t => Answered s t d 3 ∧ ∀ x, t.byte x = s.byte x) ∧
         Gives (.ffillCancel d a) s (fun t => Answered s t d 3 ∧ ∀ x, t.byte x = s.byte x))) ∧
  (∀ (s : State) (d a : SReg) (key : Nat), CellAt s needR (s.me.s a) key →
     let c := s.readLE key 16
     let reads (i : Instr) (v : W64) : Prop := Gives i s (fun t => Answered s t d v ∧ ∀ x, t.byte x = s.byte x)
     (s.cancelled s.cur = false →
       (c.testBit 97 = true → reads (.fwait d a) 1 ∧ reads (.fwaitNb d a) 1) ∧
         (c.testBit 97 = false → c.testBit 96 = true → reads (.fwait d a) 0 ∧ reads (.fwaitNb d a) 0) ∧
         (c.testBit 97 = false → c.testBit 96 = false → reads (.fwaitNb d a) 2 ∧
           (s.tableFull key = false → Gives (.fwait d a) s (fun t => t.me.wait = .future key (s.me.s a) d ∧ t.me.pc = s.me.pc ∧
             (∀ r, t.me.s r = s.me.s r) ∧ ({ pa := key, strand := s.cur, kind := 0 } : Waiter) ∈ t.waiters)) ∧
           (s.tableFull key = true → Gives (.fwait d a) s (fun t => t.me.wait = .refused ∧ t.me.pc = s.me.pc)))) ∧
     (s.cancelled s.cur = true → Gives (.fwait d a) s (fun t => Answered s t d 1) ∧ Gives (.fwaitNb d a) s (fun t => Answered s t d 1)) ∧
     reads (.fget d a) (if c.testBit 96 then BitVec.ofNat 64 c else 0))

/-- R281, R283, R284: TDONE ends its strand with its status; CANCEL of a live job, which ends at once where LIVE is 0, answers DONE once
every unit has acknowledged, and waits until then; PRIO up to the job's priority takes effect and answers the old one, above it answers the old one with bit 63. R88:
YIELD ends the task as cancelled where the cancel state has reached the core; else it gives way to a gang of equal or higher
priority that waits for the core, recorded as cooperative; else it has no effect. Which gang waits for the core is the model's choice (log entry
72). -/
def Obligations.TaskEndYieldCancelPriority : Prop :=
  (∀ (s : State) (d a : SReg),
     let g := s.gangOf s.cur
     let cancels (i : Instr) (j : Nat) : Prop :=
       ((s.job j).live = false → Gives i s (fun t => Answered s t d 3 ∧ ∀ x, t.byte x = s.byte x)) ∧
         ((s.job j).live = true → (s.job j).liveCnt = 0 → (∀ c ∈ s.strands, c.1 = s.cur → c.2.wait = .none) →
           Gives i s (fun t => (t.job j).live = false ∧ (t.job j).cancelling = true ∧
             ((∀ u ∈ s.cancelUnits j, u ∈ (s.job j).reached) → Answered s t d 0) ∧
             ((∃ u ∈ s.cancelUnits j, u ∉ (s.job j).reached) → t.me.wait = .cancelAck j d ∧ t.me.pc = s.me.pc ∧ ∀ r, t.me.s r = s.me.s r))) ∧
         ((s.job j).live = true → (s.job j).liveCnt ≠ 0 → (∀ u ∈ s.cancelUnits j, u ∈ (s.job j).reached) →
           Gives i s (fun t => Answered s t d 0 ∧ (t.job j).cancelling = true ∧ ∀ x, t.byte x = s.byte x)) ∧
         ((s.job j).live = true → (s.job j).liveCnt ≠ 0 → (∃ u ∈ s.cancelUnits j, u ∉ (s.job j).reached) →
           Gives i s (fun t => t.me.wait = .cancelAck j d ∧ t.me.pc = s.me.pc ∧ (t.job j).cancelling = true ∧ ∀ x, t.byte x = s.byte x))
     (WindowsEmpty s → Drained s →
         Gives (.tdone a) s (fun t => t.me.live = false ∧ t.me.runs = [] ∧
           (t.gang s.me.gang).worst = max g.worst (min (s.me.s a).toNat 2) ∧ s.me.role ∈ (t.gang s.me.gang).noAdd)) ∧
       cancels (.cancel d) (s.jobKey s.cur) ∧ cancels (.cancelJob d a) (jobKeyOf g.vd ((s.me.s a).toNat % 65536)) ∧
       ((s.me.s a).toNat ≤ (s.job (s.jobKey s.cur)).prio → NotInWfe s s.cur →
         Gives (.prio d a) s (fun t => Answered s t d (BitVec.ofNat 64 (s.recPrio g.vd g.handle)) ∧
           (t.gang s.me.gang).prio = match g.adopter with
             | some w => max (s.me.s a).toNat (s.gang w).prio
             | none => (s.me.s a).toNat)) ∧
       ((s.job (s.jobKey s.cur)).prio < (s.me.s a).toNat →
         Gives (.prio d a) s (fun t => Wrote s t d (BitVec.ofNat 64 (s.recPrio g.vd g.handle + 2 ^ 63)) (s.me.pc + 4)))) ∧
  (∀ (s : State),
     (s.cancelled s.cur = true →
         Gives .yield s (fun t => (∀ k ∈ s.strandsOf s.me.gang, (t.strand k).live = false) ∧ 1 ≤ (t.gang s.me.gang).worst)) ∧
       (s.cancelled s.cur = false → s.competitor s.me.gang = false → Gives .yield s (fun t => t.me.pc = s.me.pc + 4 ∧
         { t.me with pc := s.me.pc, wstep := s.me.wstep } = s.me ∧ (∀ g, { t.gang g with due := (s.gang g).due } = s.gang g) ∧
         (∀ k, k ≠ s.cur → t.strand k = s.strand k) ∧ (∀ a, t.byte a = s.byte a) ∧
         { t with strands := s.strands, gangs := s.gangs } = s)) ∧
       (s.cancelled s.cur = false → s.competitor s.me.gang = true → (s.gang s.me.gang).live = true →
         (s.gang s.me.gang).place = .resident → (((s.setMe s.me.advance).setGang s.me.gang { s.gang s.me.gang with due := 0 }).preempt s.me.gang 1).isSome = true →
         Gives .yield s (fun t => t.me.pc = s.me.pc + 4 ∧ (t.gang s.me.gang).place = .collecting 1)))

namespace Sys2Proof.Claims

/-- A block of entries has moved from one queue to the end of another. -/
def BlockMoved (s t : State) (src dst : QPlace) (block : List QEntry) : Prop :=
  t.queueAt src = (s.queueAt src).filter (fun e => !block.contains e) ∧
    (t.queueAt dst).map (fun e => (e.vd, e.handle, e.resume)) = (s.queueAt dst ++ block).map (fun e => (e.vd, e.handle, e.resume))

end Sys2Proof.Claims

/-- R256: a full core or cluster queue moves its eight entries of lowest priority up; a core that can start none of its entries, and
a cluster whose cores can start none, take up to eight of highest priority from above; a die takes up to eight from another
die that holds more than 64: the one with the fewest UCIe crossings between them, then the lowest number. R260, R261: at the end of an epoch a queue that is three quarters full adds a strand of the role that last popped it
(role 0 where none has: log entry 86), with the lowest index that no live strand of the role holds; a quarter-full queue without a waiting pusher changes nothing. A strand
moves to a free slot of another lane. -/
def Obligations.QueueBlocksAndStrandsMove : Prop :=
  (∀ (s : State) (c d : Nat),
     (let q := (s.core c).queue
      q.length = 64 → (s.cluster (c / 2)).queue.length + 8 ≤ 256 →
       Gives (.queueBlockMove (.coreUp c)) s (fun t => BlockMoved s t (.core c) (.cluster (c / 2)) (lowestEight q))) ∧
     (let q := (s.cluster c).queue
      q.length = 256 → (s.die (c / 16)).queue.length + 8 ≤ 4096 →
       Gives (.queueBlockMove (.clusterUp c)) s (fun t => BlockMoved s t (.cluster c) (.die (c / 16)) (lowestEight q))) ∧
     (let q := highestEight (s.cluster (c / 2)).queue
      s.coreHungry c = true → q ≠ [] → (s.core c).queue.length + q.length ≤ 64 →
       Gives (.queueBlockMove (.coreTake c)) s (fun t => BlockMoved s t (.cluster (c / 2)) (.core c) q)) ∧
     (let q := highestEight (s.die (c / 16)).queue
      (s.cluster c).queue = [] → (s.coreHungry (2 * c) = true ∨ s.coreHungry (2 * c + 1) = true) → q ≠ [] →
       Gives (.queueBlockMove (.clusterTake c)) s (fun t => BlockMoved s t (.die (c / 16)) (.cluster c) q)) ∧
     ((s.die d).queue = [] → (∃ k < 32, s.coreHungry (32 * d + k) = true) → c < 9 → c ≠ d → d < 9 → 64 < (s.die c).queue.length →
       s.stealable c d ≠ [] → (∀ e < 9, e ≠ c → e ≠ d → 64 < (s.die e).queue.length → s.stealable e d ≠ [] →
         crossings d c < crossings d e ∨ crossings d c = crossings d e ∧ c < e) →
       Gives (.dieQueueSteal d) s (fun t => BlockMoved s t (.die c) (.die d) (highestEight (s.stealable c d))))) ∧
  (∀ (s : State) (g q k lane idx : Nat) (p : Placed) (o : Occ),
     (let x := s.gang g
      let role := (s.book x.core q).lastPop
      let r := s.roleOf x.vd x.handle role
      let held := ((s.strandsOf g).filter (fun k => (s.strand k).role == role)).map (fun k => (s.strand k).idx)
      x.live = true → x.place = .resident → q < 32 → (∀ y, y ∈ x.queues ↔ y = q) →
       3 * descDepth (s.desc x.core q) ≤ 4 * descCount (s.desc x.core q) → rolePinned r = false → role ∉ x.noAdd →
       held.length < roleMax r → roleCons r = [] → idx < 512 → idx ∉ held → (∀ i < idx, i ∈ held) →
       NotInWfe s (strandKeyOf g role idx) →
       (s.occupied x.core none).place (Need.mk role idx (16 * (roleRegs r + 1)) false) = some (p, o) →
       Gives (.rebalanceEpoch g) s (fun t => let u := t.strand (strandKeyOf g role idx)
         u.live = true ∧ u.gang = g ∧ u.role = role ∧ u.idx = idx ∧ u.core = x.core ∧ u.lane = p.lane ∧ u.sid = p.sid ∧
           u.s 4 = BitVec.ofNat 64 idx)) ∧
     (let t := s.strand k
      t.live = true → (s.gang t.gang).place = .resident → t.pinned = false → s.owed k = false → lane < 64 → lane ≠ t.lane →
       (s.occupied t.core none).room lane t.budget = true →
       Gives (.strandMove k lane) s (fun u => (u.strand k).lane = lane ∧
         (∀ c ∈ s.strands, c.2.live = true → c.2.core = t.core → c.2.lane = lane → (s.gang c.2.gang).present = true →
           c.2.sid ≠ (u.strand k).sid) ∧
         { u.strand k with lane := t.lane, sid := t.sid } = t ∧ (∀ j, j ≠ k → u.strand j = s.strand j) ∧
         { u with strands := s.strands } = s)))

/-- R257, R259: DISPATCH of a core whose queue holds one entry: a new task that fits starts there, with the slice of its virtual
device; a doomed entry is discarded and LIVE falls. R263, R276: TASK_RETIRE ends a gang whose strands, commands and accesses are
done: it owns no scratchpad block and no lock any more, and the earliest waiter of each has it, answered ABANDONED (R238); a
retirement that waited for room in the queues goes on (R264). HELPING: the core of a strand parked on the object of a task that is READY
in a queue within its reach, or whose batch fills at a bin of its die, adopts that task, one deeper, in the waiter's slice. -/
def Obligations.DispatchRetirementAndHelping : Prop :=
  (∀ (s : State) (core : Nat) (e : QEntry), s.clockOn core = true → (s.core core).queue = [e] → e.void = false → e.prio < 16 →
     (∀ c ∈ s.gangs, c.2.core = core → s.waiterDue c.1 = false) →
     (e.doomed = false → e.resume = false → ((s.dropEntry core e).planStart core e.vd e.handle none).isSome = true →
       Gives (.dispatch core) s (fun t => (t.core core).queue = [] ∧
         (let g := t.gang (gangKeyOf e.vd e.handle)
          g.live = true ∧ g.vd = e.vd ∧ g.handle = e.handle ∧ g.core = core ∧ g.place = .resident ∧ g.adopter = none ∧
           g.count = s.vdSlice e.vd))) ∧
     (e.doomed = true → Gives (.dispatch core) s (fun t => (t.core core).queue = [] ∧
       (t.job (jobKeyOf e.vd (s.recJob e.vd e.handle))).liveCnt = (s.job (jobKeyOf e.vd (s.recJob e.vd e.handle))).liveCnt - 1))) ∧
  (∀ (s : State) (g k h : Nat) (p : QPlace) (e : QEntry),
     (s.retireDue g = true → (∀ r ∈ s.retiring, r.key ≠ g) →
       Gives (.taskRetire g) s (fun t => (t.gang g).live = false ∧ (t.gang g).charts = [] ∧ (t.gang g).locks = [] ∧
         (∀ b ∈ t.blocks, b.2.owner ≠ some g) ∧
         ∀ l ∈ (s.gang g).locks, ∀ w x y d, s.waiters.find? (fun w => w.pa == l.1 && w.kind == 1) = some w →
           (s.strand w.strand).gang ≠ g → (s.gangOf w.strand).present = true → NotInWfe s w.strand → (s.strand w.strand).wait = .lock x y d →
           (t.strand w.strand).wait = .none ∧ (d ≠ 0 → (t.strand w.strand).s d = 4))) ∧
     (∀ r, s.retiring.find? (fun r => r.key == g) = some r → Gives (.taskRetire g) s (fun t => ∀ x, t.gang x = s.gang x)) ∧
     (let t := s.strand k
      let w := s.gang t.gang
      let s' := s.setStrand k { t with owner := none }
      let adopts : Prop := Gives (.helping k) s (fun u => let y := u.gang (gangKeyOf w.vd h)
        y.live = true ∧ y.adopter = some t.gang ∧ y.depth = w.depth + 1 ∧ y.count = w.count ∧ y.core = t.core ∧ y.waitTask = w.handle)
      t.owner = some h → t.live = true → t.blocked = true → w.place = .resident → w.halted = false → w.depth < 4 →
       (s.recKey w.vd h).isSome = true → (s'.planStart t.core w.vd h none).isSome = true →
       (s.fillingBin (t.core / 32) w.vd h = none → s.recVd w.vd h = w.vd → s.recState w.vd h = stReady →
         s.entryNear t.core w.vd h = some (p, e) → e.resume = false → e.doomed = false →
         (s.job (jobKeyOf w.vd (s.recJob w.vd h))).cancelling = false → adopts) ∧
       (∀ bin, s.fillingBin (t.core / 32) w.vd h = some bin → (s.job (jobKeyOf w.vd (s.binSpawner w.vd bin).job)).cancelling = false →
         (s'.takeBatch w.vd bin).isSome = true → adopts)))

/-- R86, R87, R356, R358: an expired deadline reloads COUNT throughout the stack where no gang waits for the core, and else begins
the collection of the stack's resident gangs. CONTEXT_SAVE ends a collection: the gang is saved, it owns no block, and its adoption
ends. R272, R282: the timer of a bin that holds records launches its batch at the deadline, and FILL becomes 0; a bin without
records leaves the timers. The cancel state of a cancelling job reaches a unit once and dooms the entries of its queue. Which gang waits for
the core is the model's choice (log entry 72). -/
def Obligations.DeadlinesBinsAndCancelState : Prop :=
  (∀ (s : State) (g cause : Nat),
     (s.deadlineDue g = true →
       (s.competitor g = false → Gives (.deadlineExpiry g) s (fun t =>
         ∀ x ∈ s.stackOf (s.rootOf g 8), (t.gang x).count = s.vdSlice (s.gang x).vd)) ∧
       (s.competitor g = true → (s.preemptStack (s.rootOf g 8)).isSome = true → Gives (.deadlineExpiry g) s (fun t =>
         ∀ x ∈ s.stackOf (s.rootOf g 8), (s.gang x).live = true → (s.gang x).place = .resident →
           ∃ c, (t.gang x).place = .collecting c))) ∧
     ((s.gang g).place = .collecting cause → cause ≠ 3 → (s.gang g).live = true → s.strandsOf g ≠ [] → s.collected g = true →
       (s.finishSave g cause).isSome = true →
       Gives (.contextSave g) s (fun t => (t.gang g).place = .saved ∧ (t.gang g).adopter = none ∧ (t.gang g).live = true ∧
         ∀ b ∈ t.blocks, b.2.owner ≠ some g))) ∧
  (∀ (s : State) (pa vd job unit : Nat),
     (s.bins.find? (fun b => b.1 == pa) = some (pa, vd) →
       (binFill (s.binWord pa 0) = 0 → Gives (.binTimerExpiry pa) s (fun t =>
         (∀ b, b ∈ t.bins ↔ b ∈ s.bins ∧ b.1 ≠ pa) ∧ { t with bins := s.bins } = s)) ∧
       (binFill (s.binWord pa 0) ≠ 0 → s.binWord pa 3 ≤ (s.die (s.homeOf pa).1).refcnt.toNat → (s.launchBatch vd pa).isSome = true →
         (∀ i < 8, s.roByte (pa + i) = false) → isSpad pa = false →
         Gives (.binTimerExpiry pa) s (fun t => binFill (t.binWord pa 0) = 0 ∧ ∀ b ∈ t.bins, b.1 ≠ pa))) ∧
     ((s.job job).cancelling = true → unit ∈ s.cancelUnits job → unit ∉ (s.job job).reached → unit < 288 →
       Gives (.cancelStateArrival job unit) s (fun t => unit ∈ (t.job job).reached ∧
         ((∀ c ∈ s.strands, c.2.core ≠ unit) → (t.core unit).queue = (s.core unit).queue.map (fun e =>
           if e.void = false ∧ e.resume = false ∧ jobKeyOf e.vd (s.recJob e.vd e.handle) = job then { e with doomed := true } else e)))))

/-! ### Lane arithmetic, control and exchange -/

namespace Sys2Proof.Claims

/-- The lane stream of the current strand has gone on from the slot it executed (R48, R76): the oldest run has one less to go and
stands at the next slot, or has left the queue. The scalar registers stay, and so does what the runs that are left read (R77). The tags that
the issue noted for the registers it writes are theirs now; no other tag changes (R98). -/
def LaneWent (s t : State) : Prop :=
  (t.me.runs = match s.me.runs with
    | [] => []
    | r :: rs => if r.left ≤ 1 then rs
      else { r with pc := if r.pc.toNat % 64 < 48 then r.pc + 12 else r.pc + 16, left := r.left - 1 } :: rs) ∧
    t.me.redo = none ∧ (∀ r, t.me.s r = s.me.s r) ∧
    t.me.issuing = [] ∧ (∀ r, (∀ e ∈ s.me.issuing, e.1 ≠ r) → t.me.tags.get .uniform r = s.me.tags.get .uniform r) ∧
    (∀ x r q, t.me.runs.head? = some x → x.seq ≤ q → t.me.laneS q r = s.me.laneS q r)

/-- The lane stream has gone on, and nothing but the given registers of its strand changes. -/
def LanePassed (s t : State) : Prop :=
  OnlyMe s t ∧ LaneWent s t ∧ { t.me with runs := s.me.runs, redo := s.me.redo, ren := s.me.ren, tags := s.me.tags, issuing := s.me.issuing } = s.me

/-- The threads of a set have written values of n registers from d; no other register of a thread changes, and nothing else. -/
def LaneWrote (s t : State) (x : W32) (d n : Nat) (val : Nat → Nat) : Prop :=
  OnlyMe s t ∧ LaneWent s t ∧
    (∀ i < 32, x.getLsbD i = true → t.me.getVs d i n = val i % 2 ^ (32 * n)) ∧
    (∀ r, ∀ i < 32, ¬(x.getLsbD i = true ∧ d ≤ r ∧ r < d + n) → t.me.v r i = s.me.v r i) ∧
    { t.me with runs := s.me.runs, redo := s.me.redo, ren := s.me.ren, tags := s.me.tags, issuing := s.me.issuing, vregs := s.me.vregs } = s.me

/-- The threads of a set have written their bits of mask register kd (R101); nothing else changes. -/
def LaneCompared (s t : State) (x : W32) (kd : BitVec 3) (c : Nat → Prop) : Prop :=
  OnlyMe s t ∧ LaneWent s t ∧
    (∀ i < 32, (t.me.kregs.get kd.toNat).getLsbD i = true ↔
      if x.getLsbD i = true then c i else (s.me.kregs.get kd.toNat).getLsbD i = true) ∧
    (∀ n, n ≠ kd.toNat → t.me.kregs.get n = s.me.kregs.get n) ∧
    { t.me with runs := s.me.runs, redo := s.me.redo, ren := s.me.ren, tags := s.me.tags, issuing := s.me.issuing, kregs := s.me.kregs } = s.me

/-- An integer type of R44. -/
def isInt (ty : Fmt) : Prop := ty ∈ [Fmt.s8, .s16, .s32, .s64, .z8, .z16, .z32, .z64]

/-- The value of an operand's low bits (R44). -/
def asInt (ty : Fmt) (x : Nat) : Int := if signedFmt ty then (BitVec.ofNat ty.bits x).toInt else ((x % 2 ^ ty.bits : Nat) : Int)

/-- The register, or pair, that holds the low bits of a value, sign-extended in a signed type, zero-extended in another (R44). -/
def asBits (ty : Fmt) (v : Int) : Nat :=
  if signedFmt ty then ((BitVec.ofInt ty.bits v).signExtend (32 * ty.regs)).toNat else (BitVec.ofInt ty.bits v).toNat

/-- A condition of CMP on integers (R101). -/
def HoldsInt (c : Cond) (a b : Int) : Prop :=
  match c with
  | .eq => a = b | .ne => a ≠ b | .lt => a < b | .le => a ≤ b | .gt => b < a | .ge => b ≤ a | .un => False

end Sys2Proof.Claims

/-- R52: a lane instruction that names a v register at or beyond its strand's budget raises the illegal-instruction trap, with the
threads that would have executed. -/
def Obligations.LaneBudgetTraps : Prop :=
  ∀ (s : State) (i : Instr), (∃ r ∈ i.laneUse.v, s.me.budget < r.1 + r.2) →
    exec i s = .next (s.raiseLane cIllegal 0 (orAll (s.me.execSet i.laneUse.m)))

namespace Sys2Proof.Claims

/-- What the tag of a v register alone says of its values (R96). -/
def TagHolds (t : Strand) (r : Nat) : Prop :=
  match t.tags.get .uniform r with
  | .uniform => ∀ j < 32, t.v r j = t.v r 0
  | .affine 1 => ∃ b m : W32, ∀ j < 32, t.v r j = b + BitVec.ofNat 32 j * m
  | _ => True

/-- An instruction of the lanes over all 32 threads whose sources' tags hold writes a register whose tag is that of R97 and holds; where the tag
is not general it takes one issue cycle, else one for each thread. A write by fewer threads leaves the tag general. -/
def TagsFollow : Prop :=
  ∀ (s : State) (r : Arith) (a b n : Nat) (va vb : VReg),
    let t := s.me
    let x := t.execSet r.m
    r.ty = .z32 → r.sat = false → r.a = .v va → r.b = .v vb → va.toNat = a → vb.toNat = b → t.budgetOk (r.vregs 2) = true →
      TagHolds t a → TagHolds t b →
    let A := t.tagOf 1 r.a
    let B := t.tagOf 1 r.b
    let sum : Tag := if A = .uniform ∧ B = .uniform then .uniform else if A ≠ .general ∧ B ≠ .general then .affine 1 else .general
    let gives (i : Instr) (tag : Tag) : Prop := Gives i ((s.noteIssue s.cur true n).noteTags s.cur true i) (fun u =>
      u.me.tags.get .uniform r.d.toNat = tag ∧ TagHolds u.me r.d.toNat)
    let all (i : Instr) (tag : Tag) : Prop := (x = 0xFFFFFFFF → gives i tag ∧ s.issueCycles s.cur i = if tag = .general then 32 else 1) ∧
      (x ≠ 0xFFFFFFFF → x ≠ 0 → gives i .general ∧ s.issueCycles s.cur i = (threadsIn x).length)
    all (.laneAddInt r) sum ∧ all (.laneSubInt r) sum ∧
      all (.laneMulInt r) (if A = .uniform ∨ B = .uniform then sum else .general) ∧
      all (.laneXor r) (if A = .uniform ∧ B = .uniform then .uniform else .general)

end Sys2Proof.Claims

/-- R99 to R101, R44: integer arithmetic and compares of the lanes. Each thread of the executing set has the exact result, clamped
to the type's range with SAT, else its low bits. R102: the bit operations of the lanes on 32-bit and 64-bit words. R91, R96 to R98: the tags of
registers that addition, subtraction, multiplication and XOR in z32 over all 32 threads write are those of R97 and hold of the values; where such a
tag is not general the instruction takes one issue cycle, else one for each thread; a write by fewer threads leaves it general. -/
def Obligations.LaneIntegerAndBitOperations : Prop :=
  TagsFollow ∧
  (∀ (s : State) (r : Arith) (q : Cmp), isInt r.ty → isInt q.ty →
     let x := s.me.execSet r.m
     let a (j : Nat) : Int := asInt r.ty (s.src s.cur j r.ty r.imm r.a)
     let b (j : Nat) : Int := asInt r.ty (s.src s.cur j r.ty r.imm r.b)
     let c (j : Nat) : Int := asInt r.ty (s.src s.cur j r.ty r.imm r.c)
     let w : Nat := r.ty.bits
     let lo : Int := if signedFmt r.ty then -(2 : Int) ^ (w - 1) else 0
     let hi : Int := if signedFmt r.ty then (2 : Int) ^ (w - 1) - 1 else (2 : Int) ^ w - 1
     let put (i : Instr) (n : Nat) (f : Nat → Int) : Prop := s.me.budgetOk (r.vregs n) = true →
       Gives i s (fun t => LaneWrote s t x r.d.toNat r.ty.regs (fun j =>
         asBits r.ty (if r.sat then min (max (f j) lo) hi else f j)))
     put (.laneAddInt r) 2 (fun j => a j + b j) ∧ put (.laneSubInt r) 2 (fun j => a j - b j) ∧
       put (.laneMulInt r) 2 (fun j => a j * b j) ∧ put (.laneMulh r) 2 (fun j => a j * b j / (2 : Int) ^ w) ∧
       put (.laneMad r) 3 (fun j => a j * b j + c j) ∧ put (.laneMinInt r) 2 (fun j => min (a j) (b j)) ∧
       put (.laneMaxInt r) 2 (fun j => max (a j) (b j)) ∧ put (.laneAbsInt r) 1 (fun j => |a j|) ∧
       put (.laneNegInt r) 1 (fun j => -(a j)) ∧
       (q.kd ≠ 0 → s.me.budgetOk q.vregs = true → Gives (.laneCmpInt q) s (fun t =>
         LaneCompared s t (s.me.execSet q.m) q.kd (fun j => HoldsInt q.cond (asInt q.ty (s.src s.cur j q.ty q.imm q.a))
           (asInt q.ty (s.src s.cur j q.ty q.imm q.b)))))) ∧
  (∀ (s : State) (r : Arith), r.ty = .z32 ∨ r.ty = .z64 →
     let x := s.me.execSet r.m
     let w : Nat := r.ty.bits
     let a (j : Nat) : Nat := s.src s.cur j r.ty r.imm r.a
     let b (j : Nat) : Nat := s.src s.cur j r.ty r.imm r.b
     let c (j : Nat) : Nat := s.src s.cur j r.ty r.imm r.c
     let put (i : Instr) (n : Nat) (f : Nat → Nat) : Prop := s.me.budgetOk (r.vregs n) = true →
       Gives i s (fun t => LaneWrote s t x r.d.toNat r.ty.regs f)
     put (.laneShl r) 2 (fun j => a j * 2 ^ (b j % w) % 2 ^ w) ∧ put (.laneShr r) 2 (fun j => a j / 2 ^ (b j % w)) ∧
       put (.laneSar r) 2 (fun j => (BitVec.ofInt w ((BitVec.ofNat w (a j)).toInt / (2 : Int) ^ (b j % w))).toNat) ∧
       put (.laneAnd r) 2 (fun j => a j &&& b j) ∧ put (.laneOr r) 2 (fun j => a j ||| b j) ∧
       put (.laneXor r) 2 (fun j => a j ^^^ b j) ∧ put (.laneNot r) 1 (fun j => 2 ^ w - 1 - a j) ∧
       put (.lanePopc r) 1 (fun j => ((List.range w).filter (fun i => (a j).testBit i)).length) ∧
       (∀ z : Nat → Nat, (∀ j < 32, z j ≤ w ∧ a j < 2 ^ (w - z j) ∧ (z j = w ∨ 2 ^ (w - 1 - z j) ≤ a j)) → put (.laneClz r) 1 z) ∧
       (∀ v : Nat → Nat, (∀ j < 32, v j < 2 ^ w ∧ ∀ i < w, (v j).testBit i = (a j).testBit (w - 1 - i)) → put (.laneBrev r) 1 v) ∧
       put (.laneSel r) 3 (fun j => if c j ≠ 0 then a j else b j) ∧ put (.laneMov r) 1 a)

/-- R103 to R110: float arithmetic and compares of the lanes. The exact result of the values that the operands hold, subnormals
flushed with FTZ, is rounded once to the format; MIN, MAX, ABS and NEG pass an operand's bits on; a paired type does so for each half. -/
def Obligations.LaneFloatArithmetic : Prop :=
  ∀ (s : State) (r : Arith) (q : Cmp),
    let x := s.me.execSet r.m
    let y := floatFmt r.ty
    let src (o : Src) (j : Nat) : Nat := s.src s.cur j r.ty r.imm o
    let num (v : Nat) : Machine.Num := y.decode (y.flush r.ftz v)
    let put (i : Instr) (n : Nat) (f : Nat → Nat → Nat → Nat) : Prop := s.me.budgetOk (r.vregs n) = true →
      (r.ty ∈ [Fmt.f16, .bf16, .f32, .f64] → Gives i s (fun t => LaneWrote s t x r.d.toNat r.ty.regs (fun j =>
        f (src r.a j % 2 ^ r.ty.bits) (src r.b j % 2 ^ r.ty.bits) (src r.c j % 2 ^ r.ty.bits)))) ∧
      (r.ty ∈ [Fmt.f16x2, .bf16x2] → Gives i s (fun t => LaneWrote s t x r.d.toNat 1 (fun j =>
        f (src r.a j % 2 ^ 16) (src r.b j % 2 ^ 16) (src r.c j % 2 ^ 16) % 2 ^ 16 +
          2 ^ 16 * (f (src r.a j / 2 ^ 16 % 2 ^ 16) (src r.b j / 2 ^ 16 % 2 ^ 16) (src r.c j / 2 ^ 16 % 2 ^ 16) % 2 ^ 16))))
    let round (v : Machine.Num) : Nat := y.round r.rm false r.ftz 0 0 v
    put (.laneAddFloat r) 2 (fun a b _ => round ((num a).add r.rm (num b))) ∧
      put (.laneSubFloat r) 2 (fun a b _ => round ((num a).add r.rm (num b).neg)) ∧
      put (.laneMulFloat r) 2 (fun a b _ => round ((num a).mul (num b))) ∧
      put (.laneFma r) 3 (fun a b c => round (((num a).mul (num b)).add r.rm (num c))) ∧
      put (.laneMinFloat r) 2 (fun a b _ => floatMin y r.ftz a b) ∧ put (.laneMaxFloat r) 2 (fun a b _ => floatMax y r.ftz a b) ∧
      put (.laneSqrte r) 1 (fun a _ _ => floatSqrte y r.rm r.ftz a) ∧ put (.laneRcpe r) 1 (fun a _ _ => floatRcpe y r.rm r.ftz a) ∧
      put (.laneRsqrte r) 1 (fun a _ _ => floatRsqrte y r.rm r.ftz a) ∧
      put (.laneAbsFloat r) 1 (fun a _ _ => y.flush r.ftz a % 2 ^ (y.f + y.eb)) ∧
      put (.laneNegFloat r) 1 (fun a _ _ => floatNeg y r.ftz a) ∧
      (let z := floatFmt q.ty
       let val (o : Src) (j : Nat) : Machine.Num := z.decode (z.flush q.ftz (s.src s.cur j q.ty q.imm o % 2 ^ q.ty.bits))
       q.kd ≠ 0 → s.me.budgetOk q.vregs = true → Gives (.laneCmpFloat q) s (fun t =>
        LaneCompared s t (s.me.execSet q.m) q.kd (fun j => condNum q.cond (val q.a j) (val q.b j) = true)))

/-- R127, R137, R138, R147: a value that a float format holds rounds to its own bits, in every rounding mode. -/
def Obligations.RoundingKeepsRepresentableValues : Prop :=
  ∀ (ty : Fmt) (rm : Rm) (sat : Bool) (seed : W32) (pos b : Nat), ty ∈ [Fmt.f64, .f32, .f16, .bf16, .e5m2, .e4m3] →
    let y := floatFmt ty
    b < 2 ^ ty.bits → (y.decode b).isNaN = false → (sat = false ∨ ∃ n m e, y.decode b = .fin n m e) →
      y.round rm sat false seed pos (y.decode b) = b

/-- R133: the block scale of a set of values: 255 where one is a NaN or an infinity, 0 where all are zero, else e + 127 for the smallest
e, not below −127, with every magnitude at most 127 × 2^e. Finite values of f32, f16 and bf16 give at most 249. -/
def Obligations.K8BlockScale : Prop :=
  ∀ (xs : List Machine.Num),
    let mag (x : Machine.Num) : ℚ := match x with | .fin _ m e => (m : ℚ) * (2 : ℚ) ^ e | _ => 0
    let finite : Prop := ∀ x ∈ xs, ∃ n m e, x = .fin n m e
    (¬finite → k8Scale xs = 255) ∧ (finite → (∀ x ∈ xs, mag x = 0) → k8Scale xs = 0) ∧
      (finite → (∃ x ∈ xs, mag x ≠ 0) → ∃ e : Int, (k8Scale xs : Int) = e + 127 ∧ -127 ≤ e ∧ (∀ x ∈ xs, mag x ≤ 127 * (2 : ℚ) ^ e) ∧
        (e = -127 ∨ ∃ x ∈ xs, 127 * (2 : ℚ) ^ (e - 1) < mag x)) ∧
      ∀ ty ∈ [Fmt.f32, .f16, .bf16], (∀ x ∈ xs, ∃ b < 2 ^ ty.bits, x = (floatFmt ty).decode b) → finite → k8Scale xs ≤ 249

/-- R145 to R152: conversions, quantisation, dequantisation and block scales write one result for each executing thread; those of CVT, QNT and DQNT are
what the model's `cvtThread`, `qntThread` and `dqntThread` make of the operands; the conversion of s32 to f32 is said whole. A
CVT source that holds a pair of f32 registers is read as one 64-bit operand (log entry 31). -/
def Obligations.LaneConversions : Prop :=
  ∀ (s : State) (r : Conv),
    let x := s.me.execSet r.m
    let w32 (o : Src) (j : Nat) : W32 := s.src32 s.cur j r.imm o
    let wide : Bool := r.ty.isPaired && r.nf == .f32
    let put (i : Instr) (regs : List (Nat × Nat)) (n : Nat) (f : Nat → Nat) : Prop := s.me.budgetOk regs = true →
      Gives i s (fun t => LaneWrote s t x r.d.toNat n f)
    put (.cvt r) r.cvtRegs (if r.ty.is64 ∨ r.ty = .f32 ∧ r.nf.isPaired then 2 else 1)
        (fun j => cvtThread r j (s.src s.cur j (if wide then .z64 else r.nf) r.imm r.a) (w32 r.b j)) ∧
      put (.qnt r) (r.blockRegs true (r.nf == .n4)) 1 (fun j => qntThread r j (s.src s.cur j r.ty r.imm r.a) (w32 r.b j) (w32 r.c j)) ∧
      put (.dqnt r) (r.blockRegs (r.nf == .k8 || r.nf == .n4) (r.nf == .n4)) 1
        (fun j => dqntThread r j (w32 r.a j) (w32 r.b j) (w32 r.c j)) ∧
      put (.bscale r) (r.blockRegs (r.nf == .n4) false) 1 (fun _ =>
        let xs := ((threadsIn x).map (fun j => elemsOf r.ty r.ftz (s.src s.cur j r.ty r.imm r.a))).flatten
        if r.nf = .k8 then k8Scale xs else n4Scale xs (fmtF32.decode (w32 r.b ((threadsIn x).headD 0)).toNat)) ∧
      (r.ty = .f32 → r.nf = .s32 → put (.cvt r) r.cvtRegs 1 (fun j =>
        let v : Int := (BitVec.ofNat 32 (s.src s.cur j .s32 r.imm r.a)).toInt
        fmtF32.round r.rm r.sat false (w32 r.b j) (2 * j) (.fin (decide (v < 0)) v.natAbs 0)))

/-- R111 to R116: the structured control of the lanes, on the nesting counter of each thread, and the illegal-nesting trap. -/
def Obligations.LaneControlFlow : Prop :=
  ∀ (s : State) (m : Mask) (imm : W32),
    let u := s.me
    let c (i : Nat) : BitVec 8 := u.nest.get i
    let cond (i : Nat) : Bool := (u.selects m).getLsbD i
    let inLoop : Prop := ∃ e ∈ u.stack, e.isLoop = true
    let above : Nat := (u.stack.takeWhile (fun e => !e.isLoop)).length
    let nests (i : Instr) (stack : List Construct) (f : Nat → BitVec 8) : Prop := Gives i s (fun t => OnlyMe s t ∧ LaneWent s t ∧
      (∀ j < 32, t.me.nest.get j = f j) ∧ t.me.stack = stack ∧
      { t.me with runs := u.runs, redo := u.redo, ren := u.ren, tags := u.tags, issuing := u.issuing, nest := u.nest, stack := u.stack, loopBuf := u.loopBuf } = u)
    let traps (i : Instr) : Prop := exec i s = .next (s.raiseLane cNest 0 0xFFFFFFFF)
    (stackDepth u.stack < 255 →
        nests (.ifm m) (.ifE false :: u.stack) (fun i => if c i = 0 then (if cond i then 0 else 1) else c i + 1)) ∧
      (255 ≤ stackDepth u.stack → traps (.ifm m)) ∧
      (∀ rest, u.stack = .ifE false :: rest → nests .elsem (.ifE true :: rest) (fun i => if c i = 0 then 1 else if c i = 1 then 0 else c i)) ∧
      ((∀ rest, u.stack ≠ .ifE false :: rest) → traps .elsem) ∧
      (∀ e rest, u.stack = .ifE e :: rest → nests .endif rest (fun i => if c i = 0 then 0 else c i - 1)) ∧
      ((∀ e rest, u.stack ≠ .ifE e :: rest) → traps .endif) ∧
      (let ok : Prop := stackDepth u.stack < 254 ∧ (u.stack.filter (fun e => e.isLoop)).length < 16 ∧ 2 ≤ imm.toNat ∧
        ∃ r rs, u.runs = r :: rs ∧ imm.toNat ≤ r.left
       (ok → nests (.loop imm) (.loopE u.lanePc imm :: u.stack) (fun i => if c i = 0 then 0 else c i + 2)) ∧ (¬ok → traps (.loop imm))) ∧
      (∀ pc rest, u.stack = .loopE pc imm :: rest → u.lanePc.toNat / 64 * 5 + u.lanePc.toNat % 64 / 12 + 1 =
          pc.toNat / 64 * 5 + pc.toNat % 64 / 12 + imm.toNat →
        ((∃ i < 32, c i = 0 ∨ c i = 1) → ∀ r rs, u.runs = r :: rs → Gives (.endloop imm) s (fun t => OnlyMe s t ∧
          (∀ j < 32, t.me.nest.get j = if c j = 1 then 0 else c j) ∧
          t.me.runs = { r with pc := if pc.toNat % 64 < 48 then pc + 12 else pc + 16, left := r.left + imm.toNat - 2 } :: rs ∧
          { t.me with runs := u.runs, redo := u.redo, nest := u.nest } = u)) ∧
        ((∀ i < 32, c i ≠ 0 ∧ c i ≠ 1) → nests (.endloop imm) rest (fun i => c i - 2))) ∧
      ((∀ pc rest, u.stack ≠ .loopE pc imm :: rest) → traps (.endloop imm)) ∧
      (inLoop → nests (.brk m) u.stack (fun i => if c i = 0 ∧ cond i then BitVec.ofNat 8 (above + 2) else c i) ∧
        nests (.cont m) u.stack (fun i => if c i = 0 ∧ cond i then BitVec.ofNat 8 (above + 1) else c i)) ∧
      (¬inLoop → traps (.brk m) ∧ traps (.cont m))

/-- R120 to R126: the cross-thread instructions, over the executing set. -/
def Obligations.CrossThreadInstructions : Prop :=
  ∀ (s : State) (r : Cross),
    let x := s.me.execSet r.m
    let xs := threadsIn x
    let inX (j : Nat) : Prop := j < 32 ∧ x.getLsbD j = true
    let a (j : Nat) : Nat := s.src s.cur j r.ty r.imm r.a
    let a32 (j : Nat) : Nat := (s.src32 s.cur j r.imm r.a).toNat
    let b (j : Nat) : W32 := s.src32 s.cur j r.imm r.b
    let put (i : Instr) (n : Nat) (f : Nat → Nat) : Prop := s.me.budgetOk i.laneUse.v = true →
      Gives i s (fun t => LaneWrote s t x r.d.toNat n f)
    let shfl (mode : ShflMode) (named : Nat → Option Nat) : Prop := ∀ zf, put (.shfl mode zf r) r.ty.regs (fun j =>
      match named j with
      | some i => if x.getLsbD i then a i else if zf then 0 else a j
      | none => if zf then 0 else a j)
    shfl .pick (fun j => some ((b j).toNat % 32)) ∧ shfl .rot (fun j => some (((j : Int) + (b j).toInt) % 32).toNat) ∧
      shfl .slide (fun j => if 0 ≤ (j : Int) + (b j).toInt ∧ (j : Int) + (b j).toInt ≤ 31 then some ((j : Int) + (b j).toInt).toNat else none) ∧
      shfl .pair (fun j => some (j ^^^ ((b j).toNat % 32))) ∧
      (∀ w : Width, w ∈ [Width.w8, .w16, .w32] →
        let gathered (j : Nat) : Nat := ((List.range w.bytes).map (fun i =>
          let o := (b j).toNat % 128 / w.bytes * w.bytes + i
          (if x.getLsbD (o / 4) then a32 (o / 4) / 256 ^ (o % 4) % 256 else 0) * 256 ^ i)).sum
        (r.ty = .z32 → put (.gatherv w r) 1 gathered) ∧
          (r.ty = .s32 → put (.gatherv w r) 1 (fun j =>
            ((BitVec.ofNat (8 * w.bytes) (gathered j)).signExtend 32).toNat))) ∧
      (let votes (op : VoteOp) (v : Nat) (c : Prop) : Prop := c → put (.vote op r) 1 (fun _ => v)
       votes .anyOf 1 (∃ j, inX j ∧ a j ≠ 0) ∧ votes .anyOf 0 (∀ j, inX j → a j = 0) ∧
        votes .every 1 (∀ j, inX j → a j ≠ 0) ∧ votes .every 0 (∃ j, inX j ∧ a j = 0) ∧
        votes .same 1 (∀ i j, inX i → inX j → a i = a j) ∧ votes .same 0 (∃ i j, inX i ∧ inX j ∧ a i ≠ a j) ∧
        votes .count (xs.filter (fun j => a j != 0)).length True ∧
        (∀ j, votes .first j (inX j ∧ a j ≠ 0 ∧ ∀ i < j, inX i → a i = 0)) ∧ votes .first 32 (∀ j, inX j → a j = 0)) ∧
      (∀ v : W32, (∀ j < 32, v.getLsbD j = true ↔ inX j ∧ a j ≠ 0) → put (.ballot r) 1 (fun _ => v.toNat)) ∧
      (∀ op excl, put (.scan op excl r) r.ty.regs (fun j =>
        ((xs.filter (fun i => if excl then i < j else i ≤ j)).map a).foldl (scanStep op r.ty) (scanIdentity op r.ty))) ∧
      (let last := (xs.getLast?).getD 0
       let lim := min (a32 last) (b last).toNat
       let ms := xs.filterMap (fun i => (xs.find? (fun j => (b j).toNat == a32 i)).map (fun j => (i, j)))
       put (.intersect r) 2 (fun j =>
        (match ms[(xs.filter (fun i => i < j)).length]? with | some p => 2 ^ 31 + p.2 * 256 + p.1 | none => 0) +
          2 ^ 32 * (ms.length * 65536 + (xs.filter (fun i => (b i).toNat ≤ lim)).length * 256 +
            (xs.filter (fun i => a32 i ≤ lim)).length)))

/-! ### Lane memory, ordering, queues -/

namespace Sys2Proof.Claims

/-- The requests in flight, and those withdrawn to be sent again, carry numbers below the next one. Every step keeps it:
StepKeepsFreshNumbers. -/
def FreshIds (s : State) : Prop :=
  (∀ f ∈ s.flights, f.id < s.nextId) ∧ ∀ c ∈ s.strands, ∀ f ∈ c.2.held ++ c.2.withdrawn, f.id < s.nextId

/-- The lane instruction has started one request for each thread of a set, and the lane stream has gone on; only what the translation
caches of its core hold and the stages of requests that stood before change beside. -/
def LaneAsked (s t : State) (x : W32) (P : Nat → Flight → Prop) : Prop :=
  (∀ i < 32, x.getLsbD i = true → ∃ f ∈ t.flights, s.nextId ≤ f.id ∧ f.strand = s.cur ∧ f.lane = true ∧ f.orphan = false ∧
    f.thread = i ∧ P i f) ∧
    (∀ f ∈ t.flights, s.nextId ≤ f.id → f.id < t.nextId ∧ x.getLsbD f.thread = true) ∧ t.nextId = s.nextId + (threadsIn x).length ∧
    LaneWent s t ∧ (∀ a, t.byte a = s.byte a) ∧ (∀ k, k ≠ s.cur → t.strand k = s.strand k) ∧
    { t.me with runs := s.me.runs, redo := s.me.redo, ren := s.me.ren, tags := s.me.tags, issuing := s.me.issuing, insts := s.me.insts, laneWait := s.me.laneWait } = s.me ∧
    (∀ k, { t.core k with tlb := (s.core k).tlb } = s.core k) ∧
    { t with strands := s.strands, cores := s.cores, flights := s.flights, nextId := s.nextId } = s

/-- No watchpoint of the current strand stops an access of its lane stream. -/
def LaneUnwatched (s : State) (bit : Nat) (va : W64) (n : Nat) : Prop := s.me.exempt true = true ∨ s.me.watched bit va n = false

end Sys2Proof.Claims

/-- R171 to R177, R213 to R221, R233: the lane memory instructions. Where the address of every executing thread is aligned, translated,
permitted and unwatched, each thread starts one access there, and the strand goes on; no byte of memory changes yet. R224: a FEWAIT that
meets the cancel state starts none and goes on. -/
def Obligations.LaneAccessesStart : Prop :=
  ∀ (s : State) (m : LaneMem) (q : Atomic) (k : Ink) (w : FeWait) (key : Nat → Nat), FreshIds s →
    let asks (i : Instr) (va : Nat → W64) (n align need : Nat) (ok : W64 → Prop) (P : Nat → Flight → Prop) : Prop :=
      let x := s.me.execSet i.laneUse.m
      s.me.budgetOk i.laneUse.v = true →
      (∀ j < 32, x.getLsbD j = true →
        (va j).toNat % align = 0 ∧ s.translate s.cur true need (va j) = .key (key j) ∧ ok (va j)) →
      Gives i s (fun t => LaneAsked s t x (fun j f => f.va = va j ∧ f.key = key j ∧ f.bytes = n ∧ P j f))
    let n := m.width.bytes
    let ea (j : Nat) : W64 := s.laneEa s.cur j m.base m.off m.scale.toNat m.imm
    let load (i : Instr) (kind : ReqKind) (ev : Nat) (spad : Bool) : Prop :=
      asks i ea n n needR (fun a => LaneUnwatched s wpLd a n ∧ (spad = true → inAperture a = true)) (fun _ f =>
        f.kind = kind ∧ f.dest = .v m.d m.width.regs ∧ f.sx = m.sx ∧ f.qual = m.qual ∧ f.ord = m.ord ∧ f.scope = m.scope ∧ f.ev = ev)
    let store (i : Instr) (kind : ReqKind) (ev : Nat) (spad : Bool) : Prop :=
      asks i ea n n needW (fun a => LaneUnwatched s wpSt a n ∧ (spad = true → inAperture a = true)) (fun j f =>
        f.kind = kind ∧ f.data = s.laneData s.cur j n m.data ∧ f.dest = .none ∧ f.qual = m.qual ∧ f.ord = m.ord ∧
          f.scope = m.scope ∧ f.ev = ev)
    let atom (i : Instr) (ret : Bool) : Prop :=
      let n := q.ty.bits / 8
      asks i (fun j => s.laneEa s.cur j q.base q.off q.scale.toNat q.imm) n n needRW (fun _ => True) (fun j f =>
        f.kind = .atom q.op q.ty (s.casComparand s.cur j q) ret ∧ f.data = s.laneData s.cur j n q.data ∧
          f.dest = (if ret then .v q.d q.ty.regs else .none) ∧ f.ord = q.ord ∧ f.scope = q.scope)
    let ink (i : Instr) (need : Nat) (kind : ReqKind) (P : Nat → Flight → Prop) : Prop :=
      asks i (fun j => s.laneEa s.cur j k.base k.off 0 k.imm) 384 128 need (fun a => a.toNat % 4096 ≤ 3712) (fun j f =>
        f.kind = kind ∧ f.ord = k.ord ∧ f.scope = k.scope ∧ P j f)
    load (.ld m) .load m.ev.toNat false ∧ load (.ldx m) .ldx m.ev.toNat false ∧ load (.lds m) .lds m.ev.toNat true ∧
      store (.st m) .store m.ev.toNat false ∧ store (.stNt m) .ntStore 0 false ∧ store (.sts m) .sts m.ev.toNat true ∧
      atom (.atom q) true ∧ atom (.red q) false ∧
      ink (.inkAdd k) needRW (.inkAdd k.ty) (fun j f => f.data = s.laneData s.cur j (k.ty.bits / 8) k.data) ∧
      ink (.inkRead k) needR (.inkRead k.ty) (fun _ f => f.dest = .v k.d k.ty.regs) ∧
      ink (.inkClr k) needW .inkClr (fun _ f => f.dest = .none) ∧
      (s.cancelled s.cur = true → s.me.budgetOk w.vregs = true → Gives (.fewait w) s (fun t => OnlyMe s t ∧ LaneWent s t ∧
        { t.me with runs := s.me.runs, redo := s.me.redo, ren := s.me.ren, tags := s.me.tags, issuing := s.me.issuing, laneWait := s.me.laneWait } = s.me)) ∧
      (s.cancelled s.cur = false → asks (.fewait w) (fun j => s.laneEa s.cur j w.base w.off w.scale.toNat w.imm) 16 16 needR
        (fun a => LaneUnwatched s wpNone a 16 ∧ inAperture a = true)
        (fun _ f => f.kind = .fewait w.full ∧ f.dest = .none ∧ f.ord = w.ord ∧ f.scope = w.scope)) ∧
      (let x := s.me.execSet m.m
       s.me.budgetOk (m.vregs true false) = true → x ≠ 0 → (ea 0).toNat % 128 = 0 → s.translate s.cur true needR (ea 0) = .key (key 0) →
        LaneUnwatched s wpLd (ea 0) 128 → Gives (.ldl m) s (fun t => LaneWent s t ∧ (∀ a, t.byte a = s.byte a) ∧
          t.nextId = s.nextId + 1 ∧ ∃ f ∈ t.flights, f.id = s.nextId ∧ f.strand = s.cur ∧ f.kind = .line ∧ f.va = ea 0 ∧
            f.key = key 0 ∧ f.bytes = 128 ∧ f.data = x.toNat ∧ f.dest = .v m.d 1))

/-- R178, R212, R193, R179: PREF changes no register and no memory, only what the caches and arbiters of its walk hold and the prefetches on
their way, which write no register; FENCE goes on once its ordering and scope hold, and waits until then; TLBSYNC is privileged, and drops the
translations of its range in the cores of its scope, with what the dies of its scope keep for their copy engines (log entry 33) and walks;
until no access that has used one is on its way, it waits. -/
def Obligations.PrefetchFenceTlbsync : Prop :=
  ∀ (s : State) (m : LaneMem) (q : TlbSync) (ord : Ord) (scope : Scope) (ev : BitVec 3) (k : Mask),
    (s.me.budgetOk (m.vregs false false) = true → Gives (.pref m) s (fun t => LaneWent s t ∧ (∀ a, t.byte a = s.byte a) ∧
        (∀ j, j ≠ s.cur → t.strand j = s.strand j) ∧
        { t.me with runs := s.me.runs, redo := s.me.redo, ren := s.me.ren, tags := s.me.tags, issuing := s.me.issuing } = s.me ∧
        (∀ c, { t.core c with tlb := (s.core c).tlb, l1 := (s.core c).l1, predictor := (s.core c).predictor } = s.core c ∧
          ∀ l ∈ (s.core c).l1, l ∉ (t.core c).l1 → l.owned = true) ∧ (∀ d, { t.die d with walks := (s.die d).walks } = s.die d) ∧
        (∀ f ∈ s.flights, f.stage ≠ .window → f.agent = none → f ∈ t.flights) ∧
        (∀ f ∈ t.flights, f ∈ s.flights ∨ f.kind = .pref ∧ f.dest = .none ∧ s.nextId ≤ f.id ∨
          ∃ g ∈ s.flights, g.stage = .window ∧ { f with stage := g.stage, entry := g.entry } = g) ∧
        { t with strands := s.strands, cores := s.cores, dies := s.dies, flights := s.flights, nextId := s.nextId, slices := s.slices,
                 buckets := s.buckets } = s)) ∧
      (s.me.execSet k = 0 → Gives (.fence ord scope ev k) s (fun t => LanePassed s t)) ∧
      (s.me.execSet k ≠ 0 → WindowsEmpty s →
        (s.fenceReady s.cur true ord scope = false →
          Gives (.fence ord scope ev k) s (fun t => OnlyMe s t ∧ t.me = { s.me with laneWait := .fence })) ∧
        (s.fenceReady s.cur true ord scope = true → Gives (.fence ord scope ev k) s (fun t => LaneWent s t ∧
          (∀ a, t.byte a = s.byte a) ∧ (∀ j, j ≠ s.cur → t.strand j = s.strand j) ∧
          { t.me with runs := s.me.runs, redo := s.me.redo, ren := s.me.ren, tags := s.me.tags, issuing := s.me.issuing, relVec := s.me.relVec,
                      laneWait := s.me.laneWait } = s.me ∧ t.me.laneWait = .none ∧
          (ord = .rlx ∨ ord = .acq → t.me.relVec = s.me.relVec) ∧
          (∀ c l, l ∈ (t.core c).l1 ↔ l ∈ (s.core c).l1 ∧ ¬(c = s.me.core ∧ (ord = .acq ∨ ord = .acqrel) ∧
            (scope = .domain ∨ scope = .system) ∧ pkgOf (128 * l.line) ≠ s.pkgnum.toNat)) ∧
          { t with strands := s.strands, cores := s.cores } = s))) ∧
      (s.isSup s.cur = false → exec (.tlbsync q) s = .next (s.raiseLane cPriv 0 (orAll (s.me.execSet q.m)))) ∧
      (s.isSup s.cur = true → s.me.execSet q.m ≠ 0 → WindowsEmpty s →
        let d := s.me.laneS s.me.runSeq q.data
        let g : TlbRange := { start := s.me.laneS s.me.runSeq q.base + q.imm.signExtend 64, len := fieldOf d 0 48, vd := fieldOf d 55 9,
                              part := s.vdPart (s.gangOf s.cur).vd }
        let cores := coresWithin s.me.core q.scope
        (g.vd = 0x1FF ∨ g.vd < 384 ∧ s.vdPart g.vd = g.part) →
        (s.tlbsyncReady s.cur g cores = false → (∀ f ∈ s.flights, f.stage ≠ .wc) →
          Gives (.tlbsync q) s (fun t => OnlyMe s t ∧ t.me = { s.me with laneWait := .fence })) ∧
        (s.tlbsyncReady s.cur g cores = true →
        Gives (.tlbsync q) s (fun t => LaneWent s t ∧ (∀ a, t.byte a = s.byte a) ∧ t.flights = s.flights ∧
          { t.me with runs := s.me.runs, redo := s.me.redo, ren := s.me.ren, tags := s.me.tags, issuing := s.me.issuing,
                      laneWait := s.me.laneWait } = s.me ∧ t.me.laneWait = .none ∧
          (∀ j, j ≠ s.cur → t.strand j = s.strand j) ∧
          (∀ c e, e ∈ (t.core c).tlb ↔ e ∈ (s.core c).tlb ∧
            ¬(c ∈ cores ∧ s.rangeVd g e.vd = true ∧ g.hits e.page (2 ^ pageLog e.size) = true)) ∧
          (∀ d e, e ∈ (t.die d).tlb ↔ e ∈ (s.die d).tlb ∧
            ¬(d ∈ diesWithin s.me.core q.scope ∧ s.rangeVd g e.vd = true ∧ g.hits e.page (2 ^ pageLog e.size) = true)) ∧
          ∀ d e, e ∈ (t.die d).walks ↔ e ∈ (s.die d).walks ∧ ¬(d ∈ diesWithin s.me.core q.scope ∧ s.rangeVd g e.vd = true))))

namespace Sys2Proof.Claims

/-- One thread executes, and it is thread j. -/
def OneThread (s : State) (m : Mask) (j : Nat) : Prop := j < 32 ∧ s.me.execSet m = BitVec.ofNat 32 (2 ^ j) ∧ s.me.qdone = 0

/-- One thread of a queue instruction, or of SPAWNV, has taken its status; the lane stream has gone on. -/
def LaneStatus (s t : State) (d j v : Nat) : Prop := LaneWent s t ∧ t.me.v d j = BitVec.ofNat 32 v

end Sys2Proof.Claims

/-- R239, R240: QPUSH and QPOP of one thread. A push into a queue with room stores the data at TAIL and raises COUNT; a pop from one with
entries takes them from HEAD. The rest of memory stays. The .nb forms answer BUSY where the others wait; a queue that is not valid, not
the gang's or of another entry size answers ERROR, as does an uncorrectable error of what the port reads (R27), the cancel state CANCELLED. -/
def Obligations.QueueInstructions : Prop :=
  ∀ (s : State) (r : QOp) (j : Nat), OneThread s r.m j → WindowsEmpty s → s.pushReady s.cur = true →
    let core := s.me.core
    let q := r.q.toNat
    let d := s.desc core q
    let b := s.book core q
    let n := descSize d
    let tail := spadKey core (descBase d + n * descTail d)
    let head := spadKey core (descBase d + n * descHead d)
    let serves : Prop := descValid d = true ∧ b.gang = s.me.gang ∧ r.width.bytes = n ∧ s.eccBad (queueKey core q) = false
    let live : Prop := r.nb = true ∨ s.cancelled s.cur = false
    let same (t : State) : Prop := ∀ a, t.byte a = s.byte a
    let pushOk : Prop := s.me.budgetOk (r.vregs false) = true
    let popOk : Prop := s.me.budgetOk (r.vregs true) = true
    (pushOk → live → serves → b.waits = [] → descCount d < descDepth d → b.pushed s.cur ≠ descAllow d →
        descBase d + n * (descTail d + 1) ≤ 0x7FE00 →
        Gives (.qpush r) s (fun t => LaneStatus s t r.d.toNat j 0 ∧ t.readLE tail n = s.laneData s.cur j n r.data ∧
          descCount (t.desc core q) = descCount d + 1 ∧ descTail (t.desc core q) = (descTail d + 1) % descDepth d ∧
          descHead (t.desc core q) = descHead d ∧ (t.book core q).pushers = b.pushers ++ [s.cur] ∧
          ∀ a, (a < tail ∨ tail + n ≤ a) → (a < queueKey core q ∨ queueKey core q + 16 ≤ a) → t.byte a = s.byte a)) ∧
      (popOk → live → serves → b.waits = [] → 0 < descCount d → s.eccBad head = true →
        Gives (.qpop r) s (fun t => LaneStatus s t r.d.toNat j 3 ∧ same t)) ∧
      (popOk → live → serves → b.waits = [] → 0 < descCount d → s.eccBad head = false →
        Gives (.qpop r) s (fun t => LaneStatus s t r.d.toNat j 0 ∧
          t.me.getVs (r.d.toNat + r.width.regs) j r.width.regs = s.readLE head n ∧ descCount (t.desc core q) = descCount d - 1 ∧
          descHead (t.desc core q) = (descHead d + 1) % descDepth d ∧ descTail (t.desc core q) = descTail d ∧
          (t.book core q).pushers = b.pushers.drop 1 ∧
          ∀ a, (a < queueKey core q ∨ queueKey core q + 16 ≤ a) → t.byte a = s.byte a)) ∧
      (pushOk → serves → descCount d = descDepth d ∨ b.pushed s.cur = descAllow d →
        (r.nb = true → Gives (.qpush r) s (fun t => LaneStatus s t r.d.toNat j 2 ∧ same t)) ∧
        (r.nb = false → s.cancelled s.cur = false → s.me.removed = false → Gives (.qpush r) s (fun t =>
          t.me = { s.me with laneWait := .queue r j false } ∧ (t.book core q).waits = b.waits ++ [(s.cur, false)] ∧ same t))) ∧
      (popOk → serves → descCount d = 0 →
        (r.nb = true → Gives (.qpop r) s (fun t => LaneStatus s t r.d.toNat j 2 ∧ same t)) ∧
        (r.nb = false → s.cancelled s.cur = false → s.me.removed = false → Gives (.qpop r) s (fun t =>
          t.me.laneWait = .queue r j true ∧ t.me.runs = s.me.runs ∧ (t.book core q).waits = b.waits ++ [(s.cur, true)]))) ∧
      (live → ¬serves → b.waits = [] →
        (pushOk → Gives (.qpush r) s (fun t => LaneStatus s t r.d.toNat j 3 ∧ same t)) ∧
        (popOk → Gives (.qpop r) s (fun t => LaneStatus s t r.d.toNat j 3 ∧ same t))) ∧
      (r.nb = false → s.cancelled s.cur = true →
        (pushOk → Gives (.qpush r) s (fun t => LaneStatus s t r.d.toNat j 1 ∧ same t)) ∧
        (popOk → Gives (.qpop r) s (fun t => LaneStatus s t r.d.toNat j 1 ∧ same t)))

/-- R267: SPAWN of a record that may be spawned answers DONE, from the record's own image (sb zero) or with a template; a READY
record's entry enters the core's queue. It answers CANCELLED when the cancel state has reached the core, and ERROR for a record that
may not be spawned. R265, R267: what the record step of a spawn accepts: a record that is FREE, RETIRED, CANCELLED or FAILED, or
WAITING of a job that has ended, whose image is well formed; READY when its PREDS is 0, and then counted in LIVE, else WAITING and
counted in WAIT; its STATE in memory says so. R269: SPAWNV of one thread with its record's own image: DONE, and the entry of a READY record in the core's queue;
ERROR for a record that may not be spawned; CANCELLED in every executing thread when the cancel state has reached the core. -/
def Obligations.TaskSpawning : Prop :=
  (∀ (s : State) (d a b : SReg) (key : Nat) (bs : List Byte), Released s .domain → s.me.wait = .none → NotInWfe s s.cur →
     (s.core s.me.core).queue.length < 64 →
     let h := (s.me.s a).toNat % 2 ^ 32
     let vd := (s.gangOf s.cur).vd
     let ready : Prop := (s.recWord vd h 0).toNat % 65536 = 0
     (s.cancelled s.cur = true → Gives (.spawn d a b) s (fun t => Wrote s t d 1 (s.me.pc + 4))) ∧
       (s.cancelled s.cur = false → s.recKey vd h = some key → HomeServes s key →
         (s.me.s b = 0 → SpawnOk s h none →
           Gives (.spawn d a b) s (fun t => Answered s t d 0 ∧ (ready → EntryLast s t h))) ∧
         (s.me.s b = 0 → ¬SpawnOk s h none →
           Gives (.spawn d a b) s (fun t => Answered s t d 3 ∧ ∀ x, t.byte x = s.byte x)) ∧
         (s.me.s b ≠ 0 → TemplateAt s (s.me.s b) bs → SpawnOk s h (some (imageOf bs)) →
           Gives (.spawn d a b) s (fun t => Answered s t d 0 ∧ (ready → EntryLast s t h))))) ∧
  (∀ (s v : State) (w : Spawner) (h : Nat) (m : Option Image) (ready : Bool), s.spawnRecord w h m = some (ready, v) →
     let jk := jobKeyOf w.vd w.job
     let st := s.recState w.vd h
     (st = 0 ∨ st = 6 ∨ st = 7 ∨ st = 8 ∨ st = 1 ∧ (s.job (jobKeyOf (s.recVd w.vd h) (s.recJob w.vd h))).live = false) ∧
       s.malformed w.core w.vd ((s.job jk).ctab != 0) (s.spawnImage w.vd h m) = false ∧
       (ready = true ↔ (s.recWord w.vd h 0).toNat % 65536 = 0) ∧
       (ready = true → v.job jk = { s.job jk with liveCnt := (s.job jk).liveCnt + 1 }) ∧
       (ready = false → v.job jk = { s.job jk with waitCnt := (s.job jk).waitCnt + 1 }) ∧ (∀ j, j ≠ jk → v.job j = s.job j) ∧
       ∀ key, s.recKey w.vd h = some key → (∀ i < 8, s.roByte (key + i) = false) →
         (∀ ea ∈ (s.walkVa 4 w.vd (s.recordVa w.vd h) true).read, ea + 8 ≤ key ∨ key + 128 ≤ ea) →
         v.recState w.vd h = if ready = true then 2 else 1) ∧
  (∀ (s : State) (r : SpawnV) (j : Nat), s.me.laneS s.me.runSeq r.tmpl = 0 → s.me.budgetOk r.vregs = true → WindowsEmpty s →
     NotInWfe s s.cur → s.me.laneWait = .none → (∀ f ∈ s.flights, f.strand = s.cur → f.lane = true → f.orphan = true) →
     s.releaseReady s.cur true .domain = true → (s.core s.me.core).queue.length < 64 →
     let h := (s.src32 s.cur j r.imm r.handle).toNat
     let vd := (s.gangOf s.cur).vd
     (s.cancelled s.cur = true → s.me.execSet r.m ≠ 0 →
         Gives (.spawnv r) s (fun t => LaneWrote s t (s.me.execSet r.m) r.d.toNat 1 (fun _ => 1))) ∧
       (s.cancelled s.cur = false → OneThread s r.m j →
         ((s.recKey vd h).isSome = true → SpawnOk s h none →
           Gives (.spawnv r) s (fun t => LaneStatus s t r.d.toNat j 0 ∧
             ((s.recWord vd h 0).toNat % 65536 = 0 → EntryLast s t h))) ∧
         ((s.recKey vd h).isSome = false ∨ ¬SpawnOk s h none →
           Gives (.spawnv r) s (fun t => LaneStatus s t r.d.toNat j 3 ∧ ∀ a, t.byte a = s.byte a))))

/-- R289, R311, R312: FEED appends a register of each executing thread to the row FIFO of its lane; DRAIN reads the lane's row of a tile
into registers, rounded to its format. A strand that is not the pinned one of the gang with the engine raises the matrix-ownership
trap. -/
def Obligations.FeedAndDrain : Prop :=
  ∀ (s : State) (r : Feed) (q : Drain),
    let c := s.core s.me.core
    let bs := ((threadsIn (s.me.execSet r.m)).map (fun i => leBytes 4 (s.src32 s.cur i r.imm r.a).toNat)).flatten
    let fifo := c.matrix.fifos.get [] s.me.lane
    let wide : Bool := q.fmt == .f64
    let seed := (((s.gang s.me.gang).chart? q.chart.toNat).map (·.seed)).getD 0
    let elem (i : Nat) : Nat := c.matrix.tileBits q.tile.toNat wide (64 * s.me.lane + i)
    let out (i : Nat) : Nat := (floatFmt q.fmt).round q.rm q.sat (ftzOf q.ftz q.fmt) seed (64 * s.me.lane + i) (fmtF32.decode (elem i))
    (s.me.budgetOk r.vregs = true → s.me.execSet r.m ≠ 0 →
        (s.me.pinned = false → exec (.feed r) s = .next (s.raiseLane cMatOwn 0 (s.me.execSet r.m))) ∧
        (s.me.pinned = true → 256 < fifo.length + bs.length → exec (.feed r) s = .next s) ∧
        (s.me.pinned = true → fifo.length + bs.length ≤ 256 → c.matrix.discard.get 0 s.me.lane = 0 →
          Gives (.feed r) s (fun t => LaneWent s t ∧ (∀ k, k ≠ s.cur → t.strand k = s.strand k) ∧ (∀ a, t.byte a = s.byte a) ∧
            { t.me with runs := s.me.runs, redo := s.me.redo, ren := s.me.ren, tags := s.me.tags, issuing := s.me.issuing } = s.me ∧
            (∀ row, (t.core s.me.core).matrix.fifos.get [] row = if row = s.me.lane then fifo ++ bs else c.matrix.fifos.get [] row) ∧
            (t.core s.me.core).matrix.tiles = c.matrix.tiles ∧ ∀ k, k ≠ s.me.core → t.core k = s.core k))) ∧
      (s.me.budgetOk q.vregs = true → s.me.execSet q.m ≠ 0 →
        (s.me.pinned = false → exec (.drain q) s = .next (s.raiseLane cMatOwn 0 (s.me.execSet q.m))) ∧
        (s.me.pinned = true → s.tileBusy s.cur (drainTiles q) = true → exec (.drain q) s = .next s) ∧
        (s.me.pinned = true → s.tileBusy s.cur (drainTiles q) = false → Gives (.drain q) s (fun t => LaneWent s t ∧
          (∀ i < 32, (s.me.execSet q.m).getLsbD i = true →
            (q.fmt ∈ [Fmt.f32, .f64] → t.me.getVs q.d.toNat i (if wide then 2 else 1) =
              elem ((if q.h then 32 else 0) + i) % 2 ^ (if wide then 64 else 32)) ∧
            (q.fmt ∈ [Fmt.f16x2, .bf16x2] → (t.me.v q.d.toNat i).toNat = out (2 * i) % 2 ^ 16 + 2 ^ 16 * (out (2 * i + 1) % 2 ^ 16)) ∧
            (q.fmt ∈ [Fmt.e4m3, .e5m2] → i < 16 → (t.me.v q.d.toNat i).toNat =
              out (4 * i) % 256 + out (4 * i + 1) % 256 * 256 + out (4 * i + 2) % 256 * 65536 + out (4 * i + 3) % 256 * 16777216) ∧
            (q.fmt ∈ [Fmt.e4m3, .e5m2] → 16 ≤ i → t.me.v q.d.toNat i = 0)) ∧
          (∀ row, ∀ i < 32, ¬((s.me.execSet q.m).getLsbD i = true ∧ (row = q.d.toNat ∨ wide = true ∧ row = q.d.toNat + 1)) →
            t.me.v row i = s.me.v row i) ∧
          (∀ a, t.byte a = s.byte a) ∧ (∀ k, k ≠ s.cur → t.strand k = s.strand k) ∧
          (t.core s.me.core).matrix.fifos = c.matrix.fifos ∧ (q.clr = false → (t.core s.me.core).matrix.tiles = c.matrix.tiles) ∧
          (q.clr = true → ∀ n, (t.core s.me.core).matrix.tiles.get n =
            if n / 4096 ∈ drainTiles q ∧ n / 64 % 64 = s.me.lane ∧ (∃ i < 32, (s.me.execSet q.m).getLsbD i = true ∧ n % 64 ∈ drainCols q i)
            then 0 else c.matrix.tiles.get n) ∧
          ∀ k, k ≠ s.me.core → t.core k = s.core k)))

/-! ### The matrix engine and the copy engines -/

namespace Sys2Proof.Claims

/-- The matrix engine's queue of the current strand's core. -/
def mqOf (s : State) : List MCmd := (s.core s.me.core).mq

/-- The command of an instruction has been accepted: it stands last in the core's queue, and rd holds DONE. -/
def CmdAccepted (s t : State) (d : SReg) (op : MOp) : Prop :=
  Answered s t d 0 ∧ (∃ m, mqOf t = mqOf s ++ [m] ∧ m.op = op ∧ m.gang = s.me.gang ∧ m.strand = s.cur ∧ m.id = s.nextId) ∧
    (∀ k, k ≠ s.cur → t.strand k = s.strand k) ∧ ∀ a, t.byte a = s.byte a

/-- A command has been refused: ERROR in rd, and no command accepted, neither by the matrix engine nor at the copy port. -/
def CmdRefused (s t : State) (d : SReg) : Prop :=
  Answered s t d 3 ∧ mqOf t = mqOf s ∧ (t.core s.me.core).port = (s.core s.me.core).port ∧ ∀ a, t.byte a = s.byte a

/-- The copy command of an instruction has been accepted at the port of its core. -/
def CopyAccepted (s t : State) (d : SReg) (ra : W64) (kind : CopyKind) : Prop :=
  Answered s t d 0 ∧ (∃ m, (t.core s.me.core).port = (s.core s.me.core).port ++ [m] ∧ m.kind = kind ∧ m.strand = s.cur ∧
    m.gang = s.me.gang ∧ m.next = 0 ∧ m.cb = (if ra.getLsbD 23 then some (barrierVa ra) else none)) ∧ ∀ a, t.byte a = s.byte a

/-- n bytes in memory, aligned, that a scalar instruction of the current strand may read now. -/
def BytesAt (s : State) (align : Nat) (va : W64) (n : Nat) (bs : List Byte) : Prop :=
  ∃ k0 k1, ReadsNow s va k0 k1 n ∧ va.toNat % align = 0 ∧ s.translate s.cur false needR va = .key k0 ∧
    s.translate s.cur false needR (va + BitVec.ofNat 64 (n - 8)) = .key k1 ∧ Unwatched s wpLd va n ∧
    Unwatched s wpNone (va + BitVec.ofNat 64 (n - 8)) n ∧ s.hbmCell s.cur k0 = true ∧ s.hbmCell s.cur k1 = true ∧
    bs = (let first := min n (4096 - va.toNat % 4096); s.bytes k0 first ++ s.bytes (k1 + 8 - (n - first)) (n - first))

/-- A matrix command has ended with an error code (R310), or has left the queue without one. -/
def CmdEnded (s t : State) (core : Nat) (m : MCmd) (code : Option Nat) : Prop :=
  (∀ x ∈ (t.core core).mq, x.id ≠ m.id) ∧
    ∀ c, code = some c → (t.gang m.gang).mstat.cnt = min ((s.gang m.gang).mstat.cnt + 1) 65535 ∧
      ((s.gang m.gang).mstat.cnt = 0 → (t.gang m.gang).mstat.code = c)

end Sys2Proof.Claims

/-- R80, R305 to R309: a matrix command that the front end takes enters the queue of its core and answers DONE; one that it refuses
answers ERROR, one that meets the cancel state CANCELLED; while the queue is full it stalls. `chart.free` with no CHART of its entry
pending frees the entry at once (log entry 35), and with bits 63:8 of sb not zero answers ERROR (log entry 96). R310, R331: MWAIT waits for the commands that its gang had accepted when it issued, and then
answers the summary of MSTAT, which becomes zero; CWAIT for the strand's copy commands, with the summary of its CSTAT. Each meets the
cancel state only where it begins, not where it waits. -/
def Obligations.MatrixCommandsAndWaits : Prop :=
  (∀ (s : State) (d a b : SReg) (key : Nat) (c : Chart),
     let ra := s.me.s a
     let rb := s.me.s b
     let g := s.gangOf s.cur
     let e := fieldOf ra 0 8
     let af := (chartFmt (fieldOf ra 8 5)).getD .none
     let mma (form : MmaForm) : MOp := .mma form (fieldOf ra 0 4) (fieldOf ra 4 3) af (fieldOf ra 16 19) (fieldOf rb 0 19)
     let forms : List (Instr × MmaForm) := [(.mma d a b, .dense), (.mmaNs d a b, .ns), (.mmaBm d a b, .bm)]
     let pending (n : Nat) : Bool := s.chartPending s.me.core s.me.gang n
     (s.cancelled s.cur = true → ∀ i, i ∈ [Instr.chartFree d b, .wload d a b, .mma d a b, .mmaNs d a b, .mmaBm d a b, .mzero d a] →
         Gives i s (fun t => Wrote s t d 1 (s.me.pc + 4))) ∧
       (s.cancelled s.cur = false → Config.matrixDepth ≤ (mqOf s).length →
         ∀ i, i ∈ [Instr.chartFree d b, .wload d a b, .mma d a b, .mmaNs d a b, .mmaBm d a b, .mzero d a] → exec i s = .next s) ∧
       (s.cancelled s.cur = false → (mqOf s).length < Config.matrixDepth →
         (Reaches s { bytes := 256, align := 256, need := needR, wp := wpNone } ra key →
           (rb.toNat < 256 → (g.chart? rb.toNat).isSome = true → Gives (.chart d a b) s (fun t => CmdAccepted s t d (.chart rb.toNat ra))) ∧
           (rb.toNat < 256 → s.chartsTaken s.me.core < Config.chartStore →
             Gives (.chart d a b) s (fun t => CmdAccepted s t d (.chart rb.toNat ra))) ∧
           (256 ≤ rb.toNat → Gives (.chart d a b) s (fun t => CmdRefused s t d))) ∧
         (256 ≤ rb.toNat → Gives (.chartFree d b) s (fun t => CmdRefused s t d)) ∧
         (rb.toNat < 256 → pending rb.toNat = true → Gives (.chartFree d b) s (fun t => CmdAccepted s t d (.chartFree rb.toNat))) ∧
         (rb.toNat < 256 → pending rb.toNat = false → Gives (.chartFree d b) s (fun t => Answered s t d 0 ∧ mqOf t = mqOf s ∧
           (∀ x, x ∈ (t.gang s.me.gang).charts ↔ x ∈ g.charts ∧ x.1 ≠ rb.toNat) ∧ ∀ x, t.byte x = s.byte x)) ∧
         (pending e = true → exec (.wload d a b) s = .next s) ∧
         (pending e = false → g.chart? e = some c → s.holdsEngine = true → wloadBad c ra rb = false →
           Gives (.wload d a b) s (fun t => CmdAccepted s t d (.wload e c (fieldOf ra 8 3) (fieldOf ra 16 11) (fieldOf rb 0 32) (fieldOf rb 32 32)))) ∧
         (pending e = false → g.chart? e = none → Gives (.wload d a b) s (fun t => CmdRefused s t d)) ∧
         (∀ i form, (i, form) ∈ forms → s.holdsEngine = true → mmaBad form ra rb = false → Gives i s (fun t => CmdAccepted s t d (mma form))) ∧
         (s.holdsEngine = true → fieldOf ra 16 48 = 0 → Gives (.mzero d a) s (fun t => CmdAccepted s t d (.mzero (ra.setWidth 16)))) ∧
         (s.holdsEngine = false → ∀ i, i ∈ [Instr.mma d a b, .mmaNs d a b, .mmaBm d a b, .mzero d a] →
           Gives i s (fun t => CmdRefused s t d)))) ∧
  (∀ (s : State) (d : SReg) (n : Nat),
     let g := s.gang s.me.gang
     let m := g.mstat
     let c := s.me.cstat
     let busy (n : Nat) : Prop := ∃ x ∈ mqOf s, x.gang = s.me.gang ∧ x.id < n
     let summary : W64 := BitVec.ofNat 64 ((if m.cnt = 0 then 0 else 3) * 2 ^ 61 + m.cnt * 2 ^ 32 + m.code * 2 ^ 28 + m.tile * 2 ^ 24 +
       m.slot * 2 ^ 21 + m.chart * 2 ^ 13)
     let ends : Prop := Gives (.mwait d) s (fun t => Answered s t d summary ∧ (t.gang s.me.gang).mstat = Mstat.zero ∧ ∀ a, t.byte a = s.byte a)
     (s.me.wait = .mwait n → (busy n → exec (.mwait d) s = .next s) ∧ (¬busy n → ends)) ∧
       (s.me.wait = .none → s.cancelled s.cur = false → (¬busy s.nextId → ends) ∧
         (busy s.nextId → Gives (.mwait d) s (fun t => OnlyMe s t ∧ t.me = { s.me with wait := .mwait s.nextId }))) ∧
       (s.cancelled s.cur = true → s.me.wait = .none →
         ∀ i, i ∈ [Instr.cwait d, .mwait d] → Gives i s (fun t => Wrote s t d 0x2000000000000000 (s.me.pc + 4))) ∧
       (s.cancelled s.cur = false ∨ s.me.wait = .cwait →
         let held : Prop := (∃ x ∈ s.copiesOf s.me.gang, x.strand = s.cur) ∨ ∃ r ∈ s.me.pend, r.engv = true
         (held → Gives (.cwait d) s (fun t => OnlyMe s t ∧ t.me = { s.me with wait := .cwait })) ∧
         (¬held → Gives (.cwait d) s (fun t => Answered s t d
           (BitVec.ofNat 64 ((if c.cnt = 0 then 0 else 3) * 2 ^ 61 + c.cnt * 2 ^ 32 + c.code * 2 ^ 28 + c.engine * 2 ^ 25 + c.die * 2 ^ 21)) ∧
           t.me.cstat = Cstat.zero ∧ ∀ a, t.byte a = s.byte a))))

/-- R318, R324 to R330: TCOPY, with its box or with the destination's sizes, and GCOPY are accepted at the core's port with the charts
that they name and answer DONE; what they may not move answers ERROR; a full port, or a pending chart, stalls them. -/
def Obligations.CopyCommandsAccepted : Prop :=
  ∀ (s : State) (d a b : SReg) (bs : List Byte) (x y z : Chart) (rm : Rm),
    let ra := s.me.s a
    let rb := s.me.s b
    let g := s.gangOf s.cur
    let full : Prop := Config.copyDepth ≤ (s.core s.me.core).port.length
    let pending (n : Nat) : Bool := s.chartPending s.me.core s.me.gang n
    let box (ext sorg dorg : List Nat) : CopyKind := .box x y ext sorg dorg rm (ra.getLsbD 19) (ra.getLsbD 20)
    let zeros := List.replicate 16 0
    let sizes := (List.range 16).map y.size
    s.cancelled s.cur = false →
      (full → exec (.tcopy d a b) s = .next s ∧ exec (.gcopy d a b) s = .next s) ∧
      (¬full → pending (fieldOf ra 0 8) = false → pending (fieldOf ra 8 8) = false → g.chart? (fieldOf ra 0 8) = some x →
        g.chart? (fieldOf ra 8 8) = some y →
        (Rm.ofCode (BitVec.ofNat 3 (fieldOf ra 16 3)) = some rm →
          (rb = 0 → s.tcopyBad ra 0 sizes zeros zeros = none → Gives (.tcopy d a b) s (fun t => CopyAccepted s t d ra (box sizes zeros zeros))) ∧
          (rb = 0 → (s.tcopyBad ra 0 sizes zeros zeros).isSome = true → Gives (.tcopy d a b) s (fun t => CmdRefused s t d)) ∧
          (rb ≠ 0 → BytesAt s 64 rb 192 bs → s.tcopyBad ra rb (originWords bs 0) (originWords bs 64) (originWords bs 128) = none →
            Gives (.tcopy d a b) s (fun t =>
              CopyAccepted s t d ra (box (originWords bs 0) (originWords bs 64) (originWords bs 128))))) ∧
        (pending (fieldOf ra 48 8) = false → g.chart? (fieldOf ra 48 8) = some z →
          (s.gcopyBad ra rb = none → Gives (.gcopy d a b) s (fun t => CopyAccepted s t d ra
            (if ra.getLsbD 16 then .scatter x y z (fieldOf rb 32 32) (fieldOf rb 0 32)
              else .gather x y z (fieldOf rb 32 32) (fieldOf rb 0 32)))) ∧
          ((s.gcopyBad ra rb).isSome = true → Gives (.gcopy d a b) s (fun t => CmdRefused s t d))))

/-- R143, R302 to R309, R315: the steps of the matrix engine. CHART_DESCRIPTOR_READ fills the chart entry with a well-formed
descriptor; WLOAD_EXECUTE fills the slot with the panel; MMA_PASS adds one pass to the chains of every element; MMA_CLOSE writes the
sum of the chains into the tile; MZERO_EXECUTE clears its tiles; MATRIX_WATCHDOG ends an MMA whose granule has not come. R317, R319:
an engine of the die that performs fewer than two commands takes the first command in the order of the ports; a chunk in progress
that nothing stops writes its units and is done. -/
def Obligations.EngineSteps : Prop :=
  (∀ (s u u1 u2 : State) (core : Nat) (m : MCmd) (r : MmaRun),
     let x := (s.core core).matrix
     (∀ e va v, s.firstCmd core MOp.isChart = some m → m.op = .chart e va → s.storesDone m.strand m.bound = true →
         s.engineRead (cmdAccess core m) 256 va = (.ok v, u) → (∀ y ∈ (s.core core).mq, y.gang = m.gang → y.op ≠ .chartFree e) →
         ((chartOf va v).wellFormed = true → Gives (.chartDescriptorRead core) s (fun t => CmdEnded s t core m none ∧
           (t.gang m.gang).chart? e = some (chartOf va v))) ∧
         ((chartOf va v).wellFormed = false → Gives (.chartDescriptorRead core) s (fun t => CmdEnded s t core m (some 1) ∧
           (t.gang m.gang).chart? e = none))) ∧
       (∀ e c w k k0 j0 es ss us, s.firstCmd core MOp.isWload = some m → m.op = .wload e c w k k0 j0 → s.slotFree core m = true →
         s.storesDone m.strand m.bound = true → s.readPanel core m 0 (wloadElems c k k0 j0) = (.got es, u) →
         u.readPanel core m 1 (wloadScales c k k0 j0 false) = (.got ss, u1) → u1.readPanel core m 2 (wloadScales c k k0 j0 true) = (.got us, u2) →
         let v := if c.sparse = 2 then j0 else 0
         Gives (.wloadExecute core) s (fun t => CmdEnded s t core m none ∧ (t.core core).matrix.slots.get Slot.zero w =
           Slot.mk true c.fmt c.sparse c.nnz k v (packVals 64 es) (packVals 8 ss) (packVals 32 us))) ∧
       (∀ form t w af ascale amask, s.firstTile core = some m → m.op = .mma form t w af ascale amask →
         let sl := x.slots.get Slot.zero w
         let pk := passK af (form != .dense)
         let kn := min pk (sl.k - r.pass * pk)
         let nb := rowBytes af kn
         (x.run = none → s.slotFree core m = true → s.drainAhead core m = false → slotServes form af sl = false →
           Gives (.mmaPass core) s (fun t => CmdEnded s t core m (some 2) ∧ (t.core core).matrix.run = none)) ∧
         (x.run = some r → r.pass < passes af form sl.k → x.rowsReady nb = true → s.storesDone m.strand m.bound = true →
           s.readGranules core m (passGranules core form af sl ascale amask r.pass) = (.done, u) →
           let y := (u.core core).matrix
           y.badMeta core form af sl amask r = none →
           Gives (.mmaPass core) s (fun t => ∃ q, (t.core core).matrix.run = some q ∧ q.pass = r.pass + 1 ∧
             (∀ i < 64, (t.core core).matrix.fifos.get [] i = (y.fifos.get [] i).drop nb) ∧
             (∀ i < 64, ∀ j < 64, form = .dense → blockLen af = 1 →
               let c := passElem af sl.fmt r.pass pk ((rowCodes af ((y.fifos.get [] i).take nb) kn).map (multVal af))
                 ((List.range kn).map (fun z => let k := r.pass * pk + z; some (sl.elems.get ((k / pk * 64 + j) * pk + k % pk)).toNat))
                 { b := 0, super := .nan } { b := 0, super := .nan } ((r.c0.get (64 * i + j)).toNat, (r.c1.get (64 * i + j)).toNat)
               q.c0.get (64 * i + j) = BitVec.ofNat 64 c.1 ∧ q.c1.get (64 * i + j) = BitVec.ofNat 64 c.2))) ∧
         (x.run = some r → passes af form sl.k ≤ r.pass → (form = .bm → r.used = sl.v) →
           let f := chainFmt af
           let sum (n : Nat) : W64 :=
             BitVec.ofNat 64 (f.arith .rne false ((f.decode (r.c0.get n).toNat).add .rne (f.decode (r.c1.get n).toNat)))
           Gives (.mmaClose core) s (fun v => CmdEnded s v core m none ∧ (v.core core).matrix.run = none ∧
             (∀ n < 4096, (v.core core).matrix.tiles.get (4096 * t + n) = (sum n).setWidth 32 ∧
               (af = .f64 → (v.core core).matrix.tiles.get (4096 * (t + 1) + n) = ((sum n) >>> 32).setWidth 32)) ∧
             ∀ n, n / 4096 ≠ t → (af = .f64 → n / 4096 ≠ t + 1) → (v.core core).matrix.tiles.get n = x.tiles.get n)) ∧
         (∀ g, x.await = some g → 2 ^ 20 ≤ x.waited →
           Gives (.matrixWatchdog core) s (fun t => CmdEnded s t core m (some 4) ∧ (t.core core).matrix.run = none ∧
             (t.core core).matrix.await = none))) ∧
       (∀ mask : BitVec 16, s.firstTile core = some m → m.op = .mzero mask → s.drainAhead core m = false →
         Gives (.mzeroExecute core) s (fun t => CmdEnded s t core m none ∧
           ∀ n, (t.core core).matrix.tiles.get n = if n / 4096 < 16 ∧ mask.getLsbD (n / 4096) = true then 0 else x.tiles.get n))) ∧
  (∀ (s u : State) (die e slot chunk : Nat) (c : Copy) (rest : List Copy) (r : Nat × Nat) (res : ChunkRes),
     (s.copyOrder die = c :: rest → e < 8 → (s.engine die e).length < 2 →
       Gives (.copyCommandStart die e c.core) s (fun t => t.engine die e = s.engine die e ++ [{ c with eng := 8 * die + e }] ∧
         (t.core c.core).port = (s.core c.core).port.filter (fun x => x.id != c.id) ∧ ∀ a, t.byte a = s.byte a)) ∧
     ((s.engine die e)[slot]? = some c →
       let s' := (s.startChunks c 4).1
       let c' := (s.startChunks c 4).2
       c'.busy[chunk]? = some r → (s'.putCopy die e c').runChunk c' r = (res, u) → res.stop = none → c.cb = none → c.wps = [] →
       (∀ f ∈ s.flights, f.stage = .waiting → ∀ a ∈ res.keys, f.key / 16 ≠ a / 16) →
       Gives (.copyChunkComplete die e slot chunk) s (fun t => (∀ a, t.byte a = u.byte a) ∧
         ∀ x ∈ t.engine die e, x.id = c.id → r ∉ x.busy)))

/-! ### Steps of memory, translation and fetch -/

namespace Sys2Proof.Claims

/-- The request of a number stands at a stage; the others stand as they did. -/
def FlightIs (s t : State) (id : Nat) (P : Flight → Prop) : Prop :=
  (∃ f ∈ t.flights, f.id = id ∧ P f) ∧ ∀ f ∈ t.flights, f.id ≠ id → f ∈ s.flights

/-- A request of one access that stands at its HBM4 home of this package, which nothing holds back, which its slice's arbiter grants, and
whose tag the home's filter does not hold; no line of its strand stands in the write-combining buffer. -/
def AtHome (s : State) (id : Nat) (f : Flight) : Prop :=
  s.flight? id = some f ∧ f.stage = .queued ∧ f.entry = 0 ∧ s.mayPerform f = true ∧ isSpad f.key = false ∧
    pkgOf f.key = s.pkgnum.toNat ∧ s.region f.key = .hbm ∧ 0 < f.bytes ∧
    (f.tagged = true → s.replayed (s.flightSrc f) (s.homeKey f.key) f.tag = none) ∧
    ∀ g ∈ s.flights, g.strand = f.strand → g.stage ≠ .wc

end Sys2Proof.Claims

/-- R189, R214, R215: a request is performed at its home: a store writes its bytes and awaits its acknowledgement, a load takes what
memory holds, an atomic takes the old value and writes the new one; to an agent, such as a peer package, every atomic answers with the old
value. No other byte of memory changes. R11, R156: a request that is refused there awaits an error response and changes no memory. -/
def Obligations.RequestsPerformedAtHome : Prop :=
  ∀ (s : State) (id : Nat) (f : Flight), AtHome s id f →
    let old := s.readLE f.key f.bytes
    let wrote (t : State) (v : Nat) : Prop := t.readLE f.key f.bytes = v % 256 ^ f.bytes ∧
      ∀ a, a < f.key ∨ f.key + f.bytes ≤ a → t.byte a = s.byte a
    let same (t : State) : Prop := ∀ a, t.byte a = s.byte a
    let replies (t : State) (v : Nat) : Prop := FlightIs s t id (fun g => g.stage = .reply ∧ g.value = v ∧ g.dest = f.dest)
    let acked (t : State) : Prop := FlightIs s t id (fun g => g.stage = .ack)
    (s.paRefused f = true → f.kind ≠ .pref →
        Gives (.requestAtHomeSlice id) s (fun t => FlightIs s t id (fun g => g.stage = .err ∧ g.dest = f.dest) ∧ same t)) ∧
      (s.paRefused f = false → f.kind = .load ∨ f.kind = .ldx ∨ f.kind = .line →
        Gives (.requestAtHomeSlice id) s (fun t => replies t old ∧ same t)) ∧
      (s.paRefused f = false → (∀ i < f.bytes, s.roByte (f.key + i) = false) →
        (f.kind = .store ∨ f.kind = .ntStore → Gives (.requestAtHomeSlice id) s (fun t => acked t ∧ wrote t f.data)) ∧
        (∀ op ty cmp ret, f.kind = .atom op ty cmp ret → Gives (.requestAtHomeSlice id) s (fun t =>
          (if ret = true ∨ f.agent.isSome = true then replies t old else acked t) ∧
            (op = .cas ∧ old ≠ cmp → same t) ∧ (op ≠ .cas ∨ old = cmp → wrote t (atomNew op ty old f.data)))))

/-- R11, R174, R184, R200, R355: the answers to a strand's requests. A load's value enters its registers, extended; an error response enters zero
there, is logged and makes ERRRESP pending; an acknowledgement ends its request. Each ends the request, and no byte of memory changes. -/
def Obligations.AnswersReachStrands : Prop :=
  ∀ (s : State) (id : Nat) (f : Flight), s.flight? id = some f → f.agent = none → f.orphan = false → f.watch = false →
      s.clockOn (s.flightCore f) = true →
    let k := f.strand
    let v := extendLoad f.bytes f.sx f.value
    let gone (t : State) : Prop := (∀ g, g ∈ t.flights ↔ g ∈ s.flights ∧ g.id ≠ id) ∧ (∀ a, t.byte a = s.byte a) ∧
      ∀ j, j ≠ k → t.strand j = s.strand j
    let keeps (t : State) : Prop := (t.strand k).pc = (s.strand k).pc ∧ (t.strand k).runs = (s.strand k).runs
    (f.kind = .load → f.stage = .reply → Gives (.loadReply id) s (fun t => gone t ∧ keeps t ∧
        (∀ d, f.dest = .s d → (d ≠ 0 → (t.strand k).s d = BitVec.ofNat 64 v) ∧ ∀ r, r ≠ d → (t.strand k).s r = (s.strand k).s r) ∧
        (∀ d n, f.dest = .v d n → f.thread < 32 → (t.strand k).getVs d.toNat f.thread n = v % 2 ^ (32 * n) ∧
          ∀ r, ∀ i < 32, ¬(i = f.thread ∧ d.toNat ≤ r ∧ r < d.toNat + n) → (t.strand k).v r i = (s.strand k).v r i))) ∧
      (f.kind = .load → f.stage = .err → (s.strand k).live = true → Gives (.errorResponse id) s (fun t => gone t ∧ keeps t ∧
        (∀ d, f.dest = .s d → (t.strand k).s d = 0) ∧
        (∀ d n, f.dest = .v d n → f.thread < 32 → (t.strand k).getVs d.toNat f.thread n = 0) ∧
        (t.die (s.strand k).die).errIdx = (s.die (s.strand k).die).errIdx + 1 ∧
        ∃ r, (t.strand k).pend = (s.strand k).pend ++ [r] ∧ r.code = cErrResp ∧ r.va = f.va)) ∧
      (f.stage = .ack → Gives (.writeAcknowledgement id) s (fun t => gone t ∧
        { t.strand k with ackVec := (s.strand k).ackVec } = s.strand k))

/-- R27, R162, R163, R167, R198, R208: the steps between a core and a home. COALESCING_ENTRY_SEND sends the requests of one entry on as one;
BIN_SEND sends the elements of a bin on, those of one line as one; INVALIDATION_APPLY drops a line from the cores of a die and advances its
vector; LINE_RECALL takes a line from the core that owns it, and the contention counters of that core and of those whose atomics found it owned rise;
EDRAM_REFRESH brings a bank into its refresh window or out of it. None changes a byte of memory. R180 to R185, R351, R352, R396:
a walk that ends lets the access of its instruction go on, with the leaf or the failure it found; the line of a fetch enters the
instruction cache, or the strand parks with FETCH; a held entry enters the fault queue once it can; an error of ECC is logged, and
an uncorrectable one is met by the next step's accesses of its line, which are refused (log entry 52). -/
def Obligations.LinesWalksFetchesAndReports : Prop :=
  (∀ (s : State) (id die n core line : Nat) (f : Flight) (m : Inval),
     let same (t : State) : Prop := (∀ a, t.byte a = s.byte a) ∧ t.strands = s.strands
     (s.flight? id = some f → f.stage = .window → Gives (.coalescingEntrySend id) s (fun t => same t ∧
       (∃ g ∈ t.flights, g.id = id ∧ g.stage = f.firstStage) ∧
       ∀ g ∈ s.flights, (if g.stage = .window ∧ g.strand = f.strand ∧ g.key / 128 = f.key / 128 ∧ g.kind.writes = f.kind.writes then
         { g with stage := g.firstStage, entry := id + 1 } else g) ∈ t.flights)) ∧
     Gives (.binSend die n) s (fun t => same t ∧ { t with flights := s.flights } = s ∧
       t.flights.map (fun g => { g with entry := 0 }) = s.flights.map (fun g =>
         if g.stage = .bin ∧ s.flightCore g / 32 = die ∧ s.homeKey g.key = n then { g with stage := .home, entry := 0 }
         else { g with entry := 0 }) ∧
       ∀ g ∈ s.flights, ∀ h ∈ s.flights, s.binOf die n g = true → s.binOf die n h = true → g.key / 128 = h.key / 128 →
         ∃ e, e ≠ 0 ∧ { g with stage := .home, entry := e } ∈ t.flights ∧ { h with stage := .home, entry := e } ∈ t.flights) ∧
     ((s.die die).invals[n]? = some m → m.src < 9 → (s.die die).vc.get m.src + 1 = m.vec.get m.src →
       (∀ i < 9, i ≠ m.src → 0 ≤ ((s.die die).vc.get i - m.vec.get i).toInt) →
       Gives (.invalidationApply die n) s (fun t => same t ∧ (t.die die).invals = (s.die die).invals.eraseIdx n ∧
         (∀ i, (t.die die).vc.get i = if i = m.src then m.vec.get i else (s.die die).vc.get i) ∧
         ∀ c l, l ∈ (t.core c).l1 ↔ l ∈ (s.core c).l1 ∧ ¬(c / 32 = die ∧ c ≠ m.core ∧ l.line = m.line))) ∧
     ((∃ l ∈ (s.core core).l1, l.line = line ∧ l.owned = true) →
       (∃ g ∈ s.flights, g.stage = .queued ∧ isSpad g.key = false ∧ g.key / 128 = line ∧ s.flightCore g ≠ core) →
       Gives (.lineRecall core line) s (fun t => same t ∧
         (∀ l, l ∈ (t.core core).l1 ↔ l ∈ (s.core core).l1 ∧ l.line ≠ line) ∧
         (∀ c, c ≠ core → (t.core c).l1 = (s.core c).l1) ∧
         (t.core core).counter line = min ((s.core core).counter line + 1) 3 ∧
         ∀ g ∈ s.flights, g.stage = .queued → g.atomic = true → g.agent = none → isSpad g.key = false → g.key / 128 = line →
           (t.core (s.flightCore g)).counter line = min ((s.core (s.flightCore g)).counter line + 1) 3)) ∧
     Gives (.edramRefresh die n) s (fun t => same t ∧ (n ∈ (t.die die).refreshing ↔
         ((s.die die).ephem.get n).toNat ≤ (s.die die).refcnt.toNat ∧ (s.die die).refcnt.toNat < ((s.die die).ephem.get n).toNat + 120) ∧
       ∀ b, b ≠ n → (b ∈ (t.die die).refreshing ↔ b ∈ (s.die die).refreshing))) ∧
  (∀ (s u : State) (k die : Nat) (lane : Bool) (i : Instr) (vas : List W64) (unit : Nat) (pte : W64) (addr : Nat) (h : Nat × LogEntry),
     let t := s.strand k
     let vd := (s.gangOf k).vd
     let pc := if lane then t.lanePc else t.pc
     let key := leafPa pte pc
     (t.waitOf lane = .walk i vas unit → (∀ va ∈ vas, s.walkWaits t.core vd va = false) →
       let w := s.walkAll t.core vd unit vas
       let s' := w.2.setStrand k ((w.2.strand k).setWait lane (.walked w.1))
       (s'.mayIssue k = false → Gives (.pageWalk (2 * k + if lane then 1 else 0)) s (fun v => v = s')) ∧
       (s'.mayIssue k = true → reissue i { s' with cur := k } = .next u →
         Gives (.pageWalk (2 * k + if lane then 1 else 0)) s (fun v => v = { u with cur := s.cur }))) ∧
     (s.fetchDue k lane = true → pc.toNat < 2 ^ 56 → inReserve pc = false → (s.core t.core).tlbFind (t.units lane) vd pc = none →
       let w := s.walkVa t.die vd pc
       let kept := (s.afterWalk t.die vd w).tlbFill t.core ([t.units lane |>.headD 4, 4].eraseDups) vd pc pte
       (w.fin = .leaf pte → s.walkTurn t.die vd w = true → permits pte (if lane then needXL else needXS) = true → s.paOk key = true →
         s.vdRefused vd key = false → pkgOf key = s.pkgnum.toNat → s.refreshing key = false →
         kept.sliceTurn key vd (s.gangOf k).prio = true →
         Gives (.fetchMissLineArrival k lane) s (fun v => v.strands = s.strands ∧ (∀ a, v.byte a = s.byte a) ∧
           let l : ILine := { vd, line := pc.toNat / 128, bytes := s.bytes (key / 128 * 128) 128 }
           (if lane then (v.core t.core).icL.head? else (v.core t.core).icS.head?) = some l)) ∧
       (w.fin = .notMapped → s.walkTurn t.die vd w = true → Gives (.fetchMissLineArrival k lane) s (fun v =>
         ∃ p, (v.strand k).parked = some p ∧ p.fetch = true ∧ p.lane = lane ∧ p.va = pc.toNat ∧ p.xkind = 1))) ∧
     ((s.die die).held = [h] → (s.die die).source = [] → s.fqWrite die h.1 h.2 = some u → Gives (.faultQueueHeldWrite die) s (fun v =>
       (v.die die).held = [] ∧ (∀ a, v.byte a = u.byte a) ∧
         (v.part h.1).fqtail = BitVec.ofNat 64 (((s.part h.1).fqtail.toNat % (s.part h.1).fqSize + 1) % (s.part h.1).fqSize))) ∧
     (∀ correctable, Gives (.eccError die addr correctable none) s (fun v =>
       (v.die die).errIdx = (s.die die).errIdx + 1 ∧ v.strands = s.strands ∧ (∀ a, v.byte a = s.byte a) ∧ v.flights = s.flights ∧
         (correctable = true → v.ecc = s.ecc) ∧
         (correctable = false → ∀ f : Flight, f.key / 128 = addr / 128 → v.paRefused f = true))))

/-! ### Launch, partitions, the control space -/

/-- R252, R253, R381: a LAUNCH write is queued for its check, or refused with RESULT 2 and logged, by die 4 (log entry 42); the check of the
oldest write accepts a record that may be launched, with RESULT 1, and refuses another. -/
def Obligations.LaunchAndCheck : Prop :=
  ∀ (s : State) (vd key : Nat) (w : W64) (rest : List W64), vd < 384 →
    (let ok : Prop := s.vdEn vd = true ∧ (s.part (s.vdPart vd)).rbusy = false ∧ fieldOf w 56 8 = 0 ∧ fieldOf w 0 6 = 0 ∧
      (s.vd vd).launches.length < 16
     (ok → Gives (.launch vd w) s (fun t => (t.vd vd).launches = (s.vd vd).launches ++ [w] ∧ t.launchOrder = s.launchOrder ++ [vd] ∧
        (∀ v, v ≠ vd → t.vd v = s.vd v) ∧ { t with vds := s.vds, launchOrder := s.launchOrder } = s)) ∧
      (¬ok → Gives (.launch vd w) s (fun t => (t.vd vd).result = 2 ∧ (t.vd vd).launches = (s.vd vd).launches ∧
        t.irqs = s.irqs ++ (if w.getLsbD 6 then [(vd + 1, 0)] else []) ∧ (t.die 4).errIdx = (s.die 4).errIdx + 1))) ∧
    (let s' := (s.jobsOf vd).foldl State.pushLeft s
     (s'.vd vd).launches = w :: rest → s'.launchOrder.head? = some vd →
      let u : State := { s'.setVd vd { s'.vd vd with launches := rest } with launchOrder := s'.launchOrder.drop 1 }
      u.hwKey 128 vd needR (launchVa w) false = some key →
      let m : Image := (List.range 16).map (fun i => BitVec.ofNat 64 (s'.readLE (key + 8 * i) 8))
      let v := (u.recallAll key 128).setVd vd { u.vd vd with lastJob := launchJob m }
      (v.launchBad vd m = true → Gives (.launchCheck vd) s (fun t =>
        (t.vd vd).result = 2 ∧ (t.vd vd).launches = rest ∧ (t.vd vd).lastJob = launchJob m)) ∧
      (v.launchBad vd m = false → Gives (.launchCheck vd) s (fun t =>
        (t.vd vd).result = 1 ∧ (t.vd vd).launches = rest ∧ (t.vd vd).lastJob = launchJob m)))

/-- R285, R376: DIE_FENCE fences a die that is present; PARTITION_RESET ends the gangs of the partition, clears its fault queue and the
scratchpads of its clusters (their bytes become 0 and their full/empty bits empty; an inkwell written back is outside them) and advances its EPOCH; RBUSY stays until PARTITION_RESET_COMPLETE. -/
def Obligations.FencesAndPartitionResets : Prop :=
  ∀ (s : State) (d p : Nat),
    (d < 9 → (s.die d).present = true → (s.die d).fenced = false → Gives (.dieFence d) s (fun t => (t.die d).fenced = true)) ∧
    (p < 32 → (s.part p).rbusy = false → Gives (.partitionReset p) s (fun t => (t.part p).rbusy = true ∧
      (t.part p).fqbase = 0 ∧ (t.part p).fqhead = 0 ∧ (t.part p).fqtail = 0 ∧
      fieldOf ((t.part p).regs.get 0) 58 3 = (fieldOf ((s.part p).regs.get 0) 58 3 + 1) % 8 ∧
      (∀ g, (s.gang g).live = true → s.vdPart (s.gang g).vd = p → (t.gang g).live = false) ∧
      (∀ v, (s.vd v).regs = (t.vd v).regs) ∧
      ∀ c ∈ s.partCores p, ∀ i < Config.spadBytes,
        (∀ e ∈ s.inks, ∀ x ∈ e.2, spadKey c i < x.pa ∨ x.pa + 384 ≤ spadKey c i) →
        t.byte (spadKey c i) = 0 ∧ t.isFull (spadKey c i) = false)) ∧
    ((s.part p).rbusy = true → exec (.partitionReset p) s = .next s) ∧
    ((s.part p).rbusy = true → Gives (.partitionResetComplete p) s (fun t => t.part p = { s.part p with rbusy := false } ∧
      (∀ q, q ≠ p → t.part q = s.part q) ∧ { t with parts := s.parts } = s))

/-- R369, R370, R374, R375, R377, R383: writes of the control space by the management function. A record takes what its fields may take;
a write that is refused changes no record and completes with an error; PKGNUM and NPKG take a value only before a virtual device is
enabled. The error completion goes to function 0 (log entry 42); a write that leaves a field as it is needs no condition of it (log entry
47); a discarded write of PKGNUM or NPKG, and the cells that move with PKGNUM, are log entry 48. -/
def Obligations.ControlSpaceWrites : Prop :=
  ∀ (s : State) (p v off : Nat) (w : W64) (n : BitVec 4),
    let fails (i : Instr) : Prop := Gives i s (fun t => t.parts = s.parts ∧ t.vds = s.vds ∧
      t.outbox = s.outbox ++ [.completion 0 [] false] ∧ ∀ a, t.byte a = s.byte a)
    let q := s.part p
    let old := q.regs.get (off / 8)
    let new : W64 := if off = 0 then BitVec.ofNat 64 (fieldOf w 63 1 * 2 ^ 63 + fieldOf old 58 3 * 2 ^ 58 + fieldOf w 0 25)
      else if off = 24 then w &&& 0xFFFF else if off = 40 then w &&& 0xFFFFFFFF else w
    let partOk : Prop := off % 8 = 0 ∧ off < 48 ∧ (partSets old w (off / 8) = true → s.partActive p = false) ∧
      (∀ x ∈ s.parts, x.1 ≠ p → ({ q with regs := q.regs.set (off / 8) new } : Part).overlaps x.2 = false) ∧ (off = 0 → w.getLsbD 62 = false)
    let i := off / 8
    let vdOk : Prop := off % 8 = 0 ∧ i < 11 ∧ vdReserved i w = false ∧ (vdIdle (s.vdReg v i) w i = true → s.vdActive v = false) ∧
      (i = 0 → w.getLsbD 63 = true → s.partEn (fieldOf w 56 5) = true)
    let partIs (i : Instr) : Prop := Gives i s (fun t => t.part p = { q with regs := q.regs.set (off / 8) new } ∧
      (∀ x, x ≠ p → t.part x = s.part x) ∧ { t with parts := s.parts } = s)
    let vdIs (j : Instr) : Prop := Gives j s (fun t => t.vd v = { s.vd v with regs := (s.vd v).regs.set i w } ∧
      (∀ x, x ≠ v → t.vd x = s.vd x) ∧ (i < 8 → t.buckets = s.buckets) ∧ { t with vds := s.vds, dies := s.dies, buckets := s.buckets } = s)
    let bad : Prop := off < 4096 ∧ off % 8 ≠ 0
    (p < 32 → (partOk → partIs (.partitionRecordWrite p off w) ∧ partIs (.controlSpaceWrite (0xFF1000000000 + 4096 * p + off) w)) ∧
        (bad → fails (.partitionRecordWrite p off w)) ∧
        (off < 4096 → off ∈ [8, 16, 24, 32, 40] → s.partActive p = true → fails (.partitionRecordWrite p off w))) ∧
      (v < 384 → (vdOk → vdIs (.vdRecordWrite v off w) ∧ vdIs (.controlSpaceWrite (0xFF2000000000 + 4096 * v + off) w)) ∧
        (bad → fails (.vdRecordWrite v off w)) ∧
        (off < 4096 → off % 8 = 0 → i ≠ 16 → vdReserved i w = true → fails (.vdRecordWrite v off w))) ∧
      (s.anyVdEn = true → exec (.pkgnumWrite n) s = .next s ∧ exec (.npkgWrite n) s = .next s) ∧
      (s.anyVdEn = false → SMap.wf s.mem = true → Gives (.npkgWrite n) s (fun t => t = { s with npkg := n }) ∧
        Gives (.pkgnumWrite n) s (fun t => t.pkgnum = n ∧ (∀ a, isSpad a = true → t.byte a = s.byte a) ∧
          (∀ a < 0x1000000000000, t.byte (n.toNat * 0x1000000000000 + a) = s.byte (s.pkgnum.toNat * 0x1000000000000 + a)) ∧
          { t with pkgnum := s.pkgnum, mem := s.mem } = s))

/-! ### Links, clocks, the host -/

/-- R15, R156, R384, R385: a port accepts the next expected flit whose CRC holds. A peer's request becomes accesses on their way to their homes, one
for each run of its bytes, or draws an error response where this package cannot perform it; the answer to one leaves by the port it came
by. A peer's reply brings what it read to the access of this package that asked. A port discards a duplicate and draws a replay with any other
flit, with the number that it expects; it sends its replay buffer again when no acknowledgement comes, resets at the seventeenth time without
progress, and retrains with what is attached to it; a port that has not been trained does not (log entry 50). R386 to R388: a mean above the cap makes every die owe a step of
its clock down by one, not below 10; the hundredth window in a row more than 60 W below it a step up, not beyond 30; a junction at 105 °C
or more a step to 10. A die takes the step that it owes as its own time passes (log entry 49). A clock resumes at the end of its relock. -/
def Obligations.LinksClocksAndPower : Prop :=
  (∀ (s : State) (k : Nat) (f : Flit) (x8 : Bool),
     let p := s.port k
     let next (type : Nat) : Prop := p.trained = true ∧ p.resetting = false ∧ flitOk type f = true ∧ f.seq = p.rxNext ∧
       (∀ e ∈ p.replay, e.2.seq ≠ f.ack) ∧ p.replay.length < 1024
     let took (t : State) : Prop := (t.port k).rxNext = (p.rxNext + 1) % 4096 ∧ (t.port k).acked = f.ack ∧
       (t.port k).creditReq = p.creditReq + f.creditReq ∧ (t.port k).creditRep = p.creditRep + f.creditRep
     let same (t : State) : Prop := ∀ a, t.byte a = s.byte a
     (∀ i type, (i, type) ∈ [(Instr.linkAckFlit k f, 3), (.linkIdleFlit k f, 0)] → next type →
         Gives i s (fun t => took t ∧ same t ∧ t.outbox = s.outbox)) ∧
       (k ≠ 0 → next 1 → f.more = true → Gives (.linkRequestFlit k f) s (fun t => took t ∧ same t ∧ t.flights = s.flights ∧
         (t.port k).partReq = p.partReq ++ f.data)) ∧
       (k ≠ 0 → next 1 → f.more = false → p.partReq = [] →
         let ours (g : Flight) : Prop := ∃ a, g.agent = some a ∧ a.who = .peer k f ∧ a.src = f.src ∧ a.vd = f.vd ∧ a.prio = f.prio
         (s.peerOk f = true → Gives (.linkRequestFlit k f) s (fun t => took t ∧ same t ∧ t.outbox = s.outbox ∧
           ∃ l, t.flights = s.flights ++ l ∧ l.map (fun g => (g.key, g.bytes, g.data)) = (peerRuns f).map (fun r => (f.pa + r.1, r.2)) ∧
             ∀ g ∈ l, g.stage = .home ∧ g.kind = f.op ∧ g.tag = f.tag % 65536 ∧ ours g)) ∧
         (s.peerOk f = false → Gives (.linkRequestFlit k f) s (fun t => took t ∧ same t ∧ t.outbox = s.outbox ∧
           ∃ g, t.flights = s.flights ++ [g] ∧ g.stage = .err ∧ ours g))) ∧
       (∀ (q : Flit) (a : Agent) (g : Flight), s.flight? g.id = some g → g.agent = some a → a.who = .peer k q →
         (s.flights.filter (fun x => x.agent == g.agent)) = [g] →
         let answers (i : Instr) (wr : Bool) (d : List Byte) : Prop := Gives i s (fun t => same t ∧ t.flights = s.flights.filter (fun x => x.agent != g.agent) ∧
           ∃ r, t.outbox = s.outbox ++ [.flit k 2 r] ∧ r.tag = q.tag ∧ r.pa = q.pa ∧ r.src = q.src ∧ r.vd = q.vd ∧ r.wr = wr ∧ r.data = d ∧
             r.creditReq = (flitData q.data).length ∧ r.seq = p.txSeq ∧ flitOk 2 r = true)
         s.portRoom k 2 1 = true →
           (g.stage = .reply → g.kind = .load → 0 < g.bytes → g.bytes ≤ 64 → answers (.loadReply g.id) q.wr (leBytes g.bytes g.value)) ∧
           (g.stage = .ack → answers (.writeAcknowledgement g.id) q.wr []) ∧
           (g.stage = .err → answers (.errorResponse g.id) false [])) ∧
       (k ≠ 0 → next 2 → f.more = false → p.partRep = [] → s.answeredBy f = [] → Gives (.linkReplyFlit k f) s (fun t => took t ∧ same t ∧
         ∃ r, t.outbox = s.outbox ++ [.flit k 3 r] ∧ r.creditRep = 1)) ∧
       (k ≠ 0 → next 2 → f.more = false → ∀ g, s.answeredBy f = [g] → g.agent = none → g.kind = .load → g.mayHit = true →
         (p.partRep ++ f.data).length = 128 → 0 < g.bytes → g.key % 128 + g.bytes ≤ 128 →
         (∀ i < 128, s.roByte (g.key / 128 * 128 + i) = false) → (∀ x ∈ s.flights, x.strand = g.strand → x.stage ≠ .wc) →
         Gives (.linkReplyFlit k f) s (fun t => took t ∧ FlightIs s t g.id (fun x => x.stage = .reply ∧
           x.value = leNat (((p.partRep ++ f.data).drop (g.key % 128)).take g.bytes)) ∧
           ∃ r, t.outbox = s.outbox ++ [.flit k 3 r] ∧ r.creditRep = 1)) ∧
       (∀ i type, (i, type) ∈ [(Instr.linkAckFlit k f, 3), (.linkIdleFlit k f, 0), (.linkReplyFlit k f, 2), (.linkRequestFlit k f, 1)] →
         p.trained = true → p.resetting = false →
         let back := (p.rxNext + 4096 - f.seq % 4096) % 4096
         (flitOk type f = true → f.seq ≠ p.rxNext → back < 2048 → exec i s = .next s) ∧
         (flitOk type f = false ∨ (f.seq ≠ p.rxNext ∧ 2048 ≤ back) → p.replay.length < 1024 →
           Gives i s (fun t => (t.port k).rxNext = p.rxNext ∧ same t ∧ t.flights = s.flights ∧
             ∃ r, t.outbox = s.outbox ++ [.flit k 3 r] ∧ r.nak = true ∧ r.ack = p.rxNext))) ∧
       (p.trained = true → p.resetting = false → p.replay ≠ [] →
         (p.fails < 16 → Gives (.linkAckTimeout k) s (fun t => t.port k = { p with fails := p.fails + 1 } ∧
           t.outbox = s.outbox ++ p.replay.map (fun e => .flit k e.1 e.2) ∧ same t)) ∧
         (16 ≤ p.fails → Gives (.linkAckTimeout k) s (fun t => (t.port k).resetting = true ∧ same t))) ∧
       (k < 6 → p.trained = true → Gives (.linkRetrain k) s (fun t =>
         t.port k = { p with resetting := true, fails := 0 } ∧ { t with ports := s.ports } = s)) ∧
       (p.trained = false → exec (.linkRetrain k) s = .next s) ∧
       (p.resetting = true →
         (s.partner k = true → Gives (.linkRetrainComplete k x8) s (fun t => (t.port k).trained = true ∧ (t.port k).x8 = x8 ∧
           (t.port k).resetting = false ∧ (t.port k).rxNext = 0 ∧ same t)) ∧
         (s.partner k = false → exec (.linkRetrainComplete k x8) s = .next s) ∧
         Gives (.linkTrainTimeout k) s (fun t => (t.port k).trained = false ∧ (t.port k).resetting = false ∧ same t ∧
           (k = 5 → ∀ q < 16, (t.route.get 1).getLsbD q = false) ∧
           ∀ q < 16, 1 ≤ k → k ≤ 4 → (t.route.get 0).getLsbD (4 * q + (k - 1)) = false))) ∧
  (∀ (s : State) (mean die temp : Nat) (r c w q : W64),
     let owes (t : State) (f : Nat → Nat) : Prop := ∀ d, (∃ x ∈ s.dies, x.1 = d) →
       (t.die d).due = f (if (s.die d).due = 0 then (s.die d).mult else (s.die d).due) ∧ (t.die d).mult = (s.die d).mult
     let same (t : State) : Prop := (∀ a, t.byte a = s.byte a) ∧ t.strands = s.strands
     (s.cap < mean → Gives (.powerWindow mean) s (fun t => same t ∧ owes t (fun m => max (m - 1) 10) ∧ t.mgmt.below = 0)) ∧
       (mean + 60 < s.cap → s.mgmt.below < 99 → Gives (.powerWindow mean) s (fun t => same t ∧ t.dies = s.dies ∧ t.mgmt.below = s.mgmt.below + 1)) ∧
       (mean + 60 < s.cap → 99 ≤ s.mgmt.below → Gives (.powerWindow mean) s (fun t => same t ∧ owes t (fun m => min (m + 1) 30) ∧ t.mgmt.below = 0)) ∧
       (mean ≤ s.cap → s.cap ≤ mean + 60 → Gives (.powerWindow mean) s (fun t => same t ∧ t.dies = s.dies ∧ t.mgmt.below = 0)) ∧
       (105 ≤ temp → Gives (.thermalTrip die temp) s (fun t => same t ∧ owes t (fun _ => 10))) ∧
       (temp < 105 → Gives (.thermalTrip die temp) s (fun t => same t ∧ t.dies = s.dies ∧ t.mgmt.temps.get 0 die = temp)) ∧
       (∀ n rest, s.turns = .pass die n :: rest → (s.die die).present = true → (s.die die).fenced = false → (s.die die).relock = 0 →
         (s.die die).due ≠ 0 → (s.die die).due ≠ (s.die die).mult →
         ∃ t, step s = .next t ∧ (t.die die).mult = (s.die die).due ∧ (t.die die).due = 0 ∧ (t.die die).steps = (s.die die).steps + 1 ∧
           ∀ d, d ≠ die → t.die d = s.die d) ∧
       ((s.die die).stepLog.get [] ((s.die die).steps % 16) = [r, c, w, q] → (s.die die).relock ≠ 0 → r.toNat < (s.die die).refcnt.toNat →
         Gives (.clockRelockEnd die) s (fun t => same t ∧ (t.die die).relock = 0 ∧
           (t.die die).stepLog.get [] ((s.die die).steps % 16) = [r, c, setField w 16 16 ((s.die die).refcnt.toNat - r.toNat), q])))

/-- R389: an access through BAR2 of a virtual function reads or writes the virtual device's memory and completes, once the slices of its lines serve
it; one that fails its checks completes with an abort and is logged, by die 4 (log entry 42). R365, R373, R390 to R392: the commands of the management core's mailbox. An idle
mailbox takes a command and answers it: state 2 with the response, or 3 with the error; a virtual function's has the attestation
report alone. One row stands for the doorbell and its command, and one that cannot run ends at once with its error (log entry 78); units go by
numbers of the model (log entry 45). An internal failure ends the command with error 6. A DOORBELL write makes an idle mailbox busy, or ends with error 1 or 2, and is discarded while it is busy; a busy mailbox's report is
made when it is first in the order of the doorbells. -/
def Obligations.HostAccessesAndMailbox : Prop :=
  (∀ (s : State) (fn va : Nat) (data : List Byte) (keys : List (Nat × Nat)), 0 < fn → fn ≤ 384 → s.vdEn (fn - 1) = true →
     va + data.length ≤ 2 ^ 36 →
     let pieces := linePieces keys
     let homes := pieces.filter (fun p => !isSpad p.1)
     let granted := homes.foldl (fun s p => s.sliceGrant p.1 (fn - 1) 0) s
     let served : Prop := (∀ p ∈ pieces, isSpad p.1 = true ∨ pkgOf p.1 = s.pkgnum.toNat) ∧ ∀ p ∈ homes, s.sliceTurn p.1 (fn - 1) 0 = true
     (s.hostKeys (fn - 1) false (BitVec.ofNat 64 va) data.length = some keys → served → (∀ k ∈ keys, s.anyRefreshing k.1 k.2 = false) →
       Gives (.hostBar2Access fn va false data) s (fun t => t.outbox = s.outbox ++ [.completion fn (s.readAreas keys) true] ∧
         { t with outbox := s.outbox, cores := s.cores, buckets := s.buckets, slices := s.slices } = s)) ∧
     (s.hostKeys (fn - 1) true (BitVec.ofNat 64 va) data.length = some keys → served → Gives (.hostBar2Access fn va true data) s (fun t =>
       t.outbox = s.outbox ++ [.completion fn [] true] ∧ granted.mem = s.mem ∧ t.mem = (granted.writeAreas 999 keys data).mem)) ∧
     (∀ wr, s.hostKeys (fn - 1) wr (BitVec.ofNat 64 va) data.length = none → Gives (.hostBar2Access fn va wr data) s (fun t =>
       t.outbox = s.outbox ++ [.completion fn [] false] ∧ (∀ a, t.byte a = s.byte a) ∧ (t.die 4).errIdx = (s.die 4).errIdx + 1))) ∧
  (∀ (s u : State) (fn unit vd : Nat) (seq : BitVec 16) (nonce image : List Byte) (kind : BitVec 8) (h : BitVec 32) (op : BitVec 2),
     let idle (fn : Nat) : Prop := s.visible fn = true ∧ (s.box fn).state ≠ 1 ∧ (fn = 0 ∨ s.mgmt.waiting = [])
     let box := s.box fn
     let answers (i : Instr) (fn : Nat) (resp : List Byte) (P : State → Prop) : Prop := Gives i s (fun t =>
       (t.box fn).state = 2 ∧ (t.box fn).resp = resp ∧ (t.box fn).seq = seq ∧ P t)
     let fails (i : Instr) (fn : Nat) (P : Nat → Prop) : Prop := Gives i s (fun t =>
       (t.box fn).state = 3 ∧ P (t.box fn).err ∧ (t.box fn).seq = seq ∧ ∀ a, t.byte a = s.byte a)
     (idle fn → nonce.length = 64 → answers (.attestationReport fn seq nonce) fn (s.reportBody fn nonce ++
         fixLen 4627 (Config.deviceSign (sha3 (s.reportBody fn nonce)))) (fun t => t.strands = s.strands)) ∧
       (idle fn → nonce.length ≠ 64 → fails (.attestationReport fn seq nonce) fn (fun e => e = 2)) ∧
       (s.visible fn = true → box.state ≠ 1 → fn ≠ 0 → ∀ i, i ∈ [Instr.deviceCertificate fn seq, .stageFirmwareImage fn seq image, .commitStagedImage fn seq,
         .readFenceList fn seq, .fenceUnit fn seq kind unit, .telemetry fn seq] → fails i fn (fun e => e = 1)) ∧
       (idle 0 → answers (.deviceCertificate 0 seq) 0 (Config.deviceCertificates.take 65536) (fun t => t.strands = s.strands)) ∧
       (idle 0 → image.length ≤ 0x7FF000 → answers (.stageFirmwareImage 0 seq image) 0 [] (fun t => t.mgmt.staged = some image)) ∧
       (idle 0 → 0x7FF000 < image.length → fails (.stageFirmwareImage 0 seq image) 0 (fun e => e = 2)) ∧
       (idle 0 → s.mgmt.staged = none → fails (.commitStagedImage 0 seq) 0 (fun e => e < 64)) ∧
       (idle 0 → s.mgmt.staged = some image →
         (Config.imageVerifies image = true → s.mgmt.counter ≤ Config.imageRollback image % 64 →
           answers (.commitStagedImage 0 seq) 0 (leBytes 8 (Config.imageRollback image % 64)) (fun t =>
             t.mgmt.committed = some image ∧ t.mgmt.counter = Config.imageRollback image % 64)) ∧
         (Config.imageVerifies image = false ∨ Config.imageRollback image % 64 < s.mgmt.counter →
           fails (.commitStagedImage 0 seq) 0 (fun e => e = 4))) ∧
       (idle 0 → answers (.readFenceList 0 seq) 0 (wordBytes s.mgmt.fenceList) (fun t => t.mgmt.fenceList = s.mgmt.fenceList)) ∧
       (idle 0 → kind = 1 → unit < 9 → (s.die unit).present = true → answers (.fenceUnit 0 seq kind unit) 0 [] (fun t =>
         (t.die unit).fenced = true ∧ t.mgmt.fenceList = s.mgmt.fenceList)) ∧
       (idle 0 → kind = 0 ∨ 6 ≤ kind.toNat → fails (.fenceUnit 0 seq kind unit) 0 (fun e => e = 5)) ∧
       (idle 0 → Gives (.telemetry 0 seq) s (fun t => (t.box 0).state = 2 ∧ (t.box 0).resp.length = 512)) ∧
       (idle 0 → op = 3 → answers (.haltOperation 0 seq h vd op) 0 (leBytes 8 3) (fun t => t.gangs = s.gangs)) ∧
       (let req := haltRequest h vd op
        let g := gangKeyOf vd h.toNat
        let st := s.recState vd h.toNat
        box.state = 1 → box.seq = seq → box.req.take 8 = req → fieldOf box.doorbell 48 16 = 0x30 → op ≠ 3 → (s.gang g).live = true →
         st ∈ [stRunning, stParked, stSuspended] →
         (s.haltOp g op.toNat = .done u → Gives (.haltOperation fn seq h vd op) s (fun t =>
           (t.box fn).state = 2 ∧ (t.box fn).resp = leBytes 8 0 ∧ t.gangs = u.gangs)) ∧
         (s.haltOp g op.toNat = .wait u → Gives (.haltOperation fn seq h vd op) s (fun t => t = u))) ∧
       (box.state = 1 → box.seq = seq → fieldOf box.doorbell 48 16 = 1 → box.request 64 = nonce →
         ((fn = 0 ∨ s.mgmt.waiting.head? = some fn) → Gives (.attestationReport fn seq nonce) s (fun t => (t.box fn).state = 2 ∧
           (t.box fn).resp = s.reportBody fn nonce ++ fixLen 4627 (Config.deviceSign (sha3 (s.reportBody fn nonce))) ∧
           t.mgmt.waiting = if fn = 0 then s.mgmt.waiting else s.mgmt.waiting.tail)) ∧
         (fn ≠ 0 → s.mgmt.waiting.head? ≠ some fn → Gives (.attestationReport fn seq nonce) s (fun t => t = s)))) ∧
  (∀ (s : State) (fn : Nat) (w : W64) (rest : List Turn),
     let box := s.box fn
     let code := fieldOf w 48 16
     s.turns = .host fn (fn == 0) (if fn = 0 then 0 else 0x1000) true (leBytes 8 w.toNat) :: rest → s.visible fn = true →
       ∃ t, step s = .next t ∧ t.turns = rest ∧ (∀ a, t.byte a = s.byte a) ∧
         (box.state = 1 → t.mgmt = s.mgmt) ∧
         (box.state ≠ 1 → fn = 0 ∨ code = 1 → mailLength code (fieldOf w 0 32) = some true →
           (t.box fn).state = 1 ∧ (t.box fn).seq = BitVec.ofNat 16 (fieldOf w 32 16) ∧ (t.box fn).req = box.req ∧
             t.mgmt.waiting = s.mgmt.waiting ++ (if fn = 0 then [] else [fn])) ∧
         (box.state ≠ 1 → fn = 0 ∨ code = 1 → mailLength code (fieldOf w 0 32) = some false →
           (t.box fn).state = 3 ∧ (t.box fn).err = 2 ∧ t.mgmt.waiting = s.mgmt.waiting) ∧
         (box.state ≠ 1 → (fn ≠ 0 ∧ code ≠ 1) ∨ mailLength code (fieldOf w 0 32) = none →
           (t.box fn).state = 3 ∧ (t.box fn).err = 1 ∧ t.mgmt.waiting = s.mgmt.waiting)) ∧
  (∀ (s : State) (fn : Nat) (rest : List Turn), s.turns = .mgmtFailure fn :: rest → (s.box fn).state = 1 →
     ∃ t, step s = .next t ∧ (t.box fn).state = 3 ∧ (t.box fn).err = 6 ∧ t.mgmt.waiting = s.mgmt.waiting.erase fn ∧ ∀ a, t.byte a = s.byte a)

namespace Sys2Proof.Claims

/-- What reset leaves: no strand, gang, job or request, no virtual device and no partition, package 0 of a domain of one, the cap at
1,500 W, and the clocks at their reset values. -/
def AtReset (t : State) : Prop :=
  t.strands = [] ∧ t.gangs = [] ∧ t.jobs = [] ∧ t.cores = [] ∧ t.flights = [] ∧ t.msgs = [] ∧ t.waiters = [] ∧ t.inks = [] ∧
    t.parts = [] ∧ t.vds = [] ∧ t.pkgnum = 0 ∧ t.npkg = 0 ∧ t.cap = 1500 ∧
    ∀ d < 9, (t.die d).mult = 30 ∧ (t.die d).refcnt = 0 ∧ (t.die d).cyccnt = 0 ∧ (t.die d).errLog = []

end Sys2Proof.Claims

/-- R15, R372, R374, R377, R383, R386, R390, R393: the state after reset, in which the invariants of StepKeepsMemoryForm and
StepKeepsFreshNumbers hold; and PACKAGE_RESET, which comes to it from any state: the fence list stays, a committed image that is
accepted runs, the dies of the fence list and those that fail at bring-up are fenced, an eDRAM bank that fails leaves BANKS, and the ports train
with what is attached to them; a peer package on port 0 is not trained, and logged. What memory of the host and of peers held stays. That a
strand that is not there reads zero, and that memory of the host and of peers outlives the reset, are the model's choices (log entries 15
and 52); units go by numbers of the model (log entry 45). -/
def Obligations.ResetLeaves : Prop :=
  (AtReset State.reset ∧ SMap.wf State.reset.mem = true ∧ SMap.wf State.reset.fe = true ∧ FreshIds State.reset ∧
    ∀ (i : SReg) (r t : Nat), State.reset.me.s i = 0 ∧ State.reset.me.v r t = 0) ∧
  ∀ (s : State), SMap.wf s.mem = true → Gives .packageReset s (fun t =>
    (s.attachedTo 0 ≠ 2 → AtReset t) ∧ (s.attachedTo 0 = 2 → (t.port 0).trained = false ∧ (t.die 4).errIdx = 1) ∧ t.mgmt.fenceList = s.mgmt.fenceList ∧ t.mgmt.counter = s.mgmt.counter ∧ t.mgmt.staged = none ∧
      (∀ i, s.mgmt.committed = some i → Config.imageVerifies i = true → s.mgmt.counter ≤ Config.imageRollback i % 64 →
        t.mgmt.running = some i) ∧
      (∀ u < 9, unitWord 1 u ∈ s.mgmt.fenceList ++ s.defects → (t.die u).fenced = true) ∧ t.defects = s.defects ∧
      (∀ u < 288, unitWord 6 u ∈ s.defects → (t.die (u / 32)).banks.getLsbD (u % 32) = false) ∧
      (∀ k < 6, (t.port k).trained = t.partner k) ∧
      (∀ a, isSpad a = false → pkgOf a ≠ s.pkgnum.toNat → pkgOf a ≠ 0 → t.byte a = s.byte a) ∧
      (∀ a < 0x400000000000, s.hbmBytes ≤ 0x800000000000 → t.byte (0x800000000000 + a) =
        s.byte (s.pkgnum.toNat * 0x1000000000000 + 0x800000000000 + a)))

/-! ### Encodings, steps, invariants -/

/-- R36 to R39, R266, R305, R337: the scalar encoding. A word that decodes is the word of the instruction, which is well formed; the word
of a well-formed instruction decodes to it. The operations of HALT and the actions of RESUME, which a register selects, share a word;
it decodes to the first of them (log entry 53). -/
def Obligations.ScalarEncodeDecode : Prop :=
  (∀ (w : W32) (i : Instr), decodeScalar w = .ok i → i.wf = true ∧ encodeScalar i = some w) ∧
    ∀ (w : W32) (i : Instr), i.wf = true → encodeScalar i = some w →
      decodeScalar w = .ok (match i with
        | .haltRelease d a b | .haltAndSuspend d a b => .haltInPlace d a b
        | .resumePage d a b | .resumeDeliverFault d a b | .resumeFailTask d a b => .resumeRestart d a b
        | i => i)

/-- R42 to R52: the lane encoding. A word decodes to an instruction exactly where that is well formed and the word is its own. -/
def Obligations.LaneEncodeDecode : Prop :=
  ∀ (w : W96) (i : Instr), decodeLane w = .ok i ↔ i.wf = true ∧ encodeLane i = some w

/-- R36 to R39, R42 to R51: words written out from the encodings of the spec, one of each class. -/
def Obligations.DecodesSpecWords : Prop :=
  decodeScalar 0xBC001200 = .ok (.trap 0x12) ∧ decodeScalar 0xBC000001 = .ok .bkpt ∧ decodeScalar 0xBC518702 = .ok (.haltInPlace 5 6 7) ∧
    decodeScalar 0xBC524003 = .ok (.wfe 5 9 0) ∧ decodeScalar 0xBD339206 = .ok (.resumeRestart 19 14 18) ∧
    decodeScalar 0xB0A00061 = .ok (.mfc 10 0x061) ∧ decodeScalar 0xB4028061 = .ok (.mtc 10 0x061) ∧
    decodeScalar 0xA0100000 = .ok (.lrun 1 0 0) ∧ decodeScalar 0x08610000 = .ok (.addi 6 4 0) ∧
    decodeScalar 0x44703FFD = .ok (.bne 7 0 (-3)) ∧ decodeScalar 0xA8000000 = .ok .ldrain ∧
    decodeScalar 0x6891017C = .ok (.ldw 9 4 380) ∧ decodeScalar 0xAC002800 = .ok (.sfence 2 4) ∧
    decodeScalar 0xB8000000 = .ok .yield ∧ (∀ i, decodeScalar 0 ≠ .ok i) ∧
    decodeLane 0x017010810000000000000000 =
      .ok (.laneAddInt (Arith.mk .z32 .rne false false 1 (.v 8) (.v 16) (.v 0) (Mask.mk 0 false) 0)) ∧
    ∀ i, decodeLane 0 ≠ .ok i

namespace Sys2Proof.Claims

/-- What a step makes of what the agent whose turn it is answers: the mark of an uncorrectable error, which only this step meets, goes
(R27). -/
def afterStep (s : State) : Host.Outcome State Fault Refusal → Host.Outcome State Fault Refusal
  | .next t => .next (if s.ecc.isEmpty then t else { t with ecc := [] })
  | o => o

end Sys2Proof.Claims

/-- R20, R27, R47, R48, R53, R59, R60, R76, R93, R94: a turn of a strand runs the instruction that the bytes at its PC decode to: in the scalar
stream at the scalar PC, in the lane stream at the lane PC of its oldest run, where its registers are ready and its lane or front end
chooses it; else nothing issues. The step is exec of it, at the state with the turn taken: the moment of the issue is noted, and the lane
stream's loop buffer keeps the slot and the tags of the result are noted; nothing else changes before. A passed-over slot, and a FENCE or
TLBSYNC that waits, take no issue cycle. With no turn given and no other step due, the current strand's stream goes on, and then the rotation (log
entry 3). A word that decodes to nothing, or a sheet whose last word is not zero, raises the illegal-instruction
trap. -/
def Obligations.StepRunsDecodedInstruction : Prop :=
  (∀ (s : State) (k : Nat) (rest : List Turn) (i : Instr) (l : ILine),
    let s' : State := { s with turns := rest, cur := k }
    let t := s.strand k
    let core := s.core t.core
    let vd := (s.gangOf k).vd
    let n := s'.issueCycles k i
    let ready : Prop := t.live = true ∧ s'.mayIssue k = true ∧ t.pendTrap = none ∧ (t.pend = [] ∨ t.handler = true)
    let scalarWord (bs : List Byte) : Prop := t.wait = .none ∧ t.laneWait = .none ∧ t.pc.toNat % 4 = 0 ∧
      core.icS.find? (fun l => l.vd == vd && l.line == t.pc.toNat / 128) = some l ∧ bs = l.bytes.drop (t.pc.toNat % 128)
    let lastWord : Nat := leNat ((l.bytes.drop (t.lanePc.toNat / 64 * 64 % 128 + 60)).take 4)
    let laneWord (bs : List Byte) : Prop := t.runs ≠ [] ∧ (t.laneWait = .none ∨ t.laneWait = .fence) ∧ t.redo = none ∧
      (∀ e ∈ t.loopBuf, e.1 ≠ t.lanePc.toNat) ∧ t.lanePc.toNat < 2 ^ 56 ∧
      core.icL.find? (fun l => l.vd == vd && l.line == t.lanePc.toNat / 128) = some l ∧ bs = l.bytes.drop (t.lanePc.toNat % 128)
    (s.turns = .strand k false :: rest → ready → ∀ bs, scalarWord bs →
        (decodeScalarBytes bs = .ok i → s'.scalarReady k i = true →
          (s'.chosen k false = true → step s = afterStep s (exec i (s'.noteIssue k false n))) ∧
          (s'.chosen k false = false → step s = afterStep s (.next s'))) ∧
        (decodeScalarBytes bs = .ok i → s'.scalarReady k i = false → step s = afterStep s (.next s')) ∧
        ((∀ j, decodeScalarBytes bs ≠ .ok j) → 4 ≤ bs.length →
          step s = afterStep s (.next (s'.raise k (t.scalarTrap cIllegal 0))))) ∧
      (s.turns = .strand k true :: rest → ready → ∀ bs, laneWord bs → 12 ≤ bs.length →
        (lastWord = 0 → decodeLaneBytes bs = .ok i → s'.laneReady k i = true →
          let u := s'.keepLoop k (leNat (bs.take 12))
          let free : Prop := t.passesOver i = true ∨ t.laneWait = .fence
          (free → step s = afterStep s (exec i u)) ∧
          (¬free → s'.chosen k true = true → step s = afterStep s (exec i ((u.noteIssue k true n).noteTags k true i))) ∧
          (¬free → s'.chosen k true = false → step s = afterStep s (.next s'))) ∧
        (lastWord = 0 → decodeLaneBytes bs = .ok i → s'.laneReady k i = false → step s = afterStep s (.next s')) ∧
        ((∀ j, decodeLaneBytes bs ≠ .ok j) ∨ lastWord ≠ 0 →
          step s = afterStep s (.next (s'.raise k (t.laneTrap cIllegal 0 (orAll (t.rawSet (leNat (bs.take 12))))))))) ∧
      (s.turns = .event i :: rest → step s = afterStep s (exec i { s with turns := rest })) ∧
      (s.turns = [] → s.autoEvent = some i → step s = afterStep s (exec i s)) ∧
      (s.turns = [] → rest = [] → s.autoEvent = none → s.cur = k → s.stream = false → ready → ∀ bs, scalarWord bs →
        decodeScalarBytes bs = .ok i → s'.scalarReady k i = true → s'.chosen k false = true →
        ∀ u, exec i (s'.noteIssue k false n) = .next u → step s = afterStep s (.next u.rotate))) ∧
  (∀ (s : State) (k n w : Nat) (lane : Bool),
    { s.noteIssue k lane n with strands := s.strands, issues := s.issues, buckets := s.buckets } = s ∧
      (∀ j, let t := s.strand j
        { (s.noteIssue k lane n).strand j with stampL := t.stampL, stampS := t.stampS, lastS := t.lastS } = t) ∧
      (∀ i, { s.noteTags k lane i with strands := s.strands } = s ∧
        ∀ j, { (s.noteTags k lane i).strand j with issuing := (s.strand j).issuing } = s.strand j) ∧
      { s.keepLoop k w with strands := s.strands } = s ∧
      ∀ j, { (s.keepLoop k w).strand j with loopBuf := (s.strand j).loopBuf } = s.strand j)

/-- Every instruction answers a next state from every state: no meaning stops the machine. -/
def Obligations.EveryInstructionAnswersNext : Prop := ∀ (i : Instr) (s : State), ∃ t, exec i s = .next t

/-- The memory and the full/empty bits keep their canonical form in every step (a property of the model's own representation: equal
memories are equal lists). -/
def Obligations.StepKeepsMemoryForm : Prop :=
  ∀ (s t : State), SMap.wf s.mem = true → SMap.wf s.fe = true → step s = .next t → SMap.wf t.mem = true ∧ SMap.wf t.fe = true

/-- Every step leaves the requests in flight, and those withdrawn to be sent again, with numbers below the next one (a property of the
model's own numbering of requests). -/
def Obligations.StepKeepsFreshNumbers : Prop := ∀ (s t : State), FreshIds s → step s = .next t → FreshIds t
end

