-- ==== Sys2Proof/Laws/Maps.lean ====
section
/-! SUPPORT. The two kinds of map: reading after writing, and the canonical form of `SMap`. -/

namespace Sys2Proof.Machine

/-! ### SMap -/

@[simp] theorem SMap.get_nil {w : Nat} (a : Nat) : SMap.get ([] : SMap w) a = 0 := rfl

theorem SMap.get_insert_of_absent {w : Nat} (m : SMap w) (a b : Nat) (v : BitVec w) (h : ∀ c ∈ m, c.1 ≠ a) :
    (m.insert a v).get b = if b = a then v else m.get b := by
  induction m with
  | nil => simp [SMap.insert, SMap.get]
  | cons c t ih =>
    obtain ⟨k, x⟩ := c
    have hk : k ≠ a := h (k, x) (by simp)
    have ih := ih (fun c hc => h c (by simp [hc]))
    unfold SMap.insert
    split
    · simp [SMap.get]
    · simp only [SMap.get, ih]
      by_cases hb : b = k
      · subst hb; simp [hk]
      · simp [hb]

theorem SMap.get_filter {w : Nat} (m : SMap w) (p : Nat → Bool) (a : Nat) :
    SMap.get (m.filter (fun c => p c.1)) a = if p a then m.get a else 0 := by
  induction m with
  | nil => simp [SMap.get]
  | cons c t ih =>
    obtain ⟨k, x⟩ := c
    by_cases hk : p k
    · simp only [List.filter, hk, SMap.get, ih]
      by_cases ha : a = k
      · subst ha; simp [hk]
      · simp [ha]
    · simp only [List.filter, hk, SMap.get, ih]
      by_cases ha : a = k
      · subst ha; simp [hk]
      · simp [ha]

theorem SMap.get_erase {w : Nat} (m : SMap w) (a b : Nat) : (m.erase a).get b = if b = a then 0 else m.get b := by
  have := SMap.get_filter m (fun k => k != a) b
  simp only [SMap.erase, this]
  by_cases h : b = a <;> simp [h]

/-- A read after a write. -/
@[simp] theorem SMap.get_set {w : Nat} (m : SMap w) (a b : Nat) (v : BitVec w) :
    (m.set a v).get b = if b = a then v else m.get b := by
  unfold SMap.set
  split
  · next h => rw [SMap.get_erase, h]
  · rw [SMap.get_insert_of_absent]
    · by_cases h : b = a <;> simp [h, SMap.get_erase]
    · intro c hc
      have := (List.mem_filter.mp hc).2
      simpa using this

/-- A read after a range has been cleared. -/
@[simp] theorem SMap.get_clear {w : Nat} (m : SMap w) (lo len b : Nat) :
    (m.clear lo len).get b = if lo ≤ b ∧ b < lo + len then 0 else m.get b := by
  have := SMap.get_filter m (fun k => !(lo ≤ k && k < lo + len)) b
  unfold SMap.clear
  rw [this]
  by_cases h1 : lo ≤ b <;> by_cases h2 : b < lo + len <;> simp [h1, h2]

/-! ### The canonical form -/

/-- The canonical form, said of a list: keys strictly rising and no entry 0. -/
def SMap.Canon {w : Nat} (m : SMap w) : Prop := m.Pairwise (fun x y => x.1 < y.1) ∧ ∀ c ∈ m, c.2 ≠ 0

theorem SMap.wf_iff {w : Nat} (m : SMap w) : m.wf = true ↔ m.Canon := by
  induction m with
  | nil => simp [SMap.wf, SMap.Canon]
  | cons c t ih =>
    cases t with
    | nil => simp [SMap.wf, SMap.Canon]
    | cons d u =>
      simp only [SMap.wf, Bool.and_eq_true, ih, SMap.Canon]
      constructor
      · rintro ⟨⟨h1, h2⟩, h3, h4⟩
        refine ⟨?_, ?_⟩
        · rw [List.pairwise_cons]
          refine ⟨?_, h3⟩
          intro e he
          have hd : c.1 < d.1 := by simpa using h2
          rcases List.mem_cons.mp he with rfl | he
          · exact hd
          · exact lt_trans hd ((List.pairwise_cons.mp h3).1 e he)
        · intro e he
          rcases List.mem_cons.mp he with rfl | he
          · simpa using h1
          · exact h4 e he
      · rintro ⟨h1, h2⟩
        rw [List.pairwise_cons] at h1
        refine ⟨⟨by simpa using h2 c (by simp), by simpa using h1.1 d (by simp)⟩, h1.2, fun e he => h2 e (by simp [he])⟩

theorem SMap.Canon.filter {w : Nat} {m : SMap w} (h : m.Canon) (p : Nat × BitVec w → Bool) : SMap.Canon (m.filter p) :=
  ⟨h.1.filter p, fun c hc => h.2 c (List.mem_filter.mp hc).1⟩

theorem SMap.mem_insert {w : Nat} (m : SMap w) (a : Nat) (v : BitVec w) (c : Nat × BitVec w) :
    c ∈ m.insert a v ↔ c = (a, v) ∨ c ∈ m := by
  induction m with
  | nil => simp [SMap.insert]
  | cons d t ih =>
    unfold SMap.insert
    split
    · simp
    · simp only [List.mem_cons, ih]; tauto

theorem SMap.Canon.insert {w : Nat} {m : SMap w} (h : m.Canon) {a : Nat} {v : BitVec w} (hv : v ≠ 0)
    (ha : ∀ c ∈ m, c.1 ≠ a) : (m.insert a v).Canon := by
  refine ⟨?_, ?_⟩
  · induction m with
    | nil => simp [SMap.insert]
    | cons d t ih =>
      have hp := List.pairwise_cons.mp h.1
      have hd : d.1 ≠ a := ha d (by simp)
      unfold SMap.insert
      split
      · next hlt =>
        rw [List.pairwise_cons]
        refine ⟨?_, h.1⟩
        intro e he
        rcases List.mem_cons.mp he with rfl | he
        · exact hlt
        · exact lt_trans hlt (hp.1 e he)
      · next hlt =>
        rw [List.pairwise_cons]
        refine ⟨?_, ih ⟨hp.2, fun c hc => h.2 c (by simp [hc])⟩ (fun c hc => ha c (by simp [hc]))⟩
        intro e he
        rcases (SMap.mem_insert t a v e).mp he with rfl | he
        · have : d.1 < a := by omega
          exact this
        · exact hp.1 e he
  · intro c hc
    rcases (SMap.mem_insert m a v c).mp hc with rfl | hc
    · exact hv
    · exact h.2 c hc

/-- Writing keeps the canonical form. -/
theorem SMap.Canon.set {w : Nat} {m : SMap w} (h : m.Canon) (a : Nat) (v : BitVec w) : (m.set a v).Canon := by
  unfold SMap.set
  split
  · exact h.filter _
  · next hv =>
    refine SMap.Canon.insert (h.filter _) hv ?_
    intro c hc
    simpa using (List.mem_filter.mp hc).2

/-- Clearing a range keeps the canonical form. -/
theorem SMap.Canon.clear {w : Nat} {m : SMap w} (h : m.Canon) (lo len : Nat) : (m.clear lo len).Canon := h.filter _

theorem SMap.wf_set {w : Nat} {m : SMap w} (h : m.wf = true) (a : Nat) (v : BitVec w) : (m.set a v).wf = true :=
  (SMap.wf_iff _).mpr (((SMap.wf_iff _).mp h).set a v)

theorem SMap.wf_clear {w : Nat} {m : SMap w} (h : m.wf = true) (lo len : Nat) : (m.clear lo len).wf = true :=
  (SMap.wf_iff _).mpr (((SMap.wf_iff _).mp h).clear lo len)

/-! ### KMap -/

@[simp] theorem KMap.get_nil {α : Type} (d : α) (a : Nat) : KMap.get d ([] : KMap α) a = d := rfl

theorem KMap.get_insert_of_absent {α : Type} (d : α) (m : KMap α) (a b : Nat) (v : α) (h : ∀ c ∈ m, c.1 ≠ a) :
    (m.insert a v).get d b = if b = a then v else m.get d b := by
  induction m with
  | nil => simp [KMap.insert, KMap.get]
  | cons c t ih =>
    obtain ⟨k, x⟩ := c
    have hk : k ≠ a := h (k, x) (by simp)
    have ih := ih (fun c hc => h c (by simp [hc]))
    unfold KMap.insert
    split
    · simp [KMap.get]
    · simp only [KMap.get, ih]
      by_cases hb : b = k
      · subst hb; simp [hk]
      · simp [hb]

theorem KMap.get_erase {α : Type} (d : α) (m : KMap α) (a b : Nat) : (m.erase a).get d b = if b = a then d else m.get d b := by
  induction m with
  | nil => simp [KMap.erase, KMap.get]
  | cons c t ih =>
    obtain ⟨k, x⟩ := c
    unfold KMap.erase at ih ⊢
    by_cases hk : k = a
    · subst hk
      simp only [List.filter, bne_self_eq_false, ih, KMap.get]
      by_cases hb : b = k <;> simp [hb]
    · have : (k != a) = true := by simpa using hk
      simp only [List.filter, this, KMap.get, ih]
      by_cases hb : b = k
      · subst hb; simp [hk]
      · simp [hb]

/-- A record after one has been written. -/
@[simp] theorem KMap.get_set {α : Type} (d : α) (m : KMap α) (a b : Nat) (v : α) :
    (m.set a v).get d b = if b = a then v else m.get d b := by
  unfold KMap.set
  rw [KMap.get_insert_of_absent]
  · by_cases h : b = a <;> simp [h, KMap.get_erase]
  · intro c hc
    simpa using (List.mem_filter.mp hc).2

end Sys2Proof.Machine
end

