-- ==== Sys2Proof/Laws/State.lean ====
section
/-! SUPPORT. Reading State after each of its named updates: one lemma per field per update, and one per record reader. -/

namespace Sys2Proof.Machine

variable (s : State)

/-! ### setStrand -/

@[simp] theorem State.mem_setStrand (k : Nat) (x : Strand) : (s.setStrand k x).mem = s.mem := rfl
@[simp] theorem State.fe_setStrand (k : Nat) (x : Strand) : (s.setStrand k x).fe = s.fe := rfl
@[simp] theorem State.blocks_setStrand (k : Nat) (x : Strand) : (s.setStrand k x).blocks = s.blocks := rfl
@[simp] theorem State.gangs_setStrand (k : Nat) (x : Strand) : (s.setStrand k x).gangs = s.gangs := rfl
@[simp] theorem State.jobs_setStrand (k : Nat) (x : Strand) : (s.setStrand k x).jobs = s.jobs := rfl
@[simp] theorem State.cores_setStrand (k : Nat) (x : Strand) : (s.setStrand k x).cores = s.cores := rfl
@[simp] theorem State.clusters_setStrand (k : Nat) (x : Strand) : (s.setStrand k x).clusters = s.clusters := rfl
@[simp] theorem State.dies_setStrand (k : Nat) (x : Strand) : (s.setStrand k x).dies = s.dies := rfl
@[simp] theorem State.parts_setStrand (k : Nat) (x : Strand) : (s.setStrand k x).parts = s.parts := rfl
@[simp] theorem State.vds_setStrand (k : Nat) (x : Strand) : (s.setStrand k x).vds = s.vds := rfl
@[simp] theorem State.flights_setStrand (k : Nat) (x : Strand) : (s.setStrand k x).flights = s.flights := rfl
@[simp] theorem State.msgs_setStrand (k : Nat) (x : Strand) : (s.setStrand k x).msgs = s.msgs := rfl
@[simp] theorem State.waiters_setStrand (k : Nat) (x : Strand) : (s.setStrand k x).waiters = s.waiters := rfl
@[simp] theorem State.inks_setStrand (k : Nat) (x : Strand) : (s.setStrand k x).inks = s.inks := rfl
@[simp] theorem State.replay_setStrand (k : Nat) (x : Strand) : (s.setStrand k x).replay = s.replay := rfl
@[simp] theorem State.pkgnum_setStrand (k : Nat) (x : Strand) : (s.setStrand k x).pkgnum = s.pkgnum := rfl
@[simp] theorem State.npkg_setStrand (k : Nat) (x : Strand) : (s.setStrand k x).npkg = s.npkg := rfl
@[simp] theorem State.cap_setStrand (k : Nat) (x : Strand) : (s.setStrand k x).cap = s.cap := rfl
@[simp] theorem State.route_setStrand (k : Nat) (x : Strand) : (s.setStrand k x).route = s.route := rfl
@[simp] theorem State.hbmBytes_setStrand (k : Nat) (x : Strand) : (s.setStrand k x).hbmBytes = s.hbmBytes := rfl
@[simp] theorem State.ports_setStrand (k : Nat) (x : Strand) : (s.setStrand k x).ports = s.ports := rfl
@[simp] theorem State.mgmt_setStrand (k : Nat) (x : Strand) : (s.setStrand k x).mgmt = s.mgmt := rfl
@[simp] theorem State.bins_setStrand (k : Nat) (x : Strand) : (s.setStrand k x).bins = s.bins := rfl
@[simp] theorem State.irqs_setStrand (k : Nat) (x : Strand) : (s.setStrand k x).irqs = s.irqs := rfl
@[simp] theorem State.outbox_setStrand (k : Nat) (x : Strand) : (s.setStrand k x).outbox = s.outbox := rfl
@[simp] theorem State.launchOrder_setStrand (k : Nat) (x : Strand) : (s.setStrand k x).launchOrder = s.launchOrder := rfl
@[simp] theorem State.turns_setStrand (k : Nat) (x : Strand) : (s.setStrand k x).turns = s.turns := rfl
@[simp] theorem State.cur_setStrand (k : Nat) (x : Strand) : (s.setStrand k x).cur = s.cur := rfl
@[simp] theorem State.stream_setStrand (k : Nat) (x : Strand) : (s.setStrand k x).stream = s.stream := rfl
@[simp] theorem State.free_setStrand (k : Nat) (x : Strand) : (s.setStrand k x).free = s.free := rfl
@[simp] theorem State.nextId_setStrand (k : Nat) (x : Strand) : (s.setStrand k x).nextId = s.nextId := rfl
@[simp] theorem State.tags_setStrand (k : Nat) (x : Strand) : (s.setStrand k x).tags = s.tags := rfl
@[simp] theorem State.slices_setStrand (k : Nat) (x : Strand) : (s.setStrand k x).slices = s.slices := rfl
@[simp] theorem State.buckets_setStrand (k : Nat) (x : Strand) : (s.setStrand k x).buckets = s.buckets := rfl
@[simp] theorem State.ecc_setStrand (k : Nat) (x : Strand) : (s.setStrand k x).ecc = s.ecc := rfl
@[simp] theorem State.issues_setStrand (k : Nat) (x : Strand) : (s.setStrand k x).issues = s.issues := rfl
@[simp] theorem State.attached_setStrand (k : Nat) (x : Strand) : (s.setStrand k x).attached = s.attached := rfl
@[simp] theorem State.released_setStrand (k : Nat) (x : Strand) : (s.setStrand k x).released = s.released := rfl
@[simp] theorem State.burst_setStrand (k : Nat) (x : Strand) : (s.setStrand k x).burst = s.burst := rfl
@[simp] theorem State.retiring_setStrand (k : Nat) (x : Strand) : (s.setStrand k x).retiring = s.retiring := rfl
@[simp] theorem State.defects_setStrand (k : Nat) (x : Strand) : (s.setStrand k x).defects = s.defects := rfl
@[simp] theorem State.strand_setStrand (k : Nat) (x : Strand) (j : Nat) : (s.setStrand k x).strand j = if j = k then x else s.strand j := by
  simp [State.strand, State.setStrand]
@[simp] theorem State.gang_setStrand (k : Nat) (x : Strand) (j : Nat) : (s.setStrand k x).gang j = s.gang j := rfl
@[simp] theorem State.job_setStrand (k : Nat) (x : Strand) (j : Nat) : (s.setStrand k x).job j = s.job j := rfl
@[simp] theorem State.core_setStrand (k : Nat) (x : Strand) (j : Nat) : (s.setStrand k x).core j = s.core j := rfl
@[simp] theorem State.cluster_setStrand (k : Nat) (x : Strand) (j : Nat) : (s.setStrand k x).cluster j = s.cluster j := rfl
@[simp] theorem State.die_setStrand (k : Nat) (x : Strand) (j : Nat) : (s.setStrand k x).die j = s.die j := rfl
@[simp] theorem State.part_setStrand (k : Nat) (x : Strand) (j : Nat) : (s.setStrand k x).part j = s.part j := rfl
@[simp] theorem State.vd_setStrand (k : Nat) (x : Strand) (j : Nat) : (s.setStrand k x).vd j = s.vd j := rfl
@[simp] theorem State.byte_setStrand (k : Nat) (x : Strand) (a : Nat) : (s.setStrand k x).byte a = s.byte a := rfl

/-! ### setGang -/

@[simp] theorem State.mem_setGang (k : Nat) (x : Gang) : (s.setGang k x).mem = s.mem := rfl
@[simp] theorem State.fe_setGang (k : Nat) (x : Gang) : (s.setGang k x).fe = s.fe := rfl
@[simp] theorem State.blocks_setGang (k : Nat) (x : Gang) : (s.setGang k x).blocks = s.blocks := rfl
@[simp] theorem State.strands_setGang (k : Nat) (x : Gang) : (s.setGang k x).strands = s.strands := rfl
@[simp] theorem State.jobs_setGang (k : Nat) (x : Gang) : (s.setGang k x).jobs = s.jobs := rfl
@[simp] theorem State.cores_setGang (k : Nat) (x : Gang) : (s.setGang k x).cores = s.cores := rfl
@[simp] theorem State.clusters_setGang (k : Nat) (x : Gang) : (s.setGang k x).clusters = s.clusters := rfl
@[simp] theorem State.dies_setGang (k : Nat) (x : Gang) : (s.setGang k x).dies = s.dies := rfl
@[simp] theorem State.parts_setGang (k : Nat) (x : Gang) : (s.setGang k x).parts = s.parts := rfl
@[simp] theorem State.vds_setGang (k : Nat) (x : Gang) : (s.setGang k x).vds = s.vds := rfl
@[simp] theorem State.flights_setGang (k : Nat) (x : Gang) : (s.setGang k x).flights = s.flights := rfl
@[simp] theorem State.msgs_setGang (k : Nat) (x : Gang) : (s.setGang k x).msgs = s.msgs := rfl
@[simp] theorem State.waiters_setGang (k : Nat) (x : Gang) : (s.setGang k x).waiters = s.waiters := rfl
@[simp] theorem State.inks_setGang (k : Nat) (x : Gang) : (s.setGang k x).inks = s.inks := rfl
@[simp] theorem State.replay_setGang (k : Nat) (x : Gang) : (s.setGang k x).replay = s.replay := rfl
@[simp] theorem State.pkgnum_setGang (k : Nat) (x : Gang) : (s.setGang k x).pkgnum = s.pkgnum := rfl
@[simp] theorem State.npkg_setGang (k : Nat) (x : Gang) : (s.setGang k x).npkg = s.npkg := rfl
@[simp] theorem State.cap_setGang (k : Nat) (x : Gang) : (s.setGang k x).cap = s.cap := rfl
@[simp] theorem State.route_setGang (k : Nat) (x : Gang) : (s.setGang k x).route = s.route := rfl
@[simp] theorem State.hbmBytes_setGang (k : Nat) (x : Gang) : (s.setGang k x).hbmBytes = s.hbmBytes := rfl
@[simp] theorem State.ports_setGang (k : Nat) (x : Gang) : (s.setGang k x).ports = s.ports := rfl
@[simp] theorem State.mgmt_setGang (k : Nat) (x : Gang) : (s.setGang k x).mgmt = s.mgmt := rfl
@[simp] theorem State.bins_setGang (k : Nat) (x : Gang) : (s.setGang k x).bins = s.bins := rfl
@[simp] theorem State.irqs_setGang (k : Nat) (x : Gang) : (s.setGang k x).irqs = s.irqs := rfl
@[simp] theorem State.outbox_setGang (k : Nat) (x : Gang) : (s.setGang k x).outbox = s.outbox := rfl
@[simp] theorem State.launchOrder_setGang (k : Nat) (x : Gang) : (s.setGang k x).launchOrder = s.launchOrder := rfl
@[simp] theorem State.turns_setGang (k : Nat) (x : Gang) : (s.setGang k x).turns = s.turns := rfl
@[simp] theorem State.cur_setGang (k : Nat) (x : Gang) : (s.setGang k x).cur = s.cur := rfl
@[simp] theorem State.stream_setGang (k : Nat) (x : Gang) : (s.setGang k x).stream = s.stream := rfl
@[simp] theorem State.free_setGang (k : Nat) (x : Gang) : (s.setGang k x).free = s.free := rfl
@[simp] theorem State.nextId_setGang (k : Nat) (x : Gang) : (s.setGang k x).nextId = s.nextId := rfl
@[simp] theorem State.tags_setGang (k : Nat) (x : Gang) : (s.setGang k x).tags = s.tags := rfl
@[simp] theorem State.slices_setGang (k : Nat) (x : Gang) : (s.setGang k x).slices = s.slices := rfl
@[simp] theorem State.buckets_setGang (k : Nat) (x : Gang) : (s.setGang k x).buckets = s.buckets := rfl
@[simp] theorem State.ecc_setGang (k : Nat) (x : Gang) : (s.setGang k x).ecc = s.ecc := rfl
@[simp] theorem State.issues_setGang (k : Nat) (x : Gang) : (s.setGang k x).issues = s.issues := rfl
@[simp] theorem State.attached_setGang (k : Nat) (x : Gang) : (s.setGang k x).attached = s.attached := rfl
@[simp] theorem State.released_setGang (k : Nat) (x : Gang) : (s.setGang k x).released = s.released := rfl
@[simp] theorem State.burst_setGang (k : Nat) (x : Gang) : (s.setGang k x).burst = s.burst := rfl
@[simp] theorem State.retiring_setGang (k : Nat) (x : Gang) : (s.setGang k x).retiring = s.retiring := rfl
@[simp] theorem State.defects_setGang (k : Nat) (x : Gang) : (s.setGang k x).defects = s.defects := rfl
@[simp] theorem State.gang_setGang (k : Nat) (x : Gang) (j : Nat) : (s.setGang k x).gang j = if j = k then x else s.gang j := by
  simp [State.gang, State.setGang]
@[simp] theorem State.strand_setGang (k : Nat) (x : Gang) (j : Nat) : (s.setGang k x).strand j = s.strand j := rfl
@[simp] theorem State.job_setGang (k : Nat) (x : Gang) (j : Nat) : (s.setGang k x).job j = s.job j := rfl
@[simp] theorem State.core_setGang (k : Nat) (x : Gang) (j : Nat) : (s.setGang k x).core j = s.core j := rfl
@[simp] theorem State.cluster_setGang (k : Nat) (x : Gang) (j : Nat) : (s.setGang k x).cluster j = s.cluster j := rfl
@[simp] theorem State.die_setGang (k : Nat) (x : Gang) (j : Nat) : (s.setGang k x).die j = s.die j := rfl
@[simp] theorem State.part_setGang (k : Nat) (x : Gang) (j : Nat) : (s.setGang k x).part j = s.part j := rfl
@[simp] theorem State.vd_setGang (k : Nat) (x : Gang) (j : Nat) : (s.setGang k x).vd j = s.vd j := rfl
@[simp] theorem State.byte_setGang (k : Nat) (x : Gang) (a : Nat) : (s.setGang k x).byte a = s.byte a := rfl
@[simp] theorem State.me_setGang (k : Nat) (x : Gang) : (s.setGang k x).me = s.me := rfl

/-! ### setJob -/

@[simp] theorem State.mem_setJob (k : Nat) (x : Job) : (s.setJob k x).mem = s.mem := rfl
@[simp] theorem State.fe_setJob (k : Nat) (x : Job) : (s.setJob k x).fe = s.fe := rfl
@[simp] theorem State.blocks_setJob (k : Nat) (x : Job) : (s.setJob k x).blocks = s.blocks := rfl
@[simp] theorem State.strands_setJob (k : Nat) (x : Job) : (s.setJob k x).strands = s.strands := rfl
@[simp] theorem State.gangs_setJob (k : Nat) (x : Job) : (s.setJob k x).gangs = s.gangs := rfl
@[simp] theorem State.cores_setJob (k : Nat) (x : Job) : (s.setJob k x).cores = s.cores := rfl
@[simp] theorem State.clusters_setJob (k : Nat) (x : Job) : (s.setJob k x).clusters = s.clusters := rfl
@[simp] theorem State.dies_setJob (k : Nat) (x : Job) : (s.setJob k x).dies = s.dies := rfl
@[simp] theorem State.parts_setJob (k : Nat) (x : Job) : (s.setJob k x).parts = s.parts := rfl
@[simp] theorem State.vds_setJob (k : Nat) (x : Job) : (s.setJob k x).vds = s.vds := rfl
@[simp] theorem State.flights_setJob (k : Nat) (x : Job) : (s.setJob k x).flights = s.flights := rfl
@[simp] theorem State.msgs_setJob (k : Nat) (x : Job) : (s.setJob k x).msgs = s.msgs := rfl
@[simp] theorem State.waiters_setJob (k : Nat) (x : Job) : (s.setJob k x).waiters = s.waiters := rfl
@[simp] theorem State.inks_setJob (k : Nat) (x : Job) : (s.setJob k x).inks = s.inks := rfl
@[simp] theorem State.replay_setJob (k : Nat) (x : Job) : (s.setJob k x).replay = s.replay := rfl
@[simp] theorem State.pkgnum_setJob (k : Nat) (x : Job) : (s.setJob k x).pkgnum = s.pkgnum := rfl
@[simp] theorem State.npkg_setJob (k : Nat) (x : Job) : (s.setJob k x).npkg = s.npkg := rfl
@[simp] theorem State.cap_setJob (k : Nat) (x : Job) : (s.setJob k x).cap = s.cap := rfl
@[simp] theorem State.route_setJob (k : Nat) (x : Job) : (s.setJob k x).route = s.route := rfl
@[simp] theorem State.hbmBytes_setJob (k : Nat) (x : Job) : (s.setJob k x).hbmBytes = s.hbmBytes := rfl
@[simp] theorem State.ports_setJob (k : Nat) (x : Job) : (s.setJob k x).ports = s.ports := rfl
@[simp] theorem State.mgmt_setJob (k : Nat) (x : Job) : (s.setJob k x).mgmt = s.mgmt := rfl
@[simp] theorem State.bins_setJob (k : Nat) (x : Job) : (s.setJob k x).bins = s.bins := rfl
@[simp] theorem State.irqs_setJob (k : Nat) (x : Job) : (s.setJob k x).irqs = s.irqs := rfl
@[simp] theorem State.outbox_setJob (k : Nat) (x : Job) : (s.setJob k x).outbox = s.outbox := rfl
@[simp] theorem State.launchOrder_setJob (k : Nat) (x : Job) : (s.setJob k x).launchOrder = s.launchOrder := rfl
@[simp] theorem State.turns_setJob (k : Nat) (x : Job) : (s.setJob k x).turns = s.turns := rfl
@[simp] theorem State.cur_setJob (k : Nat) (x : Job) : (s.setJob k x).cur = s.cur := rfl
@[simp] theorem State.stream_setJob (k : Nat) (x : Job) : (s.setJob k x).stream = s.stream := rfl
@[simp] theorem State.free_setJob (k : Nat) (x : Job) : (s.setJob k x).free = s.free := rfl
@[simp] theorem State.nextId_setJob (k : Nat) (x : Job) : (s.setJob k x).nextId = s.nextId := rfl
@[simp] theorem State.tags_setJob (k : Nat) (x : Job) : (s.setJob k x).tags = s.tags := rfl
@[simp] theorem State.slices_setJob (k : Nat) (x : Job) : (s.setJob k x).slices = s.slices := rfl
@[simp] theorem State.buckets_setJob (k : Nat) (x : Job) : (s.setJob k x).buckets = s.buckets := rfl
@[simp] theorem State.ecc_setJob (k : Nat) (x : Job) : (s.setJob k x).ecc = s.ecc := rfl
@[simp] theorem State.issues_setJob (k : Nat) (x : Job) : (s.setJob k x).issues = s.issues := rfl
@[simp] theorem State.attached_setJob (k : Nat) (x : Job) : (s.setJob k x).attached = s.attached := rfl
@[simp] theorem State.released_setJob (k : Nat) (x : Job) : (s.setJob k x).released = s.released := rfl
@[simp] theorem State.burst_setJob (k : Nat) (x : Job) : (s.setJob k x).burst = s.burst := rfl
@[simp] theorem State.retiring_setJob (k : Nat) (x : Job) : (s.setJob k x).retiring = s.retiring := rfl
@[simp] theorem State.defects_setJob (k : Nat) (x : Job) : (s.setJob k x).defects = s.defects := rfl
@[simp] theorem State.job_setJob (k : Nat) (x : Job) (j : Nat) : (s.setJob k x).job j = if j = k then x else s.job j := by
  simp [State.job, State.setJob]
@[simp] theorem State.strand_setJob (k : Nat) (x : Job) (j : Nat) : (s.setJob k x).strand j = s.strand j := rfl
@[simp] theorem State.gang_setJob (k : Nat) (x : Job) (j : Nat) : (s.setJob k x).gang j = s.gang j := rfl
@[simp] theorem State.core_setJob (k : Nat) (x : Job) (j : Nat) : (s.setJob k x).core j = s.core j := rfl
@[simp] theorem State.cluster_setJob (k : Nat) (x : Job) (j : Nat) : (s.setJob k x).cluster j = s.cluster j := rfl
@[simp] theorem State.die_setJob (k : Nat) (x : Job) (j : Nat) : (s.setJob k x).die j = s.die j := rfl
@[simp] theorem State.part_setJob (k : Nat) (x : Job) (j : Nat) : (s.setJob k x).part j = s.part j := rfl
@[simp] theorem State.vd_setJob (k : Nat) (x : Job) (j : Nat) : (s.setJob k x).vd j = s.vd j := rfl
@[simp] theorem State.byte_setJob (k : Nat) (x : Job) (a : Nat) : (s.setJob k x).byte a = s.byte a := rfl
@[simp] theorem State.me_setJob (k : Nat) (x : Job) : (s.setJob k x).me = s.me := rfl

/-! ### setCore -/

@[simp] theorem State.mem_setCore (k : Nat) (x : Core) : (s.setCore k x).mem = s.mem := rfl
@[simp] theorem State.fe_setCore (k : Nat) (x : Core) : (s.setCore k x).fe = s.fe := rfl
@[simp] theorem State.blocks_setCore (k : Nat) (x : Core) : (s.setCore k x).blocks = s.blocks := rfl
@[simp] theorem State.strands_setCore (k : Nat) (x : Core) : (s.setCore k x).strands = s.strands := rfl
@[simp] theorem State.gangs_setCore (k : Nat) (x : Core) : (s.setCore k x).gangs = s.gangs := rfl
@[simp] theorem State.jobs_setCore (k : Nat) (x : Core) : (s.setCore k x).jobs = s.jobs := rfl
@[simp] theorem State.clusters_setCore (k : Nat) (x : Core) : (s.setCore k x).clusters = s.clusters := rfl
@[simp] theorem State.dies_setCore (k : Nat) (x : Core) : (s.setCore k x).dies = s.dies := rfl
@[simp] theorem State.parts_setCore (k : Nat) (x : Core) : (s.setCore k x).parts = s.parts := rfl
@[simp] theorem State.vds_setCore (k : Nat) (x : Core) : (s.setCore k x).vds = s.vds := rfl
@[simp] theorem State.flights_setCore (k : Nat) (x : Core) : (s.setCore k x).flights = s.flights := rfl
@[simp] theorem State.msgs_setCore (k : Nat) (x : Core) : (s.setCore k x).msgs = s.msgs := rfl
@[simp] theorem State.waiters_setCore (k : Nat) (x : Core) : (s.setCore k x).waiters = s.waiters := rfl
@[simp] theorem State.inks_setCore (k : Nat) (x : Core) : (s.setCore k x).inks = s.inks := rfl
@[simp] theorem State.replay_setCore (k : Nat) (x : Core) : (s.setCore k x).replay = s.replay := rfl
@[simp] theorem State.pkgnum_setCore (k : Nat) (x : Core) : (s.setCore k x).pkgnum = s.pkgnum := rfl
@[simp] theorem State.npkg_setCore (k : Nat) (x : Core) : (s.setCore k x).npkg = s.npkg := rfl
@[simp] theorem State.cap_setCore (k : Nat) (x : Core) : (s.setCore k x).cap = s.cap := rfl
@[simp] theorem State.route_setCore (k : Nat) (x : Core) : (s.setCore k x).route = s.route := rfl
@[simp] theorem State.hbmBytes_setCore (k : Nat) (x : Core) : (s.setCore k x).hbmBytes = s.hbmBytes := rfl
@[simp] theorem State.ports_setCore (k : Nat) (x : Core) : (s.setCore k x).ports = s.ports := rfl
@[simp] theorem State.mgmt_setCore (k : Nat) (x : Core) : (s.setCore k x).mgmt = s.mgmt := rfl
@[simp] theorem State.bins_setCore (k : Nat) (x : Core) : (s.setCore k x).bins = s.bins := rfl
@[simp] theorem State.irqs_setCore (k : Nat) (x : Core) : (s.setCore k x).irqs = s.irqs := rfl
@[simp] theorem State.outbox_setCore (k : Nat) (x : Core) : (s.setCore k x).outbox = s.outbox := rfl
@[simp] theorem State.launchOrder_setCore (k : Nat) (x : Core) : (s.setCore k x).launchOrder = s.launchOrder := rfl
@[simp] theorem State.turns_setCore (k : Nat) (x : Core) : (s.setCore k x).turns = s.turns := rfl
@[simp] theorem State.cur_setCore (k : Nat) (x : Core) : (s.setCore k x).cur = s.cur := rfl
@[simp] theorem State.stream_setCore (k : Nat) (x : Core) : (s.setCore k x).stream = s.stream := rfl
@[simp] theorem State.free_setCore (k : Nat) (x : Core) : (s.setCore k x).free = s.free := rfl
@[simp] theorem State.nextId_setCore (k : Nat) (x : Core) : (s.setCore k x).nextId = s.nextId := rfl
@[simp] theorem State.tags_setCore (k : Nat) (x : Core) : (s.setCore k x).tags = s.tags := rfl
@[simp] theorem State.slices_setCore (k : Nat) (x : Core) : (s.setCore k x).slices = s.slices := rfl
@[simp] theorem State.buckets_setCore (k : Nat) (x : Core) : (s.setCore k x).buckets = s.buckets := rfl
@[simp] theorem State.ecc_setCore (k : Nat) (x : Core) : (s.setCore k x).ecc = s.ecc := rfl
@[simp] theorem State.issues_setCore (k : Nat) (x : Core) : (s.setCore k x).issues = s.issues := rfl
@[simp] theorem State.attached_setCore (k : Nat) (x : Core) : (s.setCore k x).attached = s.attached := rfl
@[simp] theorem State.released_setCore (k : Nat) (x : Core) : (s.setCore k x).released = s.released := rfl
@[simp] theorem State.burst_setCore (k : Nat) (x : Core) : (s.setCore k x).burst = s.burst := rfl
@[simp] theorem State.retiring_setCore (k : Nat) (x : Core) : (s.setCore k x).retiring = s.retiring := rfl
@[simp] theorem State.defects_setCore (k : Nat) (x : Core) : (s.setCore k x).defects = s.defects := rfl
@[simp] theorem State.core_setCore (k : Nat) (x : Core) (j : Nat) : (s.setCore k x).core j = if j = k then x else s.core j := by
  simp [State.core, State.setCore]
@[simp] theorem State.strand_setCore (k : Nat) (x : Core) (j : Nat) : (s.setCore k x).strand j = s.strand j := rfl
@[simp] theorem State.gang_setCore (k : Nat) (x : Core) (j : Nat) : (s.setCore k x).gang j = s.gang j := rfl
@[simp] theorem State.job_setCore (k : Nat) (x : Core) (j : Nat) : (s.setCore k x).job j = s.job j := rfl
@[simp] theorem State.cluster_setCore (k : Nat) (x : Core) (j : Nat) : (s.setCore k x).cluster j = s.cluster j := rfl
@[simp] theorem State.die_setCore (k : Nat) (x : Core) (j : Nat) : (s.setCore k x).die j = s.die j := rfl
@[simp] theorem State.part_setCore (k : Nat) (x : Core) (j : Nat) : (s.setCore k x).part j = s.part j := rfl
@[simp] theorem State.vd_setCore (k : Nat) (x : Core) (j : Nat) : (s.setCore k x).vd j = s.vd j := rfl
@[simp] theorem State.byte_setCore (k : Nat) (x : Core) (a : Nat) : (s.setCore k x).byte a = s.byte a := rfl
@[simp] theorem State.me_setCore (k : Nat) (x : Core) : (s.setCore k x).me = s.me := rfl

/-! ### setCluster -/

@[simp] theorem State.mem_setCluster (k : Nat) (x : Cluster) : (s.setCluster k x).mem = s.mem := rfl
@[simp] theorem State.fe_setCluster (k : Nat) (x : Cluster) : (s.setCluster k x).fe = s.fe := rfl
@[simp] theorem State.blocks_setCluster (k : Nat) (x : Cluster) : (s.setCluster k x).blocks = s.blocks := rfl
@[simp] theorem State.strands_setCluster (k : Nat) (x : Cluster) : (s.setCluster k x).strands = s.strands := rfl
@[simp] theorem State.gangs_setCluster (k : Nat) (x : Cluster) : (s.setCluster k x).gangs = s.gangs := rfl
@[simp] theorem State.jobs_setCluster (k : Nat) (x : Cluster) : (s.setCluster k x).jobs = s.jobs := rfl
@[simp] theorem State.cores_setCluster (k : Nat) (x : Cluster) : (s.setCluster k x).cores = s.cores := rfl
@[simp] theorem State.dies_setCluster (k : Nat) (x : Cluster) : (s.setCluster k x).dies = s.dies := rfl
@[simp] theorem State.parts_setCluster (k : Nat) (x : Cluster) : (s.setCluster k x).parts = s.parts := rfl
@[simp] theorem State.vds_setCluster (k : Nat) (x : Cluster) : (s.setCluster k x).vds = s.vds := rfl
@[simp] theorem State.flights_setCluster (k : Nat) (x : Cluster) : (s.setCluster k x).flights = s.flights := rfl
@[simp] theorem State.msgs_setCluster (k : Nat) (x : Cluster) : (s.setCluster k x).msgs = s.msgs := rfl
@[simp] theorem State.waiters_setCluster (k : Nat) (x : Cluster) : (s.setCluster k x).waiters = s.waiters := rfl
@[simp] theorem State.inks_setCluster (k : Nat) (x : Cluster) : (s.setCluster k x).inks = s.inks := rfl
@[simp] theorem State.replay_setCluster (k : Nat) (x : Cluster) : (s.setCluster k x).replay = s.replay := rfl
@[simp] theorem State.pkgnum_setCluster (k : Nat) (x : Cluster) : (s.setCluster k x).pkgnum = s.pkgnum := rfl
@[simp] theorem State.npkg_setCluster (k : Nat) (x : Cluster) : (s.setCluster k x).npkg = s.npkg := rfl
@[simp] theorem State.cap_setCluster (k : Nat) (x : Cluster) : (s.setCluster k x).cap = s.cap := rfl
@[simp] theorem State.route_setCluster (k : Nat) (x : Cluster) : (s.setCluster k x).route = s.route := rfl
@[simp] theorem State.hbmBytes_setCluster (k : Nat) (x : Cluster) : (s.setCluster k x).hbmBytes = s.hbmBytes := rfl
@[simp] theorem State.ports_setCluster (k : Nat) (x : Cluster) : (s.setCluster k x).ports = s.ports := rfl
@[simp] theorem State.mgmt_setCluster (k : Nat) (x : Cluster) : (s.setCluster k x).mgmt = s.mgmt := rfl
@[simp] theorem State.bins_setCluster (k : Nat) (x : Cluster) : (s.setCluster k x).bins = s.bins := rfl
@[simp] theorem State.irqs_setCluster (k : Nat) (x : Cluster) : (s.setCluster k x).irqs = s.irqs := rfl
@[simp] theorem State.outbox_setCluster (k : Nat) (x : Cluster) : (s.setCluster k x).outbox = s.outbox := rfl
@[simp] theorem State.launchOrder_setCluster (k : Nat) (x : Cluster) : (s.setCluster k x).launchOrder = s.launchOrder := rfl
@[simp] theorem State.turns_setCluster (k : Nat) (x : Cluster) : (s.setCluster k x).turns = s.turns := rfl
@[simp] theorem State.cur_setCluster (k : Nat) (x : Cluster) : (s.setCluster k x).cur = s.cur := rfl
@[simp] theorem State.stream_setCluster (k : Nat) (x : Cluster) : (s.setCluster k x).stream = s.stream := rfl
@[simp] theorem State.free_setCluster (k : Nat) (x : Cluster) : (s.setCluster k x).free = s.free := rfl
@[simp] theorem State.nextId_setCluster (k : Nat) (x : Cluster) : (s.setCluster k x).nextId = s.nextId := rfl
@[simp] theorem State.tags_setCluster (k : Nat) (x : Cluster) : (s.setCluster k x).tags = s.tags := rfl
@[simp] theorem State.slices_setCluster (k : Nat) (x : Cluster) : (s.setCluster k x).slices = s.slices := rfl
@[simp] theorem State.buckets_setCluster (k : Nat) (x : Cluster) : (s.setCluster k x).buckets = s.buckets := rfl
@[simp] theorem State.ecc_setCluster (k : Nat) (x : Cluster) : (s.setCluster k x).ecc = s.ecc := rfl
@[simp] theorem State.issues_setCluster (k : Nat) (x : Cluster) : (s.setCluster k x).issues = s.issues := rfl
@[simp] theorem State.attached_setCluster (k : Nat) (x : Cluster) : (s.setCluster k x).attached = s.attached := rfl
@[simp] theorem State.released_setCluster (k : Nat) (x : Cluster) : (s.setCluster k x).released = s.released := rfl
@[simp] theorem State.burst_setCluster (k : Nat) (x : Cluster) : (s.setCluster k x).burst = s.burst := rfl
@[simp] theorem State.retiring_setCluster (k : Nat) (x : Cluster) : (s.setCluster k x).retiring = s.retiring := rfl
@[simp] theorem State.defects_setCluster (k : Nat) (x : Cluster) : (s.setCluster k x).defects = s.defects := rfl
@[simp] theorem State.cluster_setCluster (k : Nat) (x : Cluster) (j : Nat) : (s.setCluster k x).cluster j = if j = k then x else s.cluster j := by
  simp [State.cluster, State.setCluster]
@[simp] theorem State.strand_setCluster (k : Nat) (x : Cluster) (j : Nat) : (s.setCluster k x).strand j = s.strand j := rfl
@[simp] theorem State.gang_setCluster (k : Nat) (x : Cluster) (j : Nat) : (s.setCluster k x).gang j = s.gang j := rfl
@[simp] theorem State.job_setCluster (k : Nat) (x : Cluster) (j : Nat) : (s.setCluster k x).job j = s.job j := rfl
@[simp] theorem State.core_setCluster (k : Nat) (x : Cluster) (j : Nat) : (s.setCluster k x).core j = s.core j := rfl
@[simp] theorem State.die_setCluster (k : Nat) (x : Cluster) (j : Nat) : (s.setCluster k x).die j = s.die j := rfl
@[simp] theorem State.part_setCluster (k : Nat) (x : Cluster) (j : Nat) : (s.setCluster k x).part j = s.part j := rfl
@[simp] theorem State.vd_setCluster (k : Nat) (x : Cluster) (j : Nat) : (s.setCluster k x).vd j = s.vd j := rfl
@[simp] theorem State.byte_setCluster (k : Nat) (x : Cluster) (a : Nat) : (s.setCluster k x).byte a = s.byte a := rfl
@[simp] theorem State.me_setCluster (k : Nat) (x : Cluster) : (s.setCluster k x).me = s.me := rfl

/-! ### setDie -/

@[simp] theorem State.mem_setDie (k : Nat) (x : Die) : (s.setDie k x).mem = s.mem := rfl
@[simp] theorem State.fe_setDie (k : Nat) (x : Die) : (s.setDie k x).fe = s.fe := rfl
@[simp] theorem State.blocks_setDie (k : Nat) (x : Die) : (s.setDie k x).blocks = s.blocks := rfl
@[simp] theorem State.strands_setDie (k : Nat) (x : Die) : (s.setDie k x).strands = s.strands := rfl
@[simp] theorem State.gangs_setDie (k : Nat) (x : Die) : (s.setDie k x).gangs = s.gangs := rfl
@[simp] theorem State.jobs_setDie (k : Nat) (x : Die) : (s.setDie k x).jobs = s.jobs := rfl
@[simp] theorem State.cores_setDie (k : Nat) (x : Die) : (s.setDie k x).cores = s.cores := rfl
@[simp] theorem State.clusters_setDie (k : Nat) (x : Die) : (s.setDie k x).clusters = s.clusters := rfl
@[simp] theorem State.parts_setDie (k : Nat) (x : Die) : (s.setDie k x).parts = s.parts := rfl
@[simp] theorem State.vds_setDie (k : Nat) (x : Die) : (s.setDie k x).vds = s.vds := rfl
@[simp] theorem State.flights_setDie (k : Nat) (x : Die) : (s.setDie k x).flights = s.flights := rfl
@[simp] theorem State.msgs_setDie (k : Nat) (x : Die) : (s.setDie k x).msgs = s.msgs := rfl
@[simp] theorem State.waiters_setDie (k : Nat) (x : Die) : (s.setDie k x).waiters = s.waiters := rfl
@[simp] theorem State.inks_setDie (k : Nat) (x : Die) : (s.setDie k x).inks = s.inks := rfl
@[simp] theorem State.replay_setDie (k : Nat) (x : Die) : (s.setDie k x).replay = s.replay := rfl
@[simp] theorem State.pkgnum_setDie (k : Nat) (x : Die) : (s.setDie k x).pkgnum = s.pkgnum := rfl
@[simp] theorem State.npkg_setDie (k : Nat) (x : Die) : (s.setDie k x).npkg = s.npkg := rfl
@[simp] theorem State.cap_setDie (k : Nat) (x : Die) : (s.setDie k x).cap = s.cap := rfl
@[simp] theorem State.route_setDie (k : Nat) (x : Die) : (s.setDie k x).route = s.route := rfl
@[simp] theorem State.hbmBytes_setDie (k : Nat) (x : Die) : (s.setDie k x).hbmBytes = s.hbmBytes := rfl
@[simp] theorem State.ports_setDie (k : Nat) (x : Die) : (s.setDie k x).ports = s.ports := rfl
@[simp] theorem State.mgmt_setDie (k : Nat) (x : Die) : (s.setDie k x).mgmt = s.mgmt := rfl
@[simp] theorem State.bins_setDie (k : Nat) (x : Die) : (s.setDie k x).bins = s.bins := rfl
@[simp] theorem State.irqs_setDie (k : Nat) (x : Die) : (s.setDie k x).irqs = s.irqs := rfl
@[simp] theorem State.outbox_setDie (k : Nat) (x : Die) : (s.setDie k x).outbox = s.outbox := rfl
@[simp] theorem State.launchOrder_setDie (k : Nat) (x : Die) : (s.setDie k x).launchOrder = s.launchOrder := rfl
@[simp] theorem State.turns_setDie (k : Nat) (x : Die) : (s.setDie k x).turns = s.turns := rfl
@[simp] theorem State.cur_setDie (k : Nat) (x : Die) : (s.setDie k x).cur = s.cur := rfl
@[simp] theorem State.stream_setDie (k : Nat) (x : Die) : (s.setDie k x).stream = s.stream := rfl
@[simp] theorem State.free_setDie (k : Nat) (x : Die) : (s.setDie k x).free = s.free := rfl
@[simp] theorem State.nextId_setDie (k : Nat) (x : Die) : (s.setDie k x).nextId = s.nextId := rfl
@[simp] theorem State.tags_setDie (k : Nat) (x : Die) : (s.setDie k x).tags = s.tags := rfl
@[simp] theorem State.slices_setDie (k : Nat) (x : Die) : (s.setDie k x).slices = s.slices := rfl
@[simp] theorem State.buckets_setDie (k : Nat) (x : Die) : (s.setDie k x).buckets = s.buckets := rfl
@[simp] theorem State.ecc_setDie (k : Nat) (x : Die) : (s.setDie k x).ecc = s.ecc := rfl
@[simp] theorem State.issues_setDie (k : Nat) (x : Die) : (s.setDie k x).issues = s.issues := rfl
@[simp] theorem State.attached_setDie (k : Nat) (x : Die) : (s.setDie k x).attached = s.attached := rfl
@[simp] theorem State.released_setDie (k : Nat) (x : Die) : (s.setDie k x).released = s.released := rfl
@[simp] theorem State.burst_setDie (k : Nat) (x : Die) : (s.setDie k x).burst = s.burst := rfl
@[simp] theorem State.retiring_setDie (k : Nat) (x : Die) : (s.setDie k x).retiring = s.retiring := rfl
@[simp] theorem State.defects_setDie (k : Nat) (x : Die) : (s.setDie k x).defects = s.defects := rfl
@[simp] theorem State.die_setDie (k : Nat) (x : Die) (j : Nat) : (s.setDie k x).die j = if j = k then x else s.die j := by
  simp [State.die, State.setDie]
@[simp] theorem State.strand_setDie (k : Nat) (x : Die) (j : Nat) : (s.setDie k x).strand j = s.strand j := rfl
@[simp] theorem State.gang_setDie (k : Nat) (x : Die) (j : Nat) : (s.setDie k x).gang j = s.gang j := rfl
@[simp] theorem State.job_setDie (k : Nat) (x : Die) (j : Nat) : (s.setDie k x).job j = s.job j := rfl
@[simp] theorem State.core_setDie (k : Nat) (x : Die) (j : Nat) : (s.setDie k x).core j = s.core j := rfl
@[simp] theorem State.cluster_setDie (k : Nat) (x : Die) (j : Nat) : (s.setDie k x).cluster j = s.cluster j := rfl
@[simp] theorem State.part_setDie (k : Nat) (x : Die) (j : Nat) : (s.setDie k x).part j = s.part j := rfl
@[simp] theorem State.vd_setDie (k : Nat) (x : Die) (j : Nat) : (s.setDie k x).vd j = s.vd j := rfl
@[simp] theorem State.byte_setDie (k : Nat) (x : Die) (a : Nat) : (s.setDie k x).byte a = s.byte a := rfl
@[simp] theorem State.me_setDie (k : Nat) (x : Die) : (s.setDie k x).me = s.me := rfl

/-! ### setPart -/

@[simp] theorem State.mem_setPart (k : Nat) (x : Part) : (s.setPart k x).mem = s.mem := rfl
@[simp] theorem State.fe_setPart (k : Nat) (x : Part) : (s.setPart k x).fe = s.fe := rfl
@[simp] theorem State.blocks_setPart (k : Nat) (x : Part) : (s.setPart k x).blocks = s.blocks := rfl
@[simp] theorem State.strands_setPart (k : Nat) (x : Part) : (s.setPart k x).strands = s.strands := rfl
@[simp] theorem State.gangs_setPart (k : Nat) (x : Part) : (s.setPart k x).gangs = s.gangs := rfl
@[simp] theorem State.jobs_setPart (k : Nat) (x : Part) : (s.setPart k x).jobs = s.jobs := rfl
@[simp] theorem State.cores_setPart (k : Nat) (x : Part) : (s.setPart k x).cores = s.cores := rfl
@[simp] theorem State.clusters_setPart (k : Nat) (x : Part) : (s.setPart k x).clusters = s.clusters := rfl
@[simp] theorem State.dies_setPart (k : Nat) (x : Part) : (s.setPart k x).dies = s.dies := rfl
@[simp] theorem State.vds_setPart (k : Nat) (x : Part) : (s.setPart k x).vds = s.vds := rfl
@[simp] theorem State.flights_setPart (k : Nat) (x : Part) : (s.setPart k x).flights = s.flights := rfl
@[simp] theorem State.msgs_setPart (k : Nat) (x : Part) : (s.setPart k x).msgs = s.msgs := rfl
@[simp] theorem State.waiters_setPart (k : Nat) (x : Part) : (s.setPart k x).waiters = s.waiters := rfl
@[simp] theorem State.inks_setPart (k : Nat) (x : Part) : (s.setPart k x).inks = s.inks := rfl
@[simp] theorem State.replay_setPart (k : Nat) (x : Part) : (s.setPart k x).replay = s.replay := rfl
@[simp] theorem State.pkgnum_setPart (k : Nat) (x : Part) : (s.setPart k x).pkgnum = s.pkgnum := rfl
@[simp] theorem State.npkg_setPart (k : Nat) (x : Part) : (s.setPart k x).npkg = s.npkg := rfl
@[simp] theorem State.cap_setPart (k : Nat) (x : Part) : (s.setPart k x).cap = s.cap := rfl
@[simp] theorem State.route_setPart (k : Nat) (x : Part) : (s.setPart k x).route = s.route := rfl
@[simp] theorem State.hbmBytes_setPart (k : Nat) (x : Part) : (s.setPart k x).hbmBytes = s.hbmBytes := rfl
@[simp] theorem State.ports_setPart (k : Nat) (x : Part) : (s.setPart k x).ports = s.ports := rfl
@[simp] theorem State.mgmt_setPart (k : Nat) (x : Part) : (s.setPart k x).mgmt = s.mgmt := rfl
@[simp] theorem State.bins_setPart (k : Nat) (x : Part) : (s.setPart k x).bins = s.bins := rfl
@[simp] theorem State.irqs_setPart (k : Nat) (x : Part) : (s.setPart k x).irqs = s.irqs := rfl
@[simp] theorem State.outbox_setPart (k : Nat) (x : Part) : (s.setPart k x).outbox = s.outbox := rfl
@[simp] theorem State.launchOrder_setPart (k : Nat) (x : Part) : (s.setPart k x).launchOrder = s.launchOrder := rfl
@[simp] theorem State.turns_setPart (k : Nat) (x : Part) : (s.setPart k x).turns = s.turns := rfl
@[simp] theorem State.cur_setPart (k : Nat) (x : Part) : (s.setPart k x).cur = s.cur := rfl
@[simp] theorem State.stream_setPart (k : Nat) (x : Part) : (s.setPart k x).stream = s.stream := rfl
@[simp] theorem State.free_setPart (k : Nat) (x : Part) : (s.setPart k x).free = s.free := rfl
@[simp] theorem State.nextId_setPart (k : Nat) (x : Part) : (s.setPart k x).nextId = s.nextId := rfl
@[simp] theorem State.tags_setPart (k : Nat) (x : Part) : (s.setPart k x).tags = s.tags := rfl
@[simp] theorem State.slices_setPart (k : Nat) (x : Part) : (s.setPart k x).slices = s.slices := rfl
@[simp] theorem State.buckets_setPart (k : Nat) (x : Part) : (s.setPart k x).buckets = s.buckets := rfl
@[simp] theorem State.ecc_setPart (k : Nat) (x : Part) : (s.setPart k x).ecc = s.ecc := rfl
@[simp] theorem State.issues_setPart (k : Nat) (x : Part) : (s.setPart k x).issues = s.issues := rfl
@[simp] theorem State.attached_setPart (k : Nat) (x : Part) : (s.setPart k x).attached = s.attached := rfl
@[simp] theorem State.released_setPart (k : Nat) (x : Part) : (s.setPart k x).released = s.released := rfl
@[simp] theorem State.burst_setPart (k : Nat) (x : Part) : (s.setPart k x).burst = s.burst := rfl
@[simp] theorem State.retiring_setPart (k : Nat) (x : Part) : (s.setPart k x).retiring = s.retiring := rfl
@[simp] theorem State.defects_setPart (k : Nat) (x : Part) : (s.setPart k x).defects = s.defects := rfl
@[simp] theorem State.part_setPart (k : Nat) (x : Part) (j : Nat) : (s.setPart k x).part j = if j = k then x else s.part j := by
  simp [State.part, State.setPart]
@[simp] theorem State.strand_setPart (k : Nat) (x : Part) (j : Nat) : (s.setPart k x).strand j = s.strand j := rfl
@[simp] theorem State.gang_setPart (k : Nat) (x : Part) (j : Nat) : (s.setPart k x).gang j = s.gang j := rfl
@[simp] theorem State.job_setPart (k : Nat) (x : Part) (j : Nat) : (s.setPart k x).job j = s.job j := rfl
@[simp] theorem State.core_setPart (k : Nat) (x : Part) (j : Nat) : (s.setPart k x).core j = s.core j := rfl
@[simp] theorem State.cluster_setPart (k : Nat) (x : Part) (j : Nat) : (s.setPart k x).cluster j = s.cluster j := rfl
@[simp] theorem State.die_setPart (k : Nat) (x : Part) (j : Nat) : (s.setPart k x).die j = s.die j := rfl
@[simp] theorem State.vd_setPart (k : Nat) (x : Part) (j : Nat) : (s.setPart k x).vd j = s.vd j := rfl
@[simp] theorem State.byte_setPart (k : Nat) (x : Part) (a : Nat) : (s.setPart k x).byte a = s.byte a := rfl
@[simp] theorem State.me_setPart (k : Nat) (x : Part) : (s.setPart k x).me = s.me := rfl

/-! ### setVd -/

@[simp] theorem State.mem_setVd (k : Nat) (x : Vd) : (s.setVd k x).mem = s.mem := rfl
@[simp] theorem State.fe_setVd (k : Nat) (x : Vd) : (s.setVd k x).fe = s.fe := rfl
@[simp] theorem State.blocks_setVd (k : Nat) (x : Vd) : (s.setVd k x).blocks = s.blocks := rfl
@[simp] theorem State.strands_setVd (k : Nat) (x : Vd) : (s.setVd k x).strands = s.strands := rfl
@[simp] theorem State.gangs_setVd (k : Nat) (x : Vd) : (s.setVd k x).gangs = s.gangs := rfl
@[simp] theorem State.jobs_setVd (k : Nat) (x : Vd) : (s.setVd k x).jobs = s.jobs := rfl
@[simp] theorem State.cores_setVd (k : Nat) (x : Vd) : (s.setVd k x).cores = s.cores := rfl
@[simp] theorem State.clusters_setVd (k : Nat) (x : Vd) : (s.setVd k x).clusters = s.clusters := rfl
@[simp] theorem State.dies_setVd (k : Nat) (x : Vd) : (s.setVd k x).dies = s.dies := rfl
@[simp] theorem State.parts_setVd (k : Nat) (x : Vd) : (s.setVd k x).parts = s.parts := rfl
@[simp] theorem State.flights_setVd (k : Nat) (x : Vd) : (s.setVd k x).flights = s.flights := rfl
@[simp] theorem State.msgs_setVd (k : Nat) (x : Vd) : (s.setVd k x).msgs = s.msgs := rfl
@[simp] theorem State.waiters_setVd (k : Nat) (x : Vd) : (s.setVd k x).waiters = s.waiters := rfl
@[simp] theorem State.inks_setVd (k : Nat) (x : Vd) : (s.setVd k x).inks = s.inks := rfl
@[simp] theorem State.replay_setVd (k : Nat) (x : Vd) : (s.setVd k x).replay = s.replay := rfl
@[simp] theorem State.pkgnum_setVd (k : Nat) (x : Vd) : (s.setVd k x).pkgnum = s.pkgnum := rfl
@[simp] theorem State.npkg_setVd (k : Nat) (x : Vd) : (s.setVd k x).npkg = s.npkg := rfl
@[simp] theorem State.cap_setVd (k : Nat) (x : Vd) : (s.setVd k x).cap = s.cap := rfl
@[simp] theorem State.route_setVd (k : Nat) (x : Vd) : (s.setVd k x).route = s.route := rfl
@[simp] theorem State.hbmBytes_setVd (k : Nat) (x : Vd) : (s.setVd k x).hbmBytes = s.hbmBytes := rfl
@[simp] theorem State.ports_setVd (k : Nat) (x : Vd) : (s.setVd k x).ports = s.ports := rfl
@[simp] theorem State.mgmt_setVd (k : Nat) (x : Vd) : (s.setVd k x).mgmt = s.mgmt := rfl
@[simp] theorem State.bins_setVd (k : Nat) (x : Vd) : (s.setVd k x).bins = s.bins := rfl
@[simp] theorem State.irqs_setVd (k : Nat) (x : Vd) : (s.setVd k x).irqs = s.irqs := rfl
@[simp] theorem State.outbox_setVd (k : Nat) (x : Vd) : (s.setVd k x).outbox = s.outbox := rfl
@[simp] theorem State.launchOrder_setVd (k : Nat) (x : Vd) : (s.setVd k x).launchOrder = s.launchOrder := rfl
@[simp] theorem State.turns_setVd (k : Nat) (x : Vd) : (s.setVd k x).turns = s.turns := rfl
@[simp] theorem State.cur_setVd (k : Nat) (x : Vd) : (s.setVd k x).cur = s.cur := rfl
@[simp] theorem State.stream_setVd (k : Nat) (x : Vd) : (s.setVd k x).stream = s.stream := rfl
@[simp] theorem State.free_setVd (k : Nat) (x : Vd) : (s.setVd k x).free = s.free := rfl
@[simp] theorem State.nextId_setVd (k : Nat) (x : Vd) : (s.setVd k x).nextId = s.nextId := rfl
@[simp] theorem State.tags_setVd (k : Nat) (x : Vd) : (s.setVd k x).tags = s.tags := rfl
@[simp] theorem State.slices_setVd (k : Nat) (x : Vd) : (s.setVd k x).slices = s.slices := rfl
@[simp] theorem State.buckets_setVd (k : Nat) (x : Vd) : (s.setVd k x).buckets = s.buckets := rfl
@[simp] theorem State.ecc_setVd (k : Nat) (x : Vd) : (s.setVd k x).ecc = s.ecc := rfl
@[simp] theorem State.issues_setVd (k : Nat) (x : Vd) : (s.setVd k x).issues = s.issues := rfl
@[simp] theorem State.attached_setVd (k : Nat) (x : Vd) : (s.setVd k x).attached = s.attached := rfl
@[simp] theorem State.released_setVd (k : Nat) (x : Vd) : (s.setVd k x).released = s.released := rfl
@[simp] theorem State.burst_setVd (k : Nat) (x : Vd) : (s.setVd k x).burst = s.burst := rfl
@[simp] theorem State.retiring_setVd (k : Nat) (x : Vd) : (s.setVd k x).retiring = s.retiring := rfl
@[simp] theorem State.defects_setVd (k : Nat) (x : Vd) : (s.setVd k x).defects = s.defects := rfl
@[simp] theorem State.vd_setVd (k : Nat) (x : Vd) (j : Nat) : (s.setVd k x).vd j = if j = k then x else s.vd j := by
  simp [State.vd, State.setVd]
@[simp] theorem State.strand_setVd (k : Nat) (x : Vd) (j : Nat) : (s.setVd k x).strand j = s.strand j := rfl
@[simp] theorem State.gang_setVd (k : Nat) (x : Vd) (j : Nat) : (s.setVd k x).gang j = s.gang j := rfl
@[simp] theorem State.job_setVd (k : Nat) (x : Vd) (j : Nat) : (s.setVd k x).job j = s.job j := rfl
@[simp] theorem State.core_setVd (k : Nat) (x : Vd) (j : Nat) : (s.setVd k x).core j = s.core j := rfl
@[simp] theorem State.cluster_setVd (k : Nat) (x : Vd) (j : Nat) : (s.setVd k x).cluster j = s.cluster j := rfl
@[simp] theorem State.die_setVd (k : Nat) (x : Vd) (j : Nat) : (s.setVd k x).die j = s.die j := rfl
@[simp] theorem State.part_setVd (k : Nat) (x : Vd) (j : Nat) : (s.setVd k x).part j = s.part j := rfl
@[simp] theorem State.byte_setVd (k : Nat) (x : Vd) (a : Nat) : (s.setVd k x).byte a = s.byte a := rfl
@[simp] theorem State.me_setVd (k : Nat) (x : Vd) : (s.setVd k x).me = s.me := rfl

/-! ### setByte -/

@[simp] theorem State.fe_setByte (k : Nat) (x : Byte) : (s.setByte k x).fe = s.fe := rfl
@[simp] theorem State.blocks_setByte (k : Nat) (x : Byte) : (s.setByte k x).blocks = s.blocks := rfl
@[simp] theorem State.strands_setByte (k : Nat) (x : Byte) : (s.setByte k x).strands = s.strands := rfl
@[simp] theorem State.gangs_setByte (k : Nat) (x : Byte) : (s.setByte k x).gangs = s.gangs := rfl
@[simp] theorem State.jobs_setByte (k : Nat) (x : Byte) : (s.setByte k x).jobs = s.jobs := rfl
@[simp] theorem State.cores_setByte (k : Nat) (x : Byte) : (s.setByte k x).cores = s.cores := rfl
@[simp] theorem State.clusters_setByte (k : Nat) (x : Byte) : (s.setByte k x).clusters = s.clusters := rfl
@[simp] theorem State.dies_setByte (k : Nat) (x : Byte) : (s.setByte k x).dies = s.dies := rfl
@[simp] theorem State.parts_setByte (k : Nat) (x : Byte) : (s.setByte k x).parts = s.parts := rfl
@[simp] theorem State.vds_setByte (k : Nat) (x : Byte) : (s.setByte k x).vds = s.vds := rfl
@[simp] theorem State.flights_setByte (k : Nat) (x : Byte) : (s.setByte k x).flights = s.flights := rfl
@[simp] theorem State.msgs_setByte (k : Nat) (x : Byte) : (s.setByte k x).msgs = s.msgs := rfl
@[simp] theorem State.waiters_setByte (k : Nat) (x : Byte) : (s.setByte k x).waiters = s.waiters := rfl
@[simp] theorem State.inks_setByte (k : Nat) (x : Byte) : (s.setByte k x).inks = s.inks := rfl
@[simp] theorem State.replay_setByte (k : Nat) (x : Byte) : (s.setByte k x).replay = s.replay := rfl
@[simp] theorem State.pkgnum_setByte (k : Nat) (x : Byte) : (s.setByte k x).pkgnum = s.pkgnum := rfl
@[simp] theorem State.npkg_setByte (k : Nat) (x : Byte) : (s.setByte k x).npkg = s.npkg := rfl
@[simp] theorem State.cap_setByte (k : Nat) (x : Byte) : (s.setByte k x).cap = s.cap := rfl
@[simp] theorem State.route_setByte (k : Nat) (x : Byte) : (s.setByte k x).route = s.route := rfl
@[simp] theorem State.hbmBytes_setByte (k : Nat) (x : Byte) : (s.setByte k x).hbmBytes = s.hbmBytes := rfl
@[simp] theorem State.ports_setByte (k : Nat) (x : Byte) : (s.setByte k x).ports = s.ports := rfl
@[simp] theorem State.mgmt_setByte (k : Nat) (x : Byte) : (s.setByte k x).mgmt = s.mgmt := rfl
@[simp] theorem State.bins_setByte (k : Nat) (x : Byte) : (s.setByte k x).bins = s.bins := rfl
@[simp] theorem State.irqs_setByte (k : Nat) (x : Byte) : (s.setByte k x).irqs = s.irqs := rfl
@[simp] theorem State.outbox_setByte (k : Nat) (x : Byte) : (s.setByte k x).outbox = s.outbox := rfl
@[simp] theorem State.launchOrder_setByte (k : Nat) (x : Byte) : (s.setByte k x).launchOrder = s.launchOrder := rfl
@[simp] theorem State.turns_setByte (k : Nat) (x : Byte) : (s.setByte k x).turns = s.turns := rfl
@[simp] theorem State.cur_setByte (k : Nat) (x : Byte) : (s.setByte k x).cur = s.cur := rfl
@[simp] theorem State.stream_setByte (k : Nat) (x : Byte) : (s.setByte k x).stream = s.stream := rfl
@[simp] theorem State.free_setByte (k : Nat) (x : Byte) : (s.setByte k x).free = s.free := rfl
@[simp] theorem State.nextId_setByte (k : Nat) (x : Byte) : (s.setByte k x).nextId = s.nextId := rfl
@[simp] theorem State.tags_setByte (k : Nat) (x : Byte) : (s.setByte k x).tags = s.tags := rfl
@[simp] theorem State.slices_setByte (k : Nat) (x : Byte) : (s.setByte k x).slices = s.slices := rfl
@[simp] theorem State.buckets_setByte (k : Nat) (x : Byte) : (s.setByte k x).buckets = s.buckets := rfl
@[simp] theorem State.ecc_setByte (k : Nat) (x : Byte) : (s.setByte k x).ecc = s.ecc := rfl
@[simp] theorem State.issues_setByte (k : Nat) (x : Byte) : (s.setByte k x).issues = s.issues := rfl
@[simp] theorem State.attached_setByte (k : Nat) (x : Byte) : (s.setByte k x).attached = s.attached := rfl
@[simp] theorem State.released_setByte (k : Nat) (x : Byte) : (s.setByte k x).released = s.released := rfl
@[simp] theorem State.burst_setByte (k : Nat) (x : Byte) : (s.setByte k x).burst = s.burst := rfl
@[simp] theorem State.retiring_setByte (k : Nat) (x : Byte) : (s.setByte k x).retiring = s.retiring := rfl
@[simp] theorem State.defects_setByte (k : Nat) (x : Byte) : (s.setByte k x).defects = s.defects := rfl
@[simp] theorem State.strand_setByte (k : Nat) (x : Byte) (j : Nat) : (s.setByte k x).strand j = s.strand j := rfl
@[simp] theorem State.gang_setByte (k : Nat) (x : Byte) (j : Nat) : (s.setByte k x).gang j = s.gang j := rfl
@[simp] theorem State.job_setByte (k : Nat) (x : Byte) (j : Nat) : (s.setByte k x).job j = s.job j := rfl
@[simp] theorem State.core_setByte (k : Nat) (x : Byte) (j : Nat) : (s.setByte k x).core j = s.core j := rfl
@[simp] theorem State.cluster_setByte (k : Nat) (x : Byte) (j : Nat) : (s.setByte k x).cluster j = s.cluster j := rfl
@[simp] theorem State.die_setByte (k : Nat) (x : Byte) (j : Nat) : (s.setByte k x).die j = s.die j := rfl
@[simp] theorem State.part_setByte (k : Nat) (x : Byte) (j : Nat) : (s.setByte k x).part j = s.part j := rfl
@[simp] theorem State.vd_setByte (k : Nat) (x : Byte) (j : Nat) : (s.setByte k x).vd j = s.vd j := rfl
@[simp] theorem State.me_setByte (k : Nat) (x : Byte) : (s.setByte k x).me = s.me := rfl

/-! ### setFull -/

@[simp] theorem State.mem_setFull (k : Nat) (x : Bool) : (s.setFull k x).mem = s.mem := rfl
@[simp] theorem State.blocks_setFull (k : Nat) (x : Bool) : (s.setFull k x).blocks = s.blocks := rfl
@[simp] theorem State.strands_setFull (k : Nat) (x : Bool) : (s.setFull k x).strands = s.strands := rfl
@[simp] theorem State.gangs_setFull (k : Nat) (x : Bool) : (s.setFull k x).gangs = s.gangs := rfl
@[simp] theorem State.jobs_setFull (k : Nat) (x : Bool) : (s.setFull k x).jobs = s.jobs := rfl
@[simp] theorem State.cores_setFull (k : Nat) (x : Bool) : (s.setFull k x).cores = s.cores := rfl
@[simp] theorem State.clusters_setFull (k : Nat) (x : Bool) : (s.setFull k x).clusters = s.clusters := rfl
@[simp] theorem State.dies_setFull (k : Nat) (x : Bool) : (s.setFull k x).dies = s.dies := rfl
@[simp] theorem State.parts_setFull (k : Nat) (x : Bool) : (s.setFull k x).parts = s.parts := rfl
@[simp] theorem State.vds_setFull (k : Nat) (x : Bool) : (s.setFull k x).vds = s.vds := rfl
@[simp] theorem State.flights_setFull (k : Nat) (x : Bool) : (s.setFull k x).flights = s.flights := rfl
@[simp] theorem State.msgs_setFull (k : Nat) (x : Bool) : (s.setFull k x).msgs = s.msgs := rfl
@[simp] theorem State.waiters_setFull (k : Nat) (x : Bool) : (s.setFull k x).waiters = s.waiters := rfl
@[simp] theorem State.inks_setFull (k : Nat) (x : Bool) : (s.setFull k x).inks = s.inks := rfl
@[simp] theorem State.replay_setFull (k : Nat) (x : Bool) : (s.setFull k x).replay = s.replay := rfl
@[simp] theorem State.pkgnum_setFull (k : Nat) (x : Bool) : (s.setFull k x).pkgnum = s.pkgnum := rfl
@[simp] theorem State.npkg_setFull (k : Nat) (x : Bool) : (s.setFull k x).npkg = s.npkg := rfl
@[simp] theorem State.cap_setFull (k : Nat) (x : Bool) : (s.setFull k x).cap = s.cap := rfl
@[simp] theorem State.route_setFull (k : Nat) (x : Bool) : (s.setFull k x).route = s.route := rfl
@[simp] theorem State.hbmBytes_setFull (k : Nat) (x : Bool) : (s.setFull k x).hbmBytes = s.hbmBytes := rfl
@[simp] theorem State.ports_setFull (k : Nat) (x : Bool) : (s.setFull k x).ports = s.ports := rfl
@[simp] theorem State.mgmt_setFull (k : Nat) (x : Bool) : (s.setFull k x).mgmt = s.mgmt := rfl
@[simp] theorem State.bins_setFull (k : Nat) (x : Bool) : (s.setFull k x).bins = s.bins := rfl
@[simp] theorem State.irqs_setFull (k : Nat) (x : Bool) : (s.setFull k x).irqs = s.irqs := rfl
@[simp] theorem State.outbox_setFull (k : Nat) (x : Bool) : (s.setFull k x).outbox = s.outbox := rfl
@[simp] theorem State.launchOrder_setFull (k : Nat) (x : Bool) : (s.setFull k x).launchOrder = s.launchOrder := rfl
@[simp] theorem State.turns_setFull (k : Nat) (x : Bool) : (s.setFull k x).turns = s.turns := rfl
@[simp] theorem State.cur_setFull (k : Nat) (x : Bool) : (s.setFull k x).cur = s.cur := rfl
@[simp] theorem State.stream_setFull (k : Nat) (x : Bool) : (s.setFull k x).stream = s.stream := rfl
@[simp] theorem State.free_setFull (k : Nat) (x : Bool) : (s.setFull k x).free = s.free := rfl
@[simp] theorem State.nextId_setFull (k : Nat) (x : Bool) : (s.setFull k x).nextId = s.nextId := rfl
@[simp] theorem State.tags_setFull (k : Nat) (x : Bool) : (s.setFull k x).tags = s.tags := rfl
@[simp] theorem State.slices_setFull (k : Nat) (x : Bool) : (s.setFull k x).slices = s.slices := rfl
@[simp] theorem State.buckets_setFull (k : Nat) (x : Bool) : (s.setFull k x).buckets = s.buckets := rfl
@[simp] theorem State.ecc_setFull (k : Nat) (x : Bool) : (s.setFull k x).ecc = s.ecc := rfl
@[simp] theorem State.issues_setFull (k : Nat) (x : Bool) : (s.setFull k x).issues = s.issues := rfl
@[simp] theorem State.attached_setFull (k : Nat) (x : Bool) : (s.setFull k x).attached = s.attached := rfl
@[simp] theorem State.released_setFull (k : Nat) (x : Bool) : (s.setFull k x).released = s.released := rfl
@[simp] theorem State.burst_setFull (k : Nat) (x : Bool) : (s.setFull k x).burst = s.burst := rfl
@[simp] theorem State.retiring_setFull (k : Nat) (x : Bool) : (s.setFull k x).retiring = s.retiring := rfl
@[simp] theorem State.defects_setFull (k : Nat) (x : Bool) : (s.setFull k x).defects = s.defects := rfl
@[simp] theorem State.strand_setFull (k : Nat) (x : Bool) (j : Nat) : (s.setFull k x).strand j = s.strand j := rfl
@[simp] theorem State.gang_setFull (k : Nat) (x : Bool) (j : Nat) : (s.setFull k x).gang j = s.gang j := rfl
@[simp] theorem State.job_setFull (k : Nat) (x : Bool) (j : Nat) : (s.setFull k x).job j = s.job j := rfl
@[simp] theorem State.core_setFull (k : Nat) (x : Bool) (j : Nat) : (s.setFull k x).core j = s.core j := rfl
@[simp] theorem State.cluster_setFull (k : Nat) (x : Bool) (j : Nat) : (s.setFull k x).cluster j = s.cluster j := rfl
@[simp] theorem State.die_setFull (k : Nat) (x : Bool) (j : Nat) : (s.setFull k x).die j = s.die j := rfl
@[simp] theorem State.part_setFull (k : Nat) (x : Bool) (j : Nat) : (s.setFull k x).part j = s.part j := rfl
@[simp] theorem State.vd_setFull (k : Nat) (x : Bool) (j : Nat) : (s.setFull k x).vd j = s.vd j := rfl
@[simp] theorem State.me_setFull (k : Nat) (x : Bool) : (s.setFull k x).me = s.me := rfl

@[simp] theorem State.byte_setByte (k : Nat) (x : Byte) (a : Nat) : (s.setByte k x).byte a = if a = k then x else s.byte a := by
  simp [State.byte, State.setByte]
@[simp] theorem State.isFull_setFull (k a : Nat) (x : Bool) :
    (s.setFull k x).isFull a = if a / 16 = k / 16 then x else s.isFull a := by
  cases x <;> by_cases h : a / 16 = k / 16 <;> simp [State.isFull, State.setFull, h]

/-! ### The current strand -/

@[simp] theorem State.mem_setMe (x : Strand) : (s.setMe x).mem = s.mem := rfl
@[simp] theorem State.fe_setMe (x : Strand) : (s.setMe x).fe = s.fe := rfl
@[simp] theorem State.blocks_setMe (x : Strand) : (s.setMe x).blocks = s.blocks := rfl
@[simp] theorem State.gangs_setMe (x : Strand) : (s.setMe x).gangs = s.gangs := rfl
@[simp] theorem State.jobs_setMe (x : Strand) : (s.setMe x).jobs = s.jobs := rfl
@[simp] theorem State.cores_setMe (x : Strand) : (s.setMe x).cores = s.cores := rfl
@[simp] theorem State.clusters_setMe (x : Strand) : (s.setMe x).clusters = s.clusters := rfl
@[simp] theorem State.dies_setMe (x : Strand) : (s.setMe x).dies = s.dies := rfl
@[simp] theorem State.parts_setMe (x : Strand) : (s.setMe x).parts = s.parts := rfl
@[simp] theorem State.vds_setMe (x : Strand) : (s.setMe x).vds = s.vds := rfl
@[simp] theorem State.flights_setMe (x : Strand) : (s.setMe x).flights = s.flights := rfl
@[simp] theorem State.msgs_setMe (x : Strand) : (s.setMe x).msgs = s.msgs := rfl
@[simp] theorem State.waiters_setMe (x : Strand) : (s.setMe x).waiters = s.waiters := rfl
@[simp] theorem State.inks_setMe (x : Strand) : (s.setMe x).inks = s.inks := rfl
@[simp] theorem State.replay_setMe (x : Strand) : (s.setMe x).replay = s.replay := rfl
@[simp] theorem State.pkgnum_setMe (x : Strand) : (s.setMe x).pkgnum = s.pkgnum := rfl
@[simp] theorem State.npkg_setMe (x : Strand) : (s.setMe x).npkg = s.npkg := rfl
@[simp] theorem State.cap_setMe (x : Strand) : (s.setMe x).cap = s.cap := rfl
@[simp] theorem State.route_setMe (x : Strand) : (s.setMe x).route = s.route := rfl
@[simp] theorem State.hbmBytes_setMe (x : Strand) : (s.setMe x).hbmBytes = s.hbmBytes := rfl
@[simp] theorem State.ports_setMe (x : Strand) : (s.setMe x).ports = s.ports := rfl
@[simp] theorem State.mgmt_setMe (x : Strand) : (s.setMe x).mgmt = s.mgmt := rfl
@[simp] theorem State.bins_setMe (x : Strand) : (s.setMe x).bins = s.bins := rfl
@[simp] theorem State.irqs_setMe (x : Strand) : (s.setMe x).irqs = s.irqs := rfl
@[simp] theorem State.outbox_setMe (x : Strand) : (s.setMe x).outbox = s.outbox := rfl
@[simp] theorem State.launchOrder_setMe (x : Strand) : (s.setMe x).launchOrder = s.launchOrder := rfl
@[simp] theorem State.turns_setMe (x : Strand) : (s.setMe x).turns = s.turns := rfl
@[simp] theorem State.cur_setMe (x : Strand) : (s.setMe x).cur = s.cur := rfl
@[simp] theorem State.stream_setMe (x : Strand) : (s.setMe x).stream = s.stream := rfl
@[simp] theorem State.free_setMe (x : Strand) : (s.setMe x).free = s.free := rfl
@[simp] theorem State.nextId_setMe (x : Strand) : (s.setMe x).nextId = s.nextId := rfl
@[simp] theorem State.tags_setMe (x : Strand) : (s.setMe x).tags = s.tags := rfl
@[simp] theorem State.slices_setMe (x : Strand) : (s.setMe x).slices = s.slices := rfl
@[simp] theorem State.buckets_setMe (x : Strand) : (s.setMe x).buckets = s.buckets := rfl
@[simp] theorem State.ecc_setMe (x : Strand) : (s.setMe x).ecc = s.ecc := rfl
@[simp] theorem State.issues_setMe (x : Strand) : (s.setMe x).issues = s.issues := rfl
@[simp] theorem State.attached_setMe (x : Strand) : (s.setMe x).attached = s.attached := rfl
@[simp] theorem State.released_setMe (x : Strand) : (s.setMe x).released = s.released := rfl
@[simp] theorem State.burst_setMe (x : Strand) : (s.setMe x).burst = s.burst := rfl
@[simp] theorem State.retiring_setMe (x : Strand) : (s.setMe x).retiring = s.retiring := rfl
@[simp] theorem State.defects_setMe (x : Strand) : (s.setMe x).defects = s.defects := rfl
@[simp] theorem State.me_setMe (x : Strand) : (s.setMe x).me = x := by simp [State.setMe, State.me]
@[simp] theorem State.strand_setMe (x : Strand) (j : Nat) : (s.setMe x).strand j = if j = s.cur then x else s.strand j := by
  simp [State.setMe]
@[simp] theorem State.byte_setMe (x : Strand) (a : Nat) : (s.setMe x).byte a = s.byte a := rfl
theorem State.me_setStrand (k : Nat) (x : Strand) : (s.setStrand k x).me = if s.cur = k then x else s.me := by
  simp [State.me]
@[simp] theorem State.gang_setMe (x : Strand) (j : Nat) : (s.setMe x).gang j = s.gang j := rfl
@[simp] theorem State.job_setMe (x : Strand) (j : Nat) : (s.setMe x).job j = s.job j := rfl
@[simp] theorem State.core_setMe (x : Strand) (j : Nat) : (s.setMe x).core j = s.core j := rfl
@[simp] theorem State.cluster_setMe (x : Strand) (j : Nat) : (s.setMe x).cluster j = s.cluster j := rfl
@[simp] theorem State.die_setMe (x : Strand) (j : Nat) : (s.setMe x).die j = s.die j := rfl
@[simp] theorem State.part_setMe (x : Strand) (j : Nat) : (s.setMe x).part j = s.part j := rfl
@[simp] theorem State.vd_setMe (x : Strand) (j : Nat) : (s.setMe x).vd j = s.vd j := rfl

/-! ### setFlight -/

@[simp] theorem State.mem_setFlight (f : Flight) : (s.setFlight f).mem = s.mem := rfl
@[simp] theorem State.fe_setFlight (f : Flight) : (s.setFlight f).fe = s.fe := rfl
@[simp] theorem State.blocks_setFlight (f : Flight) : (s.setFlight f).blocks = s.blocks := rfl
@[simp] theorem State.strands_setFlight (f : Flight) : (s.setFlight f).strands = s.strands := rfl
@[simp] theorem State.gangs_setFlight (f : Flight) : (s.setFlight f).gangs = s.gangs := rfl
@[simp] theorem State.jobs_setFlight (f : Flight) : (s.setFlight f).jobs = s.jobs := rfl
@[simp] theorem State.cores_setFlight (f : Flight) : (s.setFlight f).cores = s.cores := rfl
@[simp] theorem State.clusters_setFlight (f : Flight) : (s.setFlight f).clusters = s.clusters := rfl
@[simp] theorem State.dies_setFlight (f : Flight) : (s.setFlight f).dies = s.dies := rfl
@[simp] theorem State.parts_setFlight (f : Flight) : (s.setFlight f).parts = s.parts := rfl
@[simp] theorem State.vds_setFlight (f : Flight) : (s.setFlight f).vds = s.vds := rfl
@[simp] theorem State.msgs_setFlight (f : Flight) : (s.setFlight f).msgs = s.msgs := rfl
@[simp] theorem State.waiters_setFlight (f : Flight) : (s.setFlight f).waiters = s.waiters := rfl
@[simp] theorem State.inks_setFlight (f : Flight) : (s.setFlight f).inks = s.inks := rfl
@[simp] theorem State.replay_setFlight (f : Flight) : (s.setFlight f).replay = s.replay := rfl
@[simp] theorem State.tags_setFlight (f : Flight) : (s.setFlight f).tags = s.tags := rfl
@[simp] theorem State.slices_setFlight (f : Flight) : (s.setFlight f).slices = s.slices := rfl
@[simp] theorem State.buckets_setFlight (f : Flight) : (s.setFlight f).buckets = s.buckets := rfl
@[simp] theorem State.ecc_setFlight (f : Flight) : (s.setFlight f).ecc = s.ecc := rfl
@[simp] theorem State.pkgnum_setFlight (f : Flight) : (s.setFlight f).pkgnum = s.pkgnum := rfl
@[simp] theorem State.npkg_setFlight (f : Flight) : (s.setFlight f).npkg = s.npkg := rfl
@[simp] theorem State.cap_setFlight (f : Flight) : (s.setFlight f).cap = s.cap := rfl
@[simp] theorem State.route_setFlight (f : Flight) : (s.setFlight f).route = s.route := rfl
@[simp] theorem State.hbmBytes_setFlight (f : Flight) : (s.setFlight f).hbmBytes = s.hbmBytes := rfl
@[simp] theorem State.ports_setFlight (f : Flight) : (s.setFlight f).ports = s.ports := rfl
@[simp] theorem State.attached_setFlight (f : Flight) : (s.setFlight f).attached = s.attached := rfl
@[simp] theorem State.mgmt_setFlight (f : Flight) : (s.setFlight f).mgmt = s.mgmt := rfl
@[simp] theorem State.bins_setFlight (f : Flight) : (s.setFlight f).bins = s.bins := rfl
@[simp] theorem State.irqs_setFlight (f : Flight) : (s.setFlight f).irqs = s.irqs := rfl
@[simp] theorem State.outbox_setFlight (f : Flight) : (s.setFlight f).outbox = s.outbox := rfl
@[simp] theorem State.launchOrder_setFlight (f : Flight) : (s.setFlight f).launchOrder = s.launchOrder := rfl
@[simp] theorem State.turns_setFlight (f : Flight) : (s.setFlight f).turns = s.turns := rfl
@[simp] theorem State.cur_setFlight (f : Flight) : (s.setFlight f).cur = s.cur := rfl
@[simp] theorem State.stream_setFlight (f : Flight) : (s.setFlight f).stream = s.stream := rfl
@[simp] theorem State.free_setFlight (f : Flight) : (s.setFlight f).free = s.free := rfl
@[simp] theorem State.nextId_setFlight (f : Flight) : (s.setFlight f).nextId = s.nextId := rfl
@[simp] theorem State.issues_setFlight (f : Flight) : (s.setFlight f).issues = s.issues := rfl
@[simp] theorem State.released_setFlight (f : Flight) : (s.setFlight f).released = s.released := rfl
@[simp] theorem State.burst_setFlight (f : Flight) : (s.setFlight f).burst = s.burst := rfl
@[simp] theorem State.retiring_setFlight (f : Flight) : (s.setFlight f).retiring = s.retiring := rfl
@[simp] theorem State.defects_setFlight (f : Flight) : (s.setFlight f).defects = s.defects := rfl
@[simp] theorem State.strand_setFlight (f : Flight) (k : Nat) : (s.setFlight f).strand k = s.strand k := rfl
@[simp] theorem State.gang_setFlight (f : Flight) (k : Nat) : (s.setFlight f).gang k = s.gang k := rfl
@[simp] theorem State.job_setFlight (f : Flight) (k : Nat) : (s.setFlight f).job k = s.job k := rfl
@[simp] theorem State.core_setFlight (f : Flight) (k : Nat) : (s.setFlight f).core k = s.core k := rfl
@[simp] theorem State.cluster_setFlight (f : Flight) (k : Nat) : (s.setFlight f).cluster k = s.cluster k := rfl
@[simp] theorem State.die_setFlight (f : Flight) (k : Nat) : (s.setFlight f).die k = s.die k := rfl
@[simp] theorem State.part_setFlight (f : Flight) (k : Nat) : (s.setFlight f).part k = s.part k := rfl
@[simp] theorem State.vd_setFlight (f : Flight) (k : Nat) : (s.setFlight f).vd k = s.vd k := rfl
@[simp] theorem State.byte_setFlight (f : Flight) (a : Nat) : (s.setFlight f).byte a = s.byte a := rfl

/-! ### moveFlight -/

@[simp] theorem State.mem_moveFlight (f : Flight) : (s.moveFlight f).mem = s.mem := rfl
@[simp] theorem State.fe_moveFlight (f : Flight) : (s.moveFlight f).fe = s.fe := rfl
@[simp] theorem State.blocks_moveFlight (f : Flight) : (s.moveFlight f).blocks = s.blocks := rfl
@[simp] theorem State.strands_moveFlight (f : Flight) : (s.moveFlight f).strands = s.strands := rfl
@[simp] theorem State.gangs_moveFlight (f : Flight) : (s.moveFlight f).gangs = s.gangs := rfl
@[simp] theorem State.jobs_moveFlight (f : Flight) : (s.moveFlight f).jobs = s.jobs := rfl
@[simp] theorem State.cores_moveFlight (f : Flight) : (s.moveFlight f).cores = s.cores := rfl
@[simp] theorem State.clusters_moveFlight (f : Flight) : (s.moveFlight f).clusters = s.clusters := rfl
@[simp] theorem State.dies_moveFlight (f : Flight) : (s.moveFlight f).dies = s.dies := rfl
@[simp] theorem State.parts_moveFlight (f : Flight) : (s.moveFlight f).parts = s.parts := rfl
@[simp] theorem State.vds_moveFlight (f : Flight) : (s.moveFlight f).vds = s.vds := rfl
@[simp] theorem State.msgs_moveFlight (f : Flight) : (s.moveFlight f).msgs = s.msgs := rfl
@[simp] theorem State.waiters_moveFlight (f : Flight) : (s.moveFlight f).waiters = s.waiters := rfl
@[simp] theorem State.inks_moveFlight (f : Flight) : (s.moveFlight f).inks = s.inks := rfl
@[simp] theorem State.replay_moveFlight (f : Flight) : (s.moveFlight f).replay = s.replay := rfl
@[simp] theorem State.tags_moveFlight (f : Flight) : (s.moveFlight f).tags = s.tags := rfl
@[simp] theorem State.slices_moveFlight (f : Flight) : (s.moveFlight f).slices = s.slices := rfl
@[simp] theorem State.buckets_moveFlight (f : Flight) : (s.moveFlight f).buckets = s.buckets := rfl
@[simp] theorem State.ecc_moveFlight (f : Flight) : (s.moveFlight f).ecc = s.ecc := rfl
@[simp] theorem State.pkgnum_moveFlight (f : Flight) : (s.moveFlight f).pkgnum = s.pkgnum := rfl
@[simp] theorem State.npkg_moveFlight (f : Flight) : (s.moveFlight f).npkg = s.npkg := rfl
@[simp] theorem State.cap_moveFlight (f : Flight) : (s.moveFlight f).cap = s.cap := rfl
@[simp] theorem State.route_moveFlight (f : Flight) : (s.moveFlight f).route = s.route := rfl
@[simp] theorem State.hbmBytes_moveFlight (f : Flight) : (s.moveFlight f).hbmBytes = s.hbmBytes := rfl
@[simp] theorem State.ports_moveFlight (f : Flight) : (s.moveFlight f).ports = s.ports := rfl
@[simp] theorem State.attached_moveFlight (f : Flight) : (s.moveFlight f).attached = s.attached := rfl
@[simp] theorem State.mgmt_moveFlight (f : Flight) : (s.moveFlight f).mgmt = s.mgmt := rfl
@[simp] theorem State.bins_moveFlight (f : Flight) : (s.moveFlight f).bins = s.bins := rfl
@[simp] theorem State.irqs_moveFlight (f : Flight) : (s.moveFlight f).irqs = s.irqs := rfl
@[simp] theorem State.outbox_moveFlight (f : Flight) : (s.moveFlight f).outbox = s.outbox := rfl
@[simp] theorem State.launchOrder_moveFlight (f : Flight) : (s.moveFlight f).launchOrder = s.launchOrder := rfl
@[simp] theorem State.turns_moveFlight (f : Flight) : (s.moveFlight f).turns = s.turns := rfl
@[simp] theorem State.cur_moveFlight (f : Flight) : (s.moveFlight f).cur = s.cur := rfl
@[simp] theorem State.stream_moveFlight (f : Flight) : (s.moveFlight f).stream = s.stream := rfl
@[simp] theorem State.free_moveFlight (f : Flight) : (s.moveFlight f).free = s.free := rfl
@[simp] theorem State.nextId_moveFlight (f : Flight) : (s.moveFlight f).nextId = s.nextId := rfl
@[simp] theorem State.issues_moveFlight (f : Flight) : (s.moveFlight f).issues = s.issues := rfl
@[simp] theorem State.released_moveFlight (f : Flight) : (s.moveFlight f).released = s.released := rfl
@[simp] theorem State.burst_moveFlight (f : Flight) : (s.moveFlight f).burst = s.burst := rfl
@[simp] theorem State.retiring_moveFlight (f : Flight) : (s.moveFlight f).retiring = s.retiring := rfl
@[simp] theorem State.defects_moveFlight (f : Flight) : (s.moveFlight f).defects = s.defects := rfl
@[simp] theorem State.strand_moveFlight (f : Flight) (k : Nat) : (s.moveFlight f).strand k = s.strand k := rfl
@[simp] theorem State.gang_moveFlight (f : Flight) (k : Nat) : (s.moveFlight f).gang k = s.gang k := rfl
@[simp] theorem State.job_moveFlight (f : Flight) (k : Nat) : (s.moveFlight f).job k = s.job k := rfl
@[simp] theorem State.core_moveFlight (f : Flight) (k : Nat) : (s.moveFlight f).core k = s.core k := rfl
@[simp] theorem State.cluster_moveFlight (f : Flight) (k : Nat) : (s.moveFlight f).cluster k = s.cluster k := rfl
@[simp] theorem State.die_moveFlight (f : Flight) (k : Nat) : (s.moveFlight f).die k = s.die k := rfl
@[simp] theorem State.part_moveFlight (f : Flight) (k : Nat) : (s.moveFlight f).part k = s.part k := rfl
@[simp] theorem State.vd_moveFlight (f : Flight) (k : Nat) : (s.moveFlight f).vd k = s.vd k := rfl
@[simp] theorem State.byte_moveFlight (f : Flight) (a : Nat) : (s.moveFlight f).byte a = s.byte a := rfl

end Sys2Proof.Machine
end

