-- ==== Sys2Proof/Laws/Scalar.lean ====
section
/-! SUPPORT. What a scalar instruction can do to its strand: writing a register, what earlier runs go on reading, going on. -/

namespace Sys2Proof.Machine

open Sys2Proof

/-! ### Registers -/

@[simp] theorem Strand.s_zero (t : Strand) : t.s 0 = 0 := by simp [Strand.s]

/-- A register after a write. -/
@[simp] theorem Strand.s_putS (t : Strand) (d r : SReg) (v : W64) :
    (t.putS d v).s r = if r = d ∧ d ≠ 0 then v else t.s r := by
  unfold Strand.putS Strand.s
  by_cases hd : d = 0
  · subst hd
    simp only [ne_eq, not_true_eq_false, and_false, if_true, if_false]
  · rw [if_neg hd]
    by_cases hr : r = 0
    · rw [if_pos hr, if_neg (fun h => hd (h.1.symm.trans hr)), if_pos hr]
    · rw [if_neg hr, if_neg hr]
      by_cases h : r = d
      · rw [if_pos ⟨h, hd⟩, h, SMap.get_set, if_pos rfl]
      · rw [if_neg (fun e => h e.1), SMap.get_set, if_neg (fun e => h (BitVec.eq_of_toNat_eq e))]

@[simp] theorem Strand.s_keepS (t : Strand) (d r : SReg) : (t.keepS d).s r = t.s r := by
  unfold Strand.keepS; split <;> rfl

@[simp] theorem Strand.s_writeS (t : Strand) (d r : SReg) (v : W64) :
    (t.writeS d v).s r = if r = d ∧ d ≠ 0 then v else t.s r := by simp [Strand.writeS]

@[simp] theorem Strand.s_advance (t : Strand) (r : SReg) : t.advance.s r = t.s r := rfl
@[simp] theorem Strand.pc_advance (t : Strand) : t.advance.pc = t.pc + 4 := rfl

/-- A register write changes nothing of the strand but its registers and their spare copies. -/
theorem Strand.writeS_frame (t : Strand) (d : SReg) (v : W64) :
    { t.writeS d v with sregs := t.sregs, ren := t.ren } = t := by
  unfold Strand.writeS Strand.putS Strand.keepS
  split <;> split <;> rfl

@[simp] theorem Strand.pc_writeS (t : Strand) (d : SReg) (v : W64) : (t.writeS d v).pc = t.pc := by
  have := congrArg Strand.pc (Strand.writeS_frame t d v); simpa using this
@[simp] theorem Strand.runs_writeS (t : Strand) (d : SReg) (v : W64) : (t.writeS d v).runs = t.runs := by
  have := congrArg Strand.runs (Strand.writeS_frame t d v); simpa using this
@[simp] theorem Strand.live_writeS (t : Strand) (d : SReg) (v : W64) : (t.writeS d v).live = t.live := by
  have := congrArg Strand.live (Strand.writeS_frame t d v); simpa using this

theorem Strand.keepS_frame (t : Strand) (d : SReg) : { t.keepS d with ren := t.ren } = t := by
  unfold Strand.keepS; split <;> rfl

/-! ### What the runs already enqueued read (R77) -/

theorem Strand.laneS_putS_keepS (t : Strand) (d : SReg) (v : W64) (m : Nat) (hm : t.lastSeq = some m) (q : Nat) (hq : q ≤ m)
    (r : SReg) : (t.writeS d v).laneS q r = t.laneS q r := by
  by_cases hd : d = 0
  · subst hd; simp [Strand.writeS, Strand.keepS, Strand.putS]
  · have h0 : (d == (0 : SReg)) = false := by simpa using hd
    have hren : (t.writeS d v).ren = t.ren ++ [{ reg := d, val := t.s d, seq := m }] := by
      unfold Strand.writeS Strand.putS Strand.keepS
      rw [if_neg hd]
      simp only [h0, hm]
    have hs := Strand.s_writeS t d r v
    unfold Strand.laneS
    rw [hren, List.find?_append]
    cases hf : t.ren.find? (fun e => e.reg == r && decide (q ≤ e.seq)) with
    | some e => simp
    | none =>
      by_cases h : d = r
      · subst h; simp [hq]
      · simp [h, hs, Ne.symm h]

/-! ### Going on -/

/-- A scalar result: what becomes of the current strand, and of nothing else. -/
theorem State.scalarResult_me (s : State) (d : SReg) (v : W64) : (s.scalarResult d v).me = (s.me.writeS d v).advance := by
  simp [State.scalarResult]

theorem State.scalarResult_frame (s : State) (d : SReg) (v : W64) :
    { s.scalarResult d v with strands := s.strands } = s := rfl

theorem State.strand_scalarResult (s : State) (d : SReg) (v : W64) (k : Nat) (h : k ≠ s.cur) :
    (s.scalarResult d v).strand k = s.strand k := by simp [State.scalarResult, h]

@[simp] theorem State.byte_scalarResult (s : State) (d : SReg) (v : W64) (a : Nat) :
    (s.scalarResult d v).byte a = s.byte a := rfl

end Sys2Proof.Machine
end

