-- ==== Sys2Proof/Laws/Access.lean ====
section
/-! SUPPORT. What starting an access can do: the number a request takes, where it stands, and what stays as it is. -/

namespace Sys2Proof.Machine

open Sys2Proof

/-! ### Requests -/

theorem State.mem_flights_setFlight (s : State) (f g : Flight) (h : g.id ≠ f.id) : g ∈ (s.setFlight f).flights ↔ g ∈ s.flights := by
  unfold State.setFlight
  simp only [List.mem_map]
  constructor
  · rintro ⟨x, hx, rfl⟩
    by_cases e : x.id = f.id
    · simp [e] at h
    · simpa [e] using hx
  · intro hg
    exact ⟨g, hg, by simp [h]⟩

theorem State.setFlight_frame (s : State) (f : Flight) : { s.setFlight f with flights := s.flights } = s := rfl

/-- A request that stands in the list, after its change. -/
theorem State.setFlight_self (s : State) (f : Flight) (h : ∃ g ∈ s.flights, g.id = f.id) : f ∈ (s.setFlight f).flights := by
  obtain ⟨g, hg, e⟩ := h
  exact List.mem_map.mpr ⟨g, hg, by simp [e]⟩

/-- What starting a relaxed read on its way does: it stands at its first stage, with its number; a scalar read and a lane read that waits in no
window, line or bin go this way. -/
theorem State.launchFlight_read (s : State) (f : Flight) (hw : f.kind.writes = false) :
    s.launchFlight f .home = { s with flights := s.flights ++ [{ f with id := s.nextId, stage := f.firstStage }], nextId := s.nextId + 1 } := by
  simp [State.launchFlight, hw]; rfl

/-! ### One access -/

/-- A relaxed instruction of one access whose check does not miss. -/
theorem State.issueAccs_one (s : State) (k : Nat) (lane : Bool) (i : Instr) (f : AccForm) (a : Acc) (done : State → State)
    (hr : f.ord = .rlx) (hm : s.checkAcc k lane f a ≠ .miss) :
    s.issueAccs k lane i f [a] done =
      let s' := s.setStrand k (let t := (s.strand k).setWait lane .none
                               if lane then { t with insts := t.insts + 1 } else { t with accs := t.accs + 1 })
      let join (u : State) : State := if lane then u.joinLines k ((s.strand k).insts + 1) else u
      match s.checkAcc k lane f a with
      | .pass key => (join (s'.launchAcc k lane f a (some key))).settle k lane f [(a, s.checkAcc k lane f a)] done
      | .err => (join (s'.launchAcc k lane f a none)).settle k lane f [(a, s.checkAcc k lane f a)] done
      | c => (join s').settle k lane f [(a, c)] done := by
  have h0 : (s.checkAcc k lane f a == Checked.miss) = false := by simpa using hm
  have ha (t : Strand) : t.flatVas i [a] = false := rfl
  unfold State.issueAccs
  simp only [List.map, List.filter, h0, List.isEmpty_nil, Bool.not_true, hr, List.foldl, ha, Bool.and_false]
  cases s.checkAcc k lane f a <;> rfl

/-- Nothing failed: what follows is done. -/
theorem State.settle_pass (s : State) (k : Nat) (lane : Bool) (f : AccForm) (a : Acc) (c : Checked) (done : State → State)
    (h : c.fails = false) : s.settle k lane f [(a, c)] done = done s := by
  cases c <;> first | rfl | cases h

/-- A trap of a scalar access. -/
theorem State.settle_trap (s : State) (k : Nat) (f : AccForm) (a : Acc) (code x : Nat) (done : State → State) :
    s.settle k false f [(a, .trap code x)] done = s.raise k { (s.strand k).scalarTrap code a.va with xkind := x } := rfl

/-- A misaligned address traps, whatever else holds of it. -/
theorem State.checkAcc_misaligned (s : State) (k : Nat) (lane : Bool) (f : AccForm) (a : Acc) (h : a.va.toNat % f.align ≠ 0) :
    s.checkAcc k lane f a = .trap cMisdata 0 := by
  unfold State.checkAcc; simp [h]

/-- An access that is aligned, translated and not watched passes. -/
theorem State.checkAcc_pass (s : State) (k : Nat) (lane : Bool) (f : AccForm) (a : Acc) (key : Nat)
    (h1 : a.va.toNat % f.align = 0) (h2 : f.ink = false) (h3 : f.spadOnly = false)
    (h4 : s.translate k lane f.need a.va = .key key)
    (h5 : (s.strand k).exempt lane = true ∨ (s.strand k).watched f.wp a.va f.bytes = false) :
    s.checkAcc k lane f a = .pass key := by
  unfold State.checkAcc
  rcases h5 with h5 | h5 <;> simp [h1, h2, h3, h4, h5]

end Sys2Proof.Machine
end

