-- ==== Sys2Proof/Laws/Lane.lean ====
section
/-! SUPPORT. What the shared operations of the lane instructions can do: issuing, writing registers and masks, going on; and
what raising a trap can do. -/

namespace Sys2Proof.Machine

open Sys2Proof

/-! ### Going on to the next slot -/

theorem Strand.freeRen_frame (t : Strand) : { t.freeRen with ren := t.ren } = t := by
  unfold Strand.freeRen; split <;> rfl

@[simp] theorem Strand.runs_freeRen (t : Strand) : t.freeRen.runs = t.runs := by
  unfold Strand.freeRen; split <;> rfl

/-- Going on changes the runs, the mark of a re-execution, the spare copies and the tags of registers, and nothing else of the strand. -/
theorem Strand.laneAdvance_frame (t : Strand) :
    { t.laneAdvance with runs := t.runs, redo := t.redo, ren := t.ren, tags := t.tags, issuing := t.issuing } = t := by
  unfold Strand.laneAdvance Strand.nextSlot Strand.settleTags
  split
  · rfl
  · split
    · unfold Strand.freeRen; split <;> rfl
    · rfl

@[simp] theorem Strand.redo_laneAdvance (t : Strand) : t.laneAdvance.redo = none := by
  unfold Strand.laneAdvance Strand.nextSlot
  split
  · rfl
  · split
    · unfold Strand.freeRen; split <;> rfl
    · rfl

theorem Strand.runs_laneAdvance (t : Strand) : t.laneAdvance.runs = match t.runs with
    | [] => []
    | r :: rs => if r.left ≤ 1 then rs else { r with pc := nextLanePc r.pc, left := r.left - 1 } :: rs := by
  have e : t.settleTags.runs = t.runs := rfl
  unfold Strand.laneAdvance Strand.nextSlot
  rw [e]
  cases t.runs with
  | nil => rfl
  | cons r rs =>
    by_cases hl : r.left ≤ 1
    · simp [hl]
    · simp [hl]

@[simp] theorem Strand.vregs_laneAdvance (t : Strand) : t.laneAdvance.vregs = t.vregs := by
  have := congrArg Strand.vregs t.laneAdvance_frame; simpa using this
@[simp] theorem Strand.kregs_laneAdvance (t : Strand) : t.laneAdvance.kregs = t.kregs := by
  have := congrArg Strand.kregs t.laneAdvance_frame; simpa using this
@[simp] theorem Strand.sregs_laneAdvance (t : Strand) : t.laneAdvance.sregs = t.sregs := by
  have := congrArg Strand.sregs t.laneAdvance_frame; simpa using this

/-! ### Issuing -/

theorem State.laneIssue_run (s : State) (regs : List (Nat × Nat)) (m : Mask) (body : W32 → State → State)
    (hb : s.me.budgetOk regs = true) (hx : s.me.execSet m ≠ 0) : s.laneIssue regs m body = body (s.me.execSet m) s := by
  unfold State.laneIssue
  simp only [hb, Bool.not_true, Bool.false_eq_true, if_false]
  exact if_neg hx

theorem State.laneIssue_pass (s : State) (regs : List (Nat × Nat)) (m : Mask) (body : W32 → State → State)
    (hb : s.me.budgetOk regs = true) (hx : s.me.execSet m = 0) : s.laneIssue regs m body = s.setMe s.me.laneAdvance := by
  unfold State.laneIssue
  simp only [hb, Bool.not_true, Bool.false_eq_true, if_false]
  exact if_pos hx

theorem State.laneIssue_trap (s : State) (regs : List (Nat × Nat)) (m : Mask) (body : W32 → State → State)
    (hb : s.me.budgetOk regs = false) : s.laneIssue regs m body = s.raiseLane cIllegal 0 (orAll (s.me.execSet m)) := by
  simp [State.laneIssue, hb]

/-! ### Writing v registers -/

theorem mem_threadsIn (x : W32) (i : Nat) : i ∈ threadsIn x ↔ i < 32 ∧ x.getLsbD i = true := by simp [threadsIn]

theorem nodup_threadsIn (x : W32) : (threadsIn x).Nodup := (List.nodup_range).filter _

theorem Strand.putVs_frame (t : Strand) (r i n x : Nat) : { t.putVs r i n x with vregs := t.vregs } = t := by
  induction n generalizing t r x with
  | zero => rfl
  | succ n ih => exact congrArg (fun u : Strand => { u with vregs := t.vregs }) (ih (t.putV r i (BitVec.ofNat 32 x)) (r + 1) (x / 2 ^ 32))

@[simp] theorem Strand.v_putV (t : Strand) (r i q j : Nat) (v : W32) (hi : i < 32) (hj : j < 32) :
    (t.putV r i v).v q j = if q = r ∧ j = i then v else t.v q j := by
  unfold Strand.putV Strand.v
  rw [SMap.get_set]
  by_cases h : q = r ∧ j = i
  · simp [h]
  · rw [if_neg h, if_neg (by omega)]

/-- A register of a thread after the registers from r of thread i have taken a value. -/
theorem Strand.v_putVs (t : Strand) (r i n x q j : Nat) (hi : i < 32) (hj : j < 32) :
    (t.putVs r i n x).v q j = if j = i ∧ r ≤ q ∧ q < r + n then BitVec.ofNat 32 (x / 2 ^ (32 * (q - r))) else t.v q j := by
  induction n generalizing t r x with
  | zero => simp [Strand.putVs]
  | succ n ih =>
    rw [Strand.putVs, ih]
    by_cases h : j = i ∧ r + 1 ≤ q ∧ q < r + 1 + n
    · rw [if_pos h, if_pos (by omega), Nat.div_div_eq_div_mul, ← pow_add, show 32 + 32 * (q - (r + 1)) = 32 * (q - r) by omega]
    · rw [if_neg h, Strand.v_putV _ _ _ _ _ _ hi hj]
      by_cases hq : q = r ∧ j = i
      · obtain ⟨rfl, rfl⟩ := hq
        simp
      · rw [if_neg hq, if_neg (by omega)]

theorem Strand.foldl_putVs_frame (t : Strand) (d n : Nat) (val : Nat → Nat) (l : List Nat) :
    { l.foldl (fun t i => t.putVs d i n (val i)) t with vregs := t.vregs } = t := by
  induction l generalizing t with
  | nil => rfl
  | cons i l ih =>
    rw [List.foldl_cons]
    have h1 := congrArg (fun u : Strand => { u with vregs := t.vregs }) (ih (t.putVs d i n (val i)))
    exact h1.trans (Strand.putVs_frame t d i n (val i))

/-- A register of a thread after the threads of a list have taken values. -/
theorem Strand.v_foldl_putVs (t : Strand) (d n : Nat) (val : Nat → Nat) (l : List Nat) (hl : ∀ i ∈ l, i < 32) (hn : l.Nodup)
    (q j : Nat) (hj : j < 32) : (l.foldl (fun t i => t.putVs d i n (val i)) t).v q j =
      if j ∈ l ∧ d ≤ q ∧ q < d + n then BitVec.ofNat 32 (val j / 2 ^ (32 * (q - d))) else t.v q j := by
  induction l generalizing t with
  | nil => simp
  | cons i l ih =>
    have hnd := List.nodup_cons.mp hn
    rw [List.foldl_cons, ih _ (fun k hk => hl k (List.mem_cons_of_mem _ hk)) hnd.2,
      Strand.v_putVs _ _ _ _ _ _ _ (hl i (by simp)) hj]
    by_cases hji : j = i
    · subst hji
      simp [hnd.1]
    · simp [hji]

/-- What LaneWrite does to a register of a thread. -/
theorem State.v_laneWrite (s : State) (x : W32) (d n : Nat) (val : Nat → Nat) (q j : Nat) (hj : j < 32) :
    (s.laneWrite x d n val).me.v q j =
      if x.getLsbD j = true ∧ d ≤ q ∧ q < d + n then BitVec.ofNat 32 (val j / 2 ^ (32 * (q - d))) else s.me.v q j := by
  have h := Strand.v_foldl_putVs s.me d n val (threadsIn x) (fun i hi => ((mem_threadsIn x i).mp hi).1) (nodup_threadsIn x) q j hj
  simp only [mem_threadsIn, hj, true_and] at h
  unfold State.laneWrite
  rw [State.me_setMe]
  unfold Strand.v at h ⊢
  rw [Strand.vregs_laneAdvance]
  exact h

/-- What LaneWrite leaves as it is. -/
theorem State.laneWrite_frame (s : State) (x : W32) (d n : Nat) (val : Nat → Nat) :
    { s.laneWrite x d n val with strands := s.strands } = s := rfl

/-! ### Raising a trap -/

/-- A trap that must wait is pending, and the strand's wait in that stream ends. -/
theorem State.raise_wait (s : State) (k : Nat) (r : TrapReq) (h : s.trapReady k r.lane = false) :
    s.raise k r = s.setStrand k { s.strand k with
      pendTrap := some r, wait := (if r.lane then (s.strand k).wait else .none),
      laneWait := (if r.lane then .none else (s.strand k).laneWait) } := by
  simp [State.raise, h]

theorem State.raise_now (s : State) (k : Nat) (r : TrapReq) (h : s.trapReady k r.lane = true) : s.raise k r = s.trapEnter k r := by
  simp [State.raise, h]

/-- A trap in a handler, or with no handler, is a double trap (R348). -/
theorem State.trapEnter_double (s : State) (k : Nat) (r : TrapReq) (h : (s.strand k).handler = true ∨ s.tentry (s.gangOf k).vd = 0) :
    s.trapEnter k r = s.doubleTrap k r := by
  unfold State.trapEnter
  rcases h with h | h <;> simp [h]

end Sys2Proof.Machine
end

