-- ==== Sys2Proof/Laws/Memory.lean ====
section
/-! SUPPORT. Memory: a read after a write, and the canonical form of memory and of the full/empty bits under every operation. -/

namespace Sys2Proof.Machine

open Sys2Proof

/-! ### A read after a write -/

theorem State.setByte_frame (s : State) (a : Nat) (v : Byte) : { s.setByte a v with mem := s.mem } = s := rfl

@[simp] theorem State.roByte_setByte (s : State) (a b : Nat) (v : Byte) : (s.setByte a v).roByte b = s.roByte b := rfl

theorem State.putBytes_frame (s : State) (a : Nat) (bs : List Byte) : { s.putBytes a bs with mem := s.mem } = s := by
  induction bs generalizing s a with
  | nil => rfl
  | cons b t ih => exact congrArg (fun u : State => { u with mem := s.mem }) (ih (s.setByte a b) (a + 1))

/-- A byte after bytes have been written from an address. -/
theorem State.byte_putBytes (s : State) (a : Nat) (bs : List Byte) (b : Nat) :
    (s.putBytes a bs).byte b = if a ≤ b ∧ b < a + bs.length then (bs[b - a]?).getD 0 else s.byte b := by
  induction bs generalizing s a with
  | nil => simp [State.putBytes]
  | cons x t ih =>
    rw [State.putBytes, ih]
    by_cases h : b = a
    · subst h; simp
    · by_cases h2 : a + 1 ≤ b ∧ b < a + 1 + t.length
      · rw [if_pos h2, if_pos (by simp; omega), show b - a = (b - (a + 1)) + 1 by omega]; simp
      · rw [if_neg h2, if_neg (by simp; omega)]; simp [h]

theorem State.putBytes_outside (s : State) (a : Nat) (bs : List Byte) (b : Nat) (h : b < a ∨ a + bs.length ≤ b) :
    (s.putBytes a bs).byte b = s.byte b := by
  rw [State.byte_putBytes, if_neg (by omega)]

@[simp] theorem State.length_bytes (s : State) (a n : Nat) : (s.bytes a n).length = n := by
  induction n generalizing a with
  | zero => rfl
  | succ n ih => simp [State.bytes, ih]

theorem State.bytes_congr {s t : State} (a n : Nat) (h : ∀ b, a ≤ b → b < a + n → t.byte b = s.byte b) : t.bytes a n = s.bytes a n := by
  induction n generalizing a with
  | zero => rfl
  | succ n ih => rw [State.bytes, State.bytes, h a (by omega) (by omega), ih (a + 1) (fun b h1 h2 => h b (by omega) (by omega))]

/-- Reading back what was written. -/
theorem State.bytes_putBytes (s : State) (a : Nat) (bs : List Byte) : (s.putBytes a bs).bytes a bs.length = bs := by
  induction bs generalizing s a with
  | nil => rfl
  | cons b t ih =>
    rw [List.length_cons, State.bytes, State.putBytes, ih, State.putBytes_outside _ _ _ _ (by omega)]
    simp

/-- Where no byte is read-only, a store writes all its bytes. -/
theorem State.storeBytes_plain (s : State) (a : Nat) (bs : List Byte) (h : ∀ i < bs.length, s.roByte (a + i) = false) :
    s.storeBytes a bs = s.putBytes a bs := by
  induction bs generalizing s a with
  | nil => rfl
  | cons b t ih =>
    have h0 : s.roByte a = false := by simpa using h 0 (by simp)
    rw [State.storeBytes, State.putBytes, h0]
    refine ih (s.setByte a b) (a + 1) (fun i hi => ?_)
    have := h (i + 1) (by simp; omega)
    rw [State.roByte_setByte, show a + 1 + i = a + (i + 1) by omega]; exact this

theorem State.storeBytes_frame (s : State) (a : Nat) (bs : List Byte) : { s.storeBytes a bs with mem := s.mem } = s := by
  induction bs generalizing s a with
  | nil => rfl
  | cons b t ih =>
    rw [State.storeBytes]
    split
    · exact ih s (a + 1)
    · exact congrArg (fun u : State => { u with mem := s.mem }) (ih (s.setByte a b) (a + 1))

theorem State.storeBytes_outside (s : State) (a : Nat) (bs : List Byte) (b : Nat) (h : b < a ∨ a + bs.length ≤ b) :
    (s.storeBytes a bs).byte b = s.byte b := by
  induction bs generalizing s a with
  | nil => rfl
  | cons x t ih =>
    rw [State.storeBytes, ih _ _ (by simp at h; omega)]
    split
    · rfl
    · rw [State.byte_setByte, if_neg (by simp at h; omega)]

theorem State.storeSpad_cons (s : State) (a : Nat) (b : Byte) (bs : List Byte) :
    s.storeSpad a (b :: bs) = (if inQueueDesc a then s else s.setByte a b).storeSpad (a + 1) bs := rfl

theorem State.storeSpad_frame (s : State) (a : Nat) (bs : List Byte) : { s.storeSpad a bs with mem := s.mem } = s := by
  induction bs generalizing s a with
  | nil => rfl
  | cons b t ih =>
    rw [State.storeSpad_cons]
    by_cases hc : inQueueDesc a
    · rw [if_pos hc]; exact ih s (a + 1)
    · rw [if_neg hc]; exact congrArg (fun u : State => { u with mem := s.mem }) (ih (s.setByte a b) (a + 1))

/-- Bytes stored through a scratchpad port below the descriptors of the queues are written. -/
theorem State.storeSpad_plain (s : State) (a : Nat) (bs : List Byte) (h : ∀ i < bs.length, inQueueDesc (a + i) = false) :
    s.storeSpad a bs = s.putBytes a bs := by
  induction bs generalizing s a with
  | nil => rfl
  | cons b t ih =>
    have h0 : ¬inQueueDesc a = true := by simpa using h 0 (by simp)
    rw [State.storeSpad_cons, State.putBytes, if_neg h0]
    refine ih (s.setByte a b) (a + 1) (fun i hi => ?_)
    have := h (i + 1) (by simp; omega)
    rw [show a + 1 + i = a + (i + 1) by omega]; exact this

theorem State.storeSpad_outside (s : State) (a : Nat) (bs : List Byte) (b : Nat) (h : b < a ∨ a + bs.length ≤ b) :
    (s.storeSpad a bs).byte b = s.byte b := by
  induction bs generalizing s a with
  | nil => rfl
  | cons x t ih =>
    rw [State.storeSpad_cons, ih _ _ (by simp at h; omega)]
    by_cases hc : inQueueDesc a
    · rw [if_pos hc]
    · rw [if_neg hc, State.byte_setByte, if_neg (by simp at h; omega)]

/-! ### What a write does beside memory leaves memory as it is -/

@[simp] theorem State.mem_endWfe (s : State) (k : Nat) (d : SReg) (v : W64) : (s.endWfe k d v).mem = s.mem := rfl
@[simp] theorem State.fe_endWfe (s : State) (k : Nat) (d : SReg) (v : W64) : (s.endWfe k d v).fe = s.fe := rfl

/-- A fold whose every step keeps a part of the state keeps it. -/
theorem foldl_keeps {α β γ : Type} (f : β → α → β) (g : β → γ) (h : ∀ b a, g (f b a) = g b) (l : List α) (b : β) :
    g (l.foldl f b) = g b := by
  induction l generalizing b with
  | nil => rfl
  | cons a t ih => rw [List.foldl_cons, ih, h]

/-- A fold whose every step keeps a property keeps it. -/
theorem foldl_inv {α β : Type} (P : β → Prop) (f : β → α → β) (h : ∀ b a, P b → P (f b a)) (l : List α) (b : β) (hb : P b) :
    P (l.foldl f b) := by
  induction l generalizing b with
  | nil => exact hb
  | cons a t ih => exact ih _ (h _ _ hb)

@[simp] theorem State.mem_wakeWfe (s : State) (p : Nat → Nat → Nat → Bool) : (s.wakeWfe p).mem = s.mem := by
  unfold State.wakeWfe
  refine foldl_keeps _ State.mem (fun b c => ?_) _ s
  dsimp only
  split
  · split <;> rfl
  · rfl

@[simp] theorem State.fe_wakeWfe (s : State) (p : Nat → Nat → Nat → Bool) : (s.wakeWfe p).fe = s.fe := by
  unfold State.wakeWfe
  refine foldl_keeps _ State.fe (fun b c => ?_) _ s
  dsimp only
  split
  · split <;> rfl
  · rfl

@[simp] theorem State.mem_invalidate (s : State) (c l : Nat) : (s.invalidate c l).mem = s.mem := by
  unfold State.invalidate; dsimp only; split
  · split <;> rfl
  · rfl
@[simp] theorem State.fe_invalidate (s : State) (c l : Nat) : (s.invalidate c l).fe = s.fe := by
  unfold State.invalidate; dsimp only; split
  · split <;> rfl
  · rfl
@[simp] theorem State.mem_patchL1 (s : State) (c a ev : Nat) (v : SMap 32) (bs : List Byte) : (s.patchL1 c a ev v bs).mem = s.mem := by
  unfold State.patchL1; dsimp only; split <;> rfl
@[simp] theorem State.fe_patchL1 (s : State) (c a ev : Nat) (v : SMap 32) (bs : List Byte) : (s.patchL1 c a ev v bs).fe = s.fe := by
  unfold State.patchL1; dsimp only; split <;> rfl
@[simp] theorem State.mem_overlayL1 (s : State) (c l : Nat) : (s.overlayL1 c l).mem = s.mem :=
  foldl_keeps _ State.mem (fun _ _ => State.mem_patchL1 _ _ _ _ _ _) _ _
@[simp] theorem State.fe_overlayL1 (s : State) (c l : Nat) : (s.overlayL1 c l).fe = s.fe :=
  foldl_keeps _ State.fe (fun _ _ => State.fe_patchL1 _ _ _ _ _ _) _ _
@[simp] theorem State.mem_recall (s : State) (c l : Nat) : (s.recall c l).mem = s.mem := rfl
@[simp] theorem State.fe_recall (s : State) (c l : Nat) : (s.recall c l).fe = s.fe := rfl
@[simp] theorem State.roByte_recall (s : State) (c l b : Nat) : (s.recall c l).roByte b = s.roByte b := rfl

/-- A recall does not touch what a store writes. -/
theorem State.storeBytes_recall (s : State) (c l a : Nat) (bs : List Byte) : ((s.recall c l).storeBytes a bs).mem = (s.storeBytes a bs).mem := by
  have h : ∀ (s t : State) (a : Nat), t.mem = s.mem → (∀ b, t.roByte b = s.roByte b) → (t.storeBytes a bs).mem = (s.storeBytes a bs).mem := by
    induction bs with
    | nil => intro s t a h _; exact h
    | cons b bs ih =>
      intro s t a h hr
      rw [State.storeBytes, State.storeBytes, hr]
      split
      · exact ih s t _ h hr
      · exact ih _ _ _ (congrArg (fun m => SMap.set m a b) h) hr
  exact h s (s.recall c l) a rfl (fun _ => rfl)

theorem State.mem_writeLine (s : State) (c a : Nat) (bs : List Byte) :
    (s.writeLine c a bs).mem = if isSpad a then (s.storeSpad a bs).mem else (s.storeBytes a bs).mem := by
  unfold State.writeLine; split <;> simp [State.storeBytes_recall]

theorem State.byte_congr_mem {s t : State} (h : t.mem = s.mem) (a : Nat) : t.byte a = s.byte a := by unfold State.byte; rw [h]

/-- A write within a line changes no byte outside it. -/
theorem State.writeLine_outside (s : State) (c a : Nat) (bs : List Byte) (b : Nat) (h : b < a ∨ a + bs.length ≤ b) :
    (s.writeLine c a bs).byte b = s.byte b := by
  have hm := State.mem_writeLine s c a bs
  split at hm
  · rw [State.byte_congr_mem hm, State.storeSpad_outside _ _ _ _ h]
  · rw [State.byte_congr_mem hm, State.storeBytes_outside _ _ _ _ h]

/-- A write that may cross lines changes no byte outside it. -/
theorem State.writeLines_outside (s : State) (c n a : Nat) (bs : List Byte) (b : Nat) (h : b < a ∨ a + bs.length ≤ b) :
    (s.writeLines c n a bs).byte b = s.byte b := by
  induction n generalizing s a bs with
  | zero => rfl
  | succ n ih =>
    unfold State.writeLines
    split
    · rfl
    · next he =>
      have hl : 0 < bs.length := by cases bs <;> simp_all
      have hm : a % 128 < 128 := Nat.mod_lt _ (by decide)
      rw [ih _ _ _ (by rw [List.length_drop]; omega), State.writeLine_outside _ _ _ _ _ (by rw [List.length_take]; omega)]

theorem State.write_outside (s : State) (c a : Nat) (bs : List Byte) (b : Nat) (h : b < a ∨ a + bs.length ≤ b) :
    (s.write c a bs).byte b = s.byte b := State.writeLines_outside s c _ a bs b h

/-! ### The canonical form -/

/-- Memory and the full/empty bits are in canonical form. -/
def State.memOk (s : State) : Prop := SMap.wf s.mem = true ∧ SMap.wf s.fe = true

theorem State.memOk_congr {s t : State} (hm : t.mem = s.mem) (hf : t.fe = s.fe) : t.memOk ↔ s.memOk := by
  unfold State.memOk; rw [hm, hf]

theorem State.memOk_reset : State.reset.memOk := ⟨rfl, rfl⟩

theorem State.memOk_setByte {s : State} (h : s.memOk) (a : Nat) (v : Byte) : (s.setByte a v).memOk := ⟨SMap.wf_set h.1 a v, h.2⟩

theorem State.memOk_setFull {s : State} (h : s.memOk) (a : Nat) (f : Bool) : (s.setFull a f).memOk := ⟨h.1, SMap.wf_set h.2 _ _⟩

theorem State.memOk_putBytes {s : State} (h : s.memOk) (a : Nat) (bs : List Byte) : (s.putBytes a bs).memOk := by
  induction bs generalizing s a with
  | nil => exact h
  | cons b t ih => exact ih (State.memOk_setByte h a b) (a + 1)

theorem State.memOk_storeBytes {s : State} (h : s.memOk) (a : Nat) (bs : List Byte) : (s.storeBytes a bs).memOk := by
  induction bs generalizing s a with
  | nil => exact h
  | cons b t ih =>
    rw [State.storeBytes]
    split
    · exact ih h (a + 1)
    · exact ih (State.memOk_setByte h a b) (a + 1)

theorem State.memOk_storeSpad {s : State} (h : s.memOk) (a : Nat) (bs : List Byte) : (s.storeSpad a bs).memOk := by
  induction bs generalizing s a with
  | nil => exact h
  | cons b t ih =>
    rw [State.storeSpad_cons]
    by_cases hc : inQueueDesc a
    · rw [if_pos hc]; exact ih h (a + 1)
    · rw [if_neg hc]; exact ih (State.memOk_setByte h a b) (a + 1)

theorem State.memOk_clear {s : State} (h : s.memOk) (lo len : Nat) : ({ s with mem := SMap.clear s.mem lo len } : State).memOk :=
  ⟨SMap.wf_clear h.1 lo len, h.2⟩

theorem State.memOk_writeLine {s : State} (h : s.memOk) (c a : Nat) (bs : List Byte) : (s.writeLine c a bs).memOk := by
  unfold State.writeLine
  split
  · exact State.memOk_storeSpad h a bs
  · exact (State.memOk_congr (by simp) (by simp)).mpr (State.memOk_storeBytes ((State.memOk_congr rfl rfl).mpr h : (s.recall c (a / 128)).memOk) a bs)

theorem State.memOk_writeLines {s : State} (h : s.memOk) (c n a : Nat) (bs : List Byte) : (s.writeLines c n a bs).memOk := by
  induction n generalizing s a bs with
  | zero => exact h
  | succ n ih =>
    unfold State.writeLines
    split
    · exact h
    · exact ih (State.memOk_writeLine h _ _ _) _ _

theorem State.memOk_write {s : State} (h : s.memOk) (c a : Nat) (bs : List Byte) : (s.write c a bs).memOk :=
  State.memOk_writeLines h c _ a bs

theorem State.memOk_writeLE {s : State} (h : s.memOk) (c a n v : Nat) : (s.writeLE c a n v).memOk := State.memOk_write h c a _

theorem State.memOk_writeAreas {s : State} (h : s.memOk) (c : Nat) (keys : List (Nat × Nat)) (bs : List Byte) :
    (s.writeAreas c keys bs).memOk := by
  induction keys generalizing s bs with
  | nil => cases bs <;> exact h
  | cons k t ih =>
    obtain ⟨key, n⟩ := k
    unfold State.writeAreas
    dsimp only
    split
    · exact ih (State.memOk_storeSpad h _ _) _
    · exact ih (State.memOk_write h _ _ _) _

theorem State.memOk_writePage {s : State} (h : s.memOk) (c key lo : Nat) (fields : List (Nat × Nat × Nat)) :
    (s.writePage c key lo fields).memOk := by
  have hf : State.memOk ((fields.filter (fun f => lo ≤ f.1 && f.1 < lo + 4096 && f.2.2 != 0)).foldl
      (fun s f => s.putBytes (key + (f.1 - lo)) (leBytes f.2.1 f.2.2)) ({ s with mem := SMap.clear s.mem key 4096 } : State)) :=
    foldl_inv State.memOk _ (fun b a hb => State.memOk_putBytes hb _ _) _ _ (State.memOk_clear h key 4096)
  unfold State.writePage
  dsimp only
  split
  · exact hf
  · exact foldl_inv State.memOk _ (fun b a hb => (State.memOk_congr (by simp) (by simp)).mpr hb) _ _ hf

end Sys2Proof.Machine
end

