-- ==== Sys2Proof/Laws/PerInstr.lean ====
section
/-! SUPPORT. Statements that are made for each instruction: `OneWord`, an instruction has a word in at most one of the two streams. -/

namespace Sys2Proof.Laws.OneWord

open Sys2Proof

/-- An instruction is of the scalar stream, or of the lanes, or has no word: never of both. -/
def Statement (i : Instr) : Prop := encodeScalar i = none ∨ encodeLane i = none

theorem add (d a b : SReg) : Statement (.add d a b) := .inr rfl
theorem sub (d a b : SReg) : Statement (.sub d a b) := .inr rfl
theorem and (d a b : SReg) : Statement (.and d a b) := .inr rfl
theorem or (d a b : SReg) : Statement (.or d a b) := .inr rfl
theorem xor (d a b : SReg) : Statement (.xor d a b) := .inr rfl
theorem shl (d a b : SReg) : Statement (.shl d a b) := .inr rfl
theorem shr (d a b : SReg) : Statement (.shr d a b) := .inr rfl
theorem sar (d a b : SReg) : Statement (.sar d a b) := .inr rfl
theorem mul (d a b : SReg) : Statement (.mul d a b) := .inr rfl
theorem mulh (d a b : SReg) : Statement (.mulh d a b) := .inr rfl
theorem mulhu (d a b : SReg) : Statement (.mulhu d a b) := .inr rfl
theorem min (d a b : SReg) : Statement (.min d a b) := .inr rfl
theorem max (d a b : SReg) : Statement (.max d a b) := .inr rfl
theorem minu (d a b : SReg) : Statement (.minu d a b) := .inr rfl
theorem maxu (d a b : SReg) : Statement (.maxu d a b) := .inr rfl
theorem slt (d a b : SReg) : Statement (.slt d a b) := .inr rfl
theorem sltu (d a b : SReg) : Statement (.sltu d a b) := .inr rfl
theorem clz (d a : SReg) : Statement (.clz d a) := .inr rfl
theorem popc (d a : SReg) : Statement (.popc d a) := .inr rfl
theorem addi (d a : SReg) (imm : BitVec 14) : Statement (.addi d a imm) := .inr rfl
theorem andi (d a : SReg) (imm : BitVec 14) : Statement (.andi d a imm) := .inr rfl
theorem ori (d a : SReg) (imm : BitVec 14) : Statement (.ori d a imm) := .inr rfl
theorem xori (d a : SReg) (imm : BitVec 14) : Statement (.xori d a imm) := .inr rfl
theorem slti (d a : SReg) (imm : BitVec 14) : Statement (.slti d a imm) := .inr rfl
theorem sltiu (d a : SReg) (imm : BitVec 14) : Statement (.sltiu d a imm) := .inr rfl
theorem lui (d : SReg) (imm : BitVec 20) : Statement (.lui d imm) := .inr rfl
theorem addpc (d : SReg) (imm : BitVec 20) : Statement (.addpc d imm) := .inr rfl
theorem lhi (d : SReg) (imm : BitVec 20) : Statement (.lhi d imm) := .inr rfl
theorem shli (d a : SReg) (amt : BitVec 6) : Statement (.shli d a amt) := .inr rfl
theorem shri (d a : SReg) (amt : BitVec 6) : Statement (.shri d a amt) := .inr rfl
theorem sari (d a : SReg) (amt : BitVec 6) : Statement (.sari d a amt) := .inr rfl
theorem muli (d a : SReg) (imm : BitVec 14) : Statement (.muli d a imm) := .inr rfl
theorem beq (a b : SReg) (off : BitVec 14) : Statement (.beq a b off) := .inr rfl
theorem bne (a b : SReg) (off : BitVec 14) : Statement (.bne a b off) := .inr rfl
theorem blt (a b : SReg) (off : BitVec 14) : Statement (.blt a b off) := .inr rfl
theorem bge (a b : SReg) (off : BitVec 14) : Statement (.bge a b off) := .inr rfl
theorem bltu (a b : SReg) (off : BitVec 14) : Statement (.bltu a b off) := .inr rfl
theorem bgeu (a b : SReg) (off : BitVec 14) : Statement (.bgeu a b off) := .inr rfl
theorem jal (d : SReg) (off : BitVec 20) : Statement (.jal d off) := .inr rfl
theorem jalr (d a : SReg) (imm : BitVec 14) : Statement (.jalr d a imm) := .inr rfl
theorem ldb (d a : SReg) (imm : BitVec 14) : Statement (.ldb d a imm) := .inr rfl
theorem ldh (d a : SReg) (imm : BitVec 14) : Statement (.ldh d a imm) := .inr rfl
theorem ldw (d a : SReg) (imm : BitVec 14) : Statement (.ldw d a imm) := .inr rfl
theorem ldd (d a : SReg) (imm : BitVec 14) : Statement (.ldd d a imm) := .inr rfl
theorem stb (d a : SReg) (imm : BitVec 14) : Statement (.stb d a imm) := .inr rfl
theorem sth (d a : SReg) (imm : BitVec 14) : Statement (.sth d a imm) := .inr rfl
theorem stw (d a : SReg) (imm : BitVec 14) : Statement (.stw d a imm) := .inr rfl
theorem std (d a : SReg) (imm : BitVec 14) : Statement (.std d a imm) := .inr rfl
theorem ldbs (d a : SReg) (imm : BitVec 14) : Statement (.ldbs d a imm) := .inr rfl
theorem ldhs (d a : SReg) (imm : BitVec 14) : Statement (.ldhs d a imm) := .inr rfl
theorem ldws (d a : SReg) (imm : BitVec 14) : Statement (.ldws d a imm) := .inr rfl
theorem bar (d a : SReg) : Statement (.bar d a) := .inr rfl
theorem arrive (d a : SReg) : Statement (.arrive d a) := .inr rfl
theorem arriveCb (a b : SReg) : Statement (.arriveCb a b) := .inr rfl
theorem lock (d a : SReg) : Statement (.lock d a) := .inr rfl
theorem unlock (a : SReg) : Statement (.unlock a) := .inr rfl
theorem join (d a : SReg) : Statement (.join d a) := .inr rfl
theorem leave (d a : SReg) : Statement (.leave d a) := .inr rfl
theorem cbwait (d a b : SReg) : Statement (.cbwait d a b) := .inr rfl
theorem msend (d a b : SReg) : Statement (.msend d a b) := .inr rfl
theorem mrecv (d a b : SReg) : Statement (.mrecv d a b) := .inr rfl
theorem lrun (count : BitVec 6) (sheet : BitVec 17) (slot : BitVec 3) : Statement (.lrun count sheet slot) := .inr rfl
theorem lrunr (a b : SReg) : Statement (.lrunr a b) := .inr rfl
theorem ldrain : Statement (.ldrain) := .inr rfl
theorem sfence (ord : BitVec 2) (scope : BitVec 3) : Statement (.sfence ord scope) := .inr rfl
theorem mfc (d : SReg) (cr : BitVec 12) : Statement (.mfc d cr) := .inr rfl
theorem mtc (a : SReg) (cr : BitVec 12) : Statement (.mtc a cr) := .inr rfl
theorem yield : Statement (.yield) := .inr rfl
theorem trap (code : BitVec 12) : Statement (.trap code) := .inr rfl
theorem bkpt : Statement (.bkpt) := .inr rfl
theorem haltInPlace (d a b : SReg) : Statement (.haltInPlace d a b) := .inr rfl
theorem haltRelease (d a b : SReg) : Statement (.haltRelease d a b) := .inr rfl
theorem haltAndSuspend (d a b : SReg) : Statement (.haltAndSuspend d a b) := .inr rfl
theorem wfe (d a b : SReg) : Statement (.wfe d a b) := .inr rfl
theorem rft : Statement (.rft) := .inr rfl
theorem isync : Statement (.isync) := .inr rfl
theorem resumeRestart (d a b : SReg) : Statement (.resumeRestart d a b) := .inr rfl
theorem resumePage (d a b : SReg) : Statement (.resumePage d a b) := .inr rfl
theorem resumeDeliverFault (d a b : SReg) : Statement (.resumeDeliverFault d a b) := .inr rfl
theorem resumeFailTask (d a b : SReg) : Statement (.resumeFailTask d a b) := .inr rfl
theorem csave (d a b : SReg) : Statement (.csave d a b) := .inr rfl
theorem crstr (d a b : SReg) : Statement (.crstr d a b) := .inr rfl
theorem chart (d a b : SReg) : Statement (.chart d a b) := .inr rfl
theorem chartFree (d b : SReg) : Statement (.chartFree d b) := .inr rfl
theorem wload (d a b : SReg) : Statement (.wload d a b) := .inr rfl
theorem mma (d a b : SReg) : Statement (.mma d a b) := .inr rfl
theorem mmaNs (d a b : SReg) : Statement (.mmaNs d a b) := .inr rfl
theorem mmaBm (d a b : SReg) : Statement (.mmaBm d a b) := .inr rfl
theorem mzero (d a : SReg) : Statement (.mzero d a) := .inr rfl
theorem mwait (d : SReg) : Statement (.mwait d) := .inr rfl
theorem tcopy (d a b : SReg) : Statement (.tcopy d a b) := .inr rfl
theorem gcopy (d a b : SReg) : Statement (.gcopy d a b) := .inr rfl
theorem cwait (d : SReg) : Statement (.cwait d) := .inr rfl
theorem spawn (d a b : SReg) : Statement (.spawn d a b) := .inr rfl
theorem nodeput (d a b : SReg) : Statement (.nodeput d a b) := .inr rfl
theorem ffill (d a b : SReg) : Statement (.ffill d a b) := .inr rfl
theorem ffillCancel (d a : SReg) : Statement (.ffillCancel d a) := .inr rfl
theorem fwait (d a : SReg) : Statement (.fwait d a) := .inr rfl
theorem fwaitNb (d a : SReg) : Statement (.fwaitNb d a) := .inr rfl
theorem fget (d a : SReg) : Statement (.fget d a) := .inr rfl
theorem tdone (a : SReg) : Statement (.tdone a) := .inr rfl
theorem cancel (d : SReg) : Statement (.cancel d) := .inr rfl
theorem cancelJob (d a : SReg) : Statement (.cancelJob d a) := .inr rfl
theorem prio (d a : SReg) : Statement (.prio d a) := .inr rfl
theorem laneAddInt (r : Arith) : Statement (.laneAddInt r) := .inl rfl
theorem laneSubInt (r : Arith) : Statement (.laneSubInt r) := .inl rfl
theorem laneMulInt (r : Arith) : Statement (.laneMulInt r) := .inl rfl
theorem laneMulh (r : Arith) : Statement (.laneMulh r) := .inl rfl
theorem laneMad (r : Arith) : Statement (.laneMad r) := .inl rfl
theorem laneMinInt (r : Arith) : Statement (.laneMinInt r) := .inl rfl
theorem laneMaxInt (r : Arith) : Statement (.laneMaxInt r) := .inl rfl
theorem laneAbsInt (r : Arith) : Statement (.laneAbsInt r) := .inl rfl
theorem laneNegInt (r : Arith) : Statement (.laneNegInt r) := .inl rfl
theorem laneCmpInt (r : Cmp) : Statement (.laneCmpInt r) := .inl rfl
theorem laneShl (r : Arith) : Statement (.laneShl r) := .inl rfl
theorem laneShr (r : Arith) : Statement (.laneShr r) := .inl rfl
theorem laneSar (r : Arith) : Statement (.laneSar r) := .inl rfl
theorem laneAnd (r : Arith) : Statement (.laneAnd r) := .inl rfl
theorem laneOr (r : Arith) : Statement (.laneOr r) := .inl rfl
theorem laneXor (r : Arith) : Statement (.laneXor r) := .inl rfl
theorem laneNot (r : Arith) : Statement (.laneNot r) := .inl rfl
theorem lanePopc (r : Arith) : Statement (.lanePopc r) := .inl rfl
theorem laneClz (r : Arith) : Statement (.laneClz r) := .inl rfl
theorem laneBrev (r : Arith) : Statement (.laneBrev r) := .inl rfl
theorem laneSel (r : Arith) : Statement (.laneSel r) := .inl rfl
theorem laneMov (r : Arith) : Statement (.laneMov r) := .inl rfl
theorem laneAddFloat (r : Arith) : Statement (.laneAddFloat r) := .inl rfl
theorem laneSubFloat (r : Arith) : Statement (.laneSubFloat r) := .inl rfl
theorem laneMulFloat (r : Arith) : Statement (.laneMulFloat r) := .inl rfl
theorem laneFma (r : Arith) : Statement (.laneFma r) := .inl rfl
theorem laneMinFloat (r : Arith) : Statement (.laneMinFloat r) := .inl rfl
theorem laneMaxFloat (r : Arith) : Statement (.laneMaxFloat r) := .inl rfl
theorem laneCmpFloat (r : Cmp) : Statement (.laneCmpFloat r) := .inl rfl
theorem laneSqrte (r : Arith) : Statement (.laneSqrte r) := .inl rfl
theorem laneRcpe (r : Arith) : Statement (.laneRcpe r) := .inl rfl
theorem laneRsqrte (r : Arith) : Statement (.laneRsqrte r) := .inl rfl
theorem laneAbsFloat (r : Arith) : Statement (.laneAbsFloat r) := .inl rfl
theorem laneNegFloat (r : Arith) : Statement (.laneNegFloat r) := .inl rfl
theorem cvt (r : Conv) : Statement (.cvt r) := .inl rfl
theorem qnt (r : Conv) : Statement (.qnt r) := .inl rfl
theorem dqnt (r : Conv) : Statement (.dqnt r) := .inl rfl
theorem bscale (r : Conv) : Statement (.bscale r) := .inl rfl
theorem ifm (m : Mask) : Statement (.ifm m) := .inl rfl
theorem elsem : Statement (.elsem) := .inl rfl
theorem endif : Statement (.endif) := .inl rfl
theorem loop (imm : W32) : Statement (.loop imm) := .inl rfl
theorem endloop (imm : W32) : Statement (.endloop imm) := .inl rfl
theorem brk (m : Mask) : Statement (.brk m) := .inl rfl
theorem cont (m : Mask) : Statement (.cont m) := .inl rfl
theorem shfl (mode : ShflMode) (zf : Bool) (r : Cross) : Statement (.shfl mode zf r) := .inl rfl
theorem gatherv (w : Width) (r : Cross) : Statement (.gatherv w r) := .inl rfl
theorem vote (op : VoteOp) (r : Cross) : Statement (.vote op r) := .inl rfl
theorem ballot (r : Cross) : Statement (.ballot r) := .inl rfl
theorem scan (op : ScanOp) (excl : Bool) (r : Cross) : Statement (.scan op excl r) := .inl rfl
theorem intersect (r : Cross) : Statement (.intersect r) := .inl rfl
theorem ld (r : LaneMem) : Statement (.ld r) := .inl rfl
theorem st (r : LaneMem) : Statement (.st r) := .inl rfl
theorem ldl (r : LaneMem) : Statement (.ldl r) := .inl rfl
theorem ldx (r : LaneMem) : Statement (.ldx r) := .inl rfl
theorem stNt (r : LaneMem) : Statement (.stNt r) := .inl rfl
theorem lds (r : LaneMem) : Statement (.lds r) := .inl rfl
theorem sts (r : LaneMem) : Statement (.sts r) := .inl rfl
theorem pref (r : LaneMem) : Statement (.pref r) := .inl rfl
theorem tlbsync (r : TlbSync) : Statement (.tlbsync r) := .inl rfl
theorem fence (ord : Ord) (scope : Scope) (ev : BitVec 3) (m : Mask) : Statement (.fence ord scope ev m) := .inl rfl
theorem atom (r : Atomic) : Statement (.atom r) := .inl rfl
theorem red (r : Atomic) : Statement (.red r) := .inl rfl
theorem inkAdd (r : Ink) : Statement (.inkAdd r) := .inl rfl
theorem inkRead (r : Ink) : Statement (.inkRead r) := .inl rfl
theorem inkClr (r : Ink) : Statement (.inkClr r) := .inl rfl
theorem qpush (r : QOp) : Statement (.qpush r) := .inl rfl
theorem qpop (r : QOp) : Statement (.qpop r) := .inl rfl
theorem fewait (r : FeWait) : Statement (.fewait r) := .inl rfl
theorem spawnv (r : SpawnV) : Statement (.spawnv r) := .inl rfl
theorem feed (r : Feed) : Statement (.feed r) := .inl rfl
theorem drain (r : Drain) : Statement (.drain r) := .inl rfl
theorem yielddlWrite (strand : Nat) (value : W64) : Statement (.yielddlWrite strand value) := .inl rfl
theorem loadReply (id : Nat) : Statement (.loadReply id) := .inl rfl
theorem errorResponse (id : Nat) : Statement (.errorResponse id) := .inl rfl
theorem pageWalk (party : Nat) : Statement (.pageWalk party) := .inl rfl
theorem faultQueueHeldWrite (die : Nat) : Statement (.faultQueueHeldWrite die) := .inl rfl
theorem trapEntry (strand : Nat) : Statement (.trapEntry strand) := .inl rfl
theorem coalescingEntrySend (id : Nat) : Statement (.coalescingEntrySend id) := .inl rfl
theorem binSend (die home : Nat) : Statement (.binSend die home) := .inl rfl
theorem invalidationApply (die index : Nat) : Statement (.invalidationApply die index) := .inl rfl
theorem lineRecall (core line : Nat) : Statement (.lineRecall core line) := .inl rfl
theorem edramRefresh (die bank : Nat) : Statement (.edramRefresh die bank) := .inl rfl
theorem deadlineExpiry (gang : Nat) : Statement (.deadlineExpiry gang) := .inl rfl
theorem contextSave (gang : Nat) : Statement (.contextSave gang) := .inl rfl
theorem dispatch (core : Nat) : Statement (.dispatch core) := .inl rfl
theorem queueBlockMove (mv : QMove) : Statement (.queueBlockMove mv) := .inl rfl
theorem dieQueueSteal (die : Nat) : Statement (.dieQueueSteal die) := .inl rfl
theorem rebalanceEpoch (gang : Nat) : Statement (.rebalanceEpoch gang) := .inl rfl
theorem strandMove (strand lane : Nat) : Statement (.strandMove strand lane) := .inl rfl
theorem taskRetire (gang : Nat) : Statement (.taskRetire gang) := .inl rfl
theorem helping (strand : Nat) : Statement (.helping strand) := .inl rfl
theorem binTimerExpiry (pa : Nat) : Statement (.binTimerExpiry pa) := .inl rfl
theorem cancelStateArrival (job core : Nat) : Statement (.cancelStateArrival job core) := .inl rfl
theorem lockParkReissue (strand : Nat) : Statement (.lockParkReissue strand) := .inl rfl
theorem messageArrival (index : Nat) : Statement (.messageArrival index) := .inl rfl
theorem chartDescriptorRead (core : Nat) : Statement (.chartDescriptorRead core) := .inl rfl
theorem wloadExecute (core : Nat) : Statement (.wloadExecute core) := .inl rfl
theorem mmaPass (core : Nat) : Statement (.mmaPass core) := .inl rfl
theorem mmaClose (core : Nat) : Statement (.mmaClose core) := .inl rfl
theorem mzeroExecute (core : Nat) : Statement (.mzeroExecute core) := .inl rfl
theorem matrixWatchdog (core : Nat) : Statement (.matrixWatchdog core) := .inl rfl
theorem copyCommandStart (die engine core : Nat) : Statement (.copyCommandStart die engine core) := .inl rfl
theorem copyChunkComplete (die engine slot chunk : Nat) : Statement (.copyChunkComplete die engine slot chunk) := .inl rfl
theorem launch (vd : Nat) (value : W64) : Statement (.launch vd value) := .inl rfl
theorem launchCheck (vd : Nat) : Statement (.launchCheck vd) := .inl rfl
theorem dieFence (die : Nat) : Statement (.dieFence die) := .inl rfl
theorem partitionReset (part : Nat) : Statement (.partitionReset part) := .inl rfl
theorem partitionResetComplete (part : Nat) : Statement (.partitionResetComplete part) := .inl rfl
theorem partitionRecordWrite (part off : Nat) (value : W64) : Statement (.partitionRecordWrite part off value) := .inl rfl
theorem vdRecordWrite (vd off : Nat) (value : W64) : Statement (.vdRecordWrite vd off value) := .inl rfl
theorem pkgnumWrite (value : BitVec 4) : Statement (.pkgnumWrite value) := .inl rfl
theorem npkgWrite (value : BitVec 4) : Statement (.npkgWrite value) := .inl rfl
theorem controlSpaceWrite (off : Nat) (value : W64) : Statement (.controlSpaceWrite off value) := .inl rfl
theorem linkRequestFlit (port : Nat) (f : Flit) : Statement (.linkRequestFlit port f) := .inl rfl
theorem linkReplyFlit (port : Nat) (f : Flit) : Statement (.linkReplyFlit port f) := .inl rfl
theorem linkAckFlit (port : Nat) (f : Flit) : Statement (.linkAckFlit port f) := .inl rfl
theorem linkIdleFlit (port : Nat) (f : Flit) : Statement (.linkIdleFlit port f) := .inl rfl
theorem linkAckTimeout (port : Nat) : Statement (.linkAckTimeout port) := .inl rfl
theorem linkRetrain (port : Nat) : Statement (.linkRetrain port) := .inl rfl
theorem linkTrainTimeout (port : Nat) : Statement (.linkTrainTimeout port) := .inl rfl
theorem powerWindow (mean : Nat) : Statement (.powerWindow mean) := .inl rfl
theorem clockRelockEnd (die : Nat) : Statement (.clockRelockEnd die) := .inl rfl
theorem thermalTrip (die temp : Nat) : Statement (.thermalTrip die temp) := .inl rfl
theorem hostBar2Access (fn : Nat) (va : Nat) (wr : Bool) (data : List Byte) : Statement (.hostBar2Access fn va wr data) := .inl rfl
theorem attestationReport (fn : Nat) (seq : BitVec 16) (nonce : List Byte) : Statement (.attestationReport fn seq nonce) := .inl rfl
theorem deviceCertificate (fn : Nat) (seq : BitVec 16) : Statement (.deviceCertificate fn seq) := .inl rfl
theorem stageFirmwareImage (fn : Nat) (seq : BitVec 16) (image : List Byte) : Statement (.stageFirmwareImage fn seq image) := .inl rfl
theorem commitStagedImage (fn : Nat) (seq : BitVec 16) : Statement (.commitStagedImage fn seq) := .inl rfl
theorem readFenceList (fn : Nat) (seq : BitVec 16) : Statement (.readFenceList fn seq) := .inl rfl
theorem fenceUnit (fn : Nat) (seq : BitVec 16) (kind : BitVec 8) (unit : Nat) : Statement (.fenceUnit fn seq kind unit) := .inl rfl
theorem haltOperation (fn : Nat) (seq : BitVec 16) (handle : BitVec 32) (vd : Nat) (op : BitVec 2) : Statement (.haltOperation fn seq handle vd op) := .inl rfl
theorem telemetry (fn : Nat) (seq : BitVec 16) : Statement (.telemetry fn seq) := .inl rfl
theorem packageReset : Statement (.packageReset) := .inl rfl
theorem eccError (die : Nat) (addr : Nat) (correctable : Bool) (unit : Option (BitVec 8 × Nat)) : Statement (.eccError die addr correctable unit) := .inl rfl
theorem wfeTimeout (strand : Nat) : Statement (.wfeTimeout strand) := .inl rfl
theorem requestAtHomeSlice (id : Nat) : Statement (.requestAtHomeSlice id) := .inl rfl
theorem writeAcknowledgement (id : Nat) : Statement (.writeAcknowledgement id) := .inl rfl
theorem linkRetrainComplete (port : Nat) (x8 : Bool) : Statement (.linkRetrainComplete port x8) := .inl rfl
theorem fetchMissLineArrival (strand : Nat) (lane : Bool) : Statement (.fetchMissLineArrival strand lane) := .inl rfl

end Sys2Proof.Laws.OneWord
end

