-- ==== Sys2Proof/Safety.lean ====
section
/-! DEFINITION. What counts as a safe run: no step ends in a fault or a refusal. -/

namespace Sys2Proof.Machine

/-- `n` steps. -/
def runSteps : Nat → State → Host.Outcome State Fault Refusal
  | 0, s => .next s
  | n + 1, s =>
    match step s with
    | .next t => runSteps n t
    | .fault r => .fault r
    | .refused r => .refused r

/-- The next `n` steps answer a state. -/
def State.safeFor (s : State) (n : Nat) : Prop := ∃ t, runSteps n s = .next t

end Sys2Proof.Machine
end

