-- ==== Sys2Proof/Tests/Slice0.lean ====
section
/-! SUPPORT. Tests: refusals of WellFormed, words written out from the encodings of the spec, single steps with results worked
out by hand from the spec, and a witness for the hypotheses of every statement. -/

set_option Elab.async false

namespace Sys2Proof.Tests

open Sys2Proof Sys2Proof.Machine Sys2Proof.Claims

/-! ### Operands -/

/-- k0, every active thread. -/
def all : Mask := Mask.mk 0 false
/-- Operands of the arithmetic class that are well formed as an addition of z32. -/
def ar : Arith := { ty := .z32, rm := .rne, ftz := false, sat := false, d := 1, a := .v 8, b := .v 9, c := .v 0, m := all, imm := 0 }
def cm : Cmp := { ty := .s32, ftz := false, cond := .lt, kd := 2, a := .v 4, b := .v 5, m := all, imm := 0 }
def cv : Conv := { ty := .f32, nf := .s32, rm := .rne, ftz := false, sat := false, d := 1, a := .v 2, b := .v 0, c := .v 0, m := all, imm := 0 }
def cr : Cross := { ty := .z32, d := 1, a := .v 2, b := .v 3, m := all, imm := 0 }
def lm : LaneMem := { width := .w32, sx := false, qual := .plain, ord := .rlx, scope := .strand, ev := 4, scale := 0, d := 4, base := 6, off := .s 0, data := .v 0, m := all, imm := 0 }
def at' : Atomic := { op := .add, ty := .z32, ord := .rlx, scope := .strand, ev := 4, scale := 0, d := 1, base := 5, off := .s 0, data := .v 9, m := all, imm := 0 }
def ik : Ink := { ty := .f32, ord := .rlx, scope := .strand, ev := 4, d := 0, base := 5, off := .s 0, data := .v 3, m := all, imm := 0 }
def qo : QOp := { nb := false, width := .w32, q := 3, d := 1, data := .v 6, m := all }
def fw : FeWait := { full := true, ord := .rlx, scope := .strand, scale := 0, base := 5, off := .s 0, m := all, imm := 0 }
def sv : SpawnV := { d := 1, handle := .v 2, tmpl := 0, m := all, imm := 0 }
def fe : Feed := { a := .v 7, m := all, imm := 0 }
def dr : Drain := { fmt := .f32, h := false, clr := false, rm := .rne, ftz := false, sat := false, d := 3, tile := 2, chart := 0, m := all }
def ts : TlbSync := { scope := .die, ev := 4, base := 5, data := 6, m := all, imm := 0 }

/-! ### WellFormed: an ill-formed term for each check -/

theorem test_wf_operands : (Instr.laneAddInt ar).wf && (Instr.laneCmpInt cm).wf && (Instr.cvt cv).wf && (Instr.ballot { cr with b := .v 0 }).wf &&
    (Instr.ld lm).wf && (Instr.atom at').wf && (Instr.inkAdd ik).wf && (Instr.qpush qo).wf && (Instr.fewait fw).wf && (Instr.spawnv sv).wf &&
    (Instr.feed fe).wf && (Instr.drain dr).wf && (Instr.tlbsync ts).wf = true := by decide +kernel
/-- R49: a count of 0, and slots 5 to 7. -/
theorem test_wf_lrun : (Instr.lrun 0 0 0).wf = false ∧ (Instr.lrun 1 0 5).wf = false ∧ (Instr.lrun 1 0 4).wf = true := by decide +kernel
/-- R38: SFENCE is not relaxed; R212: nor is FENCE. -/
theorem test_wf_fences : (Instr.sfence 0 4).wf = false ∧ (Instr.fence .rlx .die 4 all).wf = false := by decide +kernel
/-- R232: ARRIVE with a zero rb is the arrival at a constellation. -/
theorem test_wf_arrive_cb : (Instr.arriveCb 4 0).wf = false := by decide +kernel
/-- R45: k0 with KS = 1. -/
theorem test_wf_mask : (Instr.laneAddInt { ar with m := Mask.mk 0 true }).wf = false := by decide +kernel
/-- R43: IMM without a source field that holds 200. -/
theorem test_wf_imm : (Instr.laneAddInt { ar with imm := 5 }).wf = false ∧ (Instr.laneAddInt { ar with b := .imm, imm := 5 }).wf = true := by decide +kernel
/-- R43: an unused source is 0. -/
theorem test_wf_unused : (Instr.laneAddInt { ar with c := .v 3 }).wf = false := by decide +kernel
/-- R51: types. -/
theorem test_wf_types : (Instr.laneAddInt { ar with ty := .f32 }).wf = false ∧ (Instr.laneAbsInt { ar with b := .v 0 }).wf = false ∧
    (Instr.laneShl { ar with ty := .s32 }).wf = false ∧ (Instr.laneSqrte { ar with ty := .f16x2, b := .v 0 }).wf = false := by decide +kernel
/-- R44: a 64-bit operand names an odd register. -/
theorem test_wf_pairs : (Instr.laneAddInt { ar with ty := .z64 }).wf = false ∧
    (Instr.laneAddInt { ar with ty := .z64, d := 2, b := .v 10 }).wf = true := by decide +kernel
/-- R46: rounding with an integer type; SAT where it is not permitted; FTZ with f32; stochastic rounding outside the conversions. -/
theorem test_wf_modifiers : (Instr.laneAddInt { ar with rm := .rtz }).wf = false ∧ (Instr.laneMulh { ar with sat := true }).wf = false ∧
    (Instr.laneAddFloat { ar with ty := .f32, ftz := true }).wf = false ∧
    (Instr.laneAddFloat { ar with ty := .f32, rm := .sr }).wf = false := by decide +kernel
/-- R46, R101: UN for integers, k0 as the destination. -/
theorem test_wf_cmp : (Instr.laneCmpInt { cm with cond := .un }).wf = false ∧ (Instr.laneCmpInt { cm with kd := 0 }).wf = false := by decide +kernel
/-- R46: a load with release ordering, a store with acquire ordering, a width of 128 bits with sign extension. -/
theorem test_wf_memory : (Instr.ld { lm with ord := .rel, scope := .die }).wf = false ∧
    (Instr.st { lm with d := 0, data := .v 1, ord := .acq, scope := .die }).wf = false ∧
    (Instr.ld { lm with sx := true }).wf = false := by decide +kernel
/-- R46: RED has no SWAP and no CAS. -/
theorem test_wf_red : (Instr.red { at' with d := 0, op := .swap }).wf = false ∧ (Instr.red { at' with d := 0 }).wf = true := by decide +kernel
/-- R216: the comparand's group. -/
theorem test_wf_cas : (Instr.atom { at' with op := .cas, off := .v 3 }).wf = false ∧ (Instr.atom { at' with op := .cas, off := .v 2 }).wf = true := by decide +kernel
/-- R220: types and orderings of the inkwells. -/
theorem test_wf_ink : (Instr.inkAdd { ik with ty := .z32 }).wf = false ∧ (Instr.inkRead { ik with ord := .rel, scope := .die }).wf = false ∧
    (Instr.inkClr { ik with ty := .none }).wf = false := by decide +kernel
/-- R240: widths of the queues and the alignment of their registers. -/
theorem test_wf_queue : (Instr.qpush { qo with width := .w16 }).wf = false ∧ (Instr.qpop { qo with width := .w64, data := .v 0 }).wf = false := by decide +kernel
/-- R233, R312, R121 to R126: fields of the remaining classes. -/
theorem test_wf_rest : (Instr.fewait { fw with ord := .rel, scope := .die }).wf = false ∧ (Instr.drain { dr with fmt := .s32 }).wf = false ∧
    (Instr.drain { dr with chart := 1 }).wf = false ∧ (Instr.gatherv .w64 cr).wf = false ∧
    (Instr.scan .and false { cr with ty := .f32, b := .v 0 }).wf = false ∧ (Instr.ballot cr).wf = false := by decide +kernel

/-! ### Words written out bit by bit from the encodings (R36 to R51) -/

def sc (w : W32) (i : Instr) : Bool := match decodeScalar w with | .ok j => i == j | .error _ => false
def ln (w : W96) (i : Instr) : Bool := match decodeLane w with | .ok j => i == j | .error _ => false

/-- R39, R349: `trap #0x12`, `bkpt`; R337: `halt s5, s6, s7`; R368: `wfe s5, s9, s0`; R347: `rft`; R186: `isync`. -/
theorem test_word_system : sc 0xBC001200 (.trap 0x12) && sc 0xBC000001 .bkpt && sc 0xBC518702 (.haltInPlace 5 6 7) &&
    sc 0xBC524003 (.wfe 5 9 0) && sc 0xBC000004 .rft && sc 0xBC000005 .isync && sc 0xBD339206 (.resumeRestart 19 14 18) &&
    sc 0xBC518707 (.csave 5 6 7) && sc 0xBC518708 (.crstr 5 6 7) = true := by decide +kernel
/-- R36, R38, R40: `mov s6, s4`, `li s7, #3`, `bne s7, s0, -3`, `ldw s9, [s4 + #380]`, `jal s1, 2`, `jalr s0, s1, #0`. -/
theorem test_word_scalar : sc 0x08610000 (.addi 6 4 0) && sc 0x08700003 (.addi 7 0 3) && sc 0x44703FFD (.bne 7 0 (-3)) &&
    sc 0x6891017C (.ldw 9 4 380) && sc 0x58100002 (.jal 1 2) && sc 0x5C004000 (.jalr 0 1 0) && sc 0x04208300 (.add 2 2 3) = true := by decide +kernel
/-- R37: an all-zero word, and a nonzero field that SALU does not use. -/
theorem test_word_illegal : sc 0 (.add 0 0 0) = false ∧ (decodeScalar 0 = .error .opcode) ∧ (decodeScalar 0x04208311 = .error .field) := by decide +kernel
/-- R49, R75, R78: runs; R38: `sfence.rel.die`, `mfc s10, FQHEAD`, `mtc FQHEAD, s10`, `mtc YIELDDL, s11`, `yield`. -/
theorem test_word_runs : sc 0xA0100000 (.lrun 1 0 0) && sc 0xA0400000 (.lrun 4 0 0) && sc 0xA4030D00 (.lrunr 12 13) && sc 0xA8000000 .ldrain &&
    sc 0xAC002800 (.sfence 2 4) && sc 0xB0A00061 (.mfc 10 0x061) && sc 0xB4028061 (.mtc 10 0x061) && sc 0xB402C003 (.mtc 11 3) &&
    sc 0xB8000000 .yield = true := by decide +kernel
/-- R39: `bar s5, s6`, `arrive.cb s4, s5`, `lock s3, s4`, `cbwait s2, s3, s4`, `msend s1, s2, s3`. -/
theorem test_word_sync : sc 0x90518000 (.bar 5 6) && sc 0x90010501 (.arriveCb 4 5) && sc 0x90310002 (.lock 3 4) && sc 0x9020C406 (.cbwait 2 3 4) &&
    sc 0x94108300 (.msend 1 2 3) = true := by decide +kernel
/-- R38, R305, R266: `chart s1, s2, s3`, `mma.ns s1, s2, s3`, `mwait s4`, `tcopy s1, s2, s3`, `cwait s4`. -/
theorem test_word_engines : sc 0xC0108300 (.chart 1 2 3) && sc 0xC8108301 (.mmaNs 1 2 3) && sc 0xD0400000 (.mwait 4) && sc 0xD4108300 (.tcopy 1 2 3) &&
    sc 0xDC400000 (.cwait 4) = true := by decide +kernel
/-- R38, R266: `spawn s1, s2, s3`, `nodeput s1, s2, s3`, `ffill s1, s2, s3`, `fwait.nb s1, s2`, `tdone s5`, `cancel.job s1, s2`, `prio s1, s2`. -/
theorem test_word_tasks : sc 0xE0108300 (.spawn 1 2 3) && sc 0xE4108300 (.nodeput 1 2 3) && sc 0xE8108300 (.ffill 1 2 3) && sc 0xEC108001 (.fwaitNb 1 2) &&
    sc 0xF4014000 (.tdone 5) && sc 0xF8108001 (.cancelJob 1 2) && sc 0xFC108000 (.prio 1 2) = true := by decide +kernel

/-- R42, R50: `add.z32 v1, v8, v16`, and `sub.s8 v2, s4, #5 ?k3`. -/
theorem test_word_lane_int : ln 0x017010810000000000000000 (.laneAddInt { ar with b := .v 16 }) &&
    ln 0x0210284C8006000000000005 (.laneSubInt { ar with ty := .s8, d := 2, a := .s 4, b := .imm, m := Mask.mk 3 false, imm := 5 }) &&
    ln 0x108020406000000000000000 (.laneShl { ar with ty := .z64, d := 2, a := .v 4, b := .v 6 }) = true := by decide +kernel
/-- R42, R46: `fma.bf16.rtz.ftz v3, v1, v2, v4`, `cmp.f32.lt k2, v4, v5`. -/
theorem test_word_lane_float : ln 0x23A030102040300000000000
      (.laneFma { ar with ty := .bf16, rm := .rtz, ftz := true, d := 3, a := .v 1, b := .v 2, c := .v 4 }) &&
    ln 0x26B020405000020000000000 (.laneCmpFloat { cm with ty := .f32 }) = true := by decide +kernel
/-- R145: `cvt.f32.s32 v1, v2`; R51: `if k2`, `brk !k1`, `loop 5`. -/
theorem test_word_lane_control : ln 0x30B01020000000C000000000 (.cvt cv) && ln 0x400000000004000000000000 (.ifm (Mask.mk 2 false)) &&
    ln 0x450000000003000000000000 (.brk (Mask.mk 1 true)) && ln 0x430000000000000000000005 (.loop 5) = true := by decide +kernel
/-- R121, R123, R125: `shfl.rot.zf.z32 v1, v2, v3`, `vote.count.z32 v5, v6`, `scan.max.excl.s32 v1, v2`. -/
theorem test_word_lane_cross : ln 0x507010203000300000000000 (.shfl .rot true cr) &&
    ln 0x527050600000600000000000 (.vote .count { cr with d := 5, a := .v 6, b := .v 0 }) &&
    ln 0x543010200000500000000000 (.scan .max true { cr with ty := .s32, b := .v 0 }) = true := by decide +kernel
/-- R46, R171: `ld.b32 v4, [s6 + v2 * 4 + 16]`, `st.b64.rel.die [s7], v10`. -/
theorem test_word_lane_memory : ln 0x600048602000044200000010 (.ld { lm with off := .v 2, scale := 2, imm := 16 }) &&
    ln 0x6100087800A0A46000000000 (.st { lm with width := .w64, ord := .rel, scope := .die, d := 0, base := 7, data := .v 10 }) = true := by decide +kernel
/-- R212, R213, R220: `fence.acqrel.system`, `atom.add.z32 v1, [s5 + v8], v9`, `ink.clr [s5]`. -/
theorem test_word_lane_ordering : ln 0x700000000000FC0000000000 (.fence .acqrel .system 4 all) &&
    ln 0x717018508090042000000000 (.atom { at' with off := .v 8 }) &&
    ln 0x750008580000040000000000 (.inkClr { ik with ty := .none, data := .v 0 }) = true := by decide +kernel
/-- R240, R233, R269, R311, R312: `qpush.b32 v1, q3, v6`, `fewait.full [s5]`, `spawnv v1, v2`, `feed v7`, `drain.f32 v3, a2`. -/
theorem test_word_lane_rest : ln 0x800010000060004300000000 (.qpush qo) && ln 0x820008580000000400000000 (.fewait fw) &&
    ln 0x907010280000000000000000 (.spawnv sv) && ln 0xA00000700000000000000000 (.feed fe) &&
    ln 0xA1003000000002C000000002 (.drain dr) = true := by decide +kernel
/-- R50, R44: opcode 0 and TY 15 are illegal. -/
theorem test_word_lane_illegal : (∀ i, decodeLane 0 ≠ .ok i) ∧ decodeLane 0x75F008580000040000000000 = .error .operand := by
  constructor
  · have : decodeLane 0 = .error .opcode := by decide +kernel
    intro i h; rw [this] at h; cases h
  · decide +kernel

/-! ### Small states -/

/-- Strand 0 of gang 1 on core 0, with 16 registers. -/
def tStrand : Strand := { Strand.zero with live := true, gang := 1, budget := 16, pc := 0x1000, lbase := 0x2000 }
/-- Task 1 of virtual device 0, of job 0. -/
def tGang : Gang := { Gang.zero with live := true, handle := 1, count := 100 }
/-- Virtual device 0 of partition 0: a page table at 0x10000, records at 0x20000, a handler. -/
def tVd : Vd := { Vd.reset with regs := [(0, 0x8000000000000064), (1, 0x10000), (2, 0x20000), (3, 64), (5, 0x40000), (6, 0x50000), (7, 0x60000)] }
/-- The identity map of the lowest 4 GiB, with every permission. -/
def tTlb : TlbEntry := { unit := 4, vd := 0, page := 0, size := 11, pte := 0xB00000000000003D }
/-- The page table of that map: three levels above the leaf. -/
def tMem : List Host.Cell := [(0x10000, 3), (0x10001, 0x10), (0x10002, 1), (0x11000, 3), (0x11001, 0x20), (0x11002, 1), (0x12000, 0x3D), (0x12007, 0xB0)]
/-- A state with one live strand, which is a supervisor strand where `sup` holds. -/
def tState (sup : Bool) (t : Strand) : State :=
  { State.reset with
    mem := tMem, strands := [(0, t)], gangs := [(1, tGang)], vds := [(0, tVd)], cores := [(0, { Core.zero with tlb := [tTlb] })],
    parts := [(0, { Part.reset with regs := [(0, if sup then 0x8000000000000000 else 0x8000000000010000)] })],
    jobs := [(0, { Job.zero with live := true, prio := 8 })] }
/-- A user strand with scalar registers given. -/
def tS (regs : List (Nat × BitVec 64)) : State := tState false { tStrand with sregs := regs }
/-- A user strand with one run, and v registers given by 32 × register + thread. -/
def tL (vregs : List (Nat × BitVec 32)) : State :=
  tState false { tStrand with vregs, runs := [{ seq := 0, pc := 0x2000, left := 2, bound := 0 }], nextRun := 1 }

/-- The instruction answers a next state that passes a check. -/
def gives (i : Instr) (s : State) (p : State → Bool) : Bool := match exec i s with | .next t => p t | _ => false
/-- The scalar result: a register and the PC. -/
def res (i : Instr) (s : State) (d : SReg) (v : W64) : Bool := gives i s (fun t => t.me.s d == v && t.me.pc == 0x1004)
/-- The value of a v register in a thread, and the lane PC gone on. -/
def lres (i : Instr) (s : State) (r j : Nat) (v : W32) : Bool := gives i s (fun t => t.me.v r j == v && t.me.lanePc == 0x200C)

/-! ### Single steps, with results worked out from the rules -/

theorem test_add_wraps : res (.add 3 1 2) (tS [(1, 0xFFFFFFFFFFFFFFFF), (2, 2)]) 3 1 = true := by decide +kernel
theorem test_add_s0 : res (.add 0 1 2) (tS [(1, 5), (2, 2)]) 0 0 = true := by decide +kernel
theorem test_sub : res (.sub 1 1 2) (tS [(1, 1), (2, 2)]) 1 0xFFFFFFFFFFFFFFFF = true := by decide +kernel
theorem test_shl_amount : res (.shl 3 1 2) (tS [(1, 1), (2, 65)]) 3 2 = true := by decide +kernel
theorem test_sar : res (.sar 3 1 2) (tS [(1, 0x8000000000000000), (2, 63)]) 3 0xFFFFFFFFFFFFFFFF = true := by decide +kernel
theorem test_mulh : res (.mulh 3 1 2) (tS [(1, 0xFFFFFFFFFFFFFFFF), (2, 2)]) 3 0xFFFFFFFFFFFFFFFF = true := by decide +kernel
theorem test_mulhu : res (.mulhu 3 1 2) (tS [(1, 0xFFFFFFFFFFFFFFFF), (2, 2)]) 3 1 = true := by decide +kernel
theorem test_min_signed : res (.min 3 1 2) (tS [(1, 0xFFFFFFFFFFFFFFFF), (2, 2)]) 3 0xFFFFFFFFFFFFFFFF = true := by decide +kernel
theorem test_minu : res (.minu 3 1 2) (tS [(1, 0xFFFFFFFFFFFFFFFF), (2, 2)]) 3 2 = true := by decide +kernel
theorem test_clz_zero : res (.clz 3 1) (tS []) 3 64 = true := by decide +kernel
theorem test_popc : res (.popc 3 1) (tS [(1, 0xF0F0)]) 3 8 = true := by decide +kernel
theorem test_addi_negative : res (.addi 3 1 0x3FFF) (tS [(1, 5)]) 3 4 = true := by decide +kernel
theorem test_andi_zero_extends : res (.andi 3 1 0x3FFF) (tS [(1, 0xFFFFFFFFFFFFFFFF)]) 3 0x3FFF = true := by decide +kernel
theorem test_lui_negative : res (.lui 3 0x80000) (tS []) 3 0xFFFFFFFF80000000 = true := by decide +kernel
theorem test_lhi : res (.lhi 3 0x12345) (tS [(3, 0xFFFFFFFF00000007)]) 3 0x0001234500000007 = true := by decide +kernel
theorem test_addpc : res (.addpc 3 1) (tS []) 3 0x2000 = true := by decide +kernel
theorem test_blt_taken : gives (.blt 1 2 0x3FFD) (tS [(1, 0xFFFFFFFFFFFFFFFF)]) (fun t => t.me.pc == 0xFF4) = true := by decide +kernel
theorem test_bltu_not_taken : gives (.bltu 1 2 0x3FFD) (tS [(1, 0xFFFFFFFFFFFFFFFF)]) (fun t => t.me.pc == 0x1004) = true := by decide +kernel
theorem test_jal : gives (.jal 1 4) (tS []) (fun t => t.me.pc == 0x1010 && t.me.s 1 == 0x1004) = true := by decide +kernel
theorem test_jalr_same_register : gives (.jalr 1 1 0) (tS [(1, 0x3000)]) (fun t => t.me.pc == 0x3000 && t.me.s 1 == 0x1004) = true := by decide +kernel
/-- R40: the misaligned-fetch trap is taken at the target, with rd written. -/
theorem test_jalr_misaligned : gives (.jalr 1 1 2) (tS [(1, 0x3000)]) (fun t => t.me.trappc == 0x3002 && t.me.trapva == 0x3002 && t.me.pc == 0x40000) = true := by decide +kernel

/-- R71, R188: a load asks; its value comes with the reply. -/
theorem test_load_asks : gives (.ldw 4 1 8) (tS [(1, 0x3000)]) (fun t => t.me.pc == 0x1004 && t.flights.map (fun f => (f.key, f.bytes, f.dest)) == [(0x3008, 4, .s 4)]) = true := by decide +kernel
theorem test_load_misaligned : gives (.ldw 4 1 2) (tS [(1, 0x3000)]) (fun t => t.me.handler && t.me.trapva == 0x3002 && t.flights.isEmpty) = true := by decide +kernel
theorem test_lrun_enqueues : gives (.lrun 3 2 1) (tS []) (fun t => t.me.runs == [{ seq := 0, pc := 0x208C, left := 3, bound := 0 }]) = true := by decide +kernel
theorem test_lrunr_bad_pc : gives (.lrunr 1 2) (tS [(1, 0x2001), (2, 1)]) (fun t => t.me.runs.isEmpty && t.me.handler && t.me.trapva == 0x2001) = true := by decide +kernel
/-- R338, R344, R349: TRAP: CODE 0x0B, TCODE, TRAPPC past the instruction, s2 to s5. -/
theorem test_trap : gives (.trap 0x12) (tS [(7, 9)]) (fun t => t.me.trapcause == 0x12000000000B && t.me.trappc == 0x1004 && t.me.pc == 0x40000 &&
    t.me.s 7 == 0 && t.me.s 2 == 0x20080 && t.readLE 0x60030 8 == 9) = true := by decide +kernel
/-- R39: a user strand may not halt. -/
theorem test_halt_privileged : gives (.haltInPlace 1 2 3) (tS []) (fun t => t.me.handler) = true := by decide +kernel
theorem test_rft_outside_handler : gives .rft (tS []) (fun t => t.me.handler && t.me.trappc == 0x1000) = true := by decide +kernel
/-- R85: YIELDDL of a user strand only falls. -/
theorem test_yielddl_falls : gives (.mtc 1 3) (tS [(1, 500)]) (fun t => (t.gang 1).count == 100) = true := by decide +kernel
theorem test_yielddl_supervisor : gives (.mtc 1 3) (tState true { tStrand with sregs := [(1, 500)] }) (fun t => (t.gang 1).count == 500) = true := by decide +kernel
theorem test_mfc_yielddl : res (.mfc 3 3) (tS []) 3 100 = true := by decide +kernel

/-- R100: addition wraps at the width; narrow results are extended. -/
theorem test_lane_add : lres (.laneAddInt ar) (tL [(256, 0xFFFFFFFF), (288, 3)]) 1 0 2 = true := by decide +kernel
theorem test_lane_add_sat : lres (.laneAddInt { ar with ty := .s8, sat := true }) (tL [(256, 0x7F), (288, 3)]) 1 0 0x7F = true := by decide +kernel
theorem test_lane_sub_z8 : lres (.laneSubInt { ar with ty := .z8 }) (tL [(256, 1), (288, 3)]) 1 0 0xFE = true := by decide +kernel
theorem test_lane_mulh : lres (.laneMulh { ar with ty := .s32 }) (tL [(256, 0xFFFFFFFF), (288, 3)]) 1 0 0xFFFFFFFF = true := by decide +kernel
theorem test_lane_sar : lres (.laneSar ar) (tL [(256, 0x80000000), (288, 33)]) 1 0 0xC0000000 = true := by decide +kernel
theorem test_lane_brev : lres (.laneBrev { ar with b := .v 0 }) (tL [(256, 1)]) 1 0 0x80000000 = true := by decide +kernel
/-- R101: bit t of the mask register takes the result. -/
theorem test_lane_cmp : gives (.laneCmpInt cm) (tL [(128, 0xFFFFFFFF), (161, 1)]) (fun t => t.me.k 2 == 3) = true := by decide +kernel
/-- R106: 1 + 2^-24 rounds to even in f32; 1.5 × 2 = 3. -/
theorem test_lane_fadd : lres (.laneAddFloat { ar with ty := .f32 }) (tL [(256, 0x3F800000), (288, 0x33800000)]) 1 0 0x3F800000 = true := by decide +kernel
theorem test_lane_fmul : lres (.laneMulFloat { ar with ty := .f32 }) (tL [(256, 0x3FC00000), (288, 0x40000000)]) 1 0 0x40400000 = true := by decide +kernel
/-- R106: a fused product is not rounded before the sum: (1 + 2^-12)² - 1 = 2^-11 + 2^-24. -/
theorem test_lane_fma : lres (.laneFma { ar with ty := .f32, c := .v 10 }) (tL [(256, 0x3F800800), (288, 0x3F800800), (320, 0xBF800000)]) 1 0 0x3A000400 = true := by decide +kernel
/-- R107: MIN of a NaN and a number is the number; of the zeros it is -0. -/
theorem test_lane_fmin : lres (.laneMinFloat { ar with ty := .f32 }) (tL [(256, 0x7FC00000), (288, 0x40000000)]) 1 0 0x40000000 &&
    lres (.laneMinFloat { ar with ty := .f32 }) (tL [(288, 0x80000000)]) 1 0 0x80000000 = true := by decide +kernel
/-- R148: -1 as s32 becomes -1.0. -/
theorem test_cvt : lres (.cvt cv) (tL [(64, 0xFFFFFFFF)]) 1 0 0xBF800000 = true := by decide +kernel
/-- R112: IF of k1 = {0} leaves thread 0 active. -/
theorem test_if : gives (.ifm (Mask.mk 1 false)) (tState false { tStrand with kregs := [(1, 1)], runs := [{ seq := 0, pc := 0x2000, left := 2, bound := 0 }] })
    (fun t => t.me.activeSet == 1 && t.me.stack.length == 1) = true := by decide +kernel
/-- R121: each thread takes the value of the thread after it. -/
theorem test_shfl_rot : lres (.shfl .rot false { cr with b := .imm, imm := 1 }) (tL [(65, 7)]) 1 0 7 = true := by decide +kernel
/-- R123, R124: two threads hold a nonzero value. -/
theorem test_vote_count : lres (.vote .count { cr with b := .v 0 }) (tL [(65, 7), (70, 1)]) 1 31 2 = true := by decide +kernel
theorem test_ballot : lres (.ballot { cr with b := .v 0 }) (tL [(65, 7), (70, 1)]) 1 0 0x42 = true := by decide +kernel
/-- R125: the exclusive sum of thread 2 is that of threads 0 and 1. -/
theorem test_scan : lres (.scan .add true { cr with b := .v 0 }) (tL [(64, 5), (65, 6), (66, 7)]) 1 2 11 = true := by decide +kernel
/-- R171: the address is the base, the scaled offset and the displacement. -/
theorem test_lane_ld : gives (.ld { lm with off := .v 2, scale := 2, imm := 16 }) ({ tL [(65, 1)] with
    strands := [(0, { (tL [(65, 1)]).me with sregs := [(6, 0x3000)] })] }) (fun t => (t.flights.map (·.key)).take 2 == [0x3010, 0x3014]) = true := by decide +kernel
/-- R52: a register at the budget. -/
theorem test_lane_budget : gives (.laneAddInt { ar with d := 16 }) (tL []) (fun t => t.me.handler && t.me.tmaskf == 0xFFFFFFFF) = true := by decide +kernel

/-- R20, R36: the bytes at the scalar PC, `add s2, s2, s3` (0x0420_8300), run in a turn of the strand. -/
theorem test_step_scalar : (match step ((tS [(2, 5), (3, 6)]).withFetchWord 32 0x04208300) with
    | .next t => t.me.s 2 == 11 && t.me.pc == 0x1004 | _ => false) = true := by decide +kernel
/-- R75: the slot at the lane PC, `add.z32 v1, v8, v16`. -/
theorem test_step_lane : (match step ((tL [(256, 5), (288, 6)]).withFetchWord 96 0x017010810000000000000000) with
    | .next t => t.me.v 1 0 == 5 && t.me.runs.isEmpty | _ => false) = true := by decide +kernel
/-- R5: the bytes of an instruction, the lowest address first. -/
theorem test_decode_bytes : decodeTableWord 32 0x04208300 = some (.add 2 2 3) ∧ decodeTableWord 96 0 = none := by decide +kernel

/-! ### Witnesses: states and operands that meet the hypotheses of the statements, clause by clause -/

/-- A byte list at an address of a state. -/
def withBytes (s : State) (a : Nat) (bs : List Byte) : State := s.putBytes a bs
/-- A supervisor strand with scalar registers. -/
def tP (regs : List (Nat × BitVec 64)) : State := tState true { tStrand with sregs := regs }

/-- A scalar request of strand 0 at 0x3000. -/
def tFlight (kind : ReqKind) (stage : Stage) (dest : Dest) : Flight :=
  { id := 0, strand := 0, lane := false, inst := 0, bound := 0, thread := 0, kind, va := 0x3000, key := 0x3000, bytes := 8, data := 0x55, qual := .plain,
    ord := .rlx, scope := .strand, ev := 4, sx := false, dest, stage, value := 9, vec := [], watch := false, pc := 0x1000, orphan := false,
    entry := 0, tag := 0, granted := false, pbase := 0, plog := 0, agent := none }

/-- A matrix command of strand 0. -/
def tCmd (op : MOp) : MCmd := { id := 0, gang := 1, strand := 0, pc := 0x1000, bound := 0, before := [], op }

theorem frameWritable_of (s : State) (k k0 k1 : Nat) (spc : W64)
    (h : (match s.framePage k (s.trapFrameVa k) true with
      | some (a, s1) => a == k0 &&
        (match (s1.writePage (s.strand k).core a 0 ({ s.strand k with pc := spc } : Strand).frame).framePage k (s.trapFrameVa k + 4096) true with
          | some (b, _) => b == k1
          | none => false)
      | none => false) = true) : FrameWritable s k k0 k1 spc := by
  unfold FrameWritable
  split at h
  · next a s1 h1 =>
    obtain ⟨h2, h3⟩ := Bool.and_eq_true_iff.mp h
    have e : a = k0 := by simpa using h2
    subst e
    split at h3
    · next b s2 h4 =>
      have e : b = k1 := by simpa using h3
      subst e
      exact ⟨s1, s2, h1, h4⟩
    · cases h3
  · cases h

theorem notInWfe_of (s : State) (k : Nat)
    (h : s.strands.all (fun c => c.1 != k || (match c.2.wait with | .wfe _ _ _ _ _ => false | _ => true)) = true) : NotInWfe s k := by
  intro c hc hk m p w n d e
  have := List.all_eq_true.mp h c hc
  simp [hk, e] at this

/-- ScalarRegisterArithmetic: CLZ of 0, of 1 and of 2^63; rb zero and not. -/
theorem witness_ScalarRegisterArithmetic :
    (∀ i, 64 - 64 ≤ i → ((tS []).me.s 1).getLsbD i = false) ∧
      ((∀ i < 64, 64 - 63 ≤ i → ((tS [(1, 1)]).me.s 1).getLsbD i = false) ∧ ((tS [(1, 1)]).me.s 1).getLsbD (63 - 63) = true) ∧
      ((tS [(1, 0x8000000000000000)]).me.s 1).getLsbD (63 - 0) = true ∧ (0 : SReg) = 0 ∧ (3 : SReg) ≠ 0 := by
  refine ⟨fun i _ => ?_, by decide +kernel⟩
  have : (tS []).me.s 1 = 0 := by decide +kernel
  rw [this]; simp

/-- CompareAndBranch: taken and not. -/
theorem witness_CompareAndBranch : (tS []).me.s 1 = (tS []).me.s 2 ∧ (tS [(1, 1)]).me.s 1 ≠ (tS [(1, 1)]).me.s 2 := by decide +kernel

/-- JumpAndLink: a target that is a multiple of 4, and one that is not. -/
theorem witness_JumpAndLink : ((tS [(1, 0x3000)]).me.s 1 + (4 : BitVec 14).signExtend 64).toNat % 4 = 0 ∧
    ((tS [(1, 0x3000)]).me.s 1 + (2 : BitVec 14).signExtend 64).toNat % 4 ≠ 0 := by decide +kernel

/-- ScalarAccessesStart: a word at the end of the mapped page, a store, and an address that is no multiple. -/
theorem witness_ScalarAccessesStart :
    let s := tS [(1, 0xFFFFFFF8)]
    let va : W64 := s.me.s 1 + (4 : BitVec 14).signExtend 64
    va.toNat % 4 = 0 ∧ s.translate s.cur false needR va = .key 0xFFFFFFFC ∧ s.translate s.cur false needW va = .key 0xFFFFFFFC ∧
      s.me.watched wpLd va 4 = false ∧ s.me.watched wpSt va 4 = false ∧ va.toNat % 8 ≠ 0 := by decide +kernel

/-- LaneRunsEnqueue: a queue with room, the largest count and slot; count 0; a full queue; a count and lane PCs that are not legal. -/
theorem witness_LaneRunsEnqueue :
    let s := tS [(1, 0x3030), (2, 65535)]
    s.me.runs.length < 16 ∧ 0 < (s.me.s 2).toNat ∧ (s.me.s 2).toNat ≤ 65535 ∧ (s.me.s 1).toNat < 0xFFFF0000000000 ∧
      (s.me.s 1).toNat % 64 % 12 = 0 ∧ (s.me.s 1).toNat % 64 ≤ 48 ∧ s.translate s.cur false needXL (s.me.s 1) = .key 0x3030 ∧
      ((s.me.s 3).toNat = 0 ∧ (s.me.s 1).toNat < 2 ^ 56) ∧
      (let u := tState false { tStrand with sregs := [(1, 0x3030), (2, 65535)], runs := List.replicate 16 { seq := 0, pc := 0x2000, left := 1, bound := 0 } }
       16 ≤ u.me.runs.length ∧ 0 < (u.me.s 2).toNat ∧ u.translate u.cur false needXL (u.me.s 1) = .key 0x3030) ∧
      65535 < ((tS [(2, 65536)]).me.s 2).toNat ∧ 2 ^ 56 ≤ ((tS [(1, 0x100000000000000)]).me.s 1).toNat ∧
      ((tS [(1, 0x3001)]).me.s 1).toNat % 64 % 12 ≠ 0 ∧ 48 < ((tS [(1, 0x303C)]).me.s 1).toNat % 64 := by decide +kernel

/-- DrainsAndFences: nothing in flight; a run outstanding; a store of the strand's own on its way; an acquire that waits for a load, and one
that does not; one that waits for the reads of an engine command. -/
theorem witness_DrainsAndFences :
    (WindowsEmpty (tS []) ∧ Drained (tS []) ∧ StoresDone (tS []) ∧ (1 : BitVec 2) ≠ 0 ∧ (tS []).fenceReady 0 false (ordOf 3) (scopeOf 7) = true ∧
      (tS []).engineReads 0 = false) ∧
      (let s := ({ tS [] with flights := [tFlight .store .home .none] } : State)
       WindowsEmpty s ∧ Drained s ∧ ¬StoresDone s) ∧
      ({ tS [] with cores := [(0, { Core.zero with tlb := [tTlb], mq := [tCmd (.chart 1 0x8000)] })] } : State).engineReads 0 = true ∧
      (WindowsEmpty (tL []) ∧ ¬Drained (tL [])) ∧
      gives (.ldw 4 1 0) (tS [(1, 0x3000)]) (fun s =>
        !s.fenceReady s.cur false (ordOf 1) (scopeOf 4) && s.flights.all (fun f => f.stage != .window && f.stage != .wc)) = true := by
  unfold WindowsEmpty Drained StoresDone
  exact ⟨by decide +kernel, by decide +kernel, by decide +kernel, by decide +kernel, by decide +kernel⟩

/-- ControlRegisterReads and ControlRegisterWrites: numbers on each side of the table's gaps; a supervisor strand and a user strand. -/
theorem witness_ControlRegisters : (5 ≤ (0x005 : BitVec 12).toNat ∧ (0x00F : BitVec 12).toNat < 0x10) ∧ 0x63 ≤ (0xFFF : BitVec 12).toNat ∧
    0x40 ≤ (0x05F : BitVec 12).toNat ∧ (0x05F : BitVec 12).toNat < 0x60 ∧ (tS []).isSup (tS []).cur = false ∧
    (tP []).isSup (tP []).cur = true ∧ ((tS []).strand 0).live = true := by decide +kernel

/-- TrapFrameContents and TrapInstructions: the frame of strand 0, in two pages of memory; a run that a trap waits for. -/
theorem witness_Traps : TrapFree (tS [(7, 9)]) 0 ∧ FrameWritable (tS [(7, 9)]) (tS [(7, 9)]).cur 0x60000 0x61000 ((tS [(7, 9)]).me.pc + 4) ∧ isSpad 0x60000 = false ∧
    isSpad 0x61000 = false ∧ 0x60000 + 4096 ≤ 0x61000 ∧ (tS []).vdDebug ((tS []).gangOf 0).vd = false ∧ (tL []).me.runs ≠ [] := by
  refine ⟨by unfold TrapFree; decide +kernel, frameWritable_of _ _ _ _ _ (by decide +kernel), by decide +kernel⟩

def tReq : TrapReq := { code := cErrResp, va := 0x3000, pc := 0x1000, lane := false, tmaskf := 0, tcode := 0, xkind := 0, wstep := false, engv := false, eng := 0, edie := 0, cb := none }

/-- TrapEntryEvent: a pending trap; an asynchronous cause; a trap in a handler. -/
theorem witness_TrapEntryEvent :
    (let s := tState false { tStrand with pendTrap := some tReq }
     s.trapEntryDue 0 = true ∧ FrameWritable s 0 0x60000 0x61000 (if tReq.lane then (s.strand 0).pc else tReq.pc) ∧ (s.strand 0).handler = false ∧ s.tentry (s.gangOf 0).vd ≠ 0) ∧
    (let s := tState false { tStrand with pend := [tReq] }
     s.trapEntryDue 0 = true ∧ (s.strand 0).pendTrap = none ∧ (s.strand 0).pend.head? = some tReq ∧
      FrameWritable (s.setStrand 0 { s.strand 0 with pend := (s.strand 0).pend.tail }) 0 0x60000 0x61000 (s.strand 0).pc) ∧
    (let s := tState false { tStrand with pendTrap := some tReq, handler := true }
     s.trapEntryDue 0 = true ∧ (s.strand 0).handler = true ∧ (s.strand 0).pendTrap = some tReq) :=
  ⟨⟨by decide +kernel, frameWritable_of _ _ _ _ _ (by decide +kernel), by decide +kernel, by decide +kernel⟩,
    ⟨by decide +kernel, by decide +kernel, by decide +kernel, frameWritable_of _ _ _ _ _ (by decide +kernel)⟩, by decide +kernel⟩

/-- TrapEntryEvent: a virtual device without a handler. -/
theorem witness_TrapEntryEvent_noHandler :
    let s := ({ tState false { tStrand with pend := [tReq] } with vds := [(0, { tVd with regs := [(0, 0x8000000000000064), (1, 0x10000)] })] } : State)
    s.trapEntryDue 0 = true ∧ s.tentry (s.gangOf 0).vd = 0 ∧ (s.strand 0).pendTrap = none ∧ (s.strand 0).pend.head? = some tReq := by decide +kernel

/-- The state in the handler that a TRAP enters. -/
def tHandler : State := match exec (.trap 1) (tP [(7, 9)]) with | .next t => t | _ => State.reset

/-- ReturnFromTrap: the handler that a TRAP entered; and no handler. -/
theorem witness_ReturnFromTrap : (tS []).me.handler = false ∧ tHandler.me.handler = true ∧ WindowsEmpty tHandler ∧ Drained tHandler ∧
    tHandler.me.wait = .none ∧ tHandler.me.laneWait = .none ∧
    ((tHandler.framePage tHandler.cur tHandler.me.frameVa false).map (·.1) = some 0x60000) ∧
    ((tHandler.framePage tHandler.cur (tHandler.me.frameVa + 4096) false).map (·.1) = some 0x61000) ∧
    (tHandler.me.restore (tHandler.frameRead 0x60000 0x61000)).isSome = true := by
  unfold WindowsEmpty Drained; decide +kernel

/-- ReturnFromTrap: no store of the handler is on its way to the frame, and one is. -/
theorem witness_ReturnFromTrap_waits : tHandler.frameReady tHandler.cur = true ∧
    (let s := ({ tHandler with flights := [tFlight .store .home .none] } : State)
     s.me.handler = true ∧ WindowsEmpty s ∧ Drained s ∧ s.frameReady s.cur = false) := by
  unfold WindowsEmpty Drained; decide +kernel

/-- The state of record h of virtual device 0 (R249), in memory. -/
def withRec (s : State) (h st : Nat) : State := s.setByte (0x20007 + 128 * h) (BitVec.ofNat 8 (16 * st))
/-- A second gang, task 2, of one strand: strand 9. -/
def tTwo (place : GangPlace) (t : Strand) : State :=
  let s := withRec (withRec (tP [(1, 2), (2, 0), (4, 1), (5, 2), (6, 3), (7, 0x30000)]) 1 3) 2 3
  { s with strands := s.strands ++ [(9, { t with live := true, gang := 2, budget := 16 })], gangs := s.gangs ++ [(2, { Gang.zero with live := true, handle := 2, place })] }

/-- PrivilegeAndHalt: a user strand; a supervisor strand, and each operation on another task: halted in place, released, saved. -/
theorem witness_PrivilegeAndHalt : (tS []).isSup (tS []).cur = false ∧
    (let s := tTwo .resident Strand.zero
     s.isSup s.cur = true ∧ s.taskOf (s.vdPart (s.gangOf s.cur).vd) ((s.me.s 1).toNat % 2 ^ 32) = some 2 ∧ s.me.gang ∉ s.stackOf 2 ∧
      s.me.s 2 = 0 ∧ (∀ x ∈ (s.haltStack 2 true).stackOf 2, (s.haltStack 2 true).collected x = true) ∧ s.me.s 4 = 1 ∧
      (∀ j ∈ s.jobs, j.2.reached = []) ∧ 3 ≤ (s.me.s 6).toNat ∧ s.taskOf (s.vdPart (s.gangOf s.cur).vd) ((s.me.s 6).toNat % 2 ^ 32) = none) ∧
    (let s := tTwo .saved Strand.zero
     s.me.s 5 = 2 ∧ (s.gang 2).place = .saved ∧ s.taskOf (s.vdPart (s.gangOf s.cur).vd) 2 = some 2) := by decide +kernel

/-- WaitForEvent: masks that are refused; an entry unread, and none; no ticks left. -/
theorem witness_WaitForEvent :
    (8 ≤ ((tS [(1, 8)]).me.s 1).toNat % 2 ^ 32 ∧ ((tS [(1, 2)]).me.s 1).toNat % 2 ^ 32 / 2 % 2 = 1) ∧
    (((tS [(1, 1)]).me.s 1).toNat % 2 ^ 32 % 2 = 1 ∧ (tS []).isSup 0 = false) ∧
    (((tS [(1, 4), (2, 1)]).me.s 1).toNat % 2 ^ 32 / 4 % 2 = 1 ∧ ((tS [(1, 4), (2, 1)]).me.s 2).toNat % 8 ≠ 0) ∧
    (let s := tP [(1, 1)]
     (s.me.s 1).toNat % 2 ^ 32 = 1 ∧ s.isSup s.cur = true ∧ (s.part (s.vdPart (s.gangOf s.cur).vd)).fqtail = (s.part (s.vdPart (s.gangOf s.cur).vd)).fqhead) ∧
    (let s := ({ tP [(1, 1)] with parts := [(0, { Part.reset with regs := [(0, 0x8000000000000000)], fqtail := 1 })] } : State)
     s.isSup s.cur = true ∧ (s.part (s.vdPart (s.gangOf s.cur).vd)).fqtail ≠ (s.part (s.vdPart (s.gangOf s.cur).vd)).fqhead) ∧
    (let s := tState true { tStrand with wait := .wfe 1 0 0 0 3 }
     (s.strand 0).live = true ∧ (s.strand 0).wait = .wfe 1 0 0 0 3) := by decide +kernel

def tParked : Parked := { fid := 7, va := 0x3000, xkind := 1, fetch := false, lane := false, tmaskf := 0 }

/-- ResumeActions: a strand of another task is parked under the identifier 7, in its task's place or, its image in memory, out of it; each
action, and one that is not listed; a failure that ends the issuing strand's own task. -/
theorem witness_ResumeActions :
    (let s := { tTwo .resident { Strand.zero with parked := some tParked } with cur := 0 }
     let all := s.parties (s.vdPart (s.gangOf s.cur).vd)
     (s.isSup s.cur = true ∧ WindowsEmpty s ∧ Drained s ∧ s.releaseReady s.cur false .domain = true) ∧
      (∃ x ∈ all, x.p.fid = 7 % 2 ^ 32 ∧ x.strand = some 9 ∧ ((s.gangOf 9).place = .resident ∨ (s.gangOf 9).ctx = [])) ∧
      s.me.s 2 = 0 ∧ s.me.s 4 = 1 ∧ s.me.s 5 = 2 ∧ s.me.s 6 = 3 ∧
      (∀ x ∈ all, x.p.fid = 7 → x.strand ≠ none ∧ x.strand ≠ some s.cur) ∧
      (∀ x ∈ all, x.p.fid = 7 → s.partyGang x = some 2 ∧ 2 ≠ s.me.gang ∧ s.cur ∉ s.strandsOf 2) ∧ 4 ≤ ((tP [(1, 4)]).me.s 1).toNat) ∧
    NotInWfe (tTwo .resident { Strand.zero with parked := some tParked }) 0 ∧
    (let s := ({ tP [(6, 3)] with strands := [(0, (tP [(6, 3)]).me), (9, { Strand.zero with live := true, gang := 1, parked := some tParked })] } : State)
     s.isSup s.cur = true ∧ ∃ x ∈ s.parties (s.vdPart (s.gangOf s.cur).vd), x.p.fid = 7 ∧ s.partyGang x = some s.me.gang) := by
  refine ⟨by unfold WindowsEmpty Drained; decide +kernel, notInWfe_of _ _ (by decide +kernel), by decide +kernel⟩

/-- ResumeActions: a party whose task is saved, with its status word in its image. -/
theorem witness_ResumeActions_saved :
    let s := { tTwo .saved { Strand.zero with parked := some tParked } with
      gangs := [(1, tGang), (2, { Gang.zero with live := true, handle := 2, place := .saved, ctx := [3] })] }
    (∃ x ∈ s.parties (s.vdPart (s.gangOf s.cur).vd), x.p.fid = 7 ∧ x.strand = some 9) ∧ (s.gangOf 9).place ≠ .resident ∧ (s.gangOf 9).ctx ≠ [] ∧
      s.statusKey 9 = some 205056 ∧ 205056 % 128 ≤ 124 ∧ (∀ y < 4, s.roByte (205056 + y) = false) ∧ (s.strand 9).held = [] ∧
      (s.strand 9).members = [] := by decide +kernel


theorem bufferAt_of (s : State) (write : Bool) (va : W64) (n : Nat) (keys : List (Nat × Nat)) (h1 : va.toNat % 8 = 0)
    (h2 : keys.map (·.2) = (pagesOf va n).map (·.2))
    (h3 : ∀ e ∈ (pagesOf va n).zip keys, isSpad e.2.1 = false ∧ s.paOk e.2.1 = true ∧ s.region e.2.1 = .hbm ∧
      s.vdRefused (s.gangOf s.cur).vd e.2.1 = false ∧
      ∀ al ∈ [1, 8], s.checkPage { bytes := e.1.2, align := al, need := if write then needW else needR, wp := if write then wpSt else wpLd } e.1.1 =
          .pass e.2.1) : BufferAt s write va n keys :=
  ⟨h1, h2, fun e he => ⟨(h3 e he).1, (h3 e he).2.1, (h3 e he).2.2.1, (h3 e he).2.2.2.1, fun al ha =>
    (h3 e he).2.2.2.2 al (by rcases ha with rfl | ⟨rfl, _⟩ <;> simp)⟩⟩

theorem rejects (o : Option State) (h : o.isSome = true) : ∃ u, o = some u := Option.isSome_iff_exists.mp h

/-- A buffer at 0x30000 that holds the image of the saved gang. -/
def tImage : State := let s := { tTwo .saved Strand.zero with strands := (tTwo .saved Strand.zero).strands.take 1 }; withBytes s 0x30000 ((s.image 2).take 256)

/-- ContextSaveAndRestore: a saved task, whose image the buffer holds; and no such task. -/
theorem witness_ContextSaveAndRestore : ∃ u, (tImage.isSup tImage.cur = true ∧ WindowsEmpty tImage ∧ Drained tImage ∧
      tImage.releaseReady tImage.cur false .domain = true) ∧
    tImage.savedTask (tImage.vdPart (tImage.gangOf tImage.cur).vd) ((tImage.me.s 5).toNat % 2 ^ 32) = some 2 ∧
    tImage.savedTask (tImage.vdPart (tImage.gangOf tImage.cur).vd) ((tImage.me.s 6).toNat % 2 ^ 32) = none ∧
    NotInWfe tImage tImage.cur ∧ tImage.cur ∉ tImage.strandsOf 2 ∧ (tImage.image 2).length = 384 ∧
    BufferAt tImage true (tImage.me.s 7) 384 [(0x30000, 384)] ∧ BufferAt tImage false (tImage.me.s 7) 256 [(0x30000, 256)] ∧
    BufferAt tImage false (tImage.me.s 7) 384 [(0x30000, 384)] ∧
    (tImage.readAreas [(0x30000, 256)]).take 44 = (tImage.image 2).take 44 ∧
    tImage.restoreImage 2 (tImage.readAreas [(0x30000, 384)]) = some u := by
  obtain ⟨u, hu⟩ := rejects (tImage.restoreImage 2 (tImage.readAreas [(0x30000, 384)])) (by decide +kernel)
  refine ⟨u, by unfold WindowsEmpty Drained; decide +kernel, by decide +kernel, by decide +kernel, notInWfe_of _ _ (by decide +kernel),
    by decide +kernel, by decide +kernel, bufferAt_of _ _ _ _ _ (by decide +kernel) (by decide +kernel) (by decide +kernel),
    bufferAt_of _ _ _ _ _ (by decide +kernel) (by decide +kernel) (by decide +kernel),
    bufferAt_of _ _ _ _ _ (by decide +kernel) (by decide +kernel) (by decide +kernel), by decide +kernel, hu⟩

/-- ContextSaveAndRestore: a handle of the pool that names no saved task, and handles outside the pool. -/
theorem witness_ContextSaveAndRestore_names : tImage.namesTask 0 ((tImage.me.s 6).toNat % 2 ^ 32) = true ∧ tImage.namesTask 0 100 = false ∧
    tImage.namesTask 0 ((tImage.me.s 0).toNat % 2 ^ 32) = false ∧ tImage.savedTask 0 ((tImage.me.s 0).toNat % 2 ^ 32) = none := by decide +kernel

/-- A job with a constellation table at 0x70000, whose entry 0 is valid with MEMBERS and ARRIVED given, and a strand with memberships. -/
def tCon (members arrived : Nat) (ms : List Member) : State :=
  let s := tState false { tStrand with members := ms, sregs := [(2, 1)] }
  withBytes { s with jobs := [(0, { Job.zero with live := true, prio := 8, ctab := 0x70000, ctabPa := [0x70000], valid := [(0, 1)] })] } 0x70000
    (leBytes 8 (2 ^ 63) ++ leBytes 8 (arrived * 2 ^ 24 + members))

def tMember (pending phase : Bool) : Member := { cn := 0, pending, phase, scope := .die, share := false, woff := 0, wlen := 0 }

/-- Barriers: no arrival, the last arrival, one that waits for the phase, one that has seen it change; no membership; a cancelled job. -/
theorem witness_Barriers :
    (∀ m ∈ [tMember false false, tMember true true], let s := tCon 2 0 [m]
      s.cancelled s.cur = false ∧ s.memberOf s.cur ((s.me.s 1).toNat % 256) = some m ∧ HomeServes s (conOf s 0) ∧
        Released s m.scope ∧ (m.pending = true → m.phase ≠ conPhase (s.conHi (conOf s 0)))) ∧
    (let s := tCon 2 1 [tMember true false]
     s.memberOf s.cur 0 = some (tMember true false) ∧ conPhase (s.conHi (conOf s 0)) = false ∧ HomeServes s (conOf s 0)) ∧
    (let s := tCon 2 0 []
     s.cancelled s.cur = false ∧ s.memberOf s.cur ((s.me.s 2).toNat % 256) = none) ∧
    (let s := ({ tCon 2 0 [] with jobs := [(0, { Job.zero with live := true, reached := [0] })] } : State)
     s.cancelled s.cur = true) := by
  unfold Released HomeServes WindowsEmpty Drained; decide +kernel

/-- Barriers: a BAR whose arrival stands, with VALID in force and without; the phase it waits for, and the next. -/
theorem witness_Barriers_begun :
    ∀ phase ∈ [false, true],
      (let s := tCon 2 1 [{ tMember true phase with inBar := true }]
       s.cancelled s.cur = false ∧ s.memberOf s.cur 0 = some { tMember true phase with inBar := true } ∧ HomeServes s (conOf s 0) ∧
         (conPhase (s.conHi (conOf s 0)) = phase ↔ phase = false)) ∧
      (let s := ({ tCon 2 1 [{ tMember true phase with inBar := true }] with
          jobs := [(0, { Job.zero with live := true, prio := 8, ctab := 0x70000, ctabPa := [0x70000] })] } : State)
       s.cancelled s.cur = false ∧ s.memberOf s.cur 0 = none ∧
         s.me.members.find? (fun x => x.cn == 0 && x.inBar) = some { tMember true phase with inBar := true } ∧ HomeServes s (conOf s 0)) := by
  unfold HomeServes; decide +kernel

/-- JoinAndLeave: no member, a member, the last but one of MEMBERS, a pending arrival; an entry whose VALID is clear, and no table. -/
theorem witness_JoinAndLeave :
    (let s := tCon (2 ^ 20 - 2) 0 []
     WindowsEmpty s ∧ Drained s ∧ HomeServes s (conOf s 0) ∧ (s.job (s.jobKey s.cur)).ctabPa ≠ [] ∧ (s.conLo (conOf s 0)).getLsbD 63 = true ∧
      fieldOf (s.conLo (conOf s 0)) 32 15 + fieldOf (s.conLo (conOf s 0)) 0 16 ≤ 32768 ∧ conMembers (s.conHi (conOf s 0)) < 2 ^ 20 - 1 ∧
      (∀ x ∈ s.me.members, x.cn ≠ 0) ∧ s.me.members.length < 4) ∧
    (let s := tCon 2 1 [tMember true false]
     WindowsEmpty s ∧ Drained s ∧ HomeServes s (conOf s 0) ∧ (∃ x ∈ s.me.members, x.cn = 0) ∧
      s.me.members.find? (fun x => x.cn == 0) = some (tMember true false)) ∧
    (let s := tCon 2 0 []
     (s.conLo (conOf s 1)).getLsbD 63 = false ∧ HomeServes s (conOf s 1)) ∧
    ((tS []).job ((tS []).jobKey 0)).ctabPa = [] := by
  unfold HomeServes WindowsEmpty Drained; decide +kernel

/-- A cell of 16 bytes at 0x3000, whose address is in s1. -/
def tCell (v : Nat) (t : Strand) : State := withBytes (tState false { t with sregs := [(1, 0x3000), (2, 5)] }) 0x3000 (leBytes 16 v)

theorem cellAt_of (s : State) (need : Nat) (va : W64) (key : Nat)
    (h : va.toNat % 16 = 0 ∧ s.translate s.cur false need va = .key key ∧ (s.me.exempt false = true ∨ s.me.watched wpNone va 16 = false) ∧
      key % 16 = 0 ∧ s.hbmCell s.cur key = true ∧ (s.homeReady s.cur key = true ∧ s.ownClear s.cur s.me.accs (key / 16 * 16) 16 = true) ∧
      s.strands.all (fun c => c.1 != s.cur || (match c.2.wait with | .wfe _ _ _ _ _ => false | _ => true)) = true ∧
      ∀ i < 16, s.roByte (key + i) = false) : CellAt s need va key :=
  ⟨⟨h.1, fun x => absurd x (by simp [cellForm]), h.2.1, h.2.2.1⟩, h.2.2.2.1, h.2.2.2.2.1, h.2.2.2.2.2.1, notInWfe_of _ _ h.2.2.2.2.2.2.1, h.2.2.2.2.2.2.2⟩

/-- Locks: a free cell, abandoned by its holder; a cell of another strand; the strand's own, with no waiter and with one. -/
theorem witness_Locks :
    (let s := tCell 2 tStrand
     CellAt s needRW (s.me.s 1) 0x3000 ∧ s.cancelled s.cur = false ∧ s.readLE 0x3000 16 % 2 = 0 ∧ (s.gangOf s.cur).locks.length < 8) ∧
    (let s := tCell (lockOwn 2 0 0) tStrand
     CellAt s needRW (s.me.s 1) 0x3000 ∧ s.readLE 0x3000 16 % 2 = 1 ∧
      s.readLE 0x3000 16 / 2 ^ 32 % 2 ^ 43 ≠ lockOwn (s.gangOf s.cur).handle s.me.role s.me.idx / 2 ^ 32 % 2 ^ 43 ∧ s.tableFull 0x3000 = false) ∧
    (let s := ({ tCell (lockOwn 1 0 0) tStrand with
        strands := (tCell (lockOwn 1 0 0) tStrand).strands ++ [(9, { Strand.zero with live := true, wait := .lock 0x3000 0x3000 4 })] } : State)
     CellAt s needRW (s.me.s 1) 0x3000 ∧ Released s .domain ∧ s.readLE 0x3000 16 % 2 = 1 ∧
      s.readLE 0x3000 16 / 2 ^ 32 % 2 ^ 43 = lockOwn (s.gangOf s.cur).handle s.me.role s.me.idx / 2 ^ 32 % 2 ^ 43 ∧
      (∀ w ∈ s.waiters, w.pa = 0x3000 → w.kind ≠ 1) ∧
      (let u := ({ s with waiters := [{ pa := 0x3000, strand := 9, kind := 1 }] } : State)
       CellAt u needRW (u.me.s 1) 0x3000 ∧ Released u .domain ∧ u.waiters.find? (fun w => w.pa == 0x3000 && w.kind == 1) = some (Waiter.mk 0x3000 9 1) ∧
        9 ≠ u.cur ∧ NotInWfe u 9 ∧ (u.strand 9).wait = .lock 0x3000 0x3000 4)) ∧
    (({ tS [] with strands := [(0, { tStrand with wait := .refused })] } : State).strand 0).wait = .refused := by
  refine ⟨⟨cellAt_of _ _ _ _ (by decide +kernel), by decide +kernel⟩, ⟨cellAt_of _ _ _ _ (by decide +kernel), by decide +kernel⟩,
    ⟨cellAt_of _ _ _ _ (by decide +kernel), by unfold Released WindowsEmpty Drained; decide +kernel, by decide +kernel, by decide +kernel,
      by decide +kernel, cellAt_of _ _ _ _ (by decide +kernel), by unfold Released WindowsEmpty Drained; decide +kernel, by decide +kernel,
      by decide +kernel, notInWfe_of _ _ (by decide +kernel), by decide +kernel⟩, by decide +kernel⟩

/-- Locks: a waiter whose gang is present, with its record apart from the cell. -/
theorem witness_Locks_present :
    let s := ({ tCell (lockOwn 1 0 0) tStrand with waiters := [{ pa := 0x3000, strand := 9, kind := 1 }], strands := (tCell (lockOwn 1 0 0) tStrand).strands ++
        [(9, { Strand.zero with live := true, gang := 1, wait := .lock 0x3000 0x3000 4 })] } : State)
    (s.strand 9).gang = 1 ∧ (s.gang 1).present = true ∧ s.waiters.find? (fun w => w.pa == 0x3000 && w.kind == 1) = some (Waiter.mk 0x3000 9 1) ∧
      ((s.writeLE 999 0x3000 16 (lockOwn (s.gang 1).handle 0 0)).recKey (s.gang 1).vd (s.gang 1).handle).all (fun q => q + 8 ≤ 0x3000 || 0x3000 + 16 ≤ q) = true := by
  decide +kernel

/-- The address of a granule of the strand's own scratchpad, in s1; a second word in s2. -/
def tSpad (b : BitVec 64) (v : Nat) : State := withBytes (tS [(1, 0xFFFF0000000040), (2, b)]) (spadKey 0 0x40) (leBytes 16 v)

theorem reaches_of (s : State) (f : AccForm) (va : W64) (key : Nat) (h : va.toNat % f.align = 0 ∧ inAperture va = true ∧
    s.translate s.cur false f.need va = .key key ∧ (s.me.exempt false = true ∨ s.me.watched f.wp va f.bytes = false)) : Reaches s f va key :=
  ⟨h.1, fun _ => h.2.1, h.2.2⟩

/-- CountBarriers: an arrival that reaches the threshold, and one that does not; CBWAIT and its reply. -/
theorem witness_CountBarriers :
    (∀ s ∈ [tSpad 8 24, tSpad 24 24], ∃ u, Released s .die ∧ Reaches s granuleForm (s.me.s 1) (spadKey 0 0x40) ∧
      s.portReady s.cur (spadKey 0 0x40) = true ∧
      s.clearWait.spadAccess s.cur s.me.gang (spadKey 0 0x40) 16 (apertureSel (s.me.s 1) != 0) true (s.isSup s.cur) = some u ∧
      u.readLE (spadKey 0 0x40) 16 % 2 ^ 48 ≠ 0 ∧
      u.readLE (spadKey 0 0x40) 16 / 2 ^ 48 % 2 ^ 48 + (s.me.s 2).toNat % 2 ^ 48 < u.readLE (spadKey 0 0x40) 16 % 2 ^ 48 + 2 ^ 48) ∧
    (∀ i < 16, inQueueDesc (spadKey 0 0x40 + i) = false) ∧
    ((tSpad 2 0).cancelled (tSpad 2 0).cur = false ∧ Reaches (tSpad 2 0) granuleForm ((tSpad 2 0).me.s 1) (spadKey 0 0x40)) ∧
    (let f := tFlight (.phase true) .reply (.s 4)
     let s := ({ tState false { tStrand with wait := .port 4 } with flights := [f] } : State)
     s.flight? 0 = some f ∧ f.agent = none ∧ f.stage = .reply ∧ s.clockOn (s.flightCore f) = true ∧ f.orphan = false ∧ f.watch = false ∧
      f.kind = .phase true ∧ f.dest = .s 4 ∧ (s.strand f.strand).wait = .port 4) := by
  refine ⟨?_, by decide +kernel, ⟨by decide +kernel, reaches_of _ _ _ _ (by decide +kernel)⟩, by decide +kernel⟩
  intro s hs
  simp only [List.mem_cons, List.not_mem_nil, or_false] at hs
  rcases hs with rfl | rfl
  · obtain ⟨u, hu⟩ := rejects ((tSpad 8 24).clearWait.spadAccess (tSpad 8 24).cur (tSpad 8 24).me.gang (spadKey 0 0x40) 16
      (apertureSel ((tSpad 8 24).me.s 1) != 0) true ((tSpad 8 24).isSup (tSpad 8 24).cur)) (by decide +kernel)
    have h : (((tSpad 8 24).clearWait.spadAccess (tSpad 8 24).cur (tSpad 8 24).me.gang (spadKey 0 0x40) 16
      (apertureSel ((tSpad 8 24).me.s 1) != 0) true ((tSpad 8 24).isSup (tSpad 8 24).cur)).map (fun u => u.readLE (spadKey 0 0x40) 16)) = some 24 := by
      decide +kernel
    rw [hu] at h
    have h : u.readLE (spadKey 0 0x40) 16 = 24 := by simpa using h
    exact ⟨u, by unfold Released WindowsEmpty Drained; decide +kernel, reaches_of _ _ _ _ (by decide +kernel), by decide +kernel, hu,
      by rw [h]; decide, by rw [h]; decide +kernel⟩
  · obtain ⟨u, hu⟩ := rejects ((tSpad 24 24).clearWait.spadAccess (tSpad 24 24).cur (tSpad 24 24).me.gang (spadKey 0 0x40) 16
      (apertureSel ((tSpad 24 24).me.s 1) != 0) true ((tSpad 24 24).isSup (tSpad 24 24).cur)) (by decide +kernel)
    have h : (((tSpad 24 24).clearWait.spadAccess (tSpad 24 24).cur (tSpad 24 24).me.gang (spadKey 0 0x40) 16
      (apertureSel ((tSpad 24 24).me.s 1) != 0) true ((tSpad 24 24).isSup (tSpad 24 24).cur)).map (fun u => u.readLE (spadKey 0 0x40) 16)) = some 24 := by
      decide +kernel
    rw [hu] at h
    have h : u.readLE (spadKey 0 0x40) 16 = 24 := by simpa using h
    exact ⟨u, by unfold Released WindowsEmpty Drained; decide +kernel, reaches_of _ _ _ _ (by decide +kernel), by decide +kernel, hu,
      by rw [h]; decide, by rw [h]; decide +kernel⟩


/-- Messages: a send of four units to another die; a receive; an arrival that finds no receive, and one that finds its own. -/
theorem witness_Messages :
    (∃ u, let s := tSpad (4 + 2 ^ 24 + 5 * 2 ^ 32 - 1) 24
      Released s .domain ∧ Reaches s payloadForm (s.me.s 1) (spadKey 0 0x40) ∧ fieldOf (s.me.s 2) 48 16 = 0 ∧ fieldOf (s.me.s 2) 2 18 = 0 ∧
      ownPayload (s.me.s 1) ((s.me.s 2).toNat % 4 + 1) = true ∧ s.hasCluster (fieldOf (s.me.s 2) 20 12) = true ∧
      s.clearWait.spadGranules s.cur (spadKey 0 0x40) false ((s.me.s 2).toNat % 4 + 1) = some u) ∧
    (∃ u, let s := tSpad (2 ^ 49 + 2 ^ 48) 24
      s.cancelled s.cur = false ∧ Reaches s payloadForm (s.me.s 1) (spadKey 0 0x40) ∧ fieldOf (s.me.s 2) 50 14 = 0 ∧ fieldOf (s.me.s 2) 2 18 = 0 ∧
      ownPayload (s.me.s 1) ((s.me.s 2).toNat % 4 + 1) = true ∧ s.clearWait.spadGranules s.cur (spadKey 0 0x40) true ((s.me.s 2).toNat % 4 + 1) = some u ∧
      (s.cluster (s.me.core / 2)).overflow = [] ∧ (s.cluster (s.me.core / 2)).posted.length < 32) ∧
    (let m : Msg := { src := 16, dst := 0, tag := 5, units := 1, payload := leBytes 16 7, strand := none, va := 0, vec := [] }
     let p : Posted := { strand := 0, anySrc := true, anyTag := false, src := 0, tag := 5, units := 1, va := 0xFFFF0000000040 }
     let s := ({ tState false { tStrand with wait := .recv 4 } with msgs := [m] } : State)
     (s.msgs[0]? = some m ∧ (∀ x ∈ s.msgs.take 0, x.src ≠ m.src ∨ x.dst ≠ m.dst) ∧ m.dst / 256 = s.pkgnum.toNat ∧ s.hasCluster m.dst = true ∧
       (∀ q ∈ (s.cluster 0).posted, q.takes m = false) ∧ (s.cluster 0).overflow.length < 64) ∧
     ∃ u, (let s := ({ s with clusters := [(0, { Cluster.zero with posted := [p] })] } : State)
       s.msgs[0]? = some m ∧ (s.cluster 0).posted.find? (fun p => p.takes m) = some p ∧ (s.cluster 0).posted.findIdx? (fun p => p.takes m) = some 0 ∧
       (s.strand p.strand).wait = .recv 4 ∧ m.strand ≠ some p.strand ∧
       ((∀ j < m.payload.length, inQueueDesc (spadKey (s.strand p.strand).core (apertureOff p.va) + j) = false) ∧ ∀ f ∈ s.flights, f.stage ≠ .waiting) ∧
       (({ s with msgs := s.msgs.eraseIdx 0 } : State).setCluster 0 { s.cluster 0 with posted := (s.cluster 0).posted.eraseIdx 0 }).putPayload p.strand
         (spadKey (s.strand p.strand).core (apertureOff p.va)) m = some u)) := by
  have h1 := rejects ((tSpad (4 + 2 ^ 24 + 5 * 2 ^ 32 - 1) 24).clearWait.spadGranules (tSpad (4 + 2 ^ 24 + 5 * 2 ^ 32 - 1) 24).cur
    (spadKey 0 0x40) false (((tSpad (4 + 2 ^ 24 + 5 * 2 ^ 32 - 1) 24).me.s 2).toNat % 4 + 1)) (by decide +kernel)
  have h2 := rejects ((tSpad (2 ^ 49 + 2 ^ 48) 24).clearWait.spadGranules (tSpad (2 ^ 49 + 2 ^ 48) 24).cur
    (spadKey 0 0x40) true (((tSpad (2 ^ 49 + 2 ^ 48) 24).me.s 2).toNat % 4 + 1)) (by decide +kernel)
  obtain ⟨u1, h1⟩ := h1
  obtain ⟨u2, h2⟩ := h2
  refine ⟨⟨u1, by unfold Released WindowsEmpty Drained; decide +kernel, reaches_of _ _ _ _ (by decide +kernel), by decide +kernel, by decide +kernel,
      by decide +kernel, by decide +kernel, h1⟩, ⟨u2, by decide +kernel, reaches_of _ _ _ _ (by decide +kernel), by decide +kernel, by decide +kernel,
      by decide +kernel, h2, by decide +kernel, by decide +kernel⟩, by decide +kernel, ?_⟩
  refine ⟨_, by decide +kernel, by decide +kernel, by decide +kernel, by decide +kernel, by decide +kernel, by decide +kernel,
    (Option.some_get (by decide +kernel)).symm⟩

/-- Messages: the strand that has posted the receive, and a sender of this package, are in no WFE. -/
theorem witness_Messages_woken :
    let s := tState false { tStrand with wait := .recv 4 }
    let u := { s with strands := s.strands ++ [(9, { Strand.zero with live := true, gang := 1, wait := .send 5 })] }
    NotInWfe u 0 ∧ NotInWfe u 9 ∧ (u.strand 0).wait = .recv 4 ∧ (u.strand 9).wait = .send 5 :=
  ⟨notInWfe_of _ _ (by decide +kernel), notInWfe_of _ _ (by decide +kernel), by decide +kernel⟩

/-- A bin at 0x5000, with records of 16 bytes, four in a batch, in 0x6000, and its second doubleword given; s1 names it, s2 a record. -/
def tBin (fill w1 : Nat) : State :=
  withBytes (tS [(1, 0x5000), (2, 0x7000)]) 0x5000 (leBytes 8 (5 + 3 * 2 ^ 42 + fill * 2 ^ 56) ++ leBytes 8 w1 ++ leBytes 8 0x6000)

/-- NodePut: a batch with room, and a buffer whose batch runs; a strand that the cancel state has reached. -/
theorem witness_NodePut :
    (∀ s ∈ [tBin 1 0, tBin 0 (2 ^ 48)], Released s .domain ∧ s.me.wait = .none ∧ s.cancelled s.cur = false ∧ (s.me.s 1).toNat % 64 = 0 ∧
      s.translate s.cur false needRW (s.me.s 1) = .key 0x5000 ∧ Unwatched s wpNone (s.me.s 1) 64 ∧ s.hbmCell s.cur 0x5000 = true ∧
      HomeServes s 0x5000 ∧ s.binBad 0x5000 = false ∧ s.binWord 0x5000 1 / 2 ^ 32 % 2 ^ 16 = (s.gangOf s.cur).job) ∧
    NotInWfe (tBin 1 0) 0 ∧ NotInWfe (tBin 0 (2 ^ 48)) 0 ∧ (tBin 0 (2 ^ 48)).binWord 0x5000 1 / 2 ^ 48 % 2 = 1 ∧
    (let s := tBin 1 0
     let w := s.binWord 0x5000 0
     (s.binWord 0x5000 1).testBit (48 + binCur w) = false ∧ binFill w + 1 < binCoal w + 1 ∧ (0 < binFill w ∨ s.binWord 0x5000 1 % 2 ^ 32 = 0) ∧
      (∀ i < 8, s.roByte (0x5000 + i) = false) ∧ binSize w = 16 ∧ (s.me.s 2).toNat % 8 = 0 ∧ (s.me.s 2).toNat % 4096 ≤ 4096 - 16 ∧
      s.translate s.cur false needR (s.me.s 2) = .key 0x7000 ∧ s.hbmCell s.cur 0x7000 = true ∧
      s.translate s.cur false needR (s.me.s 2 + BitVec.ofNat 64 (16 - 8)) = .key 0x7008 ∧ s.hbmCell s.cur 0x7008 = true ∧
      ReadsNow s (s.me.s 2) 0x7000 0x7008 16 ∧ Unwatched s wpLd (s.me.s 2) 16 ∧ Unwatched s wpNone (s.me.s 2 + BitVec.ofNat 64 (16 - 8)) 16 ∧
      s.hwKey s.me.core 0 needW (s.binBuf 0x5000 (binCur w) + BitVec.ofNat 64 (binFill w * 16)) true = some 0x6010 ∧ isSpad 0x6010 = false ∧
      (0x6010 + 16 ≤ 0x5000 ∨ 0x5000 + 8 ≤ 0x6010) ∧ ∀ i < 16, s.roByte (0x6010 + i) = false) ∧
    (({ tBin 1 0 with jobs := [(0, { Job.zero with live := true, reached := [0] })] } : State).cancelled 0 = true) := by
  unfold Released HomeServes WindowsEmpty Drained Unwatched ReadsNow
  exact ⟨by decide +kernel, notInWfe_of _ _ (by decide +kernel), notInWfe_of _ _ (by decide +kernel), by decide +kernel, by decide +kernel,
    by decide +kernel⟩

/-- NodePut: the destination by pages. -/
theorem witness_NodePut_pages :
    let s := tBin 1 0
    let w := s.binWord 0x5000 0
    s.pageRuns s.me.core 0 needW true (pagesOf (s.binBuf 0x5000 (binCur w) + BitVec.ofNat 64 (binFill w * 16)) 16) = some [(0x6010, 16)] := by
  decide +kernel

/-- Futures: an empty cell without and with a waiter, a full one, a cancelled one; a full table; a cancelled job. -/
theorem witness_Futures :
    (let s := tCell 0 tStrand
     Released s .domain ∧ CellAt s needW (s.me.s 1) 0x3000 ∧ CellAt s needR (s.me.s 1) 0x3000 ∧ (s.readLE 0x3000 16).testBit 96 = false ∧
      (s.readLE 0x3000 16).testBit 97 = false ∧ (∀ w ∈ s.waiters, w.pa = 0x3000 → w.kind ≠ 0) ∧ s.cancelled s.cur = false ∧ s.tableFull 0x3000 = false) ∧
    (let s := ({ tCell 0 tStrand with waiters := [{ pa := 0x3000, strand := 9, kind := 0 }], strands := (tCell 0 tStrand).strands ++
        [(9, { Strand.zero with live := true, wait := .future 0x3000 0x3000 4 })] } : State)
     Released s .domain ∧ CellAt s needW (s.me.s 1) 0x3000 ∧ 9 ≠ s.cur ∧ NotInWfe s 9 ∧ (s.strand 9).wait = .future 0x3000 0x3000 4) ∧
    (∀ c ∈ [96, 97], (let s := tCell (2 ^ c) tStrand; (s.readLE 0x3000 16).testBit c = true)) ∧
    (let s := tCell (2 ^ 96 + 7) tStrand
     CellAt s needW (s.me.s 1) 0x3000 ∧ CellAt s needR (s.me.s 1) 0x3000) ∧
    (({ tCell 0 tStrand with waiters := List.replicate 1024 { pa := 0x3000, strand := 9, kind := 0 } } : State).tableFull 0x3000 = true) ∧
    (({ tCell 0 tStrand with jobs := [(0, { Job.zero with live := true, reached := [0] })] } : State).cancelled 0 = true) := by
  refine ⟨⟨by unfold Released WindowsEmpty Drained; decide +kernel, cellAt_of _ _ _ _ (by decide +kernel), cellAt_of _ _ _ _ (by decide +kernel),
      by decide +kernel⟩, ⟨by unfold Released WindowsEmpty Drained; decide +kernel, cellAt_of _ _ _ _ (by decide +kernel), by decide +kernel,
      notInWfe_of _ _ (by decide +kernel), by decide +kernel⟩, by decide +kernel, ⟨cellAt_of _ _ _ _ (by decide +kernel),
      cellAt_of _ _ _ _ (by decide +kernel)⟩, by decide +kernel, by decide +kernel⟩

/-- Futures: a waiter whose gang is present, and one whose gang is not. -/
theorem witness_Futures_present : ∀ g ∈ [1, 0],
    let s := ({ tCell 0 tStrand with waiters := [{ pa := 0x3000, strand := 9, kind := 0 }], strands := (tCell 0 tStrand).strands ++
        [(9, { Strand.zero with live := true, gang := g, wait := .future 0x3000 0x3000 4 })] } : State)
    (s.strand 9).wait = .future 0x3000 0x3000 4 ∧ ((s.gangOf 9).present = true ↔ g = 1) := by decide +kernel

/-- A virtual device whose context pool has four blocks, of a partition that has cluster 0; job 0 may run on dies 0 and 1. -/
def tSched (q : List QEntry) (t : Strand) : State :=
  { tState false t with
    vds := [(0, { tVd with regs := [(0, 0x8000000000000064), (1, 0x10000), (2, 0x20000), (3, 64), (4, 4), (5, 0x40000), (6, 0x50000), (7, 0x60000)] })],
    parts := [(0, { Part.reset with regs := [(0, 0x8000000000010000), (1, 1)] })],
    cores := [(0, { Core.zero with tlb := [tTlb], queue := q })],
    jobs := [(0, { Job.zero with live := true, prio := 8, dies := [0, 1], liveCnt := 2 })] }
def tEntry (h prio : Nat) : QEntry := { handle := h, vd := 0, doomed := false, resume := false, prio, void := false, passed := 0 }
/-- Record h, in a state, with one role of one or two strands. -/
def withTask (s : State) (h st : Nat) : State :=
  withBytes (withBytes s (0x20000 + 128 * h) (leBytes 8 (st * 2 ^ 60))) (0x20040 + 128 * h) (leBytes 8 (2 ^ 27 + 2 ^ 13 + 2 * 8))

/-- TaskEndYieldCancelPriority: jobs without a live task, with one and acknowledged or not, and one that is not live; priorities on both
sides; each YIELD. -/
theorem witness_TaskEndYieldCancelPriority :
    (WindowsEmpty (tS []) ∧ Drained (tS []) ∧ ((tS []).job ((tS []).jobKey 0)).live = true ∧ ((tS []).job ((tS []).jobKey 0)).liveCnt = 0 ∧
      (∀ c ∈ (tS []).strands, c.1 = (tS []).cur → c.2.wait = .none) ∧ ((tS [(1, 7)]).job (jobKeyOf 0 (((tS [(1, 7)]).me.s 1).toNat % 65536))).live = false) ∧
    (let s := ({ tSched [] tStrand with jobs := [(0, { Job.zero with live := true, prio := 8, dies := [0], liveCnt := 1, reached := List.range 440 })] } : State)
     (s.job 0).live = true ∧ (s.job 0).liveCnt ≠ 0 ∧ ∀ u ∈ s.cancelUnits 0, u ∈ (s.job 0).reached) ∧
    (let s := tSched [] tStrand
     (s.job 0).live = true ∧ (s.job 0).liveCnt ≠ 0 ∧ ∃ u ∈ s.cancelUnits 0, u ∉ (s.job 0).reached) ∧
    (((tS [(1, 8)]).me.s 1).toNat ≤ ((tS [(1, 8)]).job ((tS [(1, 8)]).jobKey 0)).prio ∧ NotInWfe (tS [(1, 8)]) (tS [(1, 8)]).cur) ∧
    ((tS [(1, 9)]).job ((tS [(1, 9)]).jobKey 0)).prio < ((tS [(1, 9)]).me.s 1).toNat ∧
    (({ tS [] with jobs := [(0, { Job.zero with live := true, reached := [0] })] } : State).cancelled 0 = true) ∧
    ((tS []).cancelled 0 = false ∧ (tS []).competitor (tS []).me.gang = false) ∧
    (let s := tSched [tEntry 3 2] tStrand
     s.cancelled s.cur = false ∧ s.competitor s.me.gang = true ∧ (s.gang s.me.gang).live = true ∧ (s.gang s.me.gang).place = .resident ∧
      (((s.setMe s.me.advance).setGang s.me.gang { s.gang s.me.gang with due := 0 }).preempt s.me.gang 1).isSome = true) := by
  unfold WindowsEmpty Drained
  exact ⟨by decide +kernel, by decide +kernel, by decide +kernel, ⟨by decide +kernel, notInWfe_of _ _ (by decide +kernel)⟩, by decide +kernel,
    by decide +kernel, by decide +kernel, by decide +kernel⟩

/-- QueueBlocksAndStrandsMove: full queues; a core, a cluster and a die that take; a queue at three quarters; a free lane. -/
theorem witness_QueueBlocksAndStrandsMove :
    (let s := tSched (List.replicate 64 (tEntry 3 2)) tStrand
     (s.core 0).queue.length = 64 ∧ (s.cluster (0 / 2)).queue.length + 8 ≤ 256) ∧
    (let s := ({ tSched [] tStrand with clusters := [(0, { Cluster.zero with queue := List.replicate 256 (tEntry 3 2) })] } : State)
     (s.cluster 0).queue.length = 256 ∧ (s.die (0 / 16)).queue.length + 8 ≤ 4096 ∧ s.coreHungry 0 = true ∧ highestEight (s.cluster (0 / 2)).queue ≠ [] ∧
      (s.core 0).queue.length + (highestEight (s.cluster (0 / 2)).queue).length ≤ 64) ∧
    (let s := ({ tSched [] tStrand with dies := [(0, { Die.reset 0 with queue := List.replicate 65 (tEntry 3 2) }), (1, Die.reset 1)] } : State)
     (s.cluster 0).queue = [] ∧ s.coreHungry (2 * 0) = true ∧ highestEight (s.die (0 / 16)).queue ≠ [] ∧
      (s.die 1).queue = [] ∧ s.coreHungry (32 * 1 + 0) = true ∧ 64 < (s.die 0).queue.length ∧ s.stealable 0 1 ≠ [] ∧
      ∀ e < 9, e ≠ 0 → e ≠ 1 → (s.die e).queue.length ≤ 64) ∧
    (let s := withBytes (withTask { tSched [] tStrand with gangs := [(1, { tGang with queues := [3] })] } 1 3) (queueKey 0 3)
        (leBytes 16 (2 ^ 96 + 2 ^ 78 + 2 * 2 ^ 32))
     let x := s.gang 1
     x.live = true ∧ x.place = .resident ∧ (∀ y, y ∈ x.queues ↔ y = 3) ∧ 3 * descDepth (s.desc x.core 3) ≤ 4 * descCount (s.desc x.core 3) ∧
      (let r := s.roleOf x.vd x.handle (s.book x.core 3).lastPop
       rolePinned r = false ∧ (s.book x.core 3).lastPop ∉ x.noAdd ∧ 1 < roleMax r ∧ roleCons r = [] ∧
       ((s.strandsOf 1).filter (fun k => (s.strand k).role == 0)).map (fun k => (s.strand k).idx) = [0] ∧
       (∀ i < 1, i ∈ [0]) ∧ NotInWfe s (strandKeyOf 1 0 1) ∧
       ∃ p o, (s.occupied x.core none).place (Need.mk 0 1 (16 * (roleRegs r + 1)) false) = some (p, o))) ∧
    (let s := tSched [] tStrand
     (s.strand 0).live = true ∧ (s.gang (s.strand 0).gang).place = .resident ∧ (s.strand 0).pinned = false ∧ s.owed 0 = false ∧ 63 ≠ (s.strand 0).lane ∧
      (s.occupied (s.strand 0).core none).room 63 (s.strand 0).budget = true) := by
  refine ⟨by decide +kernel, by decide +kernel, by decide +kernel, ⟨by decide +kernel, by decide +kernel, ?_, by decide +kernel, by decide +kernel,
    by decide +kernel, by decide +kernel, by decide +kernel, by decide +kernel, by decide +kernel, notInWfe_of _ _ (by decide +kernel), ?_⟩,
    by decide +kernel⟩
  · intro y
    have h : (withBytes (withTask { tSched [] tStrand with gangs := [(1, { tGang with queues := [3] })] } 1 3) (queueKey 0 3)
        (leBytes 16 (2 ^ 96 + 2 ^ 78 + 2 * 2 ^ 32))).gang 1 = { tGang with queues := [3] } := by decide +kernel
    rw [h]; simp
  · refine ⟨_, _, (Option.some_get (by decide +kernel)).symm⟩

/-- DispatchRetirementAndHelping: an entry that fits, a doomed one; a gang that has ended; a strand parked on the object of a READY task,
or of one whose batch fills at a bin. -/
theorem witness_DispatchRetirementAndHelping :
    (let s := withTask (tSched [tEntry 3 2] tStrand) 3 2
     s.clockOn 0 = true ∧ (s.core 0).queue = [tEntry 3 2] ∧ (∀ c ∈ s.gangs, c.2.core = 0 → s.waiterDue c.1 = false) ∧
      ((s.dropEntry 0 (tEntry 3 2)).planStart 0 0 3 none).isSome = true) ∧
    (let e := { tEntry 3 2 with doomed := true }
     let s := withTask (tSched [e] tStrand) 3 2
     (s.core 0).queue = [e] ∧ e.doomed = true ∧ e.void = false ∧ e.prio < 16 ∧ ∀ c ∈ s.gangs, c.2.core = 0 → s.waiterDue c.1 = false) ∧
    (let s := withTask { tSched [] Strand.zero with strands := [] } 1 3
     s.retireDue 1 = true ∧ (∀ r ∈ s.retiring, r.key ≠ 1)) ∧
    (let s := withTask (tSched [tEntry 3 2] { tStrand with owner := some 3, wait := .future 0x3000 0x3000 4 }) 3 2
     let t := s.strand 0
     t.owner = some 3 ∧ t.live = true ∧ t.blocked = true ∧ (s.gang t.gang).place = .resident ∧ (s.gang t.gang).halted = false ∧
      (s.gang t.gang).depth < 4 ∧ (s.recKey 0 3).isSome = true ∧ s.fillingBin (t.core / 32) 0 3 = none ∧ s.recVd 0 3 = 0 ∧ s.recState 0 3 = stReady ∧
      s.entryNear t.core 0 3 = some (.core 0, tEntry 3 2) ∧ (s.job (jobKeyOf 0 (s.recJob 0 3))).cancelling = false ∧
      ((s.setStrand 0 { t with owner := none }).planStart t.core 0 3 none).isSome = true) ∧
    (let b := withBytes (withTask (tSched [] { tStrand with owner := some 3, wait := .future 0x3000 0x3000 4 }) 3 0) 0x20188 (leBytes 8 0x300)
     let s := withBytes b 0xC000 (leBytes 8 (3 + 3 * 2 ^ 42 + 2 * 2 ^ 56) ++ leBytes 8 0 ++ leBytes 8 0x6000)
     let t := s.strand 0
     t.owner = some 3 ∧ t.live = true ∧ t.blocked = true ∧ s.fillingBin (t.core / 32) 0 3 = some 0xC000 ∧
      (s.job (jobKeyOf 0 (s.binSpawner 0 0xC000).job)).cancelling = false ∧
      ((s.setStrand 0 { t with owner := none }).takeBatch 0 0xC000).isSome = true ∧
      ((s.setStrand 0 { t with owner := none }).planStart t.core 0 3 none).isSome = true) := by decide +kernel

/-- DeadlinesBinsAndCancelState: a gang whose slice is over, with and without a competitor; one in collection; a bin at its deadline and an
empty one; a job whose cancel state is on its way. -/
theorem witness_DeadlinesBinsAndCancelState :
    (let s := ({ tSched [] tStrand with gangs := [(1, { tGang with count := 0, due := 1 })] } : State)
     s.deadlineDue 1 = true ∧ s.competitor 1 = false) ∧
    (let s := ({ tSched [tEntry 3 2] tStrand with gangs := [(1, { tGang with count := 0, due := 1 })] } : State)
     s.deadlineDue 1 = true ∧ s.competitor 1 = true ∧ (s.preemptStack (s.rootOf 1 8)).isSome = true) ∧
    (let s := withTask { tSched [] tStrand with gangs := [(1, { tGang with place := .collecting 0 })] } 1 3
     (s.gang 1).place = .collecting 0 ∧ (s.gang 1).live = true ∧ s.strandsOf 1 ≠ [] ∧ s.collected 1 = true ∧ (s.finishSave 1 0).isSome = true) ∧
    (let s := ({ tBin 0 0 with bins := [(0x5000, 0)] } : State)
     s.bins.find? (fun b => b.1 == 0x5000) = some (0x5000, 0) ∧ binFill (s.binWord 0x5000 0) = 0) ∧
    (let s := ({ tBin 2 0 with bins := [(0x5000, 0)] } : State)
     s.bins.find? (fun b => b.1 == 0x5000) = some (0x5000, 0) ∧ binFill (s.binWord 0x5000 0) ≠ 0 ∧
      s.binWord 0x5000 3 ≤ (s.die (s.homeOf 0x5000).1).refcnt.toNat ∧ (s.launchBatch 0 0x5000).isSome = true ∧
      (∀ i < 8, s.roByte (0x5000 + i) = false) ∧ isSpad 0x5000 = false) ∧
    (let s := ({ tSched [] tStrand with strands := [], jobs := [(0, { Job.zero with live := true, dies := [0], cancelling := true })] } : State)
     (s.job 0).live = true ∧ (s.job 0).cancelling = true ∧ 31 ∈ s.cancelUnits 0 ∧ 31 ∉ (s.job 0).reached ∧ ∀ c ∈ s.strands, c.2.core ≠ 31) := by
  decide +kernel


/-- LaneBudgetTraps: the last register of the budget and the next one. -/
theorem witness_LaneBudgetTraps : (∃ r ∈ (Instr.laneAddInt { ar with d := 15, ty := .z64 }).laneUse.v, (tL []).me.budget < r.1 + r.2) ∧
    (∃ r ∈ (Instr.laneMov { ar with d := 16 }).laneUse.v, (tL []).me.budget < r.1 + r.2) := by decide +kernel

/-- LaneIntegerAndBitOperations, LaneFloatArithmetic and LaneConversions: registers within the budget in each number of operands; CLZ
and BREV of the highest bit and of 0. -/
theorem witness_LaneArithmetic :
    (isInt ar.ty ∧ isInt cm.ty ∧ (ar.ty = .z32 ∨ ar.ty = .z64)) ∧ cm.kd ≠ 0 ∧ (tL []).me.budgetOk cm.vregs = true ∧
    (∀ n ∈ [1, 2, 3], (tL []).me.budgetOk (ar.vregs n) = true ∧ (tL []).me.budgetOk (({ ar with ty := .f16x2 } : Arith).vregs n) = true ∧
      (tL []).me.budgetOk (({ ar with ty := .f64 } : Arith).vregs n) = true) ∧
    (let s := tL [(256, 0x80000000)]
     let a (j : Nat) : Nat := s.src s.cur j .z32 0 ar.a
     let z (j : Nat) : Nat := if j = 0 then 0 else 32
     let v (j : Nat) : Nat := if j = 0 then 1 else 0
     (∀ j < 32, z j ≤ 32 ∧ a j < 2 ^ (32 - z j) ∧ (z j = 32 ∨ 2 ^ (32 - 1 - z j) ≤ a j)) ∧
       ∀ j < 32, v j < 2 ^ 32 ∧ ∀ i < 32, (v j).testBit i = (a j).testBit (32 - 1 - i)) ∧
    ((tL []).me.budgetOk cv.cvtRegs = true ∧ (tL []).me.budgetOk (cv.blockRegs true false) = true ∧ (tL []).me.budgetOk (cv.blockRegs true true) = true ∧
      (tL []).me.budgetOk (cv.blockRegs false false) = true ∧ (cv.ty = .f32 ∧ cv.nf = .s32)) := by
  unfold isInt; decide +kernel

/-- RoundingKeepsRepresentableValues: the largest finite f32, and an infinity without SAT. -/
theorem witness_RoundingKeepsRepresentableValues :
    (0x7F7FFFFF < 2 ^ Fmt.f32.bits ∧ ((floatFmt .f32).decode 0x7F7FFFFF).isNaN = false ∧ ∃ n m e, (floatFmt .f32).decode 0x7F7FFFFF = .fin n m e) ∧
    ((floatFmt .f32).decode 0x7F800000).isNaN = false := by
  refine ⟨⟨by decide, by decide +kernel, ⟨false, 0xFFFFFF, 104, by decide +kernel⟩⟩, by decide +kernel⟩

/-- K8BlockScale: a NaN; zeros; a value that is not zero, which f32 holds. -/
theorem witness_K8BlockScale :
    (¬∀ x ∈ [Machine.Num.nan], ∃ n m e, x = Machine.Num.fin n m e) ∧
    (∀ x ∈ [Machine.Num.fin true 0 0], ∃ n m e, x = Machine.Num.fin n m e) ∧
    (let xs := [(floatFmt .f32).decode 0x3F800000]
     (∀ x ∈ xs, ∃ b < 2 ^ Fmt.f32.bits, x = (floatFmt .f32).decode b) ∧ (∀ x ∈ xs, ∃ n m e, x = Machine.Num.fin n m e) ∧
      ∃ x ∈ xs, (match x with | .fin _ m e => (m : ℚ) * (2 : ℚ) ^ e | _ => 0) ≠ 0) := by
  have h : (floatFmt .f32).decode 0x3F800000 = .fin false 8388608 (-23) := by decide +kernel
  refine ⟨fun h => ?_, fun x hx => ⟨true, 0, 0, by simpa using hx⟩, fun x hx => ⟨0x3F800000, by decide, by simpa using hx⟩,
    fun x hx => ⟨false, 8388608, -23, by rw [← h]; simpa using hx⟩, _, List.mem_singleton.mpr rfl, ?_⟩
  · obtain ⟨n, m, e, h⟩ := h _ (List.mem_singleton.mpr rfl); cases h
  · rw [h]; norm_num

/-- A strand with a construct stack, and one run of some slots that stands at a lane PC. -/
def tNest (stack : List Construct) (nest : List (Nat × BitVec 8)) (pc : W64) (left : Nat) : State :=
  tState false { tStrand with stack, nest, runs := [{ seq := 0, pc, left, bound := 0 }], nextRun := 1 }

/-- LaneControlFlow: each construct at the top or not; a full stack; a loop at its end that goes on, and one that is over. -/
theorem witness_LaneControlFlow :
    (stackDepth (List.replicate 254 (Construct.ifE false)) < 255 ∧ 255 ≤ stackDepth (List.replicate 255 (Construct.ifE false))) ∧
    ((tNest [.ifE false, .ifE true] [] 0x2000 2).me.stack = .ifE false :: [.ifE true] ∧
      ∀ rest, (tNest [.ifE true] [] 0x2000 2).me.stack ≠ .ifE false :: rest) ∧
    (∀ e rest, (tNest [.loopE 0x2000 3] [] 0x2000 2).me.stack ≠ .ifE e :: rest) ∧
    (let u := (tNest [] [] 0x2000 3).me
     stackDepth u.stack < 254 ∧ (u.stack.filter (fun e => e.isLoop)).length < 16 ∧ 2 ≤ (3 : W32).toNat ∧
      ∃ r rs, u.runs = r :: rs ∧ (3 : W32).toNat ≤ r.left) ∧
    ¬2 ≤ (1 : W32).toNat ∧
    (let u := (tNest [.loopE 0x2000 5] [] 0x2030 1).me
     u.stack = .loopE 0x2000 5 :: [] ∧ u.lanePc.toNat / 64 * 5 + u.lanePc.toNat % 64 / 12 + 1 = 0x2000 / 64 * 5 + 0x2000 % 64 / 12 + (5 : W32).toNat ∧
      (∃ i < 32, u.nest.get i = 0 ∨ u.nest.get i = 1) ∧ (∃ r rs, u.runs = r :: rs) ∧ ∃ e ∈ u.stack, e.isLoop = true) ∧
    (let u := (tNest [.loopE 0x2000 5] ((List.range 32).map (fun i => (i, 2))) 0x2030 1).me
     ∀ i < 32, u.nest.get i ≠ 0 ∧ u.nest.get i ≠ 1) ∧
    ((∀ pc rest, (tNest [.ifE true] [] 0x2000 2).me.stack ≠ .loopE pc 3 :: rest) ∧
      ¬∃ e ∈ (tNest [.ifE true] [] 0x2000 2).me.stack, e.isLoop = true) := by
  refine ⟨by decide +kernel, ⟨by decide +kernel, ?_⟩, ?_, ?_, by decide, ?_, by decide +kernel, ?_, by decide +kernel⟩
  · intro rest h
    have : (tNest [.ifE true] [] 0x2000 2).me.stack = [.ifE true] := by decide +kernel
    rw [this] at h; cases h
  · intro e rest h
    have : (tNest [.loopE 0x2000 3] [] 0x2000 2).me.stack = [.loopE 0x2000 3] := by decide +kernel
    rw [this] at h; cases h
  · refine ⟨by decide +kernel, by decide +kernel, by decide, ⟨0, 0x2000, 3, 0⟩, [], by decide +kernel, by decide +kernel⟩
  · refine ⟨by decide +kernel, by decide +kernel, by decide +kernel, ⟨⟨0, 0x2030, 1, 0⟩, [], by decide +kernel⟩, by decide +kernel⟩
  · intro pc rest h
    have : (tNest [.ifE true] [] 0x2000 2).me.stack = [.ifE true] := by decide +kernel
    rw [this] at h; cases h

/-- CrossThreadInstructions: values that differ, and values that are all zero; both signs of GATHERV's type; the set of BALLOT. -/
theorem witness_CrossThreadInstructions :
    (let s := tL [(65, 7), (70, 1)]
     let x := s.me.execSet cr.m
     let a (j : Nat) : Nat := s.src s.cur j .z32 0 cr.a
     s.me.budgetOk (Instr.shfl .pick false cr).laneUse.v = true ∧ s.me.budgetOk (Instr.intersect cr).laneUse.v = true ∧ cr.ty = .z32 ∧
      (∃ j < 32, x.getLsbD j = true ∧ a j ≠ 0) ∧ (∃ j < 32, x.getLsbD j = true ∧ a j = 0) ∧
      (∃ i < 32, ∃ j < 32, x.getLsbD i = true ∧ x.getLsbD j = true ∧ a i ≠ a j) ∧
      (x.getLsbD 1 = true ∧ a 1 ≠ 0 ∧ ∀ i < 1, x.getLsbD i = true → a i = 0) ∧
      ∀ j < 32, (0x42 : W32).getLsbD j = true ↔ (j < 32 ∧ x.getLsbD j = true) ∧ a j ≠ 0) ∧
    (let s := tL []
     let x := s.me.execSet cr.m
     let a (j : Nat) : Nat := s.src s.cur j .z32 0 cr.a
     (∀ j < 32, x.getLsbD j = true → a j = 0) ∧ ∀ i < 32, ∀ j < 32, x.getLsbD i = true → x.getLsbD j = true → a i = a j) ∧
    (let s := tL ((List.range 32).map (fun i => (64 + i, 1)))
     ∀ j < 32, (s.me.execSet cr.m).getLsbD j = true → s.src s.cur j .z32 0 cr.a ≠ 0) := by decide +kernel

/-- A lane strand whose thread j holds 4 j in v2, with a base in s6 and s5. -/
def tBase (base : BitVec 64) : State :=
  { tState false { tStrand with vregs := (List.range 31).map (fun i => (65 + i, BitVec.ofNat 32 (4 * (i + 1)))), sregs := [(5, base), (6, base)],
                                runs := [{ seq := 0, pc := 0x2000, left := 2, bound := 0 }], nextRun := 1 } with nextId := 1 }

theorem freshIds_of (s : State) (h : s.flights = []) (h2 : s.strands.all (fun c => c.2.held.isEmpty && c.2.withdrawn.isEmpty) = true) : FreshIds s := by
  refine ⟨by simp [h], fun c hc f hf => ?_⟩
  have := List.all_eq_true.mp h2 c hc
  simp only [Bool.and_eq_true, List.isEmpty_iff] at this
  simp [this.1, this.2] at hf

/-- LaneAccessesStart: words at consecutive addresses up to the end of a page, for a load, a store and an atomic; an inkwell at the last place
in a page; granules and words of the aperture; a line. -/
theorem witness_LaneAccessesStart :
    FreshIds (tBase 0x3F80) ∧
    (let s := tBase 0x3F80
     let va (j : Nat) : W64 := s.laneEa s.cur j 6 (.v 2) 0 0
     s.me.budgetOk ({ lm with off := .v 2 }.vregs true false) = true ∧ s.me.budgetOk ({ lm with off := .v 2 }.vregs false true) = true ∧
      s.me.budgetOk ({ at' with off := .v 2 }.vregs true) = true ∧
      ∀ j < 32, (s.me.execSet all).getLsbD j = true → (va j).toNat % 4 = 0 ∧ s.translate s.cur true needR (va j) = .key (0x3F80 + 4 * j) ∧
        s.translate s.cur true needW (va j) = .key (0x3F80 + 4 * j) ∧ s.translate s.cur true needRW (va j) = .key (0x3F80 + 4 * j) ∧
        LaneUnwatched s wpLd (va j) 4 ∧ LaneUnwatched s wpSt (va j) 4) ∧
    (let s := tBase 0x3E80
     let va (j : Nat) : W64 := s.laneEa s.cur j 5 (.s 0) 0 0
     ∀ j < 32, (va j).toNat % 128 = 0 ∧ (va j).toNat % 4096 ≤ 3712 ∧ s.translate s.cur true needRW (va j) = .key 0x3E80 ∧
       s.translate s.cur true needR (va j) = .key 0x3E80 ∧ s.translate s.cur true needW (va j) = .key 0x3E80) ∧
    (let s := tBase 0xFFFF0000000040
     let va (j : Nat) : W64 := s.laneEa s.cur j 6 (.s 0) 0 0
     ∀ j < 32, (va j).toNat % 16 = 0 ∧ s.translate s.cur true needR (va j) = .key (spadKey 0 0x40) ∧
       s.translate s.cur true needW (va j) = .key (spadKey 0 0x40) ∧ LaneUnwatched s wpNone (va j) 16 ∧ LaneUnwatched s wpLd (va j) 4 ∧
       LaneUnwatched s wpSt (va j) 4 ∧ inAperture (va j) = true) ∧
    (let s := tBase 0x3F80
     let va := s.laneEa s.cur 0 6 (.s 0) 0 0
     s.me.execSet all ≠ 0 ∧ va.toNat % 128 = 0 ∧ s.translate s.cur true needR va = .key 0x3F80 ∧ LaneUnwatched s wpLd va 128) := by
  unfold LaneUnwatched
  refine ⟨freshIds_of _ (by decide +kernel) (by decide +kernel), ⟨by decide +kernel, by decide +kernel, by decide +kernel, ?_⟩, by decide +kernel,
    by decide +kernel, by decide +kernel⟩
  intro j hj hx
  clear hx
  revert j
  decide +kernel

/-- LaneAccessesStart: the cancel state has reached the core of a FEWAIT. -/
theorem witness_LaneAccessesStart_cancelled :
    let s := ({ tBase 0xFFFF0000000040 with jobs := [(0, { Job.zero with live := true, reached := [0] })] } : State)
    s.cancelled s.cur = true ∧ s.me.budgetOk fw.vregs = true := by decide +kernel

/-- PrefetchFenceTlbsync: no thread; a fence that goes on and one that waits; a range of translations of the strand's own device, and all. -/
theorem witness_PrefetchFenceTlbsync :
    (tL []).me.budgetOk (lm.vregs false false) = true ∧ (tL []).me.execSet (Mask.mk 1 false) = 0 ∧
    ((tL []).me.execSet all ≠ 0 ∧ WindowsEmpty (tL []) ∧ (tL []).fenceReady 0 true .acqrel .domain = true) ∧
    (let f := { tFlight .store .home .none with lane := true }
     let s := ({ tL [] with flights := [f], strands := [(0, { (tL []).me with insts := 1 })] } : State)
     WindowsEmpty s ∧ s.fenceReady 0 true .rel .domain = false) ∧
    (tL []).isSup 0 = false ∧
    (let s := tState true { tStrand with sregs := [(5, 0x1000), (6, 4096)], runs := [{ seq := 0, pc := 0x2000, left := 2, bound := 0 }], nextRun := 1 }
     let d := s.me.laneS s.me.runSeq 6
     let g : TlbRange := { start := s.me.laneS s.me.runSeq 5 + (0 : W32).signExtend 64, len := fieldOf d 0 48, vd := fieldOf d 55 9,
                           part := s.vdPart (s.gangOf s.cur).vd }
     s.isSup s.cur = true ∧ s.me.execSet ts.m ≠ 0 ∧ WindowsEmpty s ∧ (g.vd = 0x1FF ∨ g.vd < 384 ∧ s.vdPart g.vd = g.part) ∧
      s.tlbsyncReady s.cur g (coresWithin s.me.core ts.scope) = true) := by
  unfold WindowsEmpty; decide +kernel

/-- PrefetchFenceTlbsync: a store that has used a translation of the range is on its way. -/
theorem witness_PrefetchFenceTlbsync_waits :
    let s := ({ tState true { tStrand with sregs := [(5, 0x1000), (6, 4096)], runs := [{ seq := 0, pc := 0x2000, left := 2, bound := 0 }], nextRun := 1 }
      with flights := [tFlight .store .home .none] } : State)
    s.isSup s.cur = true ∧ WindowsEmpty s ∧ (∀ f ∈ s.flights, f.stage ≠ .wc) ∧
      s.tlbsyncReady s.cur { start := 0x1000, len := 0x4000, vd := 0x1FF, part := 0 } (coresWithin 0 .system) = false := by
  unfold WindowsEmpty; decide +kernel

/-- A queue 3 of the strand's gang at 0x70000, of words, whose depth is 2, with a count; thread 0 is in k1. -/
def tQueue (count : Nat) : State :=
  withBytes { tState false { tStrand with kregs := [(1, 1)], runs := [{ seq := 0, pc := 0x2000, left := 2, bound := 0 }], nextRun := 1 } with
    cores := [(0, { Core.zero with tlb := [tTlb], books := [(3, { QueueBook.zero with gang := 1 })] })] } (queueKey 0 3)
    (leBytes 16 (2 ^ 96 + 0xE00 * 2 ^ 84 + 2 ^ 78 + count * 2 ^ 32 + (count % 2) * 2 ^ 8))
def qo1 : QOp := { qo with m := Mask.mk 1 false }

/-- QueueInstructions: a queue with room for its last entry, a full one, an empty one; one that is another gang's; each form; a cancelled job. -/
theorem witness_QueueInstructions :
    (∀ n ∈ [0, 1, 2], let s := tQueue n
      let d := s.desc 0 3
      OneThread s qo1.m 0 ∧ WindowsEmpty s ∧ s.pushReady s.cur = true ∧ s.me.budgetOk (qo1.vregs false) = true ∧
        s.me.budgetOk (qo1.vregs true) = true ∧ s.cancelled s.cur = false ∧ s.me.removed = false ∧ descValid d = true ∧
        (s.book 0 3).gang = s.me.gang ∧ qo1.width.bytes = descSize d ∧ (s.book 0 3).waits = [] ∧ descDepth d = 2 ∧ descCount d = n ∧
        (s.book 0 3).pushed s.cur ≠ descAllow d ∧ descBase d + descSize d * (descTail d + 1) ≤ 0x7FE00) ∧
    (let s := ({ tQueue 1 with cores := [(0, { Core.zero with books := [(3, { QueueBook.zero with gang := 2 })] })] } : State)
     (s.book 0 3).gang ≠ s.me.gang ∧ (s.book 0 3).waits = []) ∧
    (({ tQueue 1 with jobs := [(0, { Job.zero with live := true, reached := [0] })] } : State).cancelled 0 = true) := by
  unfold OneThread WindowsEmpty; decide +kernel

/-- QueueInstructions: the entry at the head lies on a line that ECC has lost. -/
theorem witness_QueueInstructions_ecc :
    let s := ({ tQueue 1 with ecc := [spadKey 0 0x70000 / 128] } : State)
    0 < descCount (s.desc 0 3) ∧ s.eccBad (spadKey 0 (descBase (s.desc 0 3) + descSize (s.desc 0 3) * descHead (s.desc 0 3))) = true ∧
      s.eccBad (queueKey 0 3) = false := by decide +kernel

/-- A strand of the scheduler's state; s1 names task 3, s2 a template at 0x7000 with the image of a role; s3 task 1. -/
def tSpawn (st : Nat) (t : Strand) : State :=
  withBytes (withTask (tSched [] { t with sregs := [(1, 3), (2, 0x7000)] }) 3 st) 0x7040 (leBytes 8 (2 ^ 27 + 2 ^ 13 + 2 * 8))
def spv : SpawnV := { sv with handle := .imm, m := Mask.mk 1 false, imm := 3 }

/-- TaskSpawning: a record that may be spawned, and one that runs, each by SPAWN and SPAWNV; a template, and no template named by s0 or by a
register that holds 0; a record step that is done; a cancelled job. -/
theorem witness_TaskSpawning :
    (let s := tSpawn 0 tStrand
     (Released s .domain ∧ s.me.wait = .none ∧ (s.core s.me.core).queue.length < 64 ∧ s.cancelled s.cur = false ∧
      s.recKey 0 ((s.me.s 1).toNat % 2 ^ 32) = some 0x20180 ∧ HomeServes s 0x20180 ∧ s.me.s 0 = 0 ∧ s.me.s 5 = 0 ∧ s.me.s 2 ≠ 0) ∧
      NotInWfe s s.cur ∧ SpawnOk s 3 none ∧ (s.recWord 0 3 0).toNat % 65536 = 0) ∧
    ((tSpawn 3 tStrand).recKey 0 3 = some 0x20180 ∧ HomeServes (tSpawn 3 tStrand) 0x20180 ∧ ¬SpawnOk (tSpawn 3 tStrand) 3 none) ∧
    (∃ bs, TemplateAt (tSpawn 0 tStrand) ((tSpawn 0 tStrand).me.s 2) bs ∧ SpawnOk (tSpawn 0 tStrand) 3 (some (imageOf bs))) ∧
    (∃ ready v, (tSpawn 0 tStrand).spawnRecord ((tSpawn 0 tStrand).spawnerOf 0) 3 none = some (ready, v)) ∧
    (let t : Strand := { tStrand with kregs := [(1, 1)], runs := [{ seq := 0, pc := 0x2000, left := 2, bound := 0 }], nextRun := 1 }
     let s := tSpawn 0 t
     NotInWfe s s.cur ∧ s.me.laneS s.me.runSeq spv.tmpl = 0 ∧ s.me.budgetOk spv.vregs = true ∧ WindowsEmpty s ∧ s.me.laneWait = .none ∧
      (∀ f ∈ s.flights, f.strand = s.cur → f.lane = true → f.orphan = true) ∧ s.releaseReady s.cur true .domain = true ∧
      (s.core s.me.core).queue.length < 64 ∧ s.cancelled s.cur = false ∧ OneThread s spv.m 0 ∧ s.me.execSet spv.m ≠ 0 ∧
      (s.src32 s.cur 0 spv.imm spv.handle).toNat = 3 ∧ (s.recKey 0 3).isSome = true ∧ SpawnOk s 3 none ∧ ¬SpawnOk (tSpawn 3 t) 3 none) ∧
    (({ tSpawn 0 tStrand with jobs := [(0, { Job.zero with live := true, reached := [0] })] } : State).cancelled 0 = true) := by
  unfold Released HomeServes SpawnOk WindowsEmpty Drained OneThread
  refine ⟨⟨by decide +kernel, notInWfe_of _ _ (by decide +kernel), by decide +kernel⟩, by decide +kernel,
    ⟨(tSpawn 0 tStrand).bytes 0x7000 128, ⟨0x7000, 0x7078, by unfold Unwatched ReadsNow; decide +kernel⟩, by decide +kernel⟩,
    ⟨_, _, (Option.some_get (by decide +kernel)).symm⟩, ⟨notInWfe_of _ _ (by decide +kernel), by decide +kernel⟩, by decide +kernel⟩

/-- TaskSpawning: the tables that translate the record lie apart from it. -/
theorem witness_TaskSpawning_apart :
    let s := tSpawn 0 tStrand
    (∀ ea ∈ (s.walkVa 4 0 (s.recordVa 0 3) true).read, ea + 8 ≤ 0x20180 ∨ 0x20180 + 128 ≤ ea) ∧ ∀ i < 8, s.roByte (0x20180 + i) = false := by
  decide +kernel

/-- A strand of a gang, pinned or not; the bytes in the FIFO of its lane, and the commands of the core. -/
def tMat (pinned : Bool) (fifo : Nat) (mq : List MCmd) : State :=
  { tState false { tStrand with pinned, runs := [{ seq := 0, pc := 0x2000, left := 2, bound := 0 }], nextRun := 1 } with
    cores := [(0, { Core.zero with tlb := [tTlb], holder := some 1, mq, matrix := { Machine.Matrix.zero with fifos := [(0, List.replicate fifo 0)] } })] }

/-- FeedAndDrain: not the pinned strand; a FIFO that the feed fills exactly, and one with a byte too many; a tile that is written yet. -/
theorem witness_FeedAndDrain :
    (tMat false 0 []).me.pinned = false ∧
    (∀ s ∈ [tMat true 128 [], tMat true 129 []], s.me.pinned = true ∧ s.me.budgetOk fe.vregs = true ∧ s.me.execSet fe.m ≠ 0 ∧
      s.me.budgetOk dr.vregs = true ∧ s.me.execSet dr.m ≠ 0 ∧ (s.core s.me.core).matrix.discard.get 0 s.me.lane = 0 ∧
      s.tileBusy s.cur (drainTiles dr) = false) ∧
    (((List.replicate 128 (0 : Byte)).length + (((threadsIn ((tMat true 128 []).me.execSet fe.m)).map (fun i =>
      leBytes 4 ((tMat true 128 []).src32 0 i fe.imm fe.a).toNat)).flatten).length ≤ 256) ∧
      256 < (((tMat true 129 []).core 0).matrix.fifos.get [] 0).length + 128) ∧
    (tMat true 0 [tCmd (.mzero 0x0004)]).tileBusy 0 (drainTiles dr) = true := by decide +kernel


theorem reachesMem_of (s : State) (f : AccForm) (va : W64) (key : Nat) (h : va.toNat % f.align = 0 ∧ f.spadOnly = false ∧
    s.translate s.cur false f.need va = .key key ∧ (s.me.exempt false = true ∨ s.me.watched f.wp va f.bytes = false)) : Reaches s f va key :=
  ⟨h.1, fun x => absurd (h.2.1.symm.trans x) (by decide), h.2.2⟩


/-- A chart of one dimension, or of two of size 1: format code, base, size. -/
def tChart (fmt rank base size : Nat) : Chart :=
  { words := (List.range 32).map (fun i => if i = 0 then BitVec.ofNat 64 (fmt * 2 ^ 59 + rank * 2 ^ 54) else if i = 1 then BitVec.ofNat 64 base
      else if i = 8 then BitVec.ofNat 64 (size + (if rank = 2 then 2 ^ 32 else 0)) else if i = 16 ∨ i = 17 ∧ rank = 2 then 1 else 0), va := 0x8000 }
/-- A gang with chart entries 1 (an index), 2 (a table) and 3 (a packed chart), which holds the matrix engine; its queue, and scalar registers. -/
def tCmds (mq : List MCmd) (regs : List (Nat × BitVec 64)) : State :=
  let s := tMat true 0 mq
  { s with
    strands := [(0, { tStrand with sregs := regs, pinned := true })],
    gangs := [(1, { tGang with charts := [(1, tChart 7 1 0x9000 4), (2, tChart 7 1 0xA000 4), (3, tChart 7 1 0xB000 4), (4, tChart 12 2 0xC000 1)] })] }

/-- MatrixCommandsAndWaits: a queue with room, and a full one; entries free, taken and pending; the operands of each command; waits that go on
and that end. -/
theorem witness_MatrixCommandsAndWaits :
    (let s := tCmds [] [(1, 0x8000), (2, 255), (3, 256), (4, 0x10204), (5, 4), (6, 0x0C00), (7, 0xFFFF), (8, 0x05)]
     s.cancelled s.cur = false ∧ (mqOf s).length < Config.matrixDepth ∧
      Reaches s { bytes := 256, align := 256, need := needR, wp := wpNone } (s.me.s 1) 0x8000 ∧
      ((s.me.s 2).toNat < 256 ∧ s.chartsTaken s.me.core < Config.chartStore ∧ s.chartPending s.me.core s.me.gang 255 = false) ∧
      256 ≤ (s.me.s 3).toNat ∧ ((s.me.s 5).toNat < 256 ∧ ((s.gangOf s.cur).chart? (s.me.s 5).toNat).isSome = true) ∧
      (s.chartPending s.me.core s.me.gang (fieldOf (s.me.s 4) 0 8) = false ∧
        (s.gangOf s.cur).chart? (fieldOf (s.me.s 4) 0 8) = some (tChart 12 2 0xC000 1) ∧ s.holdsEngine = true ∧
        wloadBad (tChart 12 2 0xC000 1) (s.me.s 4) (s.me.s 0) = false) ∧ (s.gangOf s.cur).chart? (fieldOf (s.me.s 8) 0 8) = none ∧
      (∀ form ∈ [MmaForm.dense, .ns, .bm], mmaBad form (s.me.s 6) (s.me.s 0) = false) ∧ fieldOf (s.me.s 7) 16 48 = 0) ∧
    Config.matrixDepth ≤ (mqOf (tCmds (List.replicate 8 (tCmd (.mzero 1))) [])).length ∧
    (let s := tCmds [tCmd (.chart 255 0x8000)] [(1, 255), (2, 255)]
     (s.me.s 2).toNat < 256 ∧ s.chartPending s.me.core s.me.gang (s.me.s 2).toNat = true ∧
      s.chartPending s.me.core s.me.gang (fieldOf (s.me.s 1) 0 8) = true) ∧
    (tS []).holdsEngine = false ∧
    (let s := ({ tCmds [tCmd (.mzero 1)] [] with nextId := 1 } : State)
     s.me.wait = .none ∧ (∃ x ∈ mqOf s, x.gang = s.me.gang ∧ x.id < s.nextId) ∧ ¬∃ x ∈ mqOf s, x.gang = s.me.gang ∧ x.id < 0) ∧
    ((tState false { tStrand with wait := .mwait 1 }).me.wait = .mwait 1 ∧ ¬∃ x ∈ mqOf (tState false { tStrand with wait := .mwait 1 }), x.gang = 1) ∧
    (({ tS [] with jobs := [(0, { Job.zero with live := true, reached := [0] })] } : State).cancelled 0 = true) ∧
    (tState false { tStrand with wait := .cwait }).me.wait = .cwait ∧
    ((∃ r ∈ (tState false { tStrand with pend := [{ tReq with engv := true }] }).me.pend, r.engv = true) ∧
      ¬((∃ x ∈ (tS []).copiesOf (tS []).me.gang, x.strand = (tS []).cur) ∨ ∃ r ∈ (tS []).me.pend, r.engv = true)) := by
  unfold mqOf
  refine ⟨⟨by decide +kernel, by decide +kernel, reachesMem_of _ _ _ _ (by decide +kernel),
    by decide +kernel⟩, by decide +kernel, by decide +kernel, by decide +kernel, by decide +kernel, by decide +kernel, by decide +kernel,
    by decide +kernel, by decide +kernel⟩

/-- The box of an origin block at 0x7000: one element from the origin in each chart. -/
def tBoxBytes : List Byte := leBytes 64 1 ++ List.replicate 128 0
def tCopyRegs : List (Nat × BitVec 64) :=
  [(1, 1 + 2 * 256), (2, 0x7000), (3, 1 + 2 * 256 + 3 * 2 ^ 48), (4, 2), (5, 1 + 2 * 256 + 2 ^ 46), (6, 2 ^ 25)]
def tCopyState : State := withBytes (tCmds [] tCopyRegs) 0x7000 tBoxBytes

/-- CopyCommandsAccepted: charts that stand; the destination's sizes, a box and the words of GCOPY; each refused; a full port. -/
theorem witness_CopyCommandsAccepted :
    (let s := tCopyState
     let x := tChart 7 1 0x9000 4
     let y := tChart 7 1 0xA000 4
     s.cancelled s.cur = false ∧ ¬Config.copyDepth ≤ (s.core s.me.core).port.length ∧ s.chartPending s.me.core s.me.gang 1 = false ∧
      s.chartPending s.me.core s.me.gang 2 = false ∧ s.chartPending s.me.core s.me.gang 3 = false ∧ (s.gangOf s.cur).chart? 1 = some x ∧
      (s.gangOf s.cur).chart? 2 = some y ∧ (s.gangOf s.cur).chart? 3 = some (tChart 7 1 0xB000 4) ∧
      Rm.ofCode (BitVec.ofNat 3 (fieldOf (s.me.s 1) 16 3)) = some .rne ∧
      s.tcopyBad (s.me.s 1) 0 ((List.range 16).map y.size) (List.replicate 16 0) (List.replicate 16 0) = none ∧
      (s.tcopyBad (s.me.s 5) 0 ((List.range 16).map y.size) (List.replicate 16 0) (List.replicate 16 0)).isSome = true ∧
      s.tcopyBad (s.me.s 1) (s.me.s 2) (originWords tBoxBytes 0) (originWords tBoxBytes 64) (originWords tBoxBytes 128) = none ∧
      s.gcopyBad (s.me.s 3) (s.me.s 4) = none ∧ (s.gcopyBad (s.me.s 3) (s.me.s 6)).isSome = true ∧ s.me.s 2 ≠ 0) ∧
    BytesAt tCopyState 64 (tCopyState.me.s 2) 192 tBoxBytes ∧
    (let s := ({ tS [] with cores := [(0, { Core.zero with port := List.replicate 16 { id := 0, seq := 0, core := 0, strand := 0, gang := 1, vd := 0, pc := 0, bound := 0, kind := .gather (tChart 7 1 0 1) (tChart 7 1 0 1) (tChart 7 1 0 1) 0 1, cb := none, next := 0, busy := [], redo := [], parked := [], ended := false, wps := [], done := [], idx := [], late := [], stood := [], eng := 0 } })] } : State)
     s.cancelled s.cur = false ∧ Config.copyDepth ≤ (s.core s.me.core).port.length) := by
  refine ⟨by decide +kernel, ⟨0x7000, 0x70B8, ?_⟩, by decide +kernel⟩
  unfold Unwatched ReadsNow
  decide +kernel


theorem ok_pair (x : EngRes × State) (p : Nat → Bool) (h : (match x.1 with | .ok v => p v | _ => false) = true) : ∃ v u, x = (.ok v, u) ∧ p v = true := by
  obtain ⟨r, u⟩ := x
  cases r with
  | ok v => exact ⟨v, u, rfl, h⟩
  | _ => cases h

theorem got_pair (x : PanelRes × State) (h : (match x.1 with | .got _ => true | _ => false) = true) : ∃ v u, x = (.got v, u) := by
  obtain ⟨r, u⟩ := x
  cases r with
  | got v => exact ⟨v, u, rfl⟩
  | _ => cases h

/-- A core whose engine has slot 0 with one row of f64, eight bytes in each FIFO, an MMA in progress and a command. -/
def tEngine (run : Option MmaRun) (await : Option Nat) (sl : Slot) (op : MOp) : State :=
  let m : Machine.Matrix := { tiles := [], slots := [(0, sl)], fifos := (List.range 64).map (fun i => (i, List.replicate 8 0)), run, discard := [], await, waited := 2 ^ 20, seen := [], panel := [] }
  let c : Core := { Core.zero with tlb := [tTlb], holder := some 1, mq := [tCmd op], matrix := m }
  { tMat true 0 [] with cores := [(0, c)] }
def tSlot : Slot := { Slot.zero with valid := true, fmt := .f64, k := 1 }
def tRun (pass : Nat) : MmaRun := { pass, used := 0, c0 := [], c1 := [] }
def tMma : MOp := .mma .dense 0 0 .f64 0 0
def tCopy : Copy := { id := 0, seq := 0, core := 0, strand := 0, gang := 1, vd := 0, pc := 0, bound := 0, kind := .gather (tChart 7 1 0x9000 4) (tChart 7 1 0xA000 4) (tChart 7 1 0xB000 4) 0 2, cb := none, next := 0, busy := [], redo := [], parked := [], ended := false, wps := [], done := [], idx := [], late := [], stood := [], eng := 0 }

/-- EngineSteps: a descriptor that is well formed, and zeros; a panel of one element; an MMA whose slot does not serve it, one at a pass, one
at its close, one that waits for a granule; MZERO; a command at a port, and a chunk of one. -/
theorem witness_EngineSteps :
    (∀ bs ∈ [((tChart 7 1 0x9000 4).words.map (fun w => leBytes 8 w.toNat)).flatten, []],
      let s := withBytes (tCmds [tCmd (.chart 9 0x8000)] []) 0x8000 bs
      s.firstCmd 0 MOp.isChart = some (tCmd (.chart 9 0x8000)) ∧ s.storesDone 0 0 = true ∧
        (∃ v u, s.engineRead (cmdAccess 0 (tCmd (.chart 9 0x8000))) 256 0x8000 = (.ok v, u) ∧ (chartOf 0x8000 v).wellFormed = !bs.isEmpty) ∧
        ∀ y ∈ (s.core 0).mq, y.gang = 1 → y.op ≠ .chartFree 9) ∧
    (let m := tCmd (.wload 4 (tChart 12 2 0xC000 1) 2 1 0 0)
     let s := tCmds [m] []
     s.firstCmd 0 MOp.isWload = some m ∧ s.slotFree 0 m = true ∧ s.storesDone 0 0 = true ∧
      ∃ es u, s.readPanel 0 m 0 (wloadElems (tChart 12 2 0xC000 1) 1 0 0) = (.got es, u) ∧
        u.readPanel 0 m 1 (wloadScales (tChart 12 2 0xC000 1) 1 0 0 false) = (.got [], u) ∧
        u.readPanel 0 m 2 (wloadScales (tChart 12 2 0xC000 1) 1 0 0 true) = (.got [], u)) ∧
    (let s := tEngine none none Slot.zero tMma
     s.firstTile 0 = some (tCmd tMma) ∧ (s.core 0).matrix.run = none ∧ s.slotFree 0 (tCmd tMma) = true ∧ s.drainAhead 0 (tCmd tMma) = false ∧
      slotServes .dense .f64 ((s.core 0).matrix.slots.get Slot.zero 0) = false) ∧
    (let s := tEngine (some (tRun 0)) none tSlot tMma
     s.firstTile 0 = some (tCmd tMma) ∧ (s.core 0).matrix.run = some (tRun 0) ∧ 0 < passes .f64 .dense 1 ∧
      (s.core 0).matrix.rowsReady (rowBytes .f64 (min (passK .f64 false) (1 - 0 * passK .f64 false))) = true ∧
      s.storesDone 0 0 = true ∧ s.readGranules 0 (tCmd tMma) (passGranules 0 .dense .f64 tSlot 0 0 0) = (.done, s) ∧
      (s.core 0).matrix.badMeta 0 .dense .f64 tSlot 0 (tRun 0) = none) ∧
    (let s := tEngine (some (tRun 1)) (some 3) tSlot tMma
     (s.core 0).matrix.run = some (tRun 1) ∧ passes .f64 .dense ((s.core 0).matrix.slots.get Slot.zero 0).k ≤ 1 ∧
      (s.core 0).matrix.await = some 3 ∧ 2 ^ 20 ≤ (s.core 0).matrix.waited) ∧
    (let s := tEngine none none Slot.zero (.mzero 0x8001)
     s.firstTile 0 = some (tCmd (.mzero 0x8001)) ∧ s.drainAhead 0 (tCmd (.mzero 0x8001)) = false) ∧
    (let s := ({ tS [] with cores := [(0, { Core.zero with tlb := [tTlb], port := [tCopy] })] } : State)
     s.copyOrder 0 = [tCopy] ∧ (s.engine 0 7).length < 2) ∧
    (let s := (tS []).setEngine 0 7 [tCopy]
     let r := s.startChunks tCopy 4
     (s.engine 0 7)[0]? = some tCopy ∧ r.2.busy[0]? = some (0, 2) ∧ (∀ f ∈ s.flights, f.stage ≠ .waiting) ∧
      ∃ res u, (r.1.putCopy 0 7 r.2).runChunk r.2 (0, 2) = (res, u) ∧ res.stop = none) := by
  refine ⟨?_, ⟨by decide +kernel, by decide +kernel, by decide +kernel, ?_⟩, by decide +kernel, ⟨by decide +kernel, by decide +kernel, by decide +kernel,
    by decide +kernel, by decide +kernel, rfl, by decide +kernel⟩, by decide +kernel, by decide +kernel, by decide +kernel, by decide +kernel,
    by decide +kernel, by decide +kernel, ⟨_, _, rfl, by decide +kernel⟩⟩
  · intro bs hb
    simp only [List.mem_cons, List.not_mem_nil, or_false] at hb
    rcases hb with rfl | rfl
    · refine ⟨by decide +kernel, by decide +kernel, ?_, by decide +kernel⟩
      obtain ⟨v, u, h, hp⟩ := ok_pair ((withBytes (tCmds [tCmd (.chart 9 0x8000)] []) 0x8000
        ((tChart 7 1 0x9000 4).words.map (fun w => leBytes 8 w.toNat)).flatten).engineRead (cmdAccess 0 (tCmd (.chart 9 0x8000))) 256 0x8000)
        (fun v => (chartOf 0x8000 v).wellFormed) (by decide +kernel)
      exact ⟨v, u, h, by rw [hp]; decide +kernel⟩
    · refine ⟨by decide +kernel, by decide +kernel, ?_, by decide +kernel⟩
      obtain ⟨v, u, h, hp⟩ := ok_pair ((withBytes (tCmds [tCmd (.chart 9 0x8000)] []) 0x8000 []).engineRead (cmdAccess 0 (tCmd (.chart 9 0x8000))) 256 0x8000)
        (fun v => !(chartOf 0x8000 v).wellFormed) (by decide +kernel)
      exact ⟨v, u, h, by simpa using hp⟩
  · obtain ⟨es, u, h⟩ := got_pair ((tCmds [tCmd (.wload 4 (tChart 12 2 0xC000 1) 2 1 0 0)] []).readPanel 0
      (tCmd (.wload 4 (tChart 12 2 0xC000 1) 2 1 0 0)) 0 (wloadElems (tChart 12 2 0xC000 1) 1 0 0)) (by decide +kernel)
    refine ⟨es, u, h, ?_, ?_⟩
    · have e : wloadScales (tChart 12 2 0xC000 1) 1 0 0 false = [] := by decide +kernel
      rw [e]; rfl
    · have e : wloadScales (tChart 12 2 0xC000 1) 1 0 0 true = [] := by decide +kernel
      rw [e]; rfl

/-- A request of strand 0 in flight. -/
def tFly (f : Flight) : State := { tS [] with flights := [f], nextId := 1 }

/-- RequestsPerformedAtHome: a load, a store, and atomics that write or, for a CAS, do not. -/
theorem witness_RequestsPerformedAtHome :
    (∀ kind ∈ [ReqKind.load, .store, .atom .add .z64 0 true, .atom .cas .z64 1 true, .atom .cas .z64 0 false],
      let f := tFlight kind .queued (.s 4)
      AtHome (tFly f) 0 f ∧ (tFly f).paRefused f = false ∧ (∀ i < f.bytes, (tFly f).roByte (f.key + i) = false) ∧ (tFly f).readLE f.key f.bytes = 0) ∧
    (let f := tFlight .load .queued (.s 4)
     let s := ({ tFly f with ecc := [f.key / 128] } : State)
     AtHome s 0 f ∧ s.paRefused f = true) := by
  unfold AtHome; decide +kernel

/-- AnswersReachStrands: replies for a scalar register and for a thread, error responses, an acknowledgement. -/
theorem witness_AnswersReachStrands :
    ∀ f ∈ [tFlight .load .reply (.s 4), { tFlight .load .reply (.v 3 2) with thread := 31 }, tFlight .load .err (.s 4), tFlight .store .ack .none],
      (tFly f).flight? 0 = some f ∧ f.agent = none ∧ f.orphan = false ∧ f.watch = false ∧ (tFly f).clockOn ((tFly f).flightCore f) = true ∧
        ((tFly f).strand f.strand).live = true := by decide +kernel

theorem nexts (o : Out) (h : (match o with | .next _ => true | _ => false) = true) : ∃ u, o = .next u := by
  cases o with
  | next u => exact ⟨u, rfl⟩
  | _ => cases h

/-- A strand whose access at an address waits for its walk. -/
def tWalk (va : W64) (t : Strand) : State :=
  { tState false { t with wait := .walk (.ldd 4 1 0) [va] 4, sregs := [(1, va)] } with cores := [(0, Core.zero)] }
def tHeld : State :=
  { tP [] with parts := [(0, { Part.reset with regs := [(0, 0x8000000000000000)], fqbase := 0x30000 })],
               dies := (0, { Die.reset 0 with held := [(0, [1, 2, 3, 4, 5, 6, 7, 8])] }) :: (List.range 8).map (fun d => (d + 1, Die.reset (d + 1))) }

/-- LinesWalksFetchesAndReports: an entry of the window; an invalidation that may be applied; a line that another core asks for; walks of strands
that may go on or not; a fetch of a mapped page and of one that is not; a held entry. -/
theorem witness_LinesWalksFetchesAndReports :
    ((tFly (tFlight .load .window (.s 4))).flight? 0 = some (tFlight .load .window (.s 4))) ∧
    (let m : Inval := { src := 0, core := 0, line := 7, vec := [(0, 1)] }
     let s := ({ tS [] with dies := [(0, { Die.reset 0 with invals := [m] })] } : State)
     (s.die 0).invals[0]? = some m ∧ m.src < 9 ∧ (s.die 0).vc.get m.src + 1 = m.vec.get m.src ∧
      ∀ i < 9, i ≠ m.src → 0 ≤ ((s.die 0).vc.get i - m.vec.get i).toInt) ∧
    (let l : L1Line := { line := 0x60, bytes := List.replicate 128 0, ev := 4, owned := true, served := 0, vec := [] }
     let s := ({ tFly (tFlight .load .queued (.s 4)) with cores := [(1, { Core.zero with l1 := [l] })] } : State)
     (∃ l ∈ (s.core 1).l1, l.line = 0x60 ∧ l.owned = true) ∧
      ∃ g ∈ s.flights, g.stage = .queued ∧ isSpad g.key = false ∧ g.key / 128 = 0x60 ∧ s.flightCore g ≠ 1) ∧
    (let s := tWalk 0x3000 tStrand
     let w := s.walkAll 0 0 4 [0x3000]
     let s' := w.2.setStrand 0 ((w.2.strand 0).setWait false (.walked w.1))
     (s.strand 0).waitOf false = .walk (.ldd 4 1 0) [0x3000] 4 ∧ s.walkWaits 0 0 0x3000 = false ∧ s'.mayIssue 0 = true ∧ ∃ u, reissue (.ldd 4 1 0) { s' with cur := 0 } = .next u) ∧
    (let s := tWalk 0x3000 { tStrand with parked := some tParked }
     let w := s.walkAll 0 0 4 [0x3000]
     (s.strand 0).waitOf false = .walk (.ldd 4 1 0) [0x3000] 4 ∧ s.walkWaits 0 0 0x3000 = false ∧ (w.2.setStrand 0 ((w.2.strand 0).setWait false (.walked w.1))).mayIssue 0 = false) ∧
    (let s := ({ tS [] with cores := [(0, Core.zero)] } : State)
     let w := s.walkVa 0 0 0x1000
     s.fetchDue 0 false = true ∧ (0x1000 : W64).toNat < 2 ^ 56 ∧ inReserve 0x1000 = false ∧ (s.core 0).tlbFind ((s.strand 0).units false) 0 0x1000 = none ∧
      w.fin = .leaf tTlb.pte ∧ s.walkTurn 0 0 w = true ∧ s.refreshing (leafPa tTlb.pte 0x1000) = false ∧ permits tTlb.pte needXS = true ∧
      s.paOk (leafPa tTlb.pte 0x1000) = true ∧ s.vdRefused 0 (leafPa tTlb.pte 0x1000) = false ∧ pkgOf (leafPa tTlb.pte 0x1000) = s.pkgnum.toNat ∧
      ((s.afterWalk 0 0 w).tlbFill 0 ([((s.strand 0).units false).headD 4, 4].eraseDups) 0 0x1000 tTlb.pte).sliceTurn (leafPa tTlb.pte 0x1000) 0 (s.gangOf 0).prio = true) ∧
    (let s := ({ tState false { tStrand with pc := 0x100000000 } with cores := [(0, Core.zero)] } : State)
     s.fetchDue 0 false = true ∧ (s.core 0).tlbFind ((s.strand 0).units false) 0 0x100000000 = none ∧ (s.walkVa 0 0 0x100000000).fin = .notMapped ∧
      s.walkTurn 0 0 (s.walkVa 0 0 0x100000000) = true) ∧
    (∃ u, (tHeld.die 0).held = [(0, [1, 2, 3, 4, 5, 6, 7, 8])] ∧ (tHeld.die 0).source = [] ∧
      tHeld.fqWrite 0 0 [1, 2, 3, 4, 5, 6, 7, 8] = some u) ∧
    (tFlight .load .home (.s 4)).key / 128 = 0x3010 / 128 := by
  refine ⟨by decide +kernel, by decide +kernel, by decide +kernel, ⟨by decide +kernel, by decide +kernel, by decide +kernel, nexts _ (by decide +kernel)⟩,
    by decide +kernel, by decide +kernel, by decide +kernel, ?_, by decide⟩
  obtain ⟨u, hu⟩ := rejects (tHeld.fqWrite 0 0 [1, 2, 3, 4, 5, 6, 7, 8]) (by decide +kernel)
  exact ⟨u, by decide +kernel, by decide +kernel, hu⟩

/-- A launch record of a graph of task 3 in job 4, at 0x9000, and its list at 0x9100; the LAUNCH write that names it. -/
def tLaunch (prio st : Nat) : State :=
  let s := withTask (tSched [] tStrand) 3 st
  let s := withBytes (withBytes s 0x9000 (leBytes 8 (2 * 2 ^ 60 + prio * 2 ^ 52 + 4 * 2 ^ 16))) 0x9028 (leBytes 8 (2 ^ 32) ++ leBytes 8 0x9100)
  let s := withBytes s 0x9100 (leBytes 4 3)
  { s with vds := [(0, { s.vd 0 with launches := [0x9000] })], launchOrder := [0] }

/-- LaunchAndCheck: a write that is queued and one with a reserved bit; a record that is accepted, and one whose task runs. -/
theorem witness_LaunchAndCheck :
    (let s := tSched [] tStrand
     s.vdEn 0 = true ∧ (s.part (s.vdPart 0)).rbusy = false ∧ fieldOf (0x9000 : W64) 56 8 = 0 ∧ fieldOf (0x9000 : W64) 0 6 = 0 ∧
      (s.vd 0).launches.length < 16 ∧ fieldOf (0x9001 : W64) 0 6 ≠ 0) ∧
    ∀ st ∈ [0, 3], let s := (tLaunch 8 st)
      let s' := (s.jobsOf 0).foldl State.pushLeft s
      let m : Image := (List.range 16).map (fun i => BitVec.ofNat 64 (s'.readLE (0x9000 + 8 * i) 8))
      let u : State := { s'.setVd 0 { s'.vd 0 with launches := [] } with launchOrder := s'.launchOrder.drop 1 }
      let v := (u.recallAll 0x9000 128).setVd 0 { u.vd 0 with lastJob := launchJob m }
      (s'.vd 0).launches = 0x9000 :: [] ∧ s'.launchOrder.head? = some 0 ∧ u.hwKey 128 0 needR (launchVa 0x9000) false = some 0x9000 ∧
        v.launchBad 0 m = decide (st = 3) := by
  refine ⟨by decide +kernel, ?_⟩
  intro st hs
  simp only [List.mem_cons, List.not_mem_nil, or_false] at hs
  rcases hs with rfl | rfl <;> decide +kernel

/-- FencesAndPartitionResets and ControlSpaceWrites: the state after reset; a partition whose reset is under way; records that may be written
and words that may not; a partition at work. -/
theorem witness_ControlSpace :
    (let s := State.reset
     (s.die 0).present = true ∧ (s.die 0).fenced = false ∧ (s.part 0).rbusy = false ∧ s.anyVdEn = false ∧ SMap.wf s.mem = true ∧
      (partSets 0 0x8000000000010000 0 = true → s.partActive 0 = false) ∧ (∀ x ∈ s.parts, x.1 ≠ 0 →
        ({ s.part 0 with regs := (s.part 0).regs.set 0 0x8000000000010000 } : Part).overlaps x.2 = false) ∧ (0x8000000000010000 : W64).getLsbD 62 = false ∧
      vdReserved 1 0x10000 = false ∧ (vdIdle (s.vdReg 0 1) 0x10000 1 = true → s.vdActive 0 = false) ∧ vdReserved 1 1 = true) ∧
    (({ tS [] with parts := [(0, { Part.reset with rbusy := true })] } : State).part 0).rbusy = true ∧ (tS []).partActive 0 = true ∧
    (tS []).anyVdEn = true := by decide +kernel

/-- A port that is trained, with a credit for a reply, and flits that await an acknowledgement. -/
def tLink (fails : Nat) (replay : List (Nat × Flit)) : State :=
  { tS [] with ports := [(1, { Port.reset with trained := true, creditRep := 1, replay, fails })] }
def tBody (wr : Bool) : Flit :=
  { seq := 0, ack := 4095, nak := false, creditReq := 1, creditRep := 0, epoch := 0, vd := 0, crc := 0, wr, op := if wr then .store else .load,
    pa := 0x3000, src := 300, tag := 5, ev := 0, prio := 0, mask := 3, more := false, data := if wr then [1, 2] else [] }
/-- A flit of a type, with the CRC of its bytes or with another. -/
def tFlit (type : Nat) (good wr : Bool) : Flit :=
  { tBody wr with crc := Config.crc64 (flitBody type (tBody wr)) + if good then 0 else 1 }

/-- A request of the peer at port 1, performed. -/
def tAnswer (stage : Stage) (q : Flit) : Flight := agentFlight { who := .peer 1 q, src := 300, vd := 0, prio := 0 } .load 0x3000 8 0 0 0 0 5 stage 0

theorem tFlit_ok (type : Nat) (good wr : Bool) : flitOk type (tFlit type good wr) = good := by
  have h : flitBody type (tFlit type good wr) = flitBody type (tBody wr) := rfl
  unfold flitOk
  rw [h]
  cases good
  · simp [tFlit]
  · simp [tFlit]

/-- LinksClocksAndPower: a flit that is next and one whose CRC fails, of each type; a request of each kind, with a credit for its reply and
without; replays left and none; a port in training, with a partner and without, and one never trained; the means about the cap; a step that
a die owes; a relock. -/
theorem witness_LinksClocksAndPower :
    (∀ type ∈ [0, 1, 2, 3], ∀ wr ∈ [false, true], let s := tLink 0 []
      let f := tFlit type true wr
      (s.port 1).trained = true ∧ (s.port 1).resetting = false ∧ flitOk type f = true ∧ f.seq = (s.port 1).rxNext ∧
        (∀ e ∈ (s.port 1).replay, e.2.seq ≠ f.ack) ∧ (s.port 1).replay.length < 1024 ∧ flitOk type (tFlit type false wr) = false) ∧
    (∀ wr ∈ [false, true], let s := tLink 0 []
      let f := tFlit 1 true wr
      s.peerOk f = true ∧ s.peerOk { f with mask := 0 } = false ∧ f.more = false ∧ (s.port 1).partReq = [] ∧ (s.port 1).partRep = [] ∧
        s.answeredBy f = []) ∧
    (∀ stage ∈ [Stage.reply, .ack, .err], let q := tBody false
      let g := tAnswer stage q
      let s := ({ tLink 0 [] with flights := [g], nextId := 1 } : State)
      s.flight? g.id = some g ∧ (∃ a, g.agent = some a ∧ a.who = .peer 1 q) ∧ (s.flights.filter (fun x => x.agent == g.agent)) = [g] ∧
        s.portRoom 1 2 1 = true ∧ 0 < g.bytes ∧ g.bytes ≤ 64) ∧
    (let f := { tBody false with src := 0, tag := 0, pa := 0x1000000003000, data := List.replicate 64 1 }
     let g := { tFlight .load .link (.s 4) with key := 0x1000000003078 }
     let s := ({ tLink 0 [] with flights := [g], nextId := 1, ports := [(1, { Port.reset with trained := true, partRep := List.replicate 64 1 })] } : State)
     s.answeredBy f = [g] ∧ g.agent = none ∧ g.mayHit = true ∧ ((s.port 1).partRep ++ f.data).length = 128 ∧ g.key % 128 + g.bytes ≤ 128 ∧
       (∀ i < 128, s.roByte (g.key / 128 * 128 + i) = false) ∧ ∀ x ∈ s.flights, x.strand = g.strand → x.stage ≠ .wc) ∧
    (let back (n : Nat) : Nat := (((tLink 0 []).port 1).rxNext + 4096 - n % 4096) % 4096
     back 4095 < 2048 ∧ 4095 ≠ ((tLink 0 []).port 1).rxNext ∧ 2048 ≤ back 1) ∧
    (∀ n ∈ [15, 16], ((tLink n [(1, tBody false)]).port 1).replay ≠ [] ∧ ((tLink n [(1, tBody false)]).port 1).fails = n) ∧
    ((tLink 0 []).port 2).trained = false ∧
    (let s := ({ tS [] with ports := [(1, { Port.reset with resetting := true })] } : State)
     (s.port 1).resetting = true ∧ s.partner 1 = false ∧ ({ s with attached := [(1, 2)] } : State).partner 1 = true) ∧
    ((tS []).cap < 1501 ∧ 1439 + 60 < (tS []).cap ∧ (tS []).mgmt.below < 99 ∧ 1440 ≤ (tS []).cap ∧ (tS []).cap ≤ 1440 + 60 ∧
      99 ≤ ({ tS [] with mgmt := { Mgmt.reset with below := 99 } } : State).mgmt.below) ∧
    (let s := ({ tS [] with dies := [(0, { Die.reset 0 with due := 10 })], turns := [.pass 0 1] } : State)
     s.turns = [.pass 0 1] ∧ (s.die 0).present = true ∧ (s.die 0).fenced = false ∧ (s.die 0).relock = 0 ∧ (s.die 0).due ≠ 0 ∧
      (s.die 0).due ≠ (s.die 0).mult) ∧
    (let s := ({ tS [] with dies := [(0, { Die.reset 0 with steps := 17, relock := 9, refcnt := 12, stepLog := [(1, [7, 8, 9, 17])] })] } : State)
     (s.die 0).stepLog.get [] ((s.die 0).steps % 16) = [7, 8, 9, 17] ∧ (s.die 0).relock ≠ 0 ∧ (7 : W64).toNat < (s.die 0).refcnt.toNat) := by
  refine ⟨fun type _ wr _ => ⟨by decide +kernel, by decide +kernel, tFlit_ok _ _ _, rfl, fun e he => ?_, by decide +kernel, tFlit_ok _ _ _⟩, ?_,
    by decide +kernel, by decide +kernel, by decide +kernel, by decide +kernel, by decide +kernel, by decide +kernel, by decide +kernel⟩
  · have : ((tLink 0 []).port 1).replay = [] := by decide +kernel
    simp [this] at he
  · decide +kernel

/-- HostAccessesAndMailbox: the last bytes of the window's first page that are mapped, and bytes that are not; idle mailboxes of both kinds;
requests that are too long; images staged or not; a halt operation that goes on. -/
theorem witness_HostAccessesAndMailbox :
    (let s := tS []
     s.vdEn (1 - 1) = true ∧ 0x3FF8 + (leBytes 8 1).length ≤ 2 ^ 36 ∧ s.hostKeys (1 - 1) false (BitVec.ofNat 64 0x3FF8) (leBytes 8 1).length = some [(0x3FF8, 8)] ∧
      (∀ k ∈ [(0x3FF8, 8)], s.anyRefreshing k.1 k.2 = false) ∧
      (∀ p ∈ linePieces [(0x3FF8, 8)], isSpad p.1 = false ∧ pkgOf p.1 = s.pkgnum.toNat ∧ s.sliceTurn p.1 (1 - 1) 0 = true) ∧
      s.hostKeys (1 - 1) true (BitVec.ofNat 64 0x3FF8) (leBytes 8 1).length = some [(0x3FF8, 8)] ∧
      s.hostKeys (1 - 1) true (BitVec.ofNat 64 0x100000000) (leBytes 8 1).length = none ∧
      (s.visible 0 = true ∧ (s.box 0).state ≠ 1) ∧ (s.visible 1 = true ∧ (s.box 1).state ≠ 1 ∧ s.mgmt.waiting = []) ∧ s.mgmt.staged = none) ∧
    ((List.replicate 64 (0 : Byte)).length = 64 ∧ ([] : List Byte).length ≠ 64 ∧ ([] : List Byte).length ≤ 0x7FF000) ∧
    (({ tS [] with mgmt := { Mgmt.reset with staged := some [1] } } : State).mgmt.staged = some [1]) ∧
    (((tS []).die 8).present = true ∧ 8 < 9) ∧
    (let s := tTwo .resident Strand.zero
     let u := ({ s with mgmt := { s.mgmt with boxes := [(0, { Mailbox.reset with state := 1, seq := 7, req := haltRequest 2 0 0, doorbell := 0x30 * 2 ^ 48 })] } } : State)
     (u.box 0).state = 1 ∧ (u.box 0).seq = 7 ∧ (u.box 0).req.take 8 = haltRequest 2 0 0 ∧ fieldOf (u.box 0).doorbell 48 16 = 0x30 ∧
      (u.gang (gangKeyOf 0 (2 : BitVec 32).toNat)).live = true ∧ u.recState 0 (2 : BitVec 32).toNat ∈ [stRunning, stParked, stSuspended] ∧
      ((∃ v, u.haltOp (gangKeyOf 0 2) 0 = .done v) ∨ ∃ v, u.haltOp (gangKeyOf 0 2) 0 = .wait v)) := by
  refine ⟨by decide +kernel, by decide +kernel, by decide +kernel, by decide +kernel, ⟨by decide +kernel, by decide +kernel, by decide +kernel,
    by decide +kernel, by decide +kernel, by decide +kernel, ?_⟩⟩
  exact .inl ⟨_, rfl⟩

/-- A mailbox that a doorbell has made busy with a report, and reports that wait. -/
def tBox (fn : Nat) (waiting : List Nat) : State :=
  { tS [] with mgmt := { Mgmt.reset with boxes := [(fn, { Mailbox.reset with state := 1, seq := 7, doorbell := 2 ^ 48 + 7 * 2 ^ 32 + 64 })], waiting } }

/-- HostAccessesAndMailbox: doorbells at busy and idle mailboxes, of commands, of lengths out of range and of no command; reports that are first and
that are not. -/
theorem witness_HostDoorbell :
    (let s := tBox 1 [1]
     (s.box 1).state = 1 ∧ (s.box 1).seq = 7 ∧ fieldOf (s.box 1).doorbell 48 16 = 1 ∧ (s.box 1).request 64 = List.replicate 64 0 ∧
      s.mgmt.waiting.head? = some 1 ∧ s.visible 1 = true ∧ (tBox 1 [2, 1]).mgmt.waiting.head? ≠ some 1 ∧ (tBox 0 []).mgmt.waiting = []) ∧
    ((tS []).visible 1 = true ∧ ((tS []).box 1).state ≠ 1 ∧ ((tS []).box 0).state ≠ 1 ∧ mailLength 1 64 = some true ∧ mailLength 1 63 = some false ∧
      mailLength 0x10 0x7FF001 = some false ∧ mailLength 3 0 = none) := by decide +kernel

/-- A doorbell makes the mailbox busy (R392). -/
theorem test_doorbell_busy :
    (match step { tS [] with turns := [.host 1 false 0x1000 true (leBytes 8 (2 ^ 48 + 7 * 2 ^ 32 + 64))] } with
     | .next t => (t.box 1).state == 1 && (t.box 1).seq == 7 && t.mgmt.waiting == [1]
     | _ => false) = true := by decide +kernel

/-- HostAccessesAndMailbox: 0x7F_F001 bytes are more than an image may have. -/
theorem witness_image_too_long : 0x7FF000 < (List.replicate 0x7FF001 (0 : Byte)).length := by rw [List.length_replicate]; decide

/-- ResetLeaves: a state with a committed image; nothing, and a peer package, on port 0. -/
theorem witness_ResetLeaves : SMap.wf (tS []).mem = true ∧ (tS []).hbmBytes ≤ 0x800000000000 ∧
    (tS []).attachedTo 0 ≠ 2 ∧ ({ tS [] with attached := [(0, 2)] } : State).attachedTo 0 = 2 ∧
    (({ tS [] with mgmt := { Mgmt.reset with committed := some [1] } } : State).mgmt.committed = some [1]) ∧
    (unitWord 6 33 ∈ ({ tS [] with defects := [unitWord 6 33] } : State).defects) ∧
    (unitWord 1 8 ∈ ({ tS [] with defects := [unitWord 1 8] } : State).mgmt.fenceList ++ ({ tS [] with defects := [unitWord 1 8] } : State).defects) := by
  decide +kernel

/-- ScalarEncodeDecode: a word that decodes, and an instruction whose word decodes to another name of it. LaneEncodeDecode has no hypothesis. -/
theorem witness_ScalarEncodeDecode : decodeScalar 0x04208300 = .ok (.add 2 2 3) ∧ (Instr.haltRelease 5 6 7).wf = true ∧
    (encodeScalar (.haltRelease 5 6 7)).isSome = true := by decide +kernel

/-- An instruction cache line that holds a word at its start. -/
def tLine (line : Nat) (bs : List Byte) : ILine := { vd := 0, line, bytes := bs ++ List.replicate (128 - bs.length) 0 }
def tFetch (turns : List Turn) (scalar lane : List Byte) : State :=
  { tSched [] { tStrand with sregs := [(2, 5), (3, 6)], runs := (if lane = [] then [] else [{ seq := 0, pc := 0x2000, left := 2, bound := 0 }]), nextRun := 1 } with
    cores := [(0, { Core.zero with tlb := [tTlb], icS := [tLine 0x20 scalar], icL := [tLine 0x40 lane] })], turns, stream := false,
    dies := (List.range 9).map (fun d => (d, { Die.reset d with refcnt := 130 })) }

/-- StepRunsDecodedInstruction: each stream's turn, with a word that decodes and one that does not, with registers that are ready and not, and
a strand that is chosen; a slot that is passed over; a sheet whose last word is not zero; no turn. -/
theorem witness_StepRunsDecodedInstruction :
    (∀ w ∈ [0x04208300, 0], let s := tFetch [.strand 0 false] (leBytes 4 w) []
      let t := s.strand 0
      t.live = true ∧ s.mayIssue 0 = true ∧ t.pendTrap = none ∧ t.pend = [] ∧ t.wait = .none ∧ t.laneWait = .none ∧ t.pc.toNat % 4 = 0 ∧
        (s.core t.core).icS.find? (fun l => l.vd == 0 && l.line == t.pc.toNat / 128) = some (tLine 0x20 (leBytes 4 w)) ∧
        s.scalarReady 0 (.add 2 2 3) = true ∧ ({ s with turns := [] } : State).chosen 0 false = true ∧
        4 ≤ ((tLine 0x20 (leBytes 4 w)).bytes.drop 0).length) ∧
    ({ tFetch [.strand 0 false] (leBytes 4 0x04208300) [] with flights := [tFlight .load .home (.s 3)] } : State).scalarReady 0 (.add 2 2 3) = false ∧
    decodeScalarBytes ((tLine 0x20 (leBytes 4 0x04208300)).bytes.drop 0) = .ok (.add 2 2 3) ∧
    (∀ j, decodeScalarBytes ((tLine 0x20 (leBytes 4 0)).bytes.drop 0) ≠ .ok j) ∧
    (∀ w ∈ [0x017010810000000000000000, 0], let s := tFetch [.strand 0 true] [] (leBytes 12 w)
      let t := s.strand 0
      t.live = true ∧ s.mayIssue 0 = true ∧ t.pendTrap = none ∧ t.pend = [] ∧ t.runs ≠ [] ∧ t.laneWait = .none ∧ t.redo = none ∧
        (∀ e ∈ t.loopBuf, e.1 ≠ t.lanePc.toNat) ∧ t.lanePc.toNat < 2 ^ 56 ∧
        (s.core t.core).icL.find? (fun l => l.vd == 0 && l.line == t.lanePc.toNat / 128) = some (tLine 0x40 (leBytes 12 w)) ∧
        leNat (((tLine 0x40 (leBytes 12 w)).bytes.drop (t.lanePc.toNat / 64 * 64 % 128 + 60)).take 4) = 0 ∧
        s.laneReady 0 (.laneAddInt { ar with a := .v 8, b := .v 16 }) = true ∧ ({ s with turns := [] } : State).chosen 0 true = true ∧
        t.passesOver (.laneAddInt { ar with a := .v 8, b := .v 16 }) = false ∧
        t.passesOver (.laneAddInt { ar with a := .v 8, b := .v 16, m := Mask.mk 1 false }) = true ∧
        12 ≤ ((tLine 0x40 (leBytes 12 w)).bytes.drop 0).length) ∧
    ({ tFetch [.strand 0 true] [] (leBytes 12 1) with flights := [{ tFlight .load .home (.v 8 1) with lane := true }] } : State).laneReady 0
      (.laneAddInt { ar with a := .v 8, b := .v 16 }) = false ∧
    leNat (((tLine 0x40 (List.replicate 60 0 ++ [1])).bytes.drop (0x2000 / 64 * 64 % 128 + 60)).take 4) ≠ 0 ∧
    decodeLaneBytes ((tLine 0x40 (leBytes 12 0x017010810000000000000000)).bytes.drop 0) = .ok (.laneAddInt { ar with a := .v 8, b := .v 16 }) ∧
    (∀ j, decodeLaneBytes ((tLine 0x40 (leBytes 12 0)).bytes.drop 0) ≠ .ok j) ∧
    (let s := tFetch [] (leBytes 4 0x04208300) []
     s.turns = [] ∧ s.autoEvent = none ∧ s.cur = 0 ∧ s.stream = false ∧ s.scalarReady 0 (.add 2 2 3) = true ∧ s.chosen 0 false = true ∧
      ∃ u, exec (.add 2 2 3) (s.noteIssue 0 false 1) = .next u) ∧
    (let s := ({ tFly (tFlight .store .ack .none) with turns := [] } : State)
     s.turns = [] ∧ s.autoEvent.isSome = true) := by
  have d (w : W32) (h : (match decodeScalar w with | .ok _ => false | .error _ => true) = true) : ∀ j, decodeScalar w ≠ .ok j := by
    intro j e; rw [e] at h; cases h
  have d2 (w : W96) (h : (match decodeLane w with | .ok _ => false | .error _ => true) = true) : ∀ j, decodeLane w ≠ .ok j := by
    intro j e; rw [e] at h; cases h
  exact ⟨by decide +kernel, by decide +kernel, by decide +kernel, d _ (by decide +kernel), by decide +kernel, by decide +kernel, by decide +kernel,
    by decide +kernel, d2 _ (by decide +kernel), ⟨by decide +kernel, by decide +kernel, by decide +kernel, by decide +kernel, by decide +kernel,
    by decide +kernel, ⟨_, rfl⟩⟩, by decide +kernel⟩

/-- A second strand on the lane of strand 0, which has issued less recently. -/
def tRival : State :=
  let s := tFetch [.strand 0 true] [] (leBytes 12 0x017010810000000000000000)
  { s with turns := [], strands := [(0, { s.strand 0 with stampL := 5 }), (9, { s.strand 0 with sid := 1, stampL := 0 })] }
/-- Four strands on the other lanes of the core of strand 0, which stand before it in the rotation. -/
def tRivals : State :=
  let s := tFetch [.strand 0 false] (leBytes 4 0x04208300) []
  { s with turns := [], strands := (0, { s.strand 0 with stampS := 5 }) :: [1, 2, 3, 4].map (fun l => (8 + l, { s.strand 0 with lane := l })) }

/-- StepRunsDecodedInstruction: a strand that is ready and is not chosen, where the latencies of its rivals' instructions have passed. -/
theorem witness_StepNotChosen :
    (Config.latencyPast 0 9 = true → tRival.chosen 0 true = false) ∧
      ((∀ k ∈ [9, 10, 11, 12], Config.latencyPast 0 k = true) → tRivals.chosen 0 false = false) := by
  constructor
  · intro h
    have e : tRival.rivals 0 true = ((tRival.strands.drop 1).filter (fun c => Config.latencyPast 0 c.1)).map (·.1) := by rfl
    have m : ∀ c ∈ tRival.strands.drop 1, c.1 = 9 := by decide +kernel
    unfold State.chosen
    rw [e, List.filter_eq_self.mpr (fun c hc => by rw [m c hc]; exact h)]
    decide +kernel
  · intro h
    have e : tRivals.rivals 0 false = ((tRivals.strands.drop 1).filter (fun c => Config.latencyPast 0 c.1)).map (·.1) := by rfl
    have m : ∀ c ∈ tRivals.strands.drop 1, c.1 ∈ [9, 10, 11, 12] := by decide +kernel
    unfold State.chosen
    rw [e, List.filter_eq_self.mpr (fun c hc => h c.1 (m c hc))]
    decide +kernel

/-- An internal failure of the management core ends the command of a busy mailbox (R392). -/
theorem test_mailbox_failure :
    (match step { tBox 1 [1] with turns := [.mgmtFailure 1] } with
     | .next t => (t.box 1).state == 3 && (t.box 1).err == 6 && t.mgmt.waiting.isEmpty
     | _ => false) = true := by decide +kernel

/-- LaneIntegerAndBitOperations, the tags: sources that are uniform, affine and general, over all threads and fewer. -/
theorem witness_TagsFollow :
    let r : Arith := { ar with a := .v 2, b := .v 3 }
    let s (ta tb : Tag) : State := tState false { (tL []).me with
      vregs := (List.range 32).map (fun j => (64 + j, BitVec.ofNat 32 (3 * j))), tags := [(2, ta), (3, tb)] }
    r.ty = .z32 ∧ r.sat = false ∧ r.a = .v 2 ∧ r.b = .v 3 ∧ (s .general .uniform).me.budgetOk (r.vregs 2) = true ∧
      (s .general .uniform).me.execSet r.m = 0xFFFFFFFF ∧ (∀ ta ∈ [Tag.affine 1, .general], TagHolds (s ta .uniform).me 2) ∧
      TagHolds (s .general .uniform).me 3 ∧ (s (.affine 1) .uniform).me.tagOf 1 r.a = .affine 1 ∧
      (tL []).me.tagOf 1 r.a = .uniform ∧ ({ (tL []).me with kregs := [(1, 1)] } : Strand).execSet { k := 1, ks := false } = 1 := by
  intro r s
  refine ⟨rfl, rfl, rfl, rfl, by decide +kernel, by decide +kernel, ?_, ?_, by decide +kernel, by decide +kernel,
    by decide +kernel⟩
  · intro ta h
    simp only [List.mem_cons, List.not_mem_nil, or_false] at h
    rcases h with rfl | rfl
    · exact ⟨0, 3, by decide +kernel⟩
    · trivial
  · show ∀ j < 32, (s .general .uniform).me.v 3 j = (s .general .uniform).me.v 3 0
    decide +kernel

/-- StepKeepsMemoryForm and StepKeepsFreshNumbers: a state with memory and a request in flight. -/
theorem witness_StepKeeps : SMap.wf (tFly (tFlight .load .home (.s 4))).mem = true ∧ SMap.wf (tFly (tFlight .load .home (.s 4))).fe = true ∧
    FreshIds (tFly (tFlight .load .home (.s 4))) ∧ (match step (tFly (tFlight .load .home (.s 4))) with | .next _ => true | _ => false) = true := by
  unfold FreshIds; decide +kernel

end Sys2Proof.Tests
end

section
/-! Every meaning answers a next state (R9, R338): rules for the outcomes, a lemma for each meaning whose branches are not next
states written out, and the dispatch over all instructions. -/

namespace Sys2Proof.Machine

open Sys2Proof

/-! ### Outcomes that are a next state -/

/-- The outcome is a next state: neither a fault nor a refusal. -/
def Answers (o : Out) : Prop := ∃ t, o = .next t

theorem answers_next (t : State) : Answers (.next t) := ⟨t, rfl⟩

theorem answers_ite {c : Prop} [Decidable c] {a b : Out} (ha : Answers a) (hb : Answers b) :
    Answers (if c then a else b) := by
  split
  · exact ha
  · exact hb

theorem answers_ite_next {c : Prop} [Decidable c] (t u : State) : Answers (if c then .next t else .next u) :=
  answers_ite (answers_next t) (answers_next u)

/-! ### The shared operations -/

theorem State.answers_onFlight (s : State) (id : Nat) (ok : Flight → Bool) (f : State → Flight → State) :
    Answers (s.onFlight id ok f) := by
  unfold State.onFlight
  cases s.flight? id with
  | some x => exact answers_next _
  | none => exact answers_next _

theorem State.answers_control (s : State) (trap : Bool) (t : Strand) : Answers (s.control trap t) := answers_next _

/-! ### Walks and fetches -/

theorem answers_execLrunr (a b : SReg) (s : State) : Answers (execLrunr a b s) := by
  dsimp only [execLrunr]
  repeat' split
  all_goals exact answers_next _

/-- LRUNR is the one instruction with a walk to wait for whose meaning has branches. -/
theorem answers_reissue (i : Instr) (s : State) : Answers (reissue i s) := by
  cases i with
  | lrunr a b => exact answers_execLrunr a b s
  | _ => exact answers_next _

theorem answers_execPageWalk (party : Nat) (s : State) : Answers (execPageWalk party s) := by
  dsimp only [execPageWalk]
  split
  · refine answers_ite (answers_next _) (answers_ite ?_ (answers_next _))
    split
    · exact answers_next _
    · exact answers_reissue _ _
  · exact answers_next _

theorem answers_execFetchMissLineArrival (strand : Nat) (lane : Bool) (s : State) :
    Answers (execFetchMissLineArrival strand lane s) := by
  delta execFetchMissLineArrival
  extract_lets t vd pc need failed drop arrive w kept
  have hfailed (u : State) : Answers (failed u) := answers_next _
  have harrive (u : State) (pte : W64) : Answers (arrive u pte) := by
    refine answers_ite (answers_next _) (answers_ite (hfailed u) (answers_ite (answers_ite_next _ _) ?_))
    dsimp only
    split
    · exact answers_next _
    · exact answers_next _
    · exact hfailed _
  refine answers_ite (answers_next _) (answers_ite (answers_next _) (answers_ite (answers_next _) ?_))
  split
  · exact harrive _ _
  · refine answers_ite (answers_next _) ?_
    cases w.fin with
    | leaf pte => exact harrive _ pte
    | error pa => exact hfailed kept
    | _ => exact answers_next _

/-! ### All instructions -/

/-- Settles O58, by cases on the instruction: the branches of its meaning all end in a next state. -/
theorem everyInstructionAnswersNext : Obligations.EveryInstructionAnswersNext := by
  intro i s
  show Answers (exec i s)
  cases i with
  | lrunr a b => exact answers_execLrunr a b s
  | pageWalk party => exact answers_execPageWalk party s
  | fetchMissLineArrival strand lane => exact answers_execFetchMissLineArrival strand lane s
  | loadReply | errorResponse | coalescingEntrySend | requestAtHomeSlice | writeAcknowledgement =>
    exact s.answers_onFlight _ _ _
  | elsem | endif | endloop =>
    dsimp only [exec, execElsem, execEndif, execEndloop]
    split <;> exact s.answers_control _ _
  -- Meanings that choose between two next states.
  | jalr | sfence | yield | bkpt | rft | prio | tlbsync | csave | crstr | cancel | cancelJob | haltInPlace | haltRelease
  | haltAndSuspend | resumeRestart | resumePage | resumeDeliverFault | resumeFailTask | lineRecall | rebalanceEpoch | strandMove
  | cancelStateArrival | linkTrainTimeout | thermalTrip | linkRetrainComplete => exact answers_ite_next _ _
  -- Meanings that match on what they find, each branch a next state.
  | mfc | mtc | faultQueueHeldWrite | trapEntry | invalidationApply | deadlineExpiry | contextSave | dieQueueSteal | helping
  | binTimerExpiry | wfeTimeout | messageArrival | launchCheck | chartDescriptorRead | wloadExecute | mmaPass | mmaClose
  | mzeroExecute | matrixWatchdog | copyCommandStart | linkRequestFlit | linkReplyFlit | linkAckFlit | linkIdleFlit | powerWindow
  | clockRelockEnd | eccError | hostBar2Access =>
    dsimp only [exec, execMfc, execMtc, execFaultQueueHeldWrite, execTrapEntry, execInvalidationApply, execDeadlineExpiry,
      execContextSave, execDieQueueSteal, execHelping, execBinTimerExpiry, execWfeTimeout, execMessageArrival, execLaunchCheck,
      execChartDescriptorRead, execWloadExecute, execMmaPass, execMmaClose, execMzeroExecute, execMatrixWatchdog,
      execCopyCommandStart, execLinkRequestFlit, execLinkReplyFlit, execLinkAckFlit, execLinkIdleFlit, execPowerWindow,
      execClockRelockEnd, execEccError, execHostBar2Access]
    repeat' split
    all_goals exact answers_next _
  -- Meanings that are a next state as they stand.
  | _ => exact answers_next _

end Sys2Proof.Machine
end

section
/-! The answers to a strand's requests (R11, R174, R184, R200, R355): what enters the registers, what ends the request, and what
an answer leaves as it is. -/

namespace Sys2Proof.Machine

open Sys2Proof

/-! ### What register writes leave of a strand -/

/-- A strand without its scalar registers, their spare copies and its v registers. -/
def Strand.besideRegs (t : Strand) : Strand := { t with sregs := [], vregs := [], ren := [] }

@[simp] theorem Strand.besideRegs_putS (t : Strand) (d : SReg) (x : W64) : (t.putS d x).besideRegs = t.besideRegs := by
  unfold Strand.putS
  split <;> rfl

@[simp] theorem Strand.besideRegs_keepS (t : Strand) (d : SReg) : (t.keepS d).besideRegs = t.besideRegs :=
  (congrArg Strand.besideRegs (t.keepS_frame d) :)

@[simp] theorem Strand.besideRegs_writeS (t : Strand) (d : SReg) (x : W64) : (t.writeS d x).besideRegs = t.besideRegs :=
  (congrArg Strand.besideRegs (t.writeS_frame d x) :)

theorem Strand.keepLate_frame (t : Strand) (d : SReg) : { t.keepLate d with ren := t.ren } = t := by
  unfold Strand.keepLate
  split
  · rfl
  · split
    · rfl
    · split
      · rfl
      · exact t.keepS_frame d

@[simp] theorem Strand.besideRegs_keepLate (t : Strand) (d : SReg) : (t.keepLate d).besideRegs = t.besideRegs :=
  (congrArg Strand.besideRegs (t.keepLate_frame d) :)

@[simp] theorem Strand.besideRegs_putVs (t : Strand) (r i n x : Nat) : (t.putVs r i n x).besideRegs = t.besideRegs :=
  (congrArg Strand.besideRegs (t.putVs_frame r i n x) :)

/-! ### What registers hold after a write -/

@[simp] theorem Strand.s_keepLate (t : Strand) (d r : SReg) : (t.keepLate d).s r = t.s r := by
  unfold Strand.s
  rw [show (t.keepLate d).sregs = t.sregs from (congrArg Strand.sregs (t.keepLate_frame d) :)]

/-- What registers of a thread hold depends on the v registers alone. -/
theorem Strand.getVs_congr {t u : Strand} (h : t.vregs = u.vregs) (r i n : Nat) : t.getVs r i n = u.getVs r i n := by
  induction n generalizing r with
  | zero => rfl
  | succ n ih => rw [Strand.getVs, Strand.getVs, ih, Strand.v, Strand.v, h]

/-- The value of registers of a thread, from the words that they hold. -/
theorem Strand.getVs_eq_mod (t : Strand) (r i n x : Nat) (h : ∀ j < n, t.v (r + j) i = BitVec.ofNat 32 (x / 2 ^ (32 * j))) :
    t.getVs r i n = x % 2 ^ (32 * n) := by
  induction n generalizing r x with
  | zero => simp [Strand.getVs, Nat.mod_one]
  | succ n ih =>
    have first : t.v r i = BitVec.ofNat 32 x := by simpa using h 0 n.succ_pos
    have rest := ih (r + 1) (x / 2 ^ 32) (fun j hj => by
      rw [Nat.add_right_comm, Nat.add_assoc, h (j + 1) (by omega), Nat.div_div_eq_div_mul, ← pow_add, Nat.mul_succ, Nat.add_comm 32])
    rw [Strand.getVs, first, rest, BitVec.toNat_ofNat, Nat.mul_succ, Nat.add_comm (32 * n), pow_add, Nat.mod_mul]

theorem Strand.getVs_putVs (t : Strand) (r i n x : Nat) (hi : i < 32) : (t.putVs r i n x).getVs r i n = x % 2 ^ (32 * n) := by
  refine Strand.getVs_eq_mod _ r i n x (fun j hj => ?_)
  rw [Strand.v_putVs _ _ _ _ _ _ _ hi hi, if_pos ⟨rfl, by omega, by omega⟩, Nat.add_sub_cancel_left]

theorem extendLoad_zero (n : Nat) (sx : Bool) : extendLoad n sx 0 = 0 := by
  unfold extendLoad
  split
  · split <;> decide
  · rfl

/-! ### A value enters the registers of its destination (R174) -/

@[simp] theorem Strand.besideRegs_deliver (t : Strand) (f : Flight) (x : Nat) : (t.deliver f x).besideRegs = t.besideRegs := by
  unfold Strand.deliver
  cases f.dest with
  | none => rfl
  | s d => dsimp only; split <;> simp
  | v d n =>
    dsimp only
    split
    · exact foldl_keeps _ Strand.besideRegs (fun u i => by split <;> rfl) _ t
    · simp

@[simp] theorem Strand.pc_deliver (t : Strand) (f : Flight) (x : Nat) : (t.deliver f x).pc = t.pc :=
  (congrArg Strand.pc (t.besideRegs_deliver f x) :)
@[simp] theorem Strand.runs_deliver (t : Strand) (f : Flight) (x : Nat) : (t.deliver f x).runs = t.runs :=
  (congrArg Strand.runs (t.besideRegs_deliver f x) :)
@[simp] theorem Strand.pend_deliver (t : Strand) (f : Flight) (x : Nat) : (t.deliver f x).pend = t.pend :=
  (congrArg Strand.pend (t.besideRegs_deliver f x) :)
@[simp] theorem Strand.live_deliver (t : Strand) (f : Flight) (x : Nat) : (t.deliver f x).live = t.live :=
  (congrArg Strand.live (t.besideRegs_deliver f x) :)

theorem Strand.deliver_load_s (t : Strand) (f : Flight) (x : Nat) (d : SReg) (hk : f.kind = .load) (hd : f.dest = .s d) :
    t.deliver f x = (t.keepLate d).putS d (BitVec.ofNat 64 (extendLoad f.bytes f.sx x)) := by
  simp [Strand.deliver, hk, hd]

theorem Strand.deliver_load_v (t : Strand) (f : Flight) (x : Nat) (d : VReg) (n : Nat) (hk : f.kind = .load) (hd : f.dest = .v d n) :
    t.deliver f x = t.putVs d.toNat f.thread n (extendLoad f.bytes f.sx x) := by
  simp [Strand.deliver, hk, hd]

theorem Strand.s_deliver_load (t : Strand) (f : Flight) (x : Nat) (d r : SReg) (hk : f.kind = .load) (hd : f.dest = .s d) :
    (t.deliver f x).s r = if r = d ∧ d ≠ 0 then BitVec.ofNat 64 (extendLoad f.bytes f.sx x) else t.s r := by
  rw [t.deliver_load_s f x d hk hd, Strand.s_putS, Strand.s_keepLate]

theorem Strand.v_deliver_load (t : Strand) (f : Flight) (x : Nat) (d : VReg) (n r i : Nat) (hk : f.kind = .load)
    (hd : f.dest = .v d n) (ht : f.thread < 32) (hi : i < 32) (h : ¬(i = f.thread ∧ d.toNat ≤ r ∧ r < d.toNat + n)) :
    (t.deliver f x).v r i = t.v r i := by
  rw [t.deliver_load_v f x d n hk hd, Strand.v_putVs _ _ _ _ _ _ _ ht hi, if_neg h]

theorem Strand.getVs_deliver_load (t : Strand) (f : Flight) (x : Nat) (d : VReg) (n : Nat) (hk : f.kind = .load)
    (hd : f.dest = .v d n) (ht : f.thread < 32) :
    (t.deliver f x).getVs d.toNat f.thread n = extendLoad f.bytes f.sx x % 2 ^ (32 * n) := by
  rw [t.deliver_load_v f x d n hk hd, Strand.getVs_putVs _ _ _ _ _ ht]

/-- Zero enters as zero, whatever the width and the extension; s0 is zero before and after. -/
theorem Strand.s_deliver_zero (t : Strand) (f : Flight) (d : SReg) (hk : f.kind = .load) (hd : f.dest = .s d) :
    (t.deliver f 0).s d = 0 := by
  rw [t.s_deliver_load f 0 d d hk hd, extendLoad_zero]
  by_cases h : d = 0
  · rw [h, if_neg (fun e => e.2 rfl), Strand.s_zero]
  · rw [if_pos ⟨rfl, h⟩]
    rfl

theorem Strand.getVs_deliver_zero (t : Strand) (f : Flight) (d : VReg) (n : Nat) (hk : f.kind = .load)
    (hd : f.dest = .v d n) (ht : f.thread < 32) : (t.deliver f 0).getVs d.toNat f.thread n = 0 := by
  rw [t.getVs_deliver_load f 0 d n hk hd ht, extendLoad_zero, Nat.zero_mod]

/-! ### The request leaves the list -/

theorem State.mem_flights_dropFlight (s : State) (id : Nat) (g : Flight) :
    g ∈ (s.dropFlight id).flights ↔ g ∈ s.flights ∧ g.id ≠ id := by
  simp [State.dropFlight]

/-- The number by which a request is found is its own. -/
theorem State.id_of_flight? {s : State} {id : Nat} {f : Flight} (h : s.flight? id = some f) : f.id = id := by
  simpa using List.find?_some h

/-- An answer at its stage reaches its strand, where the clock of the strand's core runs (R386). -/
theorem State.onFlight_answered {s : State} {id : Nat} {f : Flight} {st : Stage} (strand : State → Flight → State)
    (hf : s.flight? id = some f) (ha : f.agent = none) (hc : s.clockOn (s.flightCore f) = true) (hs : f.stage = st) :
    s.onFlight id (s.answered st) (State.answerWith strand) = .next (strand s f) := by
  simp [State.onFlight, State.answered, State.answerWith, hf, ha, hc, hs]

/-- Request `id` of strand k has ended: it alone has left the list, and no byte of memory and no other strand has changed. -/
def State.RequestEnded (s t : State) (id k : Nat) : Prop :=
  (∀ g, g ∈ t.flights ↔ g ∈ s.flights ∧ g.id ≠ id) ∧ (∀ a, t.byte a = s.byte a) ∧ ∀ j, j ≠ k → t.strand j = s.strand j

/-- A change of strand k after whatever keeps memory, the other strands and the other requests. -/
theorem State.requestEnded_setStrand {s u : State} {id k : Nat} (t : Strand) (hf : u.flights = (s.dropFlight id).flights)
    (hm : u.mem = s.mem) (hs : ∀ j, j ≠ k → u.strand j = s.strand j) : s.RequestEnded (u.setStrand k t) id k := by
  refine ⟨fun g => ?_, State.byte_congr_mem hm, fun j hj => ?_⟩
  · rw [State.flights_setStrand, hf, State.mem_flights_dropFlight]
  · rw [State.strand_setStrand, if_neg hj, hs j hj]

theorem State.strand_setStrand_self (s : State) (k : Nat) (t : Strand) : (s.setStrand k t).strand k = t := by simp

/-! ### What an answer changes beside its strand -/

theorem State.supersede_eq (s : State) (f : Flight) : ∃ cs, s.supersede f = { s with cores := cs } := by
  unfold State.supersede
  split
  · exact ⟨s.cores, rfl⟩
  · exact ⟨_, rfl⟩

theorem State.acquireAt_eq (s : State) (k : Nat) (sc : Scope) : ∃ cs, s.acquireAt k sc = { s with cores := cs } := by
  unfold State.acquireAt
  split
  · exact ⟨_, rfl⟩
  · exact ⟨s.cores, rfl⟩

/-- An acquire that takes effect or not. -/
theorem State.ite_acquireAt_eq (s : State) (c : Bool) (k : Nat) (sc : Scope) :
    ∃ cs, (if c then s.acquireAt k sc else s) = { s with cores := cs } := by
  split
  · exact s.acquireAt_eq k sc
  · exact ⟨s.cores, rfl⟩

/-- A logged error counts once in its die's log (R352). -/
theorem State.errIdx_logError (s : State) (k : Nat) (va pc : W64) (wr fetch : Bool) (m : W32) :
    ((s.logError k va pc wr fetch m).die (s.strand k).die).errIdx = (s.die (s.strand k).die).errIdx + 1 := by
  simp [State.logError, State.log, State.logEntry]

/-- A cause that becomes pending stands last among those of its strand (R341). -/
theorem State.pendCause_live (s : State) (k : Nat) (r : TrapReq) (h : (s.strand k).live = true) :
    s.pendCause k r = s.setStrand k { s.strand k with pend := (s.strand k).pend ++ [r] } := by
  simp [State.pendCause, h]

/-! ### The three answers -/

/-- A load's value reaches its strand (R174, R198): its registers take the value, the strand has had the reply's vector, and the
request has ended; beside, only the caches of cores change. -/
theorem State.reply_load (s : State) (f : Flight) (hk : f.kind = .load) (ho : f.orphan = false) (hw : f.watch = false) :
    ∃ cs, s.reply f = State.setStrand { s.dropFlight f.id with cores := cs } f.strand
      { (s.strand f.strand).deliver f f.value with replyVec := vecJoin (s.strand f.strand).replyVec f.vec } := by
  unfold State.reply
  simp only [hk, ho, hw, Bool.false_eq_true, if_false, ReqKind.feWaits]
  generalize hu : State.setStrand _ _ _ = u
  obtain ⟨cs, h⟩ := u.supersede_eq f
  obtain ⟨cs', h'⟩ := State.ite_acquireAt_eq { u with cores := cs } (f.ord.isAcq && !State.instOpen { u with cores := cs } f)
    f.strand f.scope
  rw [h, h', ← hu]
  exact ⟨cs', rfl⟩

/-- An error response to a load reaches its strand (R11, R184, R355): it is logged, zero enters the registers, ERRRESP becomes
pending, and the request has ended; beside, only the caches of cores change. -/
theorem State.errorReply_load (s : State) (f : Flight) (hk : f.kind = .load) (ho : f.orphan = false) :
    ∃ m cs, s.errorReply f =
      (State.setStrand { (s.dropFlight f.id).logError f.strand f.va f.pc false false m with cores := cs } f.strand
        ((s.strand f.strand).deliver f 0)).pendCause f.strand { watchReport f.va with code := cErrResp } := by
  unfold State.errorReply
  simp only [hk, ho, ReqKind.writes, Bool.not_false, Bool.true_and, Bool.and_false, Bool.false_eq_true, if_false]
  generalize (if (!f.lane) = true then (0 : W32) else _) = m
  generalize hu : (s.dropFlight f.id).logError f.strand f.va f.pc false false m = u
  obtain ⟨cs, h⟩ := u.ite_acquireAt_eq (f.ord.isAcq && !u.instOpen f) f.strand f.scope
  rw [h, ← hu]
  exact ⟨m, cs, rfl⟩

/-- An acknowledgement reaches its strand (R200). -/
theorem State.acknowledge_eq (s : State) (f : Flight) (ho : f.orphan = false) (hw : f.watch = false) :
    s.acknowledge f = (s.dropFlight f.id).setStrand f.strand { s.strand f.strand with
      ackVec := vecJoin (s.strand f.strand).ackVec f.vec } := by
  simp only [State.acknowledge, ho, hw, Bool.false_eq_true, if_false]
  rfl

/-! ### The state after an answer -/

section Load
variable (s : State) (f : Flight) (hk : f.kind = .load) (ho : f.orphan = false)
include hk ho

theorem State.requestEnded_reply (hw : f.watch = false) : s.RequestEnded (s.reply f) f.id f.strand := by
  obtain ⟨cs, h⟩ := s.reply_load f hk ho hw
  rw [h]
  exact State.requestEnded_setStrand _ rfl rfl (fun _ _ => rfl)

theorem State.strand_reply (hw : f.watch = false) : (s.reply f).strand f.strand =
    { (s.strand f.strand).deliver f f.value with replyVec := vecJoin (s.strand f.strand).replyVec f.vec } := by
  obtain ⟨cs, h⟩ := s.reply_load f hk ho hw
  rw [h, State.strand_setStrand_self]

section Live
variable (hl : (s.strand f.strand).live = true)
include hl

/-- An error response to a load of a live strand, as one change of that strand. -/
theorem State.errorReply_live : ∃ m u, s.errorReply f = State.setStrand u f.strand { (s.strand f.strand).deliver f 0 with
      pend := (s.strand f.strand).pend ++ [{ watchReport f.va with code := cErrResp }] } ∧
    u.flights = (s.dropFlight f.id).flights ∧ u.mem = s.mem ∧ (∀ j, j ≠ f.strand → u.strand j = s.strand j) ∧
    u.dies = ((s.dropFlight f.id).logError f.strand f.va f.pc false false m).dies := by
  obtain ⟨m, cs, h⟩ := s.errorReply_load f hk ho
  rw [State.pendCause_live, State.strand_setStrand_self, Strand.pend_deliver] at h
  · refine ⟨m, _, h, rfl, rfl, fun j hj => ?_, rfl⟩
    rw [State.strand_setStrand, if_neg hj]
    rfl
  · rw [State.strand_setStrand_self, Strand.live_deliver, hl]

theorem State.requestEnded_errorReply : s.RequestEnded (s.errorReply f) f.id f.strand := by
  obtain ⟨m, u, h, hf, hm, hs, -⟩ := s.errorReply_live f hk ho hl
  rw [h]
  exact State.requestEnded_setStrand _ hf hm hs

theorem State.strand_errorReply : (s.errorReply f).strand f.strand = { (s.strand f.strand).deliver f 0 with
    pend := (s.strand f.strand).pend ++ [{ watchReport f.va with code := cErrResp }] } := by
  obtain ⟨m, u, h, -⟩ := s.errorReply_live f hk ho hl
  rw [h, State.strand_setStrand_self]

theorem State.errIdx_errorReply :
    ((s.errorReply f).die (s.strand f.strand).die).errIdx = (s.die (s.strand f.strand).die).errIdx + 1 := by
  obtain ⟨m, u, h, -, -, -, hd⟩ := s.errorReply_live f hk ho hl
  rw [h, State.die_setStrand]
  unfold State.die
  rw [hd]
  exact (s.dropFlight f.id).errIdx_logError f.strand f.va f.pc false false m

end Live
end Load

/-! ### The obligation -/

/-- Settles O46: each answer is one change of the strand, after the request has left the list. -/
theorem answersReachStrands : Obligations.AnswersReachStrands := by
  intro s id f hf ha ho hw hc k v gone keeps
  obtain rfl := State.id_of_flight? hf
  refine ⟨fun hk hs => ?_, fun hk hs hl => ?_, fun hs => ?_⟩
  · have ht := s.strand_reply f hk ho hw
    have hv : ((s.reply f).strand k).vregs = ((s.strand k).deliver f f.value).vregs := (congrArg Strand.vregs ht :)
    refine ⟨s.reply f, State.onFlight_answered State.reply hf ha hc hs, s.requestEnded_reply f hk ho hw,
      ⟨(congrArg Strand.pc ht).trans (Strand.pc_deliver ..), (congrArg Strand.runs ht).trans (Strand.runs_deliver ..)⟩,
      fun d hd => ?_, fun d n hd hi => ⟨?_, fun r i hi' hn => ?_⟩⟩
    · have hreg (r : SReg) := (congrArg (Strand.s · r) ht).trans (Strand.s_deliver_load _ f f.value d r hk hd)
      exact ⟨fun h0 => (hreg d).trans (if_pos ⟨rfl, h0⟩), fun r hr => (hreg r).trans (if_neg fun e => hr e.1)⟩
    · rw [Strand.getVs_congr hv, Strand.getVs_deliver_load _ f f.value d n hk hd hi]
    · exact (congrArg (Strand.v · r i) ht).trans (Strand.v_deliver_load _ f f.value d n r i hk hd hi hi' hn)
  · have ht := s.strand_errorReply f hk ho hl
    have hv : ((s.errorReply f).strand k).vregs = ((s.strand k).deliver f 0).vregs := (congrArg Strand.vregs ht :)
    refine ⟨s.errorReply f, State.onFlight_answered State.errorReply hf ha hc hs, s.requestEnded_errorReply f hk ho hl,
      ⟨(congrArg Strand.pc ht).trans (Strand.pc_deliver ..), (congrArg Strand.runs ht).trans (Strand.runs_deliver ..)⟩,
      fun d hd => ?_, fun d n hd hi => ?_, s.errIdx_errorReply f hk ho hl, _, congrArg Strand.pend ht, rfl, rfl⟩
    · exact (congrArg (Strand.s · d) ht).trans (Strand.s_deliver_zero _ f d hk hd)
    · rw [Strand.getVs_congr hv, Strand.getVs_deliver_zero _ f d n hk hd hi]
  · refine ⟨s.acknowledge f, State.onFlight_answered State.acknowledge hf ha hc hs, ?_⟩
    rw [s.acknowledge_eq f ho hw]
    refine ⟨State.requestEnded_setStrand _ rfl rfl (fun _ _ => rfl), ?_⟩
    rw [State.strand_setStrand_self]

end Sys2Proof.Machine
end

section
/-! What a strand does in its turn (R47, R48, R53, R59, R60, R76, R93, R94): the bytes that it fetches, the instruction that they decode to, and the state
at which that runs. -/

namespace Sys2Proof.Machine

open Sys2Proof Sys2Proof.Claims

/-! ### One step and one turn -/

theorem step_eq_afterStep (s : State) : step s = afterStep s s.once := by
  unfold step afterStep
  cases s.once <;> rfl

theorem State.once_strand {s : State} {k : Nat} {lane : Bool} {rest : List Turn} (h : s.turns = .strand k lane :: rest) :
    s.once = (({ s with turns := rest, cur := k } : State).turn lane).outcome := by
  unfold State.once
  rw [h]

theorem State.once_event {s : State} {i : Instr} {rest : List Turn} (h : s.turns = .event i :: rest) :
    s.once = exec i { s with turns := rest } := by
  unfold State.once
  rw [h]

theorem State.once_autoEvent {s : State} {i : Instr} (h : s.turns = []) (ha : s.autoEvent = some i) : s.once = exec i s := by
  unfold State.once
  rw [h]
  simp only [ha]

theorem State.once_autoTurn {s u : State} (h : s.turns = []) (ha : s.autoEvent = none) (hu : s.autoTurn.outcome = .next u) :
    s.once = .next u.rotate := by
  unfold State.once
  rw [h]
  simp only [ha, hu]

/-- A live strand of a gang that may issue, with no trap to enter (R340, R341, R350, R356). -/
def State.ready (s : State) (k : Nat) : Prop :=
  (s.strand k).live = true ∧ s.mayIssue k = true ∧ (s.strand k).pendTrap = none ∧ ((s.strand k).pend = [] ∨ (s.strand k).handler = true)

theorem State.trapDue_of_ready {s : State} {k : Nat} (h : s.ready k) : (s.strand k).trapDue = false := by
  obtain ⟨-, -, hp, hq | hq⟩ := h <;> simp [Strand.trapDue, hp, hq]

theorem State.turn_of_ready {s : State} (h : s.ready s.cur) (lane : Bool) :
    s.turn lane = if lane then s.issueOf true (s.laneTurn s.cur) else s.issueOf false (s.scalarTurn s.cur) := by
  have hd := State.trapDue_of_ready h
  obtain ⟨hl, hm, hp, -⟩ := h
  unfold State.turn
  simp [State.me, hl, hm, hp, hd]

/-! ### The scalar stream -/

section Scalar
variable {s : State} {k : Nat}

/-- Nothing holds the scalar stream of strand k, and w stands at its PC (R185). -/
def State.ScalarFetches (s : State) (k w : Nat) : Prop :=
  (s.strand k).wait = .none ∧ (s.strand k).laneWait = .none ∧ (s.strand k).pc.toNat % 4 = 0 ∧ s.fetchScalar k = .word w

theorem State.fetchScalar_of_find {l : ILine} (h : (s.core (s.strand k).core).icS.find?
      (fun l => l.vd == (s.gangOf k).vd && l.line == (s.strand k).pc.toNat / 128) = some l) :
    s.fetchScalar k = .word (leNat ((l.bytes.drop ((s.strand k).pc.toNat % 128)).take 4)) := by
  simp only [State.fetchScalar, iLine, h, ILine.at]

theorem State.scalarTurn_ok {w : Nat} {i : Instr} (h : s.ScalarFetches k w) (hd : decodeScalar (BitVec.ofNat 32 w) = .ok i) :
    s.scalarTurn k = if s.scalarReady k i then .run i s else .rest s := by
  obtain ⟨hw, hl, hpc, hf⟩ := h
  simp [State.scalarTurn, hw, hl, hpc, hf, hd, Wait.idle, Wait.pops]

theorem State.scalarTurn_error {w : Nat} {e : DecodeError} (h : s.ScalarFetches k w) (hd : decodeScalar (BitVec.ofNat 32 w) = .error e) :
    s.scalarTurn k = .rest (s.raise k ((s.strand k).scalarTrap cIllegal 0)) := by
  obtain ⟨hw, hl, hpc, hf⟩ := h
  simp [State.scalarTurn, hw, hl, hpc, hf, hd, Wait.idle, Wait.pops]

end Scalar

/-! ### The lane stream -/

section Lane
variable {s : State} {k : Nat}

/-- Nothing holds the lane stream of strand k, it has a run, and no instruction is to be executed again (R76, R347). -/
def State.laneFree (s : State) (k : Nat) : Prop :=
  (s.strand k).runs ≠ [] ∧ ((s.strand k).laneWait = .none ∨ (s.strand k).laneWait = .fence) ∧ (s.strand k).redo = none

/-- The word at offset 60 of the sheet is read from the line of its slots: a line holds two whole sheets. -/
theorem sheetEnd_mod_line {p : Nat} (_ : p < 2 ^ 56) :
    (BitVec.ofNat 64 (p / 64 * 64 + 60)).toNat % 128 = p / 64 * 64 % 128 + 60 := by
  rw [BitVec.toNat_ofNat]
  omega

theorem State.fetchLane_of_find {l : ILine} (hb : ∀ e ∈ (s.strand k).loopBuf, e.1 ≠ (s.strand k).lanePc.toNat)
    (hp : (s.strand k).lanePc.toNat < 2 ^ 56) (h : (s.core (s.strand k).core).icL.find?
      (fun l => l.vd == (s.gangOf k).vd && l.line == (s.strand k).lanePc.toNat / 128) = some l) :
    s.fetchLane k =
      if leNat ((l.bytes.drop ((s.strand k).lanePc.toNat / 64 * 64 % 128 + 60)).take 4) = 0 then
        .word (leNat ((l.bytes.drop ((s.strand k).lanePc.toNat % 128)).take 12))
      else .badSheet (leNat ((l.bytes.drop ((s.strand k).lanePc.toNat % 128)).take 12)) := by
  have hn : (s.strand k).loopBuf.find? (fun e => e.1 == (s.strand k).lanePc.toNat) = none := by simpa using hb
  simp only [State.fetchLane, hn, iLine, h, ILine.at, sheetEnd_mod_line hp, bne_iff_ne, ne_eq, ite_not]

theorem State.badSlot_of_redo_none (hr : (s.strand k).redo = none) (w : Nat) :
    s.badSlot k w = .rest (s.raise k ((s.strand k).laneTrap cIllegal 0 (orAll ((s.strand k).rawSet w)))) := by
  simp [State.badSlot, hr]

theorem State.laneFree.not_held (h : s.laneFree k) : ((s.strand k).runs.isEmpty || !(s.strand k).laneWait.idle) = false := by
  obtain ⟨hr, hw | hw, -⟩ := h <;> simp [hr, hw, Wait.idle]

theorem State.laneTurn_ok {w : Nat} {i : Instr} (h : s.laneFree k) (hf : s.fetchLane k = .word w)
    (hd : decodeLane (BitVec.ofNat 96 w) = .ok i) :
    s.laneTurn k = if s.laneReady k i then .run i (s.keepLoop k w) else .rest s := by
  simp [State.laneTurn, h.not_held, h.2.2, hf, hd]

theorem State.laneTurn_bad {w : Nat} (h : s.laneFree k)
    (hf : s.fetchLane k = .badSheet w ∨ s.fetchLane k = .word w ∧ ∃ e, decodeLane (BitVec.ofNat 96 w) = .error e) :
    s.laneTurn k = .rest (s.raise k ((s.strand k).laneTrap cIllegal 0 (orAll ((s.strand k).rawSet w)))) := by
  obtain hf | ⟨hf, e, hd⟩ := hf
  · simp [State.laneTurn, h.not_held, h.2.2, hf, State.badSlot_of_redo_none h.2.2]
  · simp [State.laneTurn, h.not_held, h.2.2, hf, hd, State.badSlot_of_redo_none h.2.2]

end Lane

/-! ### Issuing -/

theorem State.issueOf_scalar (s t : State) (i : Instr) : s.issueOf false (.run i t) =
    if s.chosen s.cur false then .run i (t.noteIssue s.cur false (s.issueCycles s.cur i)) else .rest s := by
  simp [State.issueOf, State.noteTags]

/-- What is passed over, or has issued before and waits, claims no slot (R91, R212). -/
theorem State.issueOf_lane_free {s : State} {i : Instr} (t : State) (h : s.me.passesOver i = true ∨ s.me.laneWait = .fence) :
    s.issueOf true (.run i t) = .run i t := by
  obtain h | h := h <;> simp [State.issueOf, h]

theorem State.issueOf_lane_slot {s : State} {i : Instr} (t : State) (h : ¬(s.me.passesOver i = true ∨ s.me.laneWait = .fence)) :
    s.issueOf true (.run i t) = if s.chosen s.cur true then
      .run i ((t.noteIssue s.cur true (s.issueCycles s.cur i)).noteTags s.cur true i) else .rest s := by
  have hc : (true && (s.me.passesOver i || s.me.laneWait == .fence)) = false := by simpa using h
  simp only [State.issueOf, hc, Bool.false_eq_true, if_false]

/-! ### What issuing notes -/

theorem State.charge_eq (s : State) (a : Arbiter) (vd n : Nat) : ∃ b, s.charge a vd n = { s with buckets := b } := by
  unfold State.charge
  split
  · exact ⟨_, rfl⟩
  · exact ⟨s.buckets, rfl⟩

theorem State.noteIssue_eq (s : State) (k n : Nat) (lane : Bool) : ∃ b, s.noteIssue k lane n =
    { s.setStrand k (if lane then { s.strand k with stampL := s.issues + 1 }
        else { s.strand k with stampS := s.issues + 1, lastS := (s.strand k).pc }) with issues := s.issues + 1, buckets := b } := by
  cases lane
  · exact ⟨s.buckets, rfl⟩
  · obtain ⟨b, h⟩ := s.charge_eq (issueArbiter (s.strand k).core) (s.gangOf k).vd n
    exact ⟨b, congrArg (fun u : State => { u.setStrand k { s.strand k with stampL := s.issues + 1 } with issues := s.issues + 1 }) h⟩

theorem State.noteIssue_frame (s : State) (k n : Nat) (lane : Bool) :
    { s.noteIssue k lane n with strands := s.strands, issues := s.issues, buckets := s.buckets } = s := by
  obtain ⟨b, h⟩ := s.noteIssue_eq k n lane
  rw [h]
  rfl

/-- One strand alone has changed, to one that agrees with it. -/
theorem State.strand_setStrand_rel (s : State) (k : Nat) (x : Strand) (R : Strand → Strand → Prop) (hx : R x (s.strand k))
    (hr : ∀ t, R t t) (j : Nat) : R ((s.setStrand k x).strand j) (s.strand j) := by
  rw [State.strand_setStrand]
  split
  · next e => rw [e]; exact hx
  · exact hr _

/-- The strands agree in all but the moments of their issues. -/
def Strand.SameBesideStamps (x t : Strand) : Prop := { x with stampL := t.stampL, stampS := t.stampS, lastS := t.lastS } = t

/-- The strands agree in all but the tags that the instruction that issues gives. -/
def Strand.SameBesideIssuing (x t : Strand) : Prop := { x with issuing := t.issuing } = t

/-- The strands agree in all but their loop buffers. -/
def Strand.SameBesideLoopBuf (x t : Strand) : Prop := { x with loopBuf := t.loopBuf } = t

theorem State.strand_noteIssue_frame (s : State) (k n : Nat) (lane : Bool) (j : Nat) :
    ((s.noteIssue k lane n).strand j).SameBesideStamps (s.strand j) := by
  obtain ⟨b, h⟩ := s.noteIssue_eq k n lane
  rw [h]
  exact s.strand_setStrand_rel k _ Strand.SameBesideStamps (by cases lane <;> rfl) (fun _ => rfl) j

theorem State.noteTags_frame (s : State) (k : Nat) (lane : Bool) (i : Instr) : { s.noteTags k lane i with strands := s.strands } = s := by
  cases lane <;> rfl

theorem State.strand_noteTags_frame (s : State) (k : Nat) (lane : Bool) (i : Instr) (j : Nat) :
    ((s.noteTags k lane i).strand j).SameBesideIssuing (s.strand j) := by
  cases lane
  · rfl
  · refine s.strand_setStrand_rel k _ Strand.SameBesideIssuing ?_ (fun _ => rfl) j
    rfl

/-! ### What the loop buffers keep (R117) -/

theorem Strand.keepSlot_frame (t : Strand) (w : Nat) : (t.keepSlot w).SameBesideLoopBuf t := by
  unfold Strand.keepSlot
  split <;> rfl

/-- A record after a change of every record to one that is related to it. -/
theorem KMap.get_map_rel {α : Type} (R : α → α → Prop) (d : α) (hd : R d d) (f : Nat × α → Nat × α)
    (hf : ∀ c, (f c).1 = c.1 ∧ R (f c).2 c.2) (m : KMap α) (a : Nat) : R (KMap.get d (m.map f) a) (KMap.get d m a) := by
  induction m with
  | nil => exact hd
  | cons c t ih =>
    obtain ⟨hk, hp⟩ := hf c
    rw [List.map_cons, KMap.get, KMap.get, hk]
    split
    · exact hp
    · exact ih

/-- The loop buffers of other strands may empty, and then strand k keeps its slot. -/
theorem State.keepLoop_eq (s : State) (k w : Nat) : ∃ u : State, s.keepLoop k w = u.setStrand k ((s.strand k).keepSlot w) ∧
    { u with strands := s.strands } = s ∧ ∀ j, (u.strand j).SameBesideLoopBuf (s.strand j) := by
  unfold State.keepLoop
  dsimp only
  split
  · exact ⟨s, rfl, rfl, fun _ => rfl⟩
  · refine ⟨_, rfl, rfl, fun j => KMap.get_map_rel Strand.SameBesideLoopBuf Strand.zero rfl _ (fun c => ?_) s.strands j⟩
    split <;> exact ⟨rfl, rfl⟩

theorem State.keepLoop_frame (s : State) (k w : Nat) : { s.keepLoop k w with strands := s.strands } = s := by
  obtain ⟨u, h, hu, -⟩ := s.keepLoop_eq k w
  rw [h]
  exact hu

theorem State.strand_keepLoop_frame (s : State) (k w j : Nat) :
    ((s.keepLoop k w).strand j).SameBesideLoopBuf (s.strand j) := by
  obtain ⟨u, h, -, hs⟩ := s.keepLoop_eq k w
  rw [h, State.strand_setStrand]
  split
  · next e => rw [e]; exact (s.strand k).keepSlot_frame w
  · exact hs j

/-! ### The turn of a strand that is ready -/

section Turn
variable {s : State} (hr : s.ready s.cur)
include hr

theorem State.turn_scalar {w : Nat} {i : Instr} (hf : s.ScalarFetches s.cur w) (hd : decodeScalar (BitVec.ofNat 32 w) = .ok i) :
    s.turn false = if s.scalarReady s.cur i = true ∧ s.chosen s.cur false = true then
      .run i (s.noteIssue s.cur false (s.issueCycles s.cur i)) else .rest s := by
  rw [State.turn_of_ready hr, if_neg (by decide), State.scalarTurn_ok hf hd]
  by_cases h : s.scalarReady s.cur i = true
  · simp only [h, if_true, State.issueOf_scalar, true_and]
  · simp only [h, Bool.false_eq_true, if_false, false_and]
    rfl

theorem State.turn_scalar_illegal {w : Nat} (hf : s.ScalarFetches s.cur w) (hd : ∃ e, decodeScalar (BitVec.ofNat 32 w) = .error e) :
    s.turn false = .rest (s.raise s.cur (s.me.scalarTrap cIllegal 0)) := by
  obtain ⟨e, hd⟩ := hd
  rw [State.turn_of_ready hr, if_neg (by decide), State.scalarTurn_error hf hd]
  rfl

variable (hl : s.laneFree s.cur)
include hl

theorem State.turn_lane_waits {w : Nat} {i : Instr} (hf : s.fetchLane s.cur = .word w) (hd : decodeLane (BitVec.ofNat 96 w) = .ok i)
    (hn : s.laneReady s.cur i = false) : s.turn true = .rest s := by
  rw [State.turn_of_ready hr, if_pos rfl, State.laneTurn_ok hl hf hd, hn]
  rfl

theorem State.turn_lane_illegal {w : Nat}
    (hf : s.fetchLane s.cur = .badSheet w ∨ s.fetchLane s.cur = .word w ∧ ∃ e, decodeLane (BitVec.ofNat 96 w) = .error e) :
    s.turn true = .rest (s.raise s.cur (s.me.laneTrap cIllegal 0 (orAll (s.me.rawSet w)))) := by
  rw [State.turn_of_ready hr, if_pos rfl, State.laneTurn_bad hl hf]
  rfl

theorem State.turn_lane {w : Nat} {i : Instr} (hf : s.fetchLane s.cur = .word w) (hd : decodeLane (BitVec.ofNat 96 w) = .ok i)
    (hn : s.laneReady s.cur i = true) : s.turn true = s.issueOf true (.run i (s.keepLoop s.cur w)) := by
  rw [State.turn_of_ready hr, if_pos rfl, State.laneTurn_ok hl hf hd, hn]
  rfl

end Turn

theorem exists_error_of_ne_ok {ε α : Type} {e : Except ε α} (h : ∀ a, e ≠ .ok a) : ∃ x, e = .error x := by
  cases e with
  | error x => exact ⟨x, rfl⟩
  | ok a => exact absurd rfl (h a)

end Sys2Proof.Machine

open Sys2Proof Sys2Proof.Machine Sys2Proof.Claims

/-- Settles O57: the turn of a strand in each stream, by what it fetches and what that decodes to; then what is noted before. -/
theorem stepRunsDecodedInstruction : Obligations.StepRunsDecodedInstruction := by
  refine ⟨fun s k rest i l => ?_, fun s k n w lane => ⟨s.noteIssue_frame k n lane, s.strand_noteIssue_frame k n lane,
    fun i => ⟨s.noteTags_frame k lane i, s.strand_noteTags_frame k lane i⟩, s.keepLoop_frame k w, s.strand_keepLoop_frame k w⟩⟩
  intro s' t core vd n ready scalarWord lastWord laneWord
  have turn (lane : Bool) (ht : s.turns = .strand k lane :: rest) : step s = afterStep s (s'.turn lane).outcome := by
    rw [step_eq_afterStep, State.once_strand ht]
  have scalar (bs : List Byte) (hw : scalarWord bs) : s'.ScalarFetches k (leNat (bs.take 4)) := by
    obtain ⟨hwait, hlane, hpc, hl, rfl⟩ := hw
    exact ⟨hwait, hlane, hpc, State.fetchScalar_of_find hl⟩
  refine ⟨fun ht hr bs hw => ?_, fun ht hr bs hw _ => ?_, fun ht => ?_, fun ht ha => ?_,
    fun ht hrest ha hk hst hr bs hw hd hready hch u hu => ?_⟩
  · rw [turn false ht]
    refine ⟨fun hd hready => ⟨fun hch => ?_, fun hch => ?_⟩, fun hd hready => ?_, fun hd _ => ?_⟩
    · rw [State.turn_scalar (s := s') hr (scalar bs hw) hd, if_pos ⟨hready, hch⟩]
      rfl
    · rw [State.turn_scalar (s := s') hr (scalar bs hw) hd, if_neg (fun h => Bool.false_ne_true (hch.symm.trans h.2))]
      rfl
    · rw [State.turn_scalar (s := s') hr (scalar bs hw) hd, if_neg (fun h => Bool.false_ne_true (hready.symm.trans h.1))]
      rfl
    · rw [State.turn_scalar_illegal (s := s') hr (scalar bs hw) (exists_error_of_ne_ok hd)]
      rfl
  · rw [turn true ht]
    obtain ⟨hruns, hwait, hredo, hbuf, hpc, hline, rfl⟩ := hw
    have free : s'.laneFree k := ⟨hruns, hwait, hredo⟩
    have fetch := State.fetchLane_of_find (s := s') (k := k) hbuf hpc hline
    refine ⟨fun h0 hd hready => ?_, fun h0 hd hready => ?_, fun hbad => ?_⟩
    · have run := State.turn_lane (s := s') hr free (fetch.trans (if_pos h0)) hd hready
      intro u isFree
      refine ⟨fun hf => ?_, fun hf hch => ?_, fun hf hch => ?_⟩
      · rw [run, State.issueOf_lane_free (s := s') _ hf]
        rfl
      · rw [run, State.issueOf_lane_slot (s := s') _ hf, if_pos hch]
        rfl
      · rw [run, State.issueOf_lane_slot (s := s') _ hf, if_neg (fun h => Bool.false_ne_true (hch.symm.trans h))]
        rfl
    · rw [State.turn_lane_waits (s := s') hr free (fetch.trans (if_pos h0)) hd hready]
      rfl
    · rw [State.turn_lane_illegal (s := s') hr free (w := leNat ((l.bytes.drop (t.lanePc.toNat % 128)).take 12)) ?_]
      · rfl
      · by_cases h0 : lastWord = 0
        · exact .inr ⟨fetch.trans (if_pos h0), exists_error_of_ne_ok (hbad.resolve_right (not_not_intro h0))⟩
        · exact .inl (fetch.trans (if_neg h0))
  · rw [step_eq_afterStep, State.once_event ht]
  · rw [step_eq_afterStep, State.once_autoEvent ht ha]
  · have same : s' = s := by
      show ({ s with turns := rest, cur := k } : State) = s
      rw [hrest, ← ht, ← hk]
    have run : s.turn false = .run i (s'.noteIssue k false n) :=
      (congrArg (State.turn · false) same.symm).trans ((State.turn_scalar (s := s') hr (scalar bs hw) hd).trans (if_pos ⟨hready, hch⟩))
    have out : s.autoTurn.outcome = .next u := by
      rw [State.autoTurn, hst, run]
      exact hu
    rw [step_eq_afterStep, State.once_autoTurn ht ha out]

end

section
/-! Package reset and bring-up (R372, R373, R377, R383, R386, R390, R393): what the memory behind the card and in peers holds after it, which units
are out of use, and which ports train. -/

namespace Sys2Proof.Machine

open Sys2Proof Sys2Proof.Claims

/-! ### Folds -/

/-- A fold relates its start to its end where every step does. -/
theorem foldl_rel {α β : Type} {R : β → β → Prop} (refl : ∀ b, R b b) (trans : ∀ {a b c}, R a b → R b c → R a c) {f : β → α → β}
    (h : ∀ b a, R b (f b a)) (l : List α) (b : β) : R b (l.foldl f b) := by
  induction l generalizing b with
  | nil => exact refl b
  | cons a t ih => exact trans (h b a) (ih (f b a))

/-- What the step of one entry brings about, and every step keeps, holds at the end. -/
theorem foldl_of_mem {α β : Type} {P : β → Prop} {f : β → α → β} (keeps : ∀ b a, P b → P (f b a)) {a : α} (makes : ∀ b, P (f b a))
    {l : List α} (ha : a ∈ l) (b : β) : P (l.foldl f b) := by
  obtain ⟨l₁, l₂, rfl⟩ := List.append_of_mem ha
  rw [List.foldl_append, List.foldl_cons]
  exact foldl_inv P f keeps l₂ _ (makes _)

/-! ### Memory that is not the package's -/

/-- Addresses that the entries of a list do not name keep what they held. -/
theorem SMap.get_foldl_set_of_ne {w : Nat} (l m : SMap w) (b : Nat) (h : ∀ c ∈ l, c.1 ≠ b) :
    (l.foldl (fun m c => m.set c.1 c.2) m).get b = m.get b := by
  induction l generalizing m with
  | nil => rfl
  | cons c t ih =>
    rw [List.foldl_cons, ih _ (fun x hx => h x (List.mem_cons_of_mem _ hx)), SMap.get_set, if_neg (h c List.mem_cons_self).symm]

/-- Entries of a canonical map written elsewhere: where `mv` takes no two of those that `p` chooses to one address, the address of each holds
what it held. -/
theorem SMap.get_foldl_set_moved {w : Nat} (p : Nat → Bool) (mv : Nat → Nat) (mem m : SMap w) (k : Nat) (hmem : mem.Canon) (hk : p k = true)
    (inj : ∀ j, p j = true → mv j = mv k → j = k) (h0 : m.get (mv k) = 0) :
    (((mem.filter (fun c => p c.1)).map (fun c => (mv c.1, c.2))).foldl (fun m c => m.set c.1 c.2) m).get (mv k) = mem.get k := by
  induction mem generalizing m with
  | nil => exact h0
  | cons c t ih =>
    obtain ⟨hlt, hne⟩ := hmem
    obtain ⟨hc, ht⟩ := List.pairwise_cons.mp hlt
    have ht : SMap.Canon t := ⟨ht, fun x hx => hne x (List.mem_cons_of_mem _ hx)⟩
    by_cases hp : p c.1 = true
    · rw [List.filter_cons_of_pos (by exact hp), List.map_cons, List.foldl_cons, SMap.get]
      by_cases hkc : k = c.1
      · rw [if_pos hkc, SMap.get_foldl_set_of_ne, SMap.get_set, if_pos (by rw [hkc])]
        intro x hx e
        obtain ⟨y, hy, rfl⟩ := List.mem_map.mp hx
        obtain ⟨hy, hpy⟩ := List.mem_filter.mp hy
        have := hc y hy
        have := inj y.1 hpy e
        omega
      · rw [if_neg hkc, ih _ ht]
        rw [SMap.get_set, if_neg (fun e => hkc (inj c.1 hp e.symm).symm), h0]
    · rw [List.filter_cons_of_neg (by exact hp), SMap.get, if_neg (fun e : k = c.1 => hp (by rw [← e, hk])), ih _ ht h0]

/-- The memory that a package reset leaves: of peers as it was, and behind the card, for the package number is 0 again (R377, R383). -/
def State.keptMem (s : State) : List Host.Cell :=
  ((s.mem.filter (fun c => !isSpad c.1 && pkgOf c.1 == s.pkgnum.toNat && s.region c.1 == .host)).map (fun c => (within c.1, c.2))).foldl
    (fun m c => SMap.set m c.1 c.2) (s.mem.filter (fun c => !isSpad c.1 && pkgOf c.1 != s.pkgnum.toNat && pkgOf c.1 != 0))

theorem State.get_keptMem_peer (s : State) {a : Nat} (ha : isSpad a = false) (hp : pkgOf a ≠ s.pkgnum.toNat) (h0 : pkgOf a ≠ 0) :
    SMap.get s.keptMem a = s.byte a := by
  rw [State.keptMem, SMap.get_foldl_set_of_ne, SMap.get_filter s.mem (fun k => !isSpad k && pkgOf k != s.pkgnum.toNat && pkgOf k != 0)]
  · simp [ha, hp, h0, State.byte]
  · intro c hc e
    obtain ⟨y, -, rfl⟩ := List.mem_map.mp hc
    apply h0
    rw [← e]
    simp [pkgOf, within]

theorem State.get_keptMem_host (s : State) (hm : SMap.wf s.mem = true) {a : Nat} (ha : a < 0x400000000000) (hh : s.hbmBytes ≤ 0x800000000000) :
    SMap.get s.keptMem (0x800000000000 + a) = s.byte (s.pkgnum.toNat * 0x1000000000000 + 0x800000000000 + a) := by
  have hn : s.pkgnum.toNat < 16 := s.pkgnum.isLt
  generalize hk : s.pkgnum.toNat * 0x1000000000000 + 0x800000000000 + a = k
  have hpkg : pkgOf k = s.pkgnum.toNat := by unfold pkgOf; omega
  have hwithin : within k = 0x800000000000 + a := by unfold within; omega
  have hspad : isSpad k = false := by unfold isSpad; exact decide_eq_false (by omega)
  have hregion : s.region k = .host := by
    simp only [State.region, hpkg, hwithin, beq_self_eq_true, if_true]
    rw [if_neg (by omega), if_pos (by simp; omega)]
  rw [← hwithin, State.keptMem]
  refine SMap.get_foldl_set_moved (fun k => !isSpad k && pkgOf k == s.pkgnum.toNat && s.region k == .host) within s.mem _ k
    ((SMap.wf_iff _).mp hm) (by simp [hpkg, hspad, hregion]) (fun j hj e => ?_) ?_
  · simp only [Bool.and_eq_true, beq_iff_eq] at hj
    have hjk : pkgOf j = pkgOf k := hj.1.2.trans hpkg.symm
    unfold pkgOf at hjk
    unfold within at e
    omega
  · rw [SMap.get_filter s.mem (fun k => !isSpad k && pkgOf k != s.pkgnum.toNat && pkgOf k != 0), if_neg]
    have : pkgOf (within k) = 0 := by unfold pkgOf within; omega
    simp [this]

/-! ### Units out of use -/

theorem fieldOf_unitWord_kind {k u : Nat} (hk : k < 256) : fieldOf (unitWord k u) 56 8 = k := by
  simp only [fieldOf, unitWord, BitVec.toNat_ofNat]
  omega

theorem fieldOf_unitWord_unit {k u : Nat} (hu : u < 2 ^ 56) : fieldOf (unitWord k u) 0 56 = u := by
  simp only [fieldOf, unitWord, BitVec.toNat_ofNat]
  omega

theorem getLsbD_clearBits_of_not {w : Nat} (l : List Nat) (x : BitVec w) (i : Nat) (h : x.getLsbD i = false) :
    (clearBits x l).getLsbD i = false :=
  foldl_inv (fun y : BitVec w => y.getLsbD i = false) _ (fun y j hy => by simp [hy]) l x h

theorem getLsbD_clearBits_self {w : Nat} (x : BitVec w) (i : Nat) : (clearBits x [i]).getLsbD i = false := by
  simp only [clearBits, List.foldl_cons, List.foldl_nil, BitVec.getLsbD_and, BitVec.getLsbD_not, BitVec.getLsbD_ofNat, Nat.testBit_two_pow_self]
  by_cases h : i < w <;> simp [h]

/-- A die with the units of another. -/
def Die.withUnitsOf (e d : Die) : Die :=
  { e with cores := d.cores, slices := d.slices, hbmg := d.hbmg, ports := d.ports, banks := d.banks, fenced := d.fenced }

/-- e is die d, but for units that are out of use and what its ports report. -/
structure Die.Loses (d e : Die) : Prop where
  rest : e.withUnitsOf d = d
  fenced : d.fenced = true → e.fenced = true
  banks : ∀ i, d.banks.getLsbD i = false → e.banks.getLsbD i = false

theorem Die.Loses.refl (d : Die) : d.Loses d := ⟨rfl, id, fun _ => id⟩

theorem Die.Loses.trans {d e f : Die} (h : d.Loses e) (k : e.Loses f) : d.Loses f :=
  ⟨(congrArg (Die.withUnitsOf · d) k.rest :).trans h.rest, k.fenced ∘ h.fenced, fun i => k.banks i ∘ h.banks i⟩

theorem Die.Loses.errIdx {d e : Die} (h : d.Loses e) : e.errIdx = d.errIdx := (congrArg Die.errIdx h.rest :)

/-- Nothing but dies and ports differs. -/
def State.SameBesideUnits (s t : State) : Prop := { t with dies := s.dies, ports := s.ports } = s

theorem State.SameBesideUnits.trans {s t u : State} (h : s.SameBesideUnits t) (k : t.SameBesideUnits u) : s.SameBesideUnits u := by
  unfold State.SameBesideUnits at *
  exact (congrArg (fun x : State => { x with dies := s.dies, ports := s.ports }) k).trans h

theorem State.SameBesideUnits.keeps {s t : State} (h : s.SameBesideUnits t) {α : Type} (g : State → α)
    (hg : ∀ u ds ps, g { u with dies := ds, ports := ps } = g u) : g t = g s :=
  (hg t s.dies s.ports).symm.trans (congrArg g h)

/-- Nothing but dies and ports changes, and the dies lose units. -/
def State.OnlyLoses (s t : State) : Prop := s.SameBesideUnits t ∧ ∀ d, (s.die d).Loses (t.die d)

theorem State.OnlyLoses.refl (s : State) : s.OnlyLoses s := ⟨rfl, fun _ => Die.Loses.refl _⟩

theorem State.OnlyLoses.trans {s t u : State} (h : s.OnlyLoses t) (k : t.OnlyLoses u) : s.OnlyLoses u :=
  ⟨h.1.trans k.1, fun d => (h.2 d).trans (k.2 d)⟩

theorem State.onlyLoses_setDie {s : State} {k : Nat} {x : Die} (h : (s.die k).Loses x) : s.OnlyLoses (s.setDie k x) := by
  refine ⟨rfl, fun d => ?_⟩
  rw [State.die_setDie]
  split
  · next e => rw [e]; exact h
  · exact Die.Loses.refl _

theorem State.onlyLoses_ite_setDie {s : State} {c : Prop} [Decidable c] {k : Nat} {x : Die} (h : (s.die k).Loses x) :
    s.OnlyLoses (if c then s.setDie k x else s) := by
  split
  · exact State.onlyLoses_setDie h
  · exact State.OnlyLoses.refl s

theorem State.onlyLoses_applyFence (s : State) (w : W64) : s.OnlyLoses (s.applyFence w) := by
  unfold State.applyFence
  dsimp only
  split
  · exact State.onlyLoses_ite_setDie ⟨rfl, fun _ => rfl, fun _ => id⟩
  · exact State.onlyLoses_ite_setDie ⟨rfl, id, fun _ => id⟩
  · exact State.onlyLoses_ite_setDie ⟨rfl, id, fun _ => id⟩
  · exact State.onlyLoses_ite_setDie ⟨rfl, id, fun _ => id⟩
  · exact State.onlyLoses_ite_setDie ⟨rfl, id, fun _ => id⟩
  · exact State.OnlyLoses.refl s

theorem State.onlyLoses_applyDefect (s : State) (w : W64) : s.OnlyLoses (s.applyDefect w) := by
  unfold State.applyDefect
  dsimp only
  split
  · exact State.onlyLoses_setDie ⟨rfl, id, fun _ => getLsbD_clearBits_of_not _ _ _⟩
  · exact s.onlyLoses_applyFence w

theorem State.ports_applyFence (s : State) (w : W64) : (s.applyFence w).ports = s.ports := by
  unfold State.applyFence
  dsimp only
  split
  case h_6 => rfl
  all_goals split <;> rfl

theorem State.ports_applyDefect (s : State) (w : W64) : (s.applyDefect w).ports = s.ports := by
  unfold State.applyDefect
  dsimp only
  split
  · rfl
  · exact s.ports_applyFence w

theorem State.fenced_applyFence (s : State) {u : Nat} (hu : u < 9) : ((s.applyFence (unitWord 1 u)).die u).fenced = true := by
  simp [State.applyFence, fieldOf_unitWord_kind, fieldOf_unitWord_unit (show u < 2 ^ 56 by omega), hu]

theorem State.fenced_applyDefect (s : State) {u : Nat} (hu : u < 9) : ((s.applyDefect (unitWord 1 u)).die u).fenced = true := by
  have h : s.applyDefect (unitWord 1 u) = s.applyFence (unitWord 1 u) := by
    simp [State.applyDefect, fieldOf_unitWord_kind]
  rw [h, s.fenced_applyFence hu]

theorem State.banks_applyDefect (s : State) {u : Nat} (hu : u < 288) :
    ((s.applyDefect (unitWord 6 u)).die (u / 32)).banks.getLsbD (u % 32) = false := by
  simp [State.applyDefect, fieldOf_unitWord_kind, fieldOf_unitWord_unit (show u < 2 ^ 56 by omega), hu, getLsbD_clearBits_self]

/-! ### Ports (R15) -/

@[simp] theorem State.port_setPort (s : State) (k : Nat) (p : Port) (j : Nat) : (s.setPort k p).port j = if j = k then p else s.port j := by
  simp [State.port, State.setPort]

@[simp] theorem State.port_setDie (s : State) (k : Nat) (x : Die) (j : Nat) : (s.setDie k x).port j = s.port j := rfl

@[simp] theorem State.port_reportPort (s : State) (k j : Nat) : (s.reportPort k).port j = s.port j := rfl

theorem State.onlyLoses_reportPort (s : State) (k : Nat) : s.OnlyLoses (s.reportPort k) := State.onlyLoses_setDie ⟨rfl, id, fun _ => id⟩

theorem State.onlyLoses_setPort (s : State) (k : Nat) (p : Port) : s.OnlyLoses (s.setPort k p) := ⟨rfl, fun _ => Die.Loses.refl _⟩

theorem State.partner_zero_of_peer {s : State} (h : s.attachedTo 0 = 2) : s.partner 0 = false := by
  simp [State.partner, h]

/-- A peer package on port 0: it is not trained, and is logged. -/
theorem State.trainPort_peerOnZero {s : State} (h : s.attachedTo 0 = 2) : s.trainPort 0 = s.log 4 { kind := 0x10 } := by
  simp [State.trainPort, State.partner_zero_of_peer h, h]

theorem State.onlyLoses_trainPort {s : State} {k : Nat} (h : k ≠ 0 ∨ s.attachedTo 0 ≠ 2) : s.OnlyLoses (s.trainPort k) := by
  have hn : (k == 0 && s.attachedTo 0 == 2) = false := by
    obtain h | h := h <;> simp [h]
  unfold State.trainPort
  rw [hn]
  split
  · exact (s.onlyLoses_setPort k _).trans (State.onlyLoses_reportPort _ k)
  · exact State.OnlyLoses.refl s

theorem State.partner_congr {s t : State} (ha : t.attached = s.attached)
    (hd : ∀ d, (t.die d).present = (s.die d).present ∧ (t.die d).fenced = (s.die d).fenced) (k : Nat) : t.partner k = s.partner k := by
  simp only [State.partner, State.attachedTo, ha, hd]

theorem State.partner_setDie {s : State} {k : Nat} {x : Die} (h : x.present = (s.die k).present ∧ x.fenced = (s.die k).fenced) (j : Nat) :
    (s.setDie k x).partner j = s.partner j := by
  refine State.partner_congr (s := s) (t := s.setDie k x) rfl (fun d => ?_) j
  rw [State.die_setDie]
  split
  · next e => rw [e]; exact h
  · exact ⟨rfl, rfl⟩

theorem State.partner_reportPort (s : State) (k j : Nat) : (s.reportPort k).partner j = s.partner j := by
  refine State.partner_setDie ?_ j
  exact ⟨rfl, rfl⟩

theorem State.partner_log (s : State) (d : Nat) (r : Report) (j : Nat) : (s.log d r).partner j = s.partner j := by
  refine State.partner_setDie ?_ j
  exact ⟨rfl, rfl⟩

theorem State.partner_trainPort (s : State) (k j : Nat) : (s.trainPort k).partner j = s.partner j := by
  unfold State.trainPort
  split
  · exact State.partner_reportPort _ k j
  · split
    · exact s.partner_log 4 _ j
    · rfl

theorem State.trained_trainPort (s : State) (k j : Nat) :
    ((s.trainPort k).port j).trained = true ↔ (s.port j).trained = true ∨ j = k ∧ s.partner j = true := by
  unfold State.trainPort
  by_cases hp : s.partner k = true
  · rw [if_pos hp, State.port_reportPort, State.port_setPort]
    split
    · next e => simp [e, hp]
    · next e => simp [e]
  · have hj : ¬(j = k ∧ s.partner j = true) := fun h => hp (h.1 ▸ h.2)
    rw [if_neg hp, or_iff_left hj]
    split <;> rfl

theorem State.partner_foldl_trainPort (s : State) (l : List Nat) (j : Nat) : (l.foldl State.trainPort s).partner j = s.partner j :=
  foldl_keeps State.trainPort (State.partner · j) (fun u k => u.partner_trainPort k j) l s

theorem State.trained_foldl_trainPort (s : State) (l : List Nat) (j : Nat) :
    ((l.foldl State.trainPort s).port j).trained = true ↔ (s.port j).trained = true ∨ j ∈ l ∧ s.partner j = true := by
  induction l generalizing s with
  | nil => simp
  | cons k l ih => rw [List.foldl_cons, ih, State.trained_trainPort, State.partner_trainPort, List.mem_cons, or_assoc, ← or_and_right]

/-- After bring-up, the ports that have trained are those with a partner. -/
theorem State.trained_trainPorts {s : State} (h : ∀ k, (s.port k).trained = false) {k : Nat} (hk : k < 6) :
    (s.trainPorts.port k).trained = s.trainPorts.partner k := by
  have hm : k ∈ [0, 1, 2, 3, 4, 5] := by simp; omega
  rw [Bool.eq_iff_iff, State.trainPorts, State.trained_foldl_trainPort, State.partner_foldl_trainPort, h k]
  simp [hm]

theorem State.onlyLoses_foldl_trainPort (s : State) {l : List Nat} (h : ∀ k ∈ l, k ≠ 0) : s.OnlyLoses (l.foldl State.trainPort s) := by
  induction l generalizing s with
  | nil => exact State.OnlyLoses.refl s
  | cons k l ih =>
    exact (State.onlyLoses_trainPort (.inl (h k List.mem_cons_self))).trans (ih _ (fun j hj => h j (List.mem_cons_of_mem _ hj)))

/-- The units that training leaves, and the log entry of a peer package on port 0, if one stands there. -/
theorem State.trainPorts_eq (s : State) : ∃ u : State, (u = s ∧ s.attachedTo 0 ≠ 2 ∨ u = s.log 4 { kind := 0x10 } ∧ s.attachedTo 0 = 2) ∧
    u.OnlyLoses s.trainPorts := by
  have rest (u : State) : u.OnlyLoses ([1, 2, 3, 4, 5].foldl State.trainPort u) := u.onlyLoses_foldl_trainPort (by decide)
  rw [State.trainPorts, List.foldl_cons]
  by_cases h : s.attachedTo 0 = 2
  · refine ⟨_, .inr ⟨rfl, h⟩, ?_⟩
    rw [← State.trainPort_peerOnZero h]
    exact rest _
  · exact ⟨s, .inl ⟨rfl, h⟩, (State.onlyLoses_trainPort (.inr h)).trans (rest _)⟩

/-! ### Package reset -/

/-- The package before its units are tested: reset, with what outlives that (R373, R390, R393). -/
def State.rebooted (s : State) : State :=
  { State.reset with
    mem := s.keptMem, mgmt := s.mgmt.boot, irqs := s.irqs, outbox := s.outbox, turns := s.turns, free := s.free, nextId := s.nextId,
    attached := s.attached, defects := s.defects }

/-- The package once its units are tested. -/
def State.tested (s : State) : State := s.defects.foldl State.applyDefect (s.mgmt.fenceList.foldl State.applyFence s.rebooted)

theorem execPackageReset_eq (s : State) : execPackageReset s = .next s.tested.trainPorts := rfl

theorem State.onlyLoses_tested (s : State) : s.rebooted.OnlyLoses s.tested :=
  (foldl_rel State.OnlyLoses.refl State.OnlyLoses.trans State.onlyLoses_applyFence _ _).trans
    (foldl_rel State.OnlyLoses.refl State.OnlyLoses.trans State.onlyLoses_applyDefect _ _)

theorem State.fenced_tested (s : State) {u : Nat} (hu : u < 9) (h : unitWord 1 u ∈ s.mgmt.fenceList ++ s.defects) :
    (s.tested.die u).fenced = true := by
  have keepsDefect (t : State) (w : W64) (ht : (t.die u).fenced = true) := ((t.onlyLoses_applyDefect w).2 u).fenced ht
  obtain h | h := List.mem_append.mp h
  · exact foldl_inv (fun t : State => (t.die u).fenced = true) _ keepsDefect _ _
      (foldl_of_mem (P := fun t : State => (t.die u).fenced = true) (fun t w ht => ((t.onlyLoses_applyFence w).2 u).fenced ht) (fun t => t.fenced_applyFence hu) h _)
  · exact foldl_of_mem (P := fun t : State => (t.die u).fenced = true) keepsDefect (fun t => t.fenced_applyDefect hu) h _

theorem State.banks_tested (s : State) {u : Nat} (hu : u < 288) (h : unitWord 6 u ∈ s.defects) :
    (s.tested.die (u / 32)).banks.getLsbD (u % 32) = false :=
  foldl_of_mem (P := fun t : State => (t.die (u / 32)).banks.getLsbD (u % 32) = false)
    (fun t w => ((t.onlyLoses_applyDefect w).2 _).banks _) (fun t => t.banks_applyDefect hu) h _

theorem State.die_rebooted (s : State) {d : Nat} (hd : d < 9) : s.rebooted.die d = Die.reset d := by
  interval_cases d <;> rfl

theorem State.atReset_reset : AtReset State.reset := by
  refine ⟨rfl, rfl, rfl, rfl, rfl, rfl, rfl, rfl, rfl, rfl, rfl, rfl, rfl, fun d hd => ?_⟩
  interval_cases d <;> exact ⟨rfl, rfl, rfl, rfl⟩

theorem State.atReset_of_onlyLoses {s t : State} (h : s.rebooted.OnlyLoses t) : AtReset t := by
  obtain ⟨hrest, hdies⟩ := h
  refine ⟨hrest.keeps State.strands (fun _ _ _ => rfl), hrest.keeps State.gangs (fun _ _ _ => rfl),
    hrest.keeps State.jobs (fun _ _ _ => rfl), hrest.keeps State.cores (fun _ _ _ => rfl), hrest.keeps State.flights (fun _ _ _ => rfl),
    hrest.keeps State.msgs (fun _ _ _ => rfl), hrest.keeps State.waiters (fun _ _ _ => rfl), hrest.keeps State.inks (fun _ _ _ => rfl),
    hrest.keeps State.parts (fun _ _ _ => rfl), hrest.keeps State.vds (fun _ _ _ => rfl), hrest.keeps State.pkgnum (fun _ _ _ => rfl),
    hrest.keeps State.npkg (fun _ _ _ => rfl), hrest.keeps State.cap (fun _ _ _ => rfl), fun d hd => ?_⟩
  have hdie := (hdies d).rest.trans (s.die_rebooted hd)
  exact ⟨congrArg Die.mult hdie, congrArg Die.refcnt hdie, congrArg Die.cyccnt hdie, congrArg Die.errLog hdie⟩

/-- What a log entry of die d leaves of the dies: their units. -/
theorem State.units_log (s : State) (d k : Nat) (r : Report) :
    ((s.log d r).die k).fenced = (s.die k).fenced ∧ ((s.log d r).die k).banks = (s.die k).banks := by
  simp only [State.log, State.logEntry, State.die_setDie]
  split
  · next e => rw [e]; exact ⟨rfl, rfl⟩
  · exact ⟨rfl, rfl⟩

theorem State.sameBesideUnits_trainPorts (s : State) : s.SameBesideUnits s.trainPorts := by
  obtain ⟨u, hu, h, -⟩ := s.trainPorts_eq
  have hs : s.SameBesideUnits u := by
    obtain ⟨rfl, -⟩ | ⟨rfl, -⟩ := hu <;> rfl
  exact hs.trans h

/-- Units that are out of use do not train. -/
theorem State.units_trainPorts (s : State) (d : Nat) : ((s.die d).fenced = true → (s.trainPorts.die d).fenced = true) ∧
    ∀ i, (s.die d).banks.getLsbD i = false → (s.trainPorts.die d).banks.getLsbD i = false := by
  obtain ⟨u, ⟨rfl, -⟩ | ⟨rfl, -⟩, -, h⟩ := s.trainPorts_eq
  · exact ⟨(h d).fenced, (h d).banks⟩
  · obtain ⟨hf, hb⟩ := s.units_log 4 d { kind := 0x10 }
    exact ⟨fun k => (h d).fenced (hf.trans k), fun i k => (h d).banks i (by rw [hb, k])⟩

theorem State.sameBesideUnits_packageReset (s : State) : s.rebooted.SameBesideUnits s.tested.trainPorts :=
  s.onlyLoses_tested.1.trans s.tested.sameBesideUnits_trainPorts

theorem State.attachedTo_tested (s : State) (k : Nat) : s.tested.attachedTo k = s.attachedTo k :=
  s.onlyLoses_tested.1.keeps (State.attachedTo · k) (fun _ _ _ => rfl)

theorem State.atReset_packageReset {s : State} (h : s.attachedTo 0 ≠ 2) : AtReset s.tested.trainPorts := by
  obtain ⟨u, ⟨rfl, -⟩ | ⟨-, h2⟩, hu⟩ := s.tested.trainPorts_eq
  · exact State.atReset_of_onlyLoses (s.onlyLoses_tested.trans hu)
  · exact absurd (s.attachedTo_tested 0 ▸ h2) h

/-- A peer package on port 0 is logged, by die 4, as the first entry of its log (R15). -/
theorem State.errIdx_packageReset {s : State} (h : s.attachedTo 0 = 2) : (s.tested.trainPorts.die 4).errIdx = 1 := by
  have h0 : (s.tested.die 4).errIdx = 0 := by
    rw [(s.onlyLoses_tested.2 4).errIdx, s.die_rebooted (by decide)]
    rfl
  obtain ⟨u, ⟨-, h2⟩ | ⟨rfl, -⟩, -, hu⟩ := s.tested.trainPorts_eq
  · exact absurd ((s.attachedTo_tested 0).trans h) h2
  · rw [(hu 4).errIdx]
    simp [State.log, State.logEntry, h0]

/-- Units that fail their tests leave the ports as they are: not trained. -/
theorem State.ports_tested (s : State) : s.tested.ports = [] := by
  rw [State.tested, foldl_keeps _ State.ports State.ports_applyDefect, foldl_keeps _ State.ports State.ports_applyFence]
  rfl

theorem State.trained_tested (s : State) (k : Nat) : (s.tested.port k).trained = false := by
  rw [State.port, s.ports_tested]
  rfl

end Sys2Proof.Machine

open Sys2Proof Sys2Proof.Machine Sys2Proof.Claims

/-- Settles O53: bring-up changes dies, which lose units, and ports, which train with their partners; the rest is as `State.rebooted` has it. -/
theorem resetLeaves : Obligations.ResetLeaves := by
  refine ⟨⟨State.atReset_reset, rfl, rfl, ⟨fun _ h => (List.not_mem_nil h).elim, fun _ h => (List.not_mem_nil h).elim⟩, fun i r t => ⟨ite_self 0, rfl⟩⟩, fun s hm => ?_⟩
  have hs := s.sameBesideUnits_packageReset
  have trained (k : Nat) (hk : k < 6) := State.trained_trainPorts s.trained_tested hk
  have hmgmt : s.tested.trainPorts.mgmt = s.mgmt.boot := hs.keeps State.mgmt (fun _ _ _ => rfl)
  have hmem : s.tested.trainPorts.mem = s.keptMem := hs.keeps State.mem (fun _ _ _ => rfl)
  refine ⟨_, execPackageReset_eq s, State.atReset_packageReset, fun h => ⟨?_, State.errIdx_packageReset h⟩,
    (congrArg Mgmt.fenceList hmgmt :), (congrArg Mgmt.counter hmgmt :), (congrArg Mgmt.staged hmgmt :),
    fun i hi hv hc => ?_, fun u hu h => (s.tested.units_trainPorts u).1 (s.fenced_tested hu h), hs.keeps State.defects (fun _ _ _ => rfl),
    fun u hu h => (s.tested.units_trainPorts _).2 _ (s.banks_tested hu h), trained, fun a ha hp h0 => ?_, fun a ha hh => ?_⟩
  · rw [trained 0 (by decide)]
    exact State.partner_zero_of_peer ((hs.keeps (State.attachedTo · 0) (fun _ _ _ => rfl)).trans h)
  · rw [hmgmt]
    simp [Mgmt.boot, hi, Mgmt.accepts, hv, hc]
  · rw [State.byte, hmem, State.get_keptMem_peer s ha hp h0]
  · rw [State.byte, hmem, State.get_keptMem_host s hm ha hh]

end

section
/-! The link ports (R15, R156, R383 to R385): flits that are accepted, discarded or refused, and flits that leave. -/

namespace Sys2Proof.Machine

open Sys2Proof Sys2Proof.Claims

/-! ### Ports and what they send -/

@[simp] theorem State.mem_setPort (s : State) (k : Nat) (p : Port) : (s.setPort k p).mem = s.mem := rfl
@[simp] theorem State.flights_setPort (s : State) (k : Nat) (p : Port) : (s.setPort k p).flights = s.flights := rfl
@[simp] theorem State.outbox_setPort (s : State) (k : Nat) (p : Port) : (s.setPort k p).outbox = s.outbox := rfl

/-- A flit as it leaves a port: with its number, what it acknowledges, and its CRC (R384, R385). -/
def Port.stamp (p : Port) (type : Nat) (f : Flit) : Flit :=
  let g := { f with seq := p.txSeq, ack := if f.nak then p.rxNext else (p.rxNext + 4095) % 4096 }
  { g with crc := Config.crc64 (flitBody type g) }

/-- A port after a flit has left it. -/
def Port.sent (p : Port) (type : Nat) (f : Flit) : Port :=
  { p with txSeq := (p.txSeq + 1) % 4096, replay := p.replay ++ [(type, p.stamp type f)],
           usedReq := p.usedReq + bitNat (type == 1), usedRep := p.usedRep + bitNat (type == 2) }

theorem flitOk_stamp (p : Port) (type : Nat) (f : Flit) : flitOk type (p.stamp type f) = true := beq_self_eq_true _

theorem State.sendFlit_eq (s : State) (k type : Nat) (f : Flit) : ∃ b, s.sendFlit k type f =
    { s.setPort k ((s.port k).sent type f) with outbox := s.outbox ++ [.flit k type ((s.port k).stamp type f)], buckets := b } := by
  unfold State.sendFlit
  dsimp only
  split
  · obtain ⟨b, h⟩ := s.charge_eq (portArbiter k) f.vd 1
    rw [h]
    exact ⟨b, rfl⟩
  · exact ⟨s.buckets, rfl⟩

@[simp] theorem State.mem_sendFlit (s : State) (k type : Nat) (f : Flit) : (s.sendFlit k type f).mem = s.mem := by
  obtain ⟨b, h⟩ := s.sendFlit_eq k type f
  rw [h, State.mem_setPort]

@[simp] theorem State.flights_sendFlit (s : State) (k type : Nat) (f : Flit) : (s.sendFlit k type f).flights = s.flights := by
  obtain ⟨b, h⟩ := s.sendFlit_eq k type f
  rw [h, State.flights_setPort]

theorem State.outbox_sendFlit (s : State) (k type : Nat) (f : Flit) :
    (s.sendFlit k type f).outbox = s.outbox ++ [.flit k type ((s.port k).stamp type f)] := by
  obtain ⟨b, h⟩ := s.sendFlit_eq k type f
  rw [h]

theorem State.port_sendFlit (s : State) (k type : Nat) (f : Flit) (j : Nat) :
    (s.sendFlit k type f).port j = if j = k then (s.port k).sent type f else s.port j := by
  obtain ⟨b, h⟩ := s.sendFlit_eq k type f
  rw [h, ← State.port_setPort]
  rfl

/-! ### Receiving a flit -/

/-- The next flit that a port expects, whose CRC holds; it acknowledges none that awaits it, and the replay buffer has a place. -/
def Port.expects (p : Port) (type : Nat) (f : Flit) : Prop :=
  p.trained = true ∧ p.resetting = false ∧ flitOk type f = true ∧ f.seq = p.rxNext ∧ (∀ e ∈ p.replay, e.2.seq ≠ f.ack) ∧
    p.replay.length < 1024

/-- A port that has accepted a flit. -/
def Port.accept (p : Port) (f : Flit) : Port :=
  { p with rxNext := (p.rxNext + 1) % 4096, acked := f.ack, creditReq := p.creditReq + f.creditReq, creditRep := p.creditRep + f.creditRep }

/-- Port k of t has accepted what port k of s was sent. -/
def State.Took (s t : State) (k : Nat) (f : Flit) : Prop :=
  (t.port k).rxNext = ((s.port k).rxNext + 1) % 4096 ∧ (t.port k).acked = f.ack ∧
    (t.port k).creditReq = (s.port k).creditReq + f.creditReq ∧ (t.port k).creditRep = (s.port k).creditRep + f.creditRep

section Receive
variable {s : State} {k type : Nat} {f : Flit} {room : Bool}

theorem State.receive_expected (h : (s.port k).expects type f) : s.receive k type true f = .accepted (s.setPort k ((s.port k).accept f)) := by
  obtain ⟨ht, hr, hok, hseq, hack, -⟩ := h
  have hn : (s.port k).replay.findIdx? (fun e => e.2.seq == f.ack) = none := by simpa using hack
  simp [State.receive, State.ackLink, Port.up, Port.accept, ht, hr, hok, hseq, hn]

theorem State.receive_duplicate (ht : (s.port k).trained = true) (hr : (s.port k).resetting = false) (hok : flitOk type f = true)
    (hseq : f.seq ≠ (s.port k).rxNext) (hback : ((s.port k).rxNext + 4096 - f.seq % 4096) % 4096 < 2048) :
    s.receive k type room f = .dropped s := by
  simp [State.receive, Port.up, ht, hr, hok, hseq, hback]

theorem State.receive_other (ht : (s.port k).trained = true) (hr : (s.port k).resetting = false)
    (h : flitOk type f = false ∨ f.seq ≠ (s.port k).rxNext ∧ 2048 ≤ ((s.port k).rxNext + 4096 - f.seq % 4096) % 4096)
    (hl : (s.port k).replay.length < 1024) :
    s.receive k type room f = .dropped (s.sendFlit k 3 { Flit.empty with nak := true }) := by
  obtain hok | ⟨hseq, hback⟩ := h
  · simp [State.receive, Port.up, ht, hr, hok, hl]
  · simp [State.receive, Port.up, ht, hr, hseq, Nat.not_lt.mpr hback, hl]

end Receive

/-- A step that receives a flit of each type: what it does with one that it drops. -/
theorem exec_of_dropped {s t : State} {k type : Nat} {f : Flit} {i : Instr}
    (hi : (i, type) ∈ [(Instr.linkAckFlit k f, 3), (.linkIdleFlit k f, 0), (.linkReplyFlit k f, 2), (.linkRequestFlit k f, 1)])
    (h : ∀ room, s.receive k type room f = .dropped t) : exec i s = .next t := by
  simp only [List.mem_cons, Prod.mk.injEq, List.not_mem_nil, or_false] at hi
  obtain ⟨rfl, rfl⟩ | ⟨rfl, rfl⟩ | ⟨rfl, rfl⟩ | ⟨rfl, rfl⟩ := hi
  · simp only [exec, execLinkAckFlit, h]
  · simp only [exec, execLinkIdleFlit, h]
  · simp only [exec, execLinkReplyFlit, h]
  · simp only [exec, execLinkRequestFlit, h]

/-- An acknowledgement or an idle flit that is accepted. -/
theorem exec_of_accepted {s t : State} {k type : Nat} {f : Flit} {i : Instr}
    (hi : (i, type) ∈ [(Instr.linkAckFlit k f, 3), (.linkIdleFlit k f, 0)]) (h : s.receive k type true f = .accepted t) : exec i s = .next t := by
  simp only [List.mem_cons, Prod.mk.injEq, List.not_mem_nil, or_false] at hi
  obtain ⟨rfl, rfl⟩ | ⟨rfl, rfl⟩ := hi
  · simp only [exec, execLinkAckFlit, h]
  · simp only [exec, execLinkIdleFlit, h]

theorem State.took_setPort (s : State) (k : Nat) (f : Flit) : s.Took (s.setPort k ((s.port k).accept f)) k f := by
  simp [State.Took, Port.accept]

/-! ### Requests of a peer (R156, R383) -/

/-- A request with the next number joins those in flight. -/
def State.addFlight (s : State) (mk : Nat → Flight) : State := { s with nextId := s.nextId + 1, flights := s.flights ++ [mk s.nextId] }

/-- Requests made for the entries of a list, whatever numbers they take. -/
theorem State.foldl_addFlight {α β : Type} (mk : α → Nat → Flight) (φ : Flight → β) (ψ : α → β) (P : Flight → Prop)
    (h : ∀ a n, φ (mk a n) = ψ a ∧ P (mk a n)) (l : List α) (s : State) :
    ∃ fs n, l.foldl (fun u a => u.addFlight (mk a)) s = { s with flights := s.flights ++ fs, nextId := n } ∧
      fs.map φ = l.map ψ ∧ ∀ g ∈ fs, P g := by
  induction l generalizing s with
  | nil => exact ⟨[], s.nextId, by rw [List.append_nil]; rfl, rfl, fun _ h => (List.not_mem_nil h).elim⟩
  | cons a l ih =>
    obtain ⟨fs, n, he, hm, hp⟩ := ih (s.addFlight (mk a))
    obtain ⟨hφ, hP⟩ := h a s.nextId
    refine ⟨mk a s.nextId :: fs, n, ?_, by rw [List.map_cons, List.map_cons, hφ, hm], ?_⟩
    · rw [List.foldl_cons, he]
      simp [State.addFlight]
    · intro g hg
      obtain rfl | hg := List.mem_cons.mp hg
      · exact hP
      · exact hp g hg

/-- The agent that a peer's request is, and the access that it makes for some bytes. -/
def peerAgent (k : Nat) (q : Flit) : Agent := { who := .peer k q, src := q.src, vd := q.vd, prio := q.prio }
def peerFlight (k : Nat) (q : Flit) (key bytes data entry : Nat) (stage : Stage) (id : Nat) : Flight :=
  agentFlight (peerAgent k q) q.op key bytes data (q.ev % 8) 0 entry (q.tag % 65536) stage id

theorem State.peerAccess_eq (s : State) (k : Nat) (q : Flit) : s.peerAccess k q =
    if s.peerOk q then (peerRuns q).foldl (fun u r => u.addFlight (peerFlight k q (q.pa + r.1) r.2.1 r.2.2 (s.nextId + 1) .home)) s
    else s.addFlight (peerFlight k q q.pa 1 0 0 .err) := rfl

/-- An access of a peer's request. -/
def Flight.AsksFor (g : Flight) (k : Nat) (q : Flit) : Prop :=
  ∃ a, g.agent = some a ∧ a.who = .peer k q ∧ a.src = q.src ∧ a.vd = q.vd ∧ a.prio = q.prio

theorem asksFor_peerFlight (k : Nat) (q : Flit) (key bytes data entry : Nat) (stage : Stage) (id : Nat) :
    (peerFlight k q key bytes data entry stage id).AsksFor k q := ⟨peerAgent k q, rfl, rfl, rfl, rfl, rfl⟩

theorem State.peerAccess_ok {s : State} {q : Flit} (k : Nat) (h : s.peerOk q = true) : ∃ l n,
    s.peerAccess k q = { s with flights := s.flights ++ l, nextId := n } ∧
      l.map (fun g => (g.key, g.bytes, g.data)) = (peerRuns q).map (fun r => (q.pa + r.1, r.2)) ∧
      ∀ g ∈ l, g.stage = .home ∧ g.kind = q.op ∧ g.tag = q.tag % 65536 ∧ g.AsksFor k q := by
  rw [State.peerAccess_eq, if_pos h]
  exact State.foldl_addFlight (fun r : Nat × Nat × Nat => peerFlight k q (q.pa + r.1) r.2.1 r.2.2 (s.nextId + 1) .home)
    (fun g => (g.key, g.bytes, g.data)) (fun r => (q.pa + r.1, r.2))
    (fun g => g.stage = .home ∧ g.kind = q.op ∧ g.tag = q.tag % 65536 ∧ g.AsksFor k q)
    (fun r n => ⟨rfl, rfl, rfl, rfl, asksFor_peerFlight ..⟩) _ s

theorem State.peerAccess_refused {s : State} {q : Flit} (k : Nat) (h : s.peerOk q = false) : ∃ l n,
    s.peerAccess k q = { s with flights := s.flights ++ l, nextId := n } ∧ ∃ g, l = [g] ∧ g.stage = .err ∧ g.AsksFor k q := by
  rw [State.peerAccess_eq, if_neg (by simp [h])]
  exact ⟨_, _, rfl, _, rfl, rfl, asksFor_peerFlight ..⟩

/-- The request's last flit is taken: it goes on with all of its data. -/
theorem State.takeFlit_request_more {s : State} {k : Nat} {f : Flit} (act : State → Flit → State) (hm : f.more = true) :
    s.takeFlit k 1 f act = s.setPort k { s.port k with partReq := (s.port k).partReq ++ f.data } := by
  simp [State.takeFlit, Port.gather, hm]

theorem State.takeFlit_request_last {s : State} {k : Nat} {f : Flit} (act : State → Flit → State) (hk : k ≠ 0) (hm : f.more = false)
    (hp : (s.port k).partReq = []) : s.takeFlit k 1 f act = act (s.setPort k { s.port k with partReq := [] }) f := by
  cases f
  simp only at hm
  subst hm
  simp [State.takeFlit, Port.gather, hk, hp]

theorem State.takeFlit_reply_last {s : State} {k : Nat} {f : Flit} (act : State → Flit → State) (hk : k ≠ 0) (hm : f.more = false) :
    s.takeFlit k 2 f act = act (s.setPort k { s.port k with partRep := [] }) { f with data := (s.port k).partRep ++ f.data } := by
  simp [State.takeFlit, Port.gather, hm, hk]

theorem exec_linkRequestFlit {s : State} {k : Nat} {f : Flit} (h : (s.port k).expects 1 f) : exec (.linkRequestFlit k f) s =
    .next ((s.setPort k ((s.port k).accept f)).takeFlit k 1 f (fun s q => s.peerAccess k q)) := by
  simp only [exec, execLinkRequestFlit, State.receive_expected h]

theorem exec_linkReplyFlit {s : State} {k : Nat} {f : Flit} (hk : k ≠ 0) (h : (s.port k).expects 2 f) : exec (.linkReplyFlit k f) s =
    .next (((s.setPort k ((s.port k).accept f)).takeFlit k 2 f State.peerReply).sendFlit k 3 { Flit.empty with creditRep := 1 }) := by
  have hr : decide ((s.port k).replay.length < 1024) = true := decide_eq_true h.2.2.2.2.2
  simp only [exec, execLinkReplyFlit, hr, State.receive_expected h, beq_eq_false_iff_ne.mpr hk, Bool.false_eq_true, if_false]

/-! ### Answers to a peer's requests (R156, R210, R384) -/

@[simp] theorem length_leBytes (n v : Nat) : (leBytes n v).length = n := by
  induction n generalizing v with
  | zero => rfl
  | succ n ih => rw [leBytes, List.length_cons, ih]

/-- Data of at most 64 bytes goes in one flit. -/
theorem flitData_of_le {d : List Byte} (h : d.length ≤ 64) : flitData d = [d] := by
  have : max 1 ((d.length + 63) / 64) = 1 := by omega
  simp [flitData, this, List.take_of_length_le h]

theorem State.sendFlits_one {s : State} {k type : Nat} {f : Flit} (h : f.data.length ≤ 64) :
    s.sendFlits k type f = s.sendFlit k type { f with more := false } := by
  simp [State.sendFlits, flitData_of_le h, indexed]

/-- The answer that leaves for a request, with what its home answers. -/
def answerFlit (q : Flit) (d : List Byte × Bool) : Flit :=
  { Flit.empty with creditReq := (flitData q.data).length, epoch := q.epoch, vd := q.vd, pa := q.pa, src := q.src, tag := q.tag,
                    op := q.op, mask := q.mask, wr := q.wr && d.2, data := d.1 }

/-- A request of one access that has been performed or refused is answered in one flit, where its port has room. -/
theorem State.answerPeer_one {s : State} {k : Nat} {q : Flit} {g : Flight} (hone : s.flights.filter (fun x => x.agent == g.agent) = [g])
    (hu : g.unperformed = false) (hd : (replyData [g]).1.length ≤ 64) (hr : s.portRoom k 2 1 = true) :
    s.answerPeer k q g = ({ s with flights := s.flights.filter (fun x => x.agent != g.agent) } : State).sendFlit k 2
      (answerFlit q (replyData [g])) := by
  simp only [State.answerPeer, hone, List.any_cons, List.any_nil, hu, Bool.or_false, Bool.false_eq_true, if_false, flitData_of_le hd,
    List.length_singleton, hr, if_true]
  exact State.sendFlits_one (f := answerFlit q (replyData [g])) hd

theorem replyData_err {g : Flight} (h : g.stage = .err) : replyData [g] = ([], false) := by
  simp [replyData, h]

theorem replyData_ack {g : Flight} (h : g.stage = .ack) : replyData [g] = ([], true) := by
  simp [replyData, h]

theorem replyData_load {g : Flight} (h : g.stage = .reply) (hk : g.kind = .load) : replyData [g] = (leBytes g.bytes g.value, true) := by
  have hw : g.wire = g.bytes := by simp [Flight.wire, hk]
  simp [replyData, h, spanOf, bytesOf, patchBytes, hw, List.take_of_length_le]

/-- An answer comes for the request of a peer. -/
theorem State.onFlight_peer {s : State} {g : Flight} {a : Agent} {k : Nat} {q : Flit} {st : Stage} (strand : State → Flight → State)
    (hf : s.flight? g.id = some g) (ha : g.agent = some a) (hw : a.who = .peer k q) (hs : g.stage = st) :
    s.onFlight g.id (s.answered st) (State.answerWith strand) = .next (s.answerPeer k q g) := by
  obtain ⟨who, src, vd, prio⟩ := a
  subst hw
  simp [State.onFlight, State.answered, State.answerWith, hf, ha, hs]

/-! ### What a write at a home changes beside memory -/

/-- Nothing differs but memory, strands, cores, dies and waiters. -/
def State.SameBesideHomes (s t : State) : Prop :=
  { t with mem := s.mem, strands := s.strands, cores := s.cores, dies := s.dies, waiters := s.waiters } = s

theorem State.SameBesideHomes.refl (s : State) : s.SameBesideHomes s := rfl

theorem State.SameBesideHomes.trans {s t u : State} (h : s.SameBesideHomes t) (k : t.SameBesideHomes u) : s.SameBesideHomes u := by
  unfold State.SameBesideHomes at *
  exact (congrArg (fun x : State => { x with mem := s.mem, strands := s.strands, cores := s.cores, dies := s.dies, waiters := s.waiters }) k).trans h

theorem State.SameBesideHomes.keeps {s t : State} (h : s.SameBesideHomes t) {α : Type} (g : State → α)
    (hg : ∀ u m st c d w, g { u with mem := m, strands := st, cores := c, dies := d, waiters := w } = g u) : g t = g s :=
  (hg t s.mem s.strands s.cores s.dies s.waiters).symm.trans (congrArg g h)

theorem State.sameBesideHomes_of_mem {s t : State} (h : { t with mem := s.mem } = s) : s.SameBesideHomes t :=
  (congrArg (fun x : State => { x with strands := s.strands, cores := s.cores, dies := s.dies, waiters := s.waiters }) h :)

theorem State.sameBesideHomes_storeSpad (s : State) (a : Nat) (bs : List Byte) : s.SameBesideHomes (s.storeSpad a bs) :=
  State.sameBesideHomes_of_mem (s.storeSpad_frame a bs)

theorem State.sameBesideHomes_storeBytes (s : State) (a : Nat) (bs : List Byte) : s.SameBesideHomes (s.storeBytes a bs) :=
  State.sameBesideHomes_of_mem (s.storeBytes_frame a bs)

theorem State.sameBesideHomes_recall (s : State) (core line : Nat) : s.SameBesideHomes (s.recall core line) := rfl

theorem State.sameBesideHomes_invalidate (s : State) (core line : Nat) : s.SameBesideHomes (s.invalidate core line) := by
  unfold State.invalidate
  dsimp only
  split
  · split <;> rfl
  · rfl

theorem State.sameBesideHomes_patchL1 (s : State) (core a ev : Nat) (v : SMap 32) (bs : List Byte) :
    s.SameBesideHomes (s.patchL1 core a ev v bs) := by
  unfold State.patchL1
  dsimp only
  split <;> rfl

theorem State.sameBesideHomes_overlayL1 (s : State) (core line : Nat) : s.SameBesideHomes (s.overlayL1 core line) :=
  foldl_rel State.SameBesideHomes.refl State.SameBesideHomes.trans (fun u _ => u.sameBesideHomes_patchL1 _ _ _ _ _) _ _

theorem State.sameBesideHomes_wakeWfe (s : State) (p : Nat → Nat → Nat → Bool) : s.SameBesideHomes (s.wakeWfe p) := by
  refine foldl_rel State.SameBesideHomes.refl State.SameBesideHomes.trans (fun u c => ?_) _ _
  dsimp only
  split
  · split <;> rfl
  · rfl

theorem State.sameBesideHomes_fillL1 (s : State) (core a ev : Nat) (v : SMap 32) (o : Bool) : s.SameBesideHomes (s.fillL1 core a ev v o) := by
  unfold State.fillL1
  dsimp only
  split
  · rfl
  · exact State.SameBesideHomes.trans (t := s.setCore core _) rfl (State.sameBesideHomes_overlayL1 _ _ _)

theorem State.sameBesideHomes_writeLine (s : State) (core a : Nat) (bs : List Byte) : s.SameBesideHomes (s.writeLine core a bs) := by
  unfold State.writeLine
  split
  · exact s.sameBesideHomes_storeSpad a bs
  · have stored : s.SameBesideHomes (((s.recall core (a / 128)).storeBytes a bs).invalidate core (a / 128)) :=
      ((s.sameBesideHomes_recall core (a / 128)).trans (State.sameBesideHomes_storeBytes _ a bs)).trans
        (State.sameBesideHomes_invalidate _ _ _)
    exact ((stored.trans (State.sameBesideHomes_patchL1 _ _ _ _ _ _)).trans (State.sameBesideHomes_overlayL1 _ _ _)).trans
      (State.sameBesideHomes_wakeWfe _ _)

/-- A whole line that is written. -/
theorem State.write_wholeLine (s : State) (core a : Nat) (bs : List Byte) (ha : a % 128 = 0) (hl : bs.length = 128) :
    s.write core a bs = s.writeLine core a bs := by
  have hne : bs.isEmpty = false := by cases bs <;> simp_all
  simp [State.write, State.writeLines, hl, ha, hne, List.take_of_length_le, List.drop_of_length_le]

theorem State.bytes_congr_mem {s t : State} (h : t.mem = s.mem) (a n : Nat) : t.bytes a n = s.bytes a n :=
  State.bytes_congr a n (fun b _ _ => State.byte_congr_mem h b)

theorem State.bytes_writeLine (s : State) (core a : Nat) (bs : List Byte) (ha : isSpad a = false)
    (h : ∀ i < bs.length, s.roByte (a + i) = false) : (s.writeLine core a bs).bytes a bs.length = bs := by
  have hm := s.mem_writeLine core a bs
  rw [if_neg (by simp [ha]), State.storeBytes_plain s a bs h] at hm
  rw [State.bytes_congr_mem hm, State.bytes_putBytes]

/-! ### A peer's reply (R156, R210) -/

/-- Bytes within bytes. -/
theorem State.bytes_add (s : State) (a m n : Nat) : s.bytes a (m + n) = s.bytes a m ++ s.bytes (a + m) n := by
  induction m generalizing a with
  | zero => simp [State.bytes]
  | succ m ih => rw [Nat.succ_add, State.bytes, State.bytes, ih, List.cons_append, Nat.add_right_comm, Nat.add_assoc]

theorem State.take_drop_bytes (s : State) (a n o m : Nat) (h : o + m ≤ n) : ((s.bytes a n).drop o).take m = s.bytes (a + o) m := by
  obtain ⟨r, rfl⟩ := Nat.exists_eq_add_of_le h
  rw [State.bytes_add, State.bytes_add, List.append_assoc, List.drop_append_of_le_length (by simp), List.drop_of_length_le (by simp)]
  simp

theorem leBytes_leNat (bs : List Byte) : leBytes bs.length (leNat bs) = bs := by
  induction bs with
  | nil => rfl
  | cons b bs ih =>
    have hb := b.isLt
    rw [List.length_cons, leBytes, leNat, show (b.toNat + 256 * leNat bs) / 256 = leNat bs by omega, ih]
    congr 1
    apply BitVec.eq_of_toNat_eq
    rw [BitVec.toNat_ofNat]
    omega

theorem leBytes_eq_map (n v : Nat) : leBytes n v = (List.range n).map (fun i => BitVec.ofNat 8 (v / 2 ^ (8 * i))) := by
  induction n generalizing v with
  | zero => rfl
  | succ n ih =>
    rw [leBytes, List.range_succ_eq_map, List.map_cons, List.map_map, ih]
    simp only [Nat.mul_zero, pow_zero, Nat.div_one, List.cons.injEq, true_and]
    refine List.map_congr_left (fun i _ => ?_)
    have h : 2 ^ (8 * (i + 1)) = 256 * 2 ^ (8 * i) := by rw [Nat.mul_succ, pow_add, mul_comm]; rfl
    rw [Function.comp, Nat.succ_eq_add_one, h, Nat.div_div_eq_div_mul]

/-- A read of a strand without lines in the write-combining buffer takes the bytes as they stand. -/
theorem State.ownBytes_of_noWc (s : State) (f : Flight) (bs : List Byte) (hl : bs.length = f.bytes)
    (h : ∀ x ∈ s.flights, x.strand = f.strand → x.stage ≠ .wc) : s.ownBytes f (leNat bs) = leNat bs := by
  have hn : s.flights.filter (fun g => g.stage == .wc && g.before f && f.overlaps g) = [] := by
    refine List.filter_eq_nil_iff.mpr (fun g hg hc => ?_)
    simp only [Bool.and_eq_true, beq_iff_eq, Flight.before] at hc
    exact h g hg hc.1.2.1.1 hc.1.1
  rw [State.ownBytes, hn, ← hl]
  simp only [List.foldl_nil]
  rw [← leBytes_eq_map, leBytes_leNat]

/-- What a peer answers stands in the line after the answer, and nothing but homes and caches changes. -/
theorem State.peerBytes_line (s : State) (a : Nat) (d : List Byte) (ha : a % 128 = 0) (hs : isSpad a = false) (hl : d.length = 128)
    (hr : ∀ i < 128, s.roByte (a + i) = false) : (s.peerBytes a d).bytes a 128 = d ∧ s.SameBesideHomes (s.peerBytes a d) := by
  unfold State.peerBytes
  split
  · next h =>
    have hd : d.isEmpty = false := by cases d <;> simp_all
    exact ⟨by simpa [hd, hl] using h, State.SameBesideHomes.refl s⟩
  · rw [s.write_wholeLine 999 a d ha hl]
    exact ⟨by simpa [hl] using s.bytes_writeLine 999 a d hs (by rwa [hl]), s.sameBesideHomes_writeLine 999 a d⟩

/-- Bytes that stand there already change nothing. -/
theorem State.peerBytes_same {s : State} {a : Nat} {d : List Byte} (h : s.bytes a d.length = d) : s.peerBytes a d = s := by
  simp [State.peerBytes, h]

/-- A load is performed with the bytes that stand at its address. -/
theorem State.performHome_load (s : State) (f : Flight) (hk : f.kind = .load) (h : ∀ x ∈ s.flights, x.strand = f.strand → x.stage ≠ .wc) :
    ∃ u, s.SameBesideHomes u ∧ s.performHome f = u.replyWith f (s.readLE f.key f.bytes) := by
  have hv : s.ownBytes f (s.readLE f.key f.bytes) = s.readLE f.key f.bytes := s.ownBytes_of_noWc f _ (s.length_bytes _ _) h
  unfold State.performHome
  simp only [hk, hv]
  split
  · exact ⟨_, s.sameBesideHomes_fillL1 _ _ _ _ _, rfl⟩
  · exact ⟨s, State.SameBesideHomes.refl s, rfl⟩

/-- A peer's reply with no access that asked for it changes nothing. -/
theorem State.peerReply_of_none {s : State} {r : Flit} (h : s.answeredBy r = []) : s.peerReply r = s := by
  simp [State.peerReply, h]

/-- The reply with the line of one load. -/
theorem State.peerReply_load {s : State} {r : Flit} {g : Flight} (hg : s.answeredBy r = [g]) (hk : g.kind = .load) (hm : g.mayHit = true)
    (hl : r.data.length = 128) (hb : g.key % 128 + g.bytes ≤ 128) (hr : ∀ i < 128, s.roByte (g.key / 128 * 128 + i) = false)
    (hw : ∀ x ∈ s.flights, x.strand = g.strand → x.stage ≠ .wc) :
    ∃ u, s.SameBesideHomes u ∧ s.peerReply r = u.replyWith g (leNat ((r.data.drop (g.key % 128)).take g.bytes)) := by
  have hspad : isSpad (g.key / 128 * 128) = false := by
    have : isSpad g.key = false := by simp only [Flight.mayHit, Bool.and_eq_true, Bool.not_eq_true'] at hm; exact hm.1.2
    simp only [isSpad, decide_eq_false_iff_not] at this ⊢
    omega
  have hspan : requestSpan g [g] = (g.key / 128 * 128, 128) := if_pos hm
  have hwire : g.wire = g.bytes := by simp [Flight.wire, hk]
  have hoff : g.key - g.key / 128 * 128 = g.key % 128 := by omega
  have hdata : r.data.isEmpty = false := by cases h : r.data <;> simp_all
  obtain ⟨hline, hsame⟩ := s.peerBytes_line (g.key / 128 * 128) r.data (by omega) hspad hl hr
  generalize hv : s.peerBytes (g.key / 128 * 128) r.data = v at hline hsame
  have hat : v.bytes g.key g.bytes = (r.data.drop (g.key % 128)).take g.bytes := by
    rw [← hline, State.take_drop_bytes _ _ _ _ _ hb, show g.key / 128 * 128 + g.key % 128 = g.key by omega]
  have hflights : v.flights = s.flights := hsame.keeps State.flights (fun _ _ _ _ _ _ => rfl)
  obtain ⟨u, hu, he⟩ := v.performHome_load g hk (by rwa [hflights])
  refine ⟨u, hsame.trans hu, ?_⟩
  have hdone : v.peerDone g ((r.data.drop (g.key % 128)).take g.bytes) = u.replyWith g (v.readLE g.key g.bytes) := by
    rw [← hat]
    simp only [State.peerDone, hk, State.peerBytes_same (s := v) (a := g.key) (d := v.bytes g.key g.bytes) (by rw [State.length_bytes])]
    exact he
  rw [← hat]
  have hreads : [g].any (fun f => !f.kind.writes || f.atomic) = true := by simp [hk, ReqKind.writes]
  simp only [State.peerReply, hg, hdata, Bool.false_and, Bool.false_eq_true, if_false, hspan, hreads, hl, bne_self_eq_false, Bool.and_false,
    beq_self_eq_true, Bool.and_self, if_true, hv, List.foldl_cons, List.foldl_nil, hwire, hoff, hdone]
  rfl

/-! ### Training (R385) -/

theorem exec_linkAckTimeout {s : State} {k : Nat} (ht : (s.port k).trained = true) (hr : (s.port k).resetting = false)
    (hne : (s.port k).replay ≠ []) : exec (.linkAckTimeout k) s = .next (if 16 ≤ (s.port k).fails then s.resetLink k else
      { s.setPort k { s.port k with fails := (s.port k).fails + 1 } with
        outbox := s.outbox ++ (s.port k).replay.map (fun e => .flit k e.1 e.2) }) := by
  simp [exec, execLinkAckTimeout, Port.up, State.replayLink, ht, hr, hne]

@[simp] theorem State.port_sendAgain (s : State) (k j : Nat) : (s.sendAgain k).port j = s.port j := rfl
@[simp] theorem State.mem_sendAgain (s : State) (k : Nat) : (s.sendAgain k).mem = s.mem := rfl
@[simp] theorem State.mem_reportPort (s : State) (k : Nat) : (s.reportPort k).mem = s.mem := rfl

theorem State.leaveRoutes_eq (s : State) (k : Nat) : ∃ r, s.leaveRoutes k = { s with route := r } := by
  unfold State.leaveRoutes
  split
  · exact ⟨s.route, rfl⟩
  · split <;> exact ⟨_, rfl⟩

/-- The port has left the ROUTE sets: port 5 its own, another its bit of each package (R383). -/
theorem State.route_leaveRoutes_five (s : State) (q : Nat) : ((s.leaveRoutes 5).route.get 1).getLsbD q = false := by
  simp [State.leaveRoutes]

theorem getLsbD_clearBits_of_mem {w : Nat} {l : List Nat} {i : Nat} (x : BitVec w) (h : i ∈ l) : (clearBits x l).getLsbD i = false :=
  foldl_of_mem (P := fun y : BitVec w => y.getLsbD i = false) (f := fun y j => y &&& ~~~(BitVec.ofNat w (2 ^ j)))
    (fun y j hy => by simp [hy]) (fun y => getLsbD_clearBits_self y i) h x

theorem State.route_leaveRoutes {k q : Nat} (s : State) (hq : q < 16) (h1 : 1 ≤ k) (h4 : k ≤ 4) :
    ((s.leaveRoutes k).route.get 0).getLsbD (4 * q + (k - 1)) = false := by
  have h0 : (k == 0) = false := beq_eq_false_iff_ne.mpr (by omega)
  have h5 : (k == 5) = false := beq_eq_false_iff_ne.mpr (by omega)
  simp only [State.leaveRoutes, h0, h5, Bool.false_eq_true, if_false, SMap.get_set, if_true]
  exact getLsbD_clearBits_of_mem _ (List.mem_map.mpr ⟨q, List.mem_range.mpr hq, rfl⟩)

/-- The replies that await an acknowledgement are sent anew by a port just trained. -/
theorem State.port_foldl_sendFlit (s : State) (k : Nat) (l : List (Nat × Flit)) :
    let t := l.foldl (fun s e => s.sendFlit k e.1 e.2) s
    ((t.port k).trained, (t.port k).x8, (t.port k).resetting, (t.port k).rxNext, t.mem) =
      ((s.port k).trained, (s.port k).x8, (s.port k).resetting, (s.port k).rxNext, s.mem) :=
  foldl_keeps (fun s e => s.sendFlit k e.1 e.2)
    (fun t : State => ((t.port k).trained, (t.port k).x8, (t.port k).resetting, (t.port k).rxNext, t.mem))
    (fun u e => by simp [State.port_sendFlit, Port.sent]) l s

/-! ### The link clauses, one lemma for each kind of step -/

section Clauses
variable {s : State} {k : Nat} {f : Flit}

theorem gives_accepted {i : Instr} {type : Nat} (hi : (i, type) ∈ [(Instr.linkAckFlit k f, 3), (.linkIdleFlit k f, 0)])
    (h : (s.port k).expects type f) : Gives i s (fun t => s.Took t k f ∧ (∀ a, t.byte a = s.byte a) ∧ t.outbox = s.outbox) :=
  ⟨_, exec_of_accepted hi (State.receive_expected h), s.took_setPort k f, fun _ => rfl, rfl⟩

theorem gives_linkRequestFlit_more (h : (s.port k).expects 1 f) (hm : f.more = true) : Gives (.linkRequestFlit k f) s (fun t =>
    s.Took t k f ∧ (∀ a, t.byte a = s.byte a) ∧ t.flights = s.flights ∧ (t.port k).partReq = (s.port k).partReq ++ f.data) := by
  refine ⟨_, exec_linkRequestFlit h, ?_⟩
  rw [State.takeFlit_request_more _ hm]
  simp [State.Took, Port.accept, State.byte]

/-- Requests that join those in flight are all that an accepted request changes beside its port. -/
theorem gives_linkRequestFlit_last (hk : k ≠ 0) (h : (s.port k).expects 1 f) (hm : f.more = false) (hp : (s.port k).partReq = [])
    {R : List Flight → Prop} (hacc : ∀ u : State, u.peerOk f = s.peerOk f →
      ∃ l n, u.peerAccess k f = { u with flights := u.flights ++ l, nextId := n } ∧ R l) :
    Gives (.linkRequestFlit k f) s (fun t => s.Took t k f ∧ (∀ a, t.byte a = s.byte a) ∧ t.outbox = s.outbox ∧
      ∃ l, t.flights = s.flights ++ l ∧ R l) := by
  refine ⟨_, exec_linkRequestFlit h, ?_⟩
  dsimp only
  rw [State.takeFlit_request_last _ hk hm (by simpa [Port.accept] using hp)]
  generalize hv : State.setPort _ k _ = v
  obtain ⟨l, n, he, hl⟩ := hacc v (by rw [← hv]; rfl)
  rw [he, ← hv]
  refine ⟨?_, fun _ => rfl, rfl, l, rfl, hl⟩
  simp [State.Took, State.port, State.setPort, Port.accept]

/-- An answer to a peer's request of one access leaves by the port it came by. -/
theorem gives_answer {i : Instr} {q : Flit} {g : Flight} (hone : s.flights.filter (fun x => x.agent == g.agent) = [g])
    (hr : s.portRoom k 2 1 = true) (hi : exec i s = .next (s.answerPeer k q g)) (hu : g.unperformed = false)
    (hd : (replyData [g]).1.length ≤ 64) : Gives i s (fun t => (∀ a, t.byte a = s.byte a) ∧
      t.flights = s.flights.filter (fun x => x.agent != g.agent) ∧ ∃ r, t.outbox = s.outbox ++ [.flit k 2 r] ∧ r.tag = q.tag ∧ r.pa = q.pa ∧
        r.src = q.src ∧ r.vd = q.vd ∧ r.wr = (q.wr && (replyData [g]).2) ∧ r.data = (replyData [g]).1 ∧
        r.creditReq = (flitData q.data).length ∧ r.seq = (s.port k).txSeq ∧ flitOk 2 r = true) := by
  refine ⟨_, hi, ?_⟩
  rw [State.answerPeer_one hone hu hd hr]
  exact ⟨fun a => by simp [State.byte], by simp, _, State.outbox_sendFlit _ _ _ _, rfl, rfl, rfl, rfl, rfl, rfl, rfl, rfl, flitOk_stamp _ _ _⟩

/-- A reply of a peer that no access asked for: it is accepted, and returns a credit. -/
theorem gives_linkReplyFlit_none (hk : k ≠ 0) (h : (s.port k).expects 2 f) (hm : f.more = false)
    (hn : s.answeredBy f = []) : Gives (.linkReplyFlit k f) s (fun t => s.Took t k f ∧ (∀ a, t.byte a = s.byte a) ∧
      ∃ r, t.outbox = s.outbox ++ [.flit k 3 r] ∧ r.creditRep = 1) := by
  refine ⟨_, exec_linkReplyFlit hk h, ?_⟩
  dsimp only
  rw [State.takeFlit_reply_last _ hk hm, State.peerReply_of_none (by exact hn)]
  refine ⟨?_, fun a => by simp [State.byte], _, State.outbox_sendFlit _ _ _ _, rfl⟩
  simp [State.Took, Port.accept, State.port_sendFlit, Port.sent]

/-- A peer's reply with the line that a load of this package asked for. -/
theorem gives_linkReplyFlit_load {g : Flight} (hk : k ≠ 0) (h : (s.port k).expects 2 f) (hm : f.more = false) (hg : s.answeredBy f = [g])
    (hkind : g.kind = .load) (hhit : g.mayHit = true) (hl : ((s.port k).partRep ++ f.data).length = 128)
    (hb : g.key % 128 + g.bytes ≤ 128) (hr : ∀ i < 128, s.roByte (g.key / 128 * 128 + i) = false)
    (hw : ∀ x ∈ s.flights, x.strand = g.strand → x.stage ≠ .wc) :
    Gives (.linkReplyFlit k f) s (fun t => s.Took t k f ∧ FlightIs s t g.id (fun x => x.stage = .reply ∧
      x.value = leNat ((((s.port k).partRep ++ f.data).drop (g.key % 128)).take g.bytes)) ∧
      ∃ r, t.outbox = s.outbox ++ [.flit k 3 r] ∧ r.creditRep = 1) := by
  have hmem : g ∈ s.flights := (List.mem_filter.mp (hg ▸ List.mem_singleton_self g : g ∈ s.answeredBy f)).1
  refine ⟨_, exec_linkReplyFlit hk h, ?_⟩
  dsimp only
  rw [State.takeFlit_reply_last _ hk hm]
  generalize hv : State.setPort _ k _ = v
  have hdata : ((s.setPort k ((s.port k).accept f)).port k).partRep = (s.port k).partRep := by simp [Port.accept]
  rw [hdata]
  obtain ⟨u, hu, he⟩ := State.peerReply_load (s := v) (r := { f with data := (s.port k).partRep ++ f.data }) (g := g)
    (by rw [← hv]; exact hg) hkind hhit hl hb (by rw [← hv]; exact hr) (by rw [← hv]; exact hw)
  have hflights : u.flights = s.flights := (hu.keeps State.flights (fun _ _ _ _ _ _ => rfl)).trans (by rw [← hv]; rfl)
  have hports : (u.replyWith g (leNat ((((s.port k).partRep ++ f.data).drop (g.key % 128)).take g.bytes))).port k = v.port k :=
    hu.keeps (State.port · k) (fun _ _ _ _ _ _ => rfl)
  have houtbox : u.outbox = s.outbox := (hu.keeps State.outbox (fun _ _ _ _ _ _ => rfl)).trans (by rw [← hv]; rfl)
  rw [he]
  refine ⟨?_, ⟨⟨{ g with
      stage := .reply, value := leNat ((((s.port k).partRep ++ f.data).drop (g.key % 128)).take g.bytes), vec := u.homeVec g.key },
    ?_, rfl, rfl, rfl⟩, fun x hx hne => ?_⟩, _, (State.outbox_sendFlit _ _ _ _).trans (congrArg (· ++ _) houtbox), rfl⟩
  · simp [State.Took, State.port_sendFlit, Port.sent, hports, ← hv, Port.accept]
  · rw [State.flights_sendFlit]
    exact State.setFlight_self _ _ ⟨g, by rw [hflights]; exact hmem, rfl⟩
  · rw [State.flights_sendFlit] at hx
    exact hflights ▸ (State.mem_flights_setFlight u { g with stage := .reply, value := _, vec := u.homeVec g.key } x hne).mp hx

theorem exec_linkRetrainComplete (x8 : Bool) (hr : (s.port k).resetting = true) (hp : s.partner k = true) :
    exec (.linkRetrainComplete k x8) s = .next (((s.port k).replay.filter (fun e => e.1 == 2)).foldl (fun s e => s.sendFlit k e.1 e.2)
      (((s.setPort k { Port.reset with trained := true, x8 }).reportPort k).sendAgain k)) := by
  simp only [exec, execLinkRetrainComplete, hr, hp, Bool.not_true, Bool.or_self, Bool.false_eq_true, if_false]

/-- A port in training that has a partner trains anew. -/
theorem gives_linkRetrainComplete (x8 : Bool) (hr : (s.port k).resetting = true) (hp : s.partner k = true) :
    Gives (.linkRetrainComplete k x8) s (fun t => (t.port k).trained = true ∧ (t.port k).x8 = x8 ∧ (t.port k).resetting = false ∧
      (t.port k).rxNext = 0 ∧ ∀ a, t.byte a = s.byte a) := by
  refine ⟨_, exec_linkRetrainComplete x8 hr hp, ?_⟩
  generalize hu : ((s.setPort k { Port.reset with trained := true, x8 }).reportPort k).sendAgain k = u
  have hport : u.port k = { Port.reset with trained := true, x8 } := by rw [← hu]; simp
  have hmem : u.mem = s.mem := by rw [← hu]; simp
  have h := u.port_foldl_sendFlit k ((s.port k).replay.filter (fun e => e.1 == 2))
  simp only [Prod.mk.injEq, hport, hmem] at h
  obtain ⟨htrained, hx8, hresetting, hnext, hbytes⟩ := h
  exact ⟨htrained, hx8, hresetting, hnext, fun a => congrArg (SMap.get · a) hbytes⟩

theorem exec_linkTrainTimeout (hr : (s.port k).resetting = true) : exec (.linkTrainTimeout k) s =
    .next (((((s.sendAgain k).setPort k Port.reset).reportPort k).leaveRoutes k).log (portDie k) { kind := 0x10 }) := by
  simp only [exec, execLinkTrainTimeout, hr, Bool.not_true, Bool.false_eq_true, if_false]

/-- A port in training that does not train leaves its ROUTE sets (R383). -/
theorem gives_linkTrainTimeout (hr : (s.port k).resetting = true) : Gives (.linkTrainTimeout k) s (fun t =>
    (t.port k).trained = false ∧ (t.port k).resetting = false ∧ (∀ a, t.byte a = s.byte a) ∧
      (k = 5 → ∀ q < 16, (t.route.get 1).getLsbD q = false) ∧
      ∀ q < 16, 1 ≤ k → k ≤ 4 → (t.route.get 0).getLsbD (4 * q + (k - 1)) = false) := by
  refine ⟨_, exec_linkTrainTimeout hr, ?_⟩
  have hport : (((s.sendAgain k).setPort k Port.reset).reportPort k).port k = Port.reset := by simp
  have hmem : (((s.sendAgain k).setPort k Port.reset).reportPort k).mem = s.mem := by simp
  generalize ((s.sendAgain k).setPort k Port.reset).reportPort k = u at hport hmem
  have hroutes : ((u.leaveRoutes k).log (portDie k) { kind := 0x10 }).route = (u.leaveRoutes k).route := rfl
  obtain ⟨r, hleave⟩ := u.leaveRoutes_eq k
  have hkept : ((u.leaveRoutes k).log (portDie k) { kind := 0x10 }).port k = Port.reset := by rw [hleave, ← hport]; rfl
  dsimp only
  rw [hkept, hroutes]
  refine ⟨rfl, rfl, fun a => ?_, ?_, fun q hq h1 h4 => u.route_leaveRoutes hq h1 h4⟩
  · rw [hleave, State.byte, State.byte, ← hmem]
    rfl
  · rintro rfl q -
    exact u.route_leaveRoutes_five q

/-- A flit whose CRC fails, or that comes too early, draws a replay with the number that its port expects. -/
theorem gives_of_refused {i : Instr} {type : Nat}
    (hi : (i, type) ∈ [(Instr.linkAckFlit k f, 3), (.linkIdleFlit k f, 0), (.linkReplyFlit k f, 2), (.linkRequestFlit k f, 1)])
    (ht : (s.port k).trained = true) (hr : (s.port k).resetting = false)
    (h : flitOk type f = false ∨ f.seq ≠ (s.port k).rxNext ∧ 2048 ≤ ((s.port k).rxNext + 4096 - f.seq % 4096) % 4096)
    (hl : (s.port k).replay.length < 1024) : Gives i s (fun t => (t.port k).rxNext = (s.port k).rxNext ∧ (∀ a, t.byte a = s.byte a) ∧
      t.flights = s.flights ∧ ∃ r, t.outbox = s.outbox ++ [.flit k 3 r] ∧ r.nak = true ∧ r.ack = (s.port k).rxNext) := by
  refine ⟨_, exec_of_dropped hi (fun _ => State.receive_other ht hr h hl), ?_⟩
  exact ⟨by simp [State.port_sendFlit, Port.sent], fun a => by simp [State.byte], by simp, _, State.outbox_sendFlit .., rfl, rfl⟩

/-- No acknowledgement in time: the replay buffer goes again, or at the seventeenth time the port resets (R385). -/
theorem gives_linkAckTimeout_again (ht : (s.port k).trained = true) (hr : (s.port k).resetting = false) (hne : (s.port k).replay ≠ [])
    (hf : (s.port k).fails < 16) : Gives (.linkAckTimeout k) s (fun t => t.port k = { s.port k with fails := (s.port k).fails + 1 } ∧
      t.outbox = s.outbox ++ (s.port k).replay.map (fun e => .flit k e.1 e.2) ∧ ∀ a, t.byte a = s.byte a) := by
  refine ⟨_, exec_linkAckTimeout ht hr hne, ?_⟩
  rw [if_neg (Nat.not_le.mpr hf)]
  exact ⟨(s.port_setPort ..).trans (if_pos rfl), rfl, fun _ => rfl⟩

theorem gives_linkAckTimeout_reset (ht : (s.port k).trained = true) (hr : (s.port k).resetting = false) (hne : (s.port k).replay ≠ [])
    (hf : 16 ≤ (s.port k).fails) : Gives (.linkAckTimeout k) s (fun t => (t.port k).resetting = true ∧ ∀ a, t.byte a = s.byte a) := by
  refine ⟨_, exec_linkAckTimeout ht hr hne, ?_⟩
  rw [if_pos hf]
  exact ⟨by simp [State.resetLink], fun _ => rfl⟩

theorem gives_linkRetrain (hk : k < 6) (ht : (s.port k).trained = true) : Gives (.linkRetrain k) s (fun t =>
    t.port k = { s.port k with resetting := true, fails := 0 } ∧ { t with ports := s.ports } = s) := by
  refine ⟨s.resetLink k, by simp [exec, execLinkRetrain, hk, ht], ?_, rfl⟩
  simp [State.resetLink]

end Clauses

/-! ### The power cap, the thermal trip and the relock (R386 to R388) -/

theorem KMap.get_map_of_mem {α : Type} (d : α) (g : α → α) (m : KMap α) (a : Nat) (h : ∃ x ∈ m, x.1 = a) :
    KMap.get d (m.map (fun c => (c.1, g c.2))) a = g (m.get d a) := by
  induction m with
  | nil => exact absurd h (by simp)
  | cons c t ih =>
    rw [List.map_cons, KMap.get, KMap.get]
    split
    · rfl
    · next hne =>
      refine ih ?_
      obtain ⟨x, hx, rfl⟩ := h
      obtain rfl | hx := List.mem_cons.mp hx
      · exact absurd rfl hne
      · exact ⟨x, hx, rfl⟩

/-- Every die of s owes in t the step that a rule gives of the last that it owes, or of its MULT. -/
def State.Owes (s t : State) (f : Nat → Nat) : Prop :=
  ∀ d, (∃ x ∈ s.dies, x.1 = d) →
    (t.die d).due = f (if (s.die d).due = 0 then (s.die d).mult else (s.die d).due) ∧ (t.die d).mult = (s.die d).mult

theorem State.owes_owesSteps (s : State) (f : Nat → Nat) : s.Owes (s.owesSteps f) f := by
  intro d hd
  have h : (s.owesSteps f).die d = { s.die d with due := f (if (s.die d).due == 0 then (s.die d).mult else (s.die d).due) } :=
    KMap.get_map_of_mem _ (fun x : Die => { x with due := f (if x.due == 0 then x.mult else x.due) }) s.dies d hd
  rw [h]
  simp

/-- What a log keeps of the dies: their clocks. -/
theorem State.owes_log {s t : State} {f : Nat → Nat} (h : s.Owes t f) (die : Nat) (r : Report) : s.Owes (t.log die r) f := by
  intro d hd
  obtain ⟨hdue, hmult⟩ := h d hd
  rw [State.log, State.logEntry, State.die_setDie]
  split
  · next e => exact e ▸ ⟨hdue, hmult⟩
  · exact ⟨hdue, hmult⟩

/-- A window's mean is noted, with the number of windows in a row below the cap. -/
def State.noteMean (s : State) (mean below : Nat) : State :=
  { s with mgmt := { s.mgmt with means := (s.mgmt.means ++ [mean]).drop (s.mgmt.means.length + 1 - 64), below } }

theorem exec_powerWindow (s : State) (mean : Nat) : exec (.powerWindow mean) s = .next (
    if s.cap < mean then (s.noteMean mean 0).owesSteps (fun m => max (m - 1) 10)
    else if mean + 60 < s.cap then
      if 100 ≤ s.mgmt.below + 1 then (s.noteMean mean 0).owesSteps (fun m => min (m + 1) 30) else s.noteMean mean (s.mgmt.below + 1)
    else s.noteMean mean 0) := by
  simp only [exec, execPowerWindow]
  split
  · rfl
  · split
    · split <;> rfl
    · rfl

/-- A junction temperature is noted. -/
def State.noteTemp (s : State) (die temp : Nat) : State := { s with mgmt := { s.mgmt with temps := s.mgmt.temps.set die temp } }

theorem exec_thermalTrip (s : State) (die temp : Nat) : exec (.thermalTrip die temp) s = .next (
    if 105 ≤ temp then ((s.noteTemp die temp).owesSteps (fun _ => 10)).log die { kind := 0x10 } else s.noteTemp die temp) := by
  simp only [exec, execThermalTrip]
  split <;> rfl

/-- The clock resumes, and its step's entry gets the ticks of the relock (R387). -/
theorem exec_clockRelockEnd {s : State} {die : Nat} {r c w q : W64} (hl : (s.die die).stepLog.get [] ((s.die die).steps % 16) = [r, c, w, q])
    (hr : (s.die die).relock ≠ 0) (hn : r.toNat < (s.die die).refcnt.toNat) : exec (.clockRelockEnd die) s = .next (s.setDie die { s.die die with
      relock := 0, stepLog := (s.die die).stepLog.set ((s.die die).steps % 16)
        [r, c, setField w 16 16 ((s.die die).refcnt.toNat - r.toNat), q] }) := by
  have hn : ((s.die die).refcnt.toNat - r.toNat == 0) = false := beq_eq_false_iff_ne.mpr (by omega)
  simp only [exec, execClockRelockEnd, hl, beq_eq_false_iff_ne.mpr hr, hn, Bool.or_self, Bool.false_eq_true, if_false]

/-! ### Time on a die (R85, R388) -/

/-- The MULT of a die's clock, the step that it owes, and the steps that it has taken. -/
def Die.clock (d : Die) : Nat × Nat × Nat := (d.mult, d.due, d.steps)

/-- A die with a clock that is not stopped takes the step that it owes. -/
theorem State.clock_takeStep {s : State} {d : Nat} (hp : (s.die d).present = true) (hf : (s.die d).fenced = false) (hr : (s.die d).relock = 0)
    (h0 : (s.die d).due ≠ 0) (hm : (s.die d).due ≠ (s.die d).mult) :
    ((s.takeStep d).die d).clock = ((s.die d).due, 0, (s.die d).steps + 1) := by
  have hne : ((s.die d).mult == (s.die d).due) = false := beq_eq_false_iff_ne.mpr (Ne.symm hm)
  have h : (s.takeStep d).die d = { s.die d with
      mult := (s.die d).due, due := 0, relock := (Config.freeWord s.free).toNat % 200 + 1, steps := (s.die d).steps + 1,
      stepLog := (s.die d).stepLog.set (((s.die d).steps + 1) % 16) [(s.die d).refcnt, (s.die d).cyccnt,
        BitVec.ofNat 64 (((Config.freeWord s.free).toNat % 200 + 1) * 2 ^ 16 + (s.die d).due % 32), BitVec.ofNat 64 ((s.die d).steps + 1)] } := by
    simp only [State.takeStep, bne_iff_ne, ne_eq, h0, not_false_eq_true, hr, beq_self_eq_true, Bool.and_true, if_true, State.stepDie, hp, hf, hne,
      Bool.not_true, Bool.or_self, Bool.false_eq_true, if_false]
    exact (State.die_setDie ..).trans (if_pos rfl)
  rw [h]
  rfl

theorem State.die_takeStep_of_ne (s : State) {d j : Nat} (h : j ≠ d) : (s.takeStep d).die j = s.die j := by
  unfold State.takeStep State.stepDie
  dsimp only
  split
  · split
    · exact (State.die_setDie ..).trans (if_neg h)
    · exact (State.die_setDie ..).trans (if_neg h)
  · rfl

theorem Die.clock_refreshBank (d : Die) (b : Nat) : (d.refreshBank b).clock = d.clock := rfl

/-- Ticks of the reference count on a die, and leave its clock and the other dies alone. -/
theorem State.die_pass (s : State) (die n d : Nat) :
    ((s.pass die n).die d).clock = ((s.takeStep die).die d).clock ∧ (d ≠ die → (s.pass die n).die d = (s.takeStep die).die d) := by
  have hbanks (e : Die) := foldl_keeps Die.refreshBank Die.clock Die.clock_refreshBank (List.range 32) e
  generalize hu : s.takeStep die = u
  have h (e : Die) (g : KMap Gang) (c : KMap Core) (t : KMap Strand) :
      ({ u.setDie die e with gangs := g, cores := c, strands := t } : State).die d = if d = die then e else u.die d := State.die_setDie ..
  rw [State.pass]
  dsimp only
  rw [hu, h]
  refine ⟨?_, fun hd => if_neg hd⟩
  split
  · next e => rw [hbanks, e]; rfl
  · rfl

theorem State.once_pass {s : State} {die n : Nat} {rest : List Turn} (h : s.turns = .pass die n :: rest) :
    s.once = .next (({ s with turns := rest } : State).pass die n) := by
  unfold State.once
  rw [h]

theorem die_of_afterStep {s t : State} {o : Out} (h : o = .next t) : ∃ u, afterStep s o = .next u ∧ ∀ d, u.die d = t.die d := by
  rw [h, afterStep]
  split
  · exact ⟨t, rfl, fun _ => rfl⟩
  · exact ⟨_, rfl, fun _ => rfl⟩

end Sys2Proof.Machine

open Sys2Proof Sys2Proof.Machine Sys2Proof.Claims

/-- Settles O51: the clauses of the ports one by one from the step of each flit, and those of the clocks from what each event makes the dies
owe. -/
theorem linksClocksAndPower : Obligations.LinksClocksAndPower := by
  refine ⟨fun s k f x8 => ?_, fun s mean die temp r c w q => ?_⟩
  · intro p next took same
    refine ⟨fun i type hi hn => gives_accepted hi hn, fun _ hn hm => gives_linkRequestFlit_more hn hm,
      fun hk hn hm hp => ⟨fun hok => ?_, fun hno => ?_⟩,
      ?_, fun hk hn hm _ hnone => gives_linkReplyFlit_none hk hn hm hnone,
      fun hk hn hm g hg _ hkind hhit hl _ hb hr hw => gives_linkReplyFlit_load hk hn hm hg hkind hhit hl hb hr hw,
      fun i type hi ht hr => ⟨fun hok hseq hback => ?_, fun h hl => gives_of_refused hi ht hr h hl⟩,
      fun ht hr hne => ⟨gives_linkAckTimeout_again ht hr hne, gives_linkAckTimeout_reset ht hr hne⟩, gives_linkRetrain, fun ht => ?_,
      fun hr => ⟨gives_linkRetrainComplete x8 hr, fun hp => ?_, gives_linkTrainTimeout hr⟩⟩
    · exact gives_linkRequestFlit_last hk hn hm hp (fun u hu => State.peerAccess_ok k (hu.trans hok))
    · obtain ⟨t, he, htook, hsame, hout, l, hl, g, rfl, hg⟩ :=
        gives_linkRequestFlit_last hk hn hm hp (fun u hu => State.peerAccess_refused k (hu.trans hno))
      exact ⟨t, he, htook, hsame, hout, g, hl, hg⟩
    · intro q a g hf ha hw hone answers hroom
      refine ⟨fun hs hkind _ h64 => ?_, fun hs => ?_, fun hs => ?_⟩
      · have h := gives_answer (i := .loadReply g.id) hone hroom (State.onFlight_peer State.reply hf ha hw hs) (by simp [Flight.unperformed, hs])
        rw [replyData_load hs hkind] at h
        simpa using h (by simpa using h64)
      · have h := gives_answer (i := .writeAcknowledgement g.id) hone hroom (State.onFlight_peer State.acknowledge hf ha hw hs)
          (by simp [Flight.unperformed, hs])
        rw [replyData_ack hs] at h
        simpa using h (by simp)
      · have h := gives_answer (i := .errorResponse g.id) hone hroom (State.onFlight_peer State.errorReply hf ha hw hs)
          (by simp [Flight.unperformed, hs])
        rw [replyData_err hs] at h
        simpa using h (by simp)
    · exact exec_of_dropped hi (fun _ => State.receive_duplicate ht hr hok hseq hback)
    · simp [exec, execLinkRetrain, show (s.port k).trained = false from ht]
    · simp [exec, execLinkRetrainComplete, hp]
  · intro owes same
    refine ⟨fun h => ?_, fun h hb => ?_, fun h hb => ?_, fun h h' => ?_, fun h => ?_, fun h => ?_,
      fun n rest ht hp hf hr h0 hm => ?_, fun hl hr hn => ?_⟩
    · refine ⟨_, exec_powerWindow s mean, ?_⟩
      rw [if_pos h]
      exact ⟨⟨fun _ => rfl, rfl⟩, (s.noteMean mean 0).owes_owesSteps _, rfl⟩
    · refine ⟨_, exec_powerWindow s mean, ?_⟩
      rw [if_neg (by omega), if_pos h, if_neg (by omega)]
      exact ⟨⟨fun _ => rfl, rfl⟩, rfl, rfl⟩
    · refine ⟨_, exec_powerWindow s mean, ?_⟩
      rw [if_neg (by omega), if_pos h, if_pos (by omega)]
      exact ⟨⟨fun _ => rfl, rfl⟩, (s.noteMean mean 0).owes_owesSteps _, rfl⟩
    · refine ⟨_, exec_powerWindow s mean, ?_⟩
      rw [if_neg (by omega), if_neg (by omega)]
      exact ⟨⟨fun _ => rfl, rfl⟩, rfl, rfl⟩
    · refine ⟨_, exec_thermalTrip s die temp, ?_⟩
      rw [if_pos h]
      exact ⟨⟨fun _ => rfl, rfl⟩, State.owes_log (State.owes_owesSteps (s.noteTemp die temp) _) _ _⟩
    · refine ⟨_, exec_thermalTrip s die temp, ?_⟩
      rw [if_neg (Nat.not_le.mpr h)]
      exact ⟨⟨fun _ => rfl, rfl⟩, rfl, by simp [State.noteTemp]⟩
    · generalize hv : ({ s with turns := rest } : State) = v
      have hdies : v.die = s.die := by rw [← hv]; rfl
      obtain ⟨u, hu, hd⟩ := die_of_afterStep (s := s) (State.once_pass ht)
      rw [hv] at hd
      have hclock : ((v.takeStep die).die die).clock = ((s.die die).due, 0, (s.die die).steps + 1) := by
        rw [← hdies] at hp hf hr h0 hm ⊢
        exact State.clock_takeStep hp hf hr h0 hm
      have hc := (v.die_pass die n die).1.trans hclock
      simp only [Die.clock, Prod.mk.injEq, ← hd] at hc
      obtain ⟨hmult, hdue, hsteps⟩ := hc
      refine ⟨u, (step_eq_afterStep s).trans hu, hmult, hdue, hsteps, fun d hne => ?_⟩
      rw [hd, (v.die_pass die n d).2 hne, v.die_takeStep_of_ne hne, hdies]
    · refine ⟨_, exec_clockRelockEnd hl hr hn, ⟨fun _ => rfl, rfl⟩, ?_⟩
      rw [State.die_setDie, if_pos rfl]
      exact ⟨rfl, (KMap.get_set ..).trans (if_pos rfl)⟩

end

section
/-! The steps between a core and a home (R27, R162, R163, R167, R180 to R185, R198, R208, R351, R352, R396). -/

namespace Sys2Proof.Machine

open Sys2Proof Sys2Proof.Claims

/-! ### Entries of the window and bins (R162, R163) -/

/-- The entry of a request in the window: same strand, line and direction. -/
theorem State.sameEntry_window (s : State) {f : Flight} (hf : f.stage = .window) (g : Flight) : s.sameEntry f g = true ↔
    g.stage = .window ∧ g.strand = f.strand ∧ g.key / 128 = f.key / 128 ∧ g.kind.writes = f.kind.writes := by
  simp only [State.sameEntry, hf, beq_iff_eq, reduceCtorEq, if_false, Bool.and_eq_true]
  exact ⟨fun ⟨⟨hs, hl⟩, hk, hw⟩ => ⟨hs.symm, hk.symm, hl.symm, hw.symm⟩,
    fun ⟨hs, hk, hl, hw⟩ => ⟨⟨hs.symm, hl.symm⟩, hk.symm, hw.symm⟩⟩

theorem exec_coalescingEntrySend {s : State} {id : Nat} {f : Flight} (hf : s.flight? id = some f) (hs : f.stage = .window) :
    exec (.coalescingEntrySend id) s = .next (s.sendEntry f) := by
  simp [exec, execCoalescingEntrySend, State.onFlight, hf, hs]

/-- Every request of an entry goes on, as one with that entry's number. -/
theorem gives_coalescingEntrySend {s : State} {id : Nat} {f : Flight} (hf : s.flight? id = some f) (hs : f.stage = .window) :
    Gives (.coalescingEntrySend id) s (fun t => ((∀ a, t.byte a = s.byte a) ∧ t.strands = s.strands) ∧
      (∃ g ∈ t.flights, g.id = id ∧ g.stage = f.firstStage) ∧
      ∀ g ∈ s.flights, (if g.stage = .window ∧ g.strand = f.strand ∧ g.key / 128 = f.key / 128 ∧ g.kind.writes = f.kind.writes then
        { g with stage := g.firstStage, entry := id + 1 } else g) ∈ t.flights) := by
  have hid : f.id = id := by simpa using List.find?_some hf
  have hall (g : Flight) (hg : g ∈ s.flights) :
      (if g.stage = .window ∧ g.strand = f.strand ∧ g.key / 128 = f.key / 128 ∧ g.kind.writes = f.kind.writes then
        { g with stage := g.firstStage, entry := id + 1 } else g) ∈ (s.sendEntry f).flights := by
    refine List.mem_map.mpr ⟨g, hg, ?_⟩
    simp only [s.sameEntry_window hs, hid]
  refine ⟨_, exec_coalescingEntrySend hf hs, ⟨fun _ => rfl, rfl⟩, ⟨_, hall f (List.mem_of_find?_eq_some hf), ?_⟩, hall⟩
  rw [if_pos ⟨hs, rfl, rfl, rfl⟩]
  exact ⟨hid, rfl⟩

theorem State.binOf_iff (s : State) (die n : Nat) (g : Flight) :
    s.binOf die n g = true ↔ g.stage = .bin ∧ s.flightCore g / 32 = die ∧ s.homeKey g.key = n := by
  simp [State.binOf, and_assoc]

/-- The number of the line access that the elements of a line in a bin become (R163). -/
def State.binEntry (s : State) (die n : Nat) (g : Flight) : Nat :=
  ((s.flights.find? (fun x => s.binOf die n x && x.key / 128 == g.key / 128)).map (·.id)).getD g.id + 1

theorem State.binEntry_congr {s : State} {die n : Nat} {g h : Flight} (hg : g ∈ s.flights) (hb : s.binOf die n g = true)
    (hl : g.key / 128 = h.key / 128) : s.binEntry die n g = s.binEntry die n h := by
  obtain ⟨x, hx⟩ := Option.isSome_iff_exists.mp
    (List.find?_isSome.mpr ⟨g, hg, by simp [hb, hl]⟩ : (s.flights.find? (fun x => s.binOf die n x && x.key / 128 == h.key / 128)).isSome)
  rw [State.binEntry, State.binEntry, hl, hx]
  rfl

theorem State.flights_sendBin (s : State) (die n : Nat) : (s.sendBin die n).flights =
    s.flights.map (fun g => if s.binOf die n g then { g with stage := .home, entry := s.binEntry die n g } else g) := rfl

theorem State.mem_flights_sendBin {s : State} {die n : Nat} {g : Flight} (hg : g ∈ s.flights) (hb : s.binOf die n g = true) :
    { g with stage := .home, entry := s.binEntry die n g } ∈ (s.sendBin die n).flights :=
  List.mem_map.mpr ⟨g, hg, if_pos hb⟩

/-- A bin's elements go on to their home, those of a line under one number. -/
theorem gives_binSend (s : State) (die n : Nat) : Gives (.binSend die n) s (fun t =>
    ((∀ a, t.byte a = s.byte a) ∧ t.strands = s.strands) ∧ { t with flights := s.flights } = s ∧
      t.flights.map (fun g => { g with entry := 0 }) = s.flights.map (fun g =>
        if g.stage = .bin ∧ s.flightCore g / 32 = die ∧ s.homeKey g.key = n then { g with stage := .home, entry := 0 }
        else { g with entry := 0 }) ∧
      ∀ g ∈ s.flights, ∀ h ∈ s.flights, s.binOf die n g = true → s.binOf die n h = true → g.key / 128 = h.key / 128 →
        ∃ e, e ≠ 0 ∧ { g with stage := .home, entry := e } ∈ t.flights ∧ { h with stage := .home, entry := e } ∈ t.flights) := by
  refine ⟨s.sendBin die n, rfl, ⟨fun _ => rfl, rfl⟩, rfl, ?_, fun g hg h hh hbg hbh hl => ?_⟩
  · rw [State.flights_sendBin, List.map_map]
    refine List.map_congr_left (fun g _ => ?_)
    simp only [Function.comp, ← State.binOf_iff]
    split <;> rfl
  · exact ⟨s.binEntry die n g, Nat.succ_ne_zero _, State.mem_flights_sendBin hg hbg,
      State.binEntry_congr hg hbg hl ▸ State.mem_flights_sendBin hh hbh⟩

/-! ### Invalidations and recalls (R198, R208) -/

theorem KMap.get_map_key {α : Type} (d : α) (g : Nat → α → α) (m : KMap α) (a : Nat) (hd : g a d = d) :
    KMap.get d (m.map (fun c => (c.1, g c.1 c.2))) a = g a (m.get d a) := by
  induction m with
  | nil => exact hd.symm
  | cons c t ih =>
    rw [List.map_cons, KMap.get, KMap.get]
    split
    · next h => rw [h]
    · exact ih

/-- What is left in a core of a line that an invalidation of a die drops: the core that wrote it keeps it. -/
def Core.dropped (die : Nat) (m : Inval) (c : Nat) (x : Core) : Core :=
  if c / 32 == die && c != m.core then { x with l1 := x.l1.filter (fun l => l.line != m.line) } else x

theorem Core.mem_l1_dropped (die : Nat) (m : Inval) (c : Nat) (x : Core) (l : L1Line) :
    l ∈ (x.dropped die m c).l1 ↔ l ∈ x.l1 ∧ ¬(c / 32 = die ∧ c ≠ m.core ∧ l.line = m.line) := by
  unfold Core.dropped
  split
  · next h =>
    simp only [Bool.and_eq_true, beq_iff_eq, bne_iff_ne] at h
    simp [h.1, h.2]
  · next h =>
    simp only [Bool.and_eq_true, beq_iff_eq, bne_iff_ne, not_and_or] at h
    tauto

/-- A state in which a die has applied an invalidation. -/
def State.applied (s : State) (die n : Nat) (m : Inval) : State :=
  let t := s.setDie die { s.die die with invals := (s.die die).invals.eraseIdx n, vc := (s.die die).vc.set m.src (m.vec.get m.src) }
  { t with cores := s.cores.map (fun c => (c.1, c.2.dropped die m c.1)) }

theorem exec_invalidationApply {s : State} {die n : Nat} {m : Inval} (hn : (s.die die).invals[n]? = some m) (hs : m.src < 9)
    (hm : (s.die die).mayApply m = true) : exec (.invalidationApply die n) s = .next (s.applied die n m) := by
  simp only [exec, execInvalidationApply, hn, hm, hs, Bool.not_true, Bool.false_eq_true, if_false, if_true, State.applied, Core.dropped]
  congr 3
  funext c
  split <;> rfl

theorem State.core_applied (s : State) (die n : Nat) (m : Inval) (c : Nat) : (s.applied die n m).core c = (s.core c).dropped die m c :=
  KMap.get_map_key Core.zero (fun c x => Core.dropped die m c x) s.cores c (by unfold Core.dropped; split <;> rfl)

theorem Die.mayApply_of {d : Die} {m : Inval} (hv : d.vc.get m.src + 1 = m.vec.get m.src)
    (h : ∀ i < 9, i ≠ m.src → 0 ≤ (d.vc.get i - m.vec.get i).toInt) : d.mayApply m = true := by
  simp only [Die.mayApply, hv, beq_self_eq_true, Bool.true_and, Bool.or_eq_true, List.all_eq_true, List.mem_range, beq_iff_eq]
  refine Or.inr (fun i hi => ?_)
  by_cases hs : i = m.src
  · exact Or.inl hs
  · exact Or.inr (decide_eq_true (h i hi hs))

/-- A die drops a line from its cores and advances its vector (R198). -/
theorem gives_invalidationApply {s : State} {die n : Nat} {m : Inval} (hn : (s.die die).invals[n]? = some m) (hs : m.src < 9)
    (hv : (s.die die).vc.get m.src + 1 = m.vec.get m.src)
    (h : ∀ i < 9, i ≠ m.src → 0 ≤ ((s.die die).vc.get i - m.vec.get i).toInt) : Gives (.invalidationApply die n) s (fun t =>
      ((∀ a, t.byte a = s.byte a) ∧ t.strands = s.strands) ∧ (t.die die).invals = (s.die die).invals.eraseIdx n ∧
        (∀ i, (t.die die).vc.get i = if i = m.src then m.vec.get i else (s.die die).vc.get i) ∧
        ∀ c l, l ∈ (t.core c).l1 ↔ l ∈ (s.core c).l1 ∧ ¬(c / 32 = die ∧ c ≠ m.core ∧ l.line = m.line)) := by
  refine ⟨_, exec_invalidationApply hn hs (Die.mayApply_of hv h), ⟨fun _ => rfl, rfl⟩, ?_⟩
  have hd : (s.applied die n m).die die =
      { s.die die with invals := (s.die die).invals.eraseIdx n, vc := (s.die die).vc.set m.src (m.vec.get m.src) } :=
    (State.die_setDie ..).trans (if_pos rfl)
  refine ⟨by rw [hd], fun i => ?_, fun c l => ?_⟩
  · rw [hd, SMap.get_set]
    split
    · next e => rw [e]
    · rfl
  · rw [State.core_applied, Core.mem_l1_dropped]

/-- The contention counter of a line rises, up to 3 (R208). -/
def Core.contend (line : Nat) (c : Core) : Core := c.setCounter line (min (c.counter line + 1) 3)

theorem Core.counter_setCounter (c : Core) (line n : Nat) : (c.setCounter line n).counter line = n := by
  have hnone : ((c.predictor.filter (fun p => p.1 != line)).drop
      ((c.predictor.filter (fun p => p.1 != line)).length + 1 - 256)).find? (fun p => p.1 == line) = none := by
    refine List.find?_eq_none.mpr (fun p hp => ?_)
    simpa using (List.mem_filter.mp (List.mem_of_mem_drop hp)).2
  simp only [Core.counter, Core.setCounter]
  rw [List.drop_append_of_le_length (by omega), List.find?_append, hnone]
  simp

theorem Core.counter_contend (c : Core) (line : Nat) : (c.contend line).counter line = min (c.counter line + 1) 3 :=
  c.counter_setCounter line _

theorem Core.l1_contend (c : Core) (line : Nat) : (c.contend line).l1 = c.l1 := by
  simp only [Core.contend, Core.setCounter]

/-- The cores other than the owner whose atomics wait at the home of a line (R208). -/
def State.contenders (s : State) (core line : Nat) : List Nat :=
  ((s.flights.filter (fun f => f.stage == .queued && f.atomic && f.agent.isNone && !isSpad f.key && f.key / 128 == line &&
    s.flightCore f != core)).map (fun f => s.flightCore f)).eraseDups

theorem State.mem_contenders {s : State} {core line : Nat} {g : Flight} (hg : g ∈ s.flights) (hq : g.stage = .queued) (ha : g.atomic = true)
    (hn : g.agent = none) (hs : isSpad g.key = false) (hl : g.key / 128 = line) (hc : s.flightCore g ≠ core) :
    s.flightCore g ∈ s.contenders core line := by
  rw [State.contenders, List.mem_eraseDups]
  exact List.mem_map.mpr ⟨g, List.mem_filter.mpr ⟨hg, by simp [hq, ha, hn, hs, hl, hc]⟩, rfl⟩

theorem State.ne_of_mem_contenders {s : State} {core line o : Nat} (h : o ∈ s.contenders core line) : o ≠ core := by
  rw [State.contenders, List.mem_eraseDups] at h
  obtain ⟨f, hf, rfl⟩ := List.mem_map.mp h
  simpa using (Bool.and_eq_true_iff.mp (List.mem_filter.mp hf).2).2

theorem nodup_eraseDups (l : List Nat) : l.eraseDups.Nodup := by
  induction h : l.length using Nat.strong_induction_on generalizing l with
  | _ n ih =>
    cases l with
    | nil => exact List.nodup_nil
    | cons a t =>
      have hlen := List.length_filter_le (fun b => !b == a) t
      rw [List.eraseDups_cons]
      refine List.nodup_cons.mpr ⟨by simp [List.mem_eraseDups], ih _ (Nat.lt_of_le_of_lt hlen (by rw [← h]; exact Nat.lt_succ_self _)) _ rfl⟩

/-- A change of each core of a list. -/
theorem State.core_foldl_setCore (up : Core → Core) (l : List Nat) (hl : l.Nodup) (s : State) (c : Nat) :
    (l.foldl (fun s o => s.setCore o (up (s.core o))) s).core c = if c ∈ l then up (s.core c) else s.core c := by
  induction l generalizing s with
  | nil => simp
  | cons o t ih =>
    obtain ⟨ho, ht⟩ := List.nodup_cons.mp hl
    rw [List.foldl_cons, ih ht, State.core_setCore]
    by_cases hc : c = o
    · subst hc
      simp [ho]
    · simp [hc]

/-- A state in which the owner of a line has given it up. -/
def State.recalled (s : State) (core line : Nat) : State :=
  (s.contenders core line).foldl (fun s o => s.setCore o ((s.core o).contend line))
    (s.setCore core (({ s.core core with l1 := (s.core core).l1.filter (fun l => l.line != line) } : Core).contend line))

theorem exec_lineRecall {s : State} {core line : Nat} (h : s.recallDue core line = true) :
    exec (.lineRecall core line) s = .next (s.recalled core line) := by
  simp only [exec, execLineRecall, h, Bool.not_true, Bool.false_eq_true, if_false]
  rfl

theorem State.recalled_frame (s : State) (core line : Nat) : { s.recalled core line with cores := s.cores } = s :=
  (foldl_keeps (fun s o => s.setCore o ((s.core o).contend line)) (fun t : State => { t with cores := s.cores }) (fun _ _ => rfl)
    (s.contenders core line) (s.setCore core _) :)

theorem State.core_recalled (s : State) (core line c : Nat) : (s.recalled core line).core c =
    if c = core then (({ s.core core with l1 := (s.core core).l1.filter (fun l => l.line != line) } : Core).contend line)
    else if c ∈ s.contenders core line then (s.core c).contend line else s.core c := by
  rw [State.recalled, State.core_foldl_setCore (Core.contend line) (s.contenders core line) (nodup_eraseDups _), State.core_setCore]
  by_cases hc : c = core
  · subst hc
    rw [if_neg (fun h => State.ne_of_mem_contenders h rfl), if_pos rfl]
    simp
  · simp [hc]

/-- A line leaves the core that owns it, whose counter rises with those of the cores whose atomics found it owned (R208). -/
theorem gives_lineRecall {s : State} {core line : Nat} (ho : ∃ l ∈ (s.core core).l1, l.line = line ∧ l.owned = true)
    (hw : ∃ g ∈ s.flights, g.stage = .queued ∧ isSpad g.key = false ∧ g.key / 128 = line ∧ s.flightCore g ≠ core) :
    Gives (.lineRecall core line) s (fun t => ((∀ a, t.byte a = s.byte a) ∧ t.strands = s.strands) ∧
      (∀ l, l ∈ (t.core core).l1 ↔ l ∈ (s.core core).l1 ∧ l.line ≠ line) ∧
      (∀ c, c ≠ core → (t.core c).l1 = (s.core c).l1) ∧
      (t.core core).counter line = min ((s.core core).counter line + 1) 3 ∧
      ∀ g ∈ s.flights, g.stage = .queued → g.atomic = true → g.agent = none → isSpad g.key = false → g.key / 128 = line →
        (t.core (s.flightCore g)).counter line = min ((s.core (s.flightCore g)).counter line + 1) 3) := by
  have hdue : s.recallDue core line = true := by
    obtain ⟨l, hl, hline, howned⟩ := ho
    obtain ⟨g, hg, hq, hs, hk, hc⟩ := hw
    rw [State.recallDue, Bool.and_eq_true]
    exact ⟨List.any_eq_true.mpr ⟨l, hl, by simp [hline, howned]⟩, List.any_eq_true.mpr ⟨g, hg, by simp [hq, hs, hk, hc]⟩⟩
  have hframe := s.recalled_frame core line
  have howner : (s.recalled core line).core core =
      (({ s.core core with l1 := (s.core core).l1.filter (fun l => l.line != line) } : Core).contend line) := by
    rw [State.core_recalled, if_pos rfl]
  refine ⟨_, exec_lineRecall hdue, ⟨fun a => ?_, (congrArg State.strands hframe :)⟩, fun l => ?_, fun c hc => ?_, ?_,
    fun g hg hq ha hn hs hk => ?_⟩
  · exact State.byte_congr_mem (congrArg State.mem hframe :) a
  · rw [howner, Core.l1_contend]
    simp
  · rw [State.core_recalled, if_neg hc]
    split
    · exact Core.l1_contend _ _
    · rfl
  · rw [howner, Core.counter_contend]
    rfl
  · by_cases hc : s.flightCore g = core
    · rw [hc, howner, Core.counter_contend]
      rfl
    · rw [State.core_recalled, if_neg hc, if_pos (State.mem_contenders hg hq ha hn hs hk hc), Core.counter_contend]

/-! ### Refresh windows (R167) -/

theorem Die.mem_refreshBank (d : Die) (n b : Nat) :
    b ∈ (d.refreshBank n).refreshing ↔ if b = n then d.inWindow n = true else b ∈ d.refreshing := by
  unfold Die.refreshBank
  dsimp only
  by_cases hw : d.inWindow n = true <;> by_cases hb : b = n <;> simp [hw, hb]

theorem gives_edramRefresh (s : State) (die n : Nat) : Gives (.edramRefresh die n) s (fun t =>
    ((∀ a, t.byte a = s.byte a) ∧ t.strands = s.strands) ∧ (n ∈ (t.die die).refreshing ↔
      ((s.die die).ephem.get n).toNat ≤ (s.die die).refcnt.toNat ∧ (s.die die).refcnt.toNat < ((s.die die).ephem.get n).toNat + 120) ∧
      ∀ b, b ≠ n → (b ∈ (t.die die).refreshing ↔ b ∈ (s.die die).refreshing)) := by
  refine ⟨s.setDie die ((s.die die).refreshBank n), rfl, ⟨fun _ => rfl, rfl⟩, ?_, fun b hb => ?_⟩
  · rw [State.die_setDie, if_pos rfl, Die.mem_refreshBank, if_pos rfl]
    simp [Die.inWindow]
  · rw [State.die_setDie, if_pos rfl, Die.mem_refreshBank, if_neg hb]

/-! ### Walks (R180 to R183) -/

section Walk
variable {s u : State} {k unit : Nat} {lane : Bool} {i : Instr} {vas : List W64}

/-- A walk's party is a stream of a strand. -/
theorem party_div (k : Nat) (lane : Bool) : (2 * k + if lane then 1 else 0) / 2 = k := by
  cases lane
  · simp
  · simp only [if_true]; omega

theorem party_mod (k : Nat) (lane : Bool) : ((2 * k + if lane then 1 else 0) % 2 == 1) = lane := by
  cases lane <;> simp

/-- The state in which the walks of a stream have ended, and it knows what they found. -/
def State.walked (s : State) (k unit : Nat) (lane : Bool) (vas : List W64) : State :=
  let w := s.walkAll (s.strand k).core (s.gangOf k).vd unit vas
  w.2.setStrand k ((w.2.strand k).setWait lane (.walked w.1))

section Ends
variable (hw : (s.strand k).waitOf lane = .walk i vas unit)
  (hn : ∀ va ∈ vas, s.walkWaits (s.strand k).core (s.gangOf k).vd va = false)

include hn in
theorem any_walkWaits_eq_false : vas.any (s.walkWaits (s.strand k).core (s.gangOf k).vd) = false :=
  List.any_eq_false.mpr (fun va hva => by rw [hn va hva]; exact Bool.false_ne_true)

include hw hn

/-- A stream whose gang may not issue knows what its walks found. -/
theorem exec_pageWalk_stays (hno : (s.walked k unit lane vas).mayIssue k = false) :
    exec (.pageWalk (2 * k + if lane then 1 else 0)) s = .next (s.walked k unit lane vas) := by
  unfold State.walked at hno ⊢
  simp only [exec, execPageWalk, party_div, party_mod, hw, any_walkWaits_eq_false hn, hno, Bool.false_eq_true, if_false]

/-- The access of a stream goes on with what its walks found. -/
theorem exec_pageWalk_goesOn (hyes : (s.walked k unit lane vas).mayIssue k = true)
    (hu : reissue i { s.walked k unit lane vas with cur := k } = .next u) :
    exec (.pageWalk (2 * k + if lane then 1 else 0)) s = .next { u with cur := s.cur } := by
  unfold State.walked at hyes hu
  simp only [exec, execPageWalk, party_div, party_mod, hw, any_walkWaits_eq_false hn, hyes, Bool.false_eq_true, if_false, if_true, hu]

end Ends

end Walk

/-! ### Fetches (R185, R396) -/

/-- A die with what the walk caches of another hold. -/
def Die.SameBesideWalks (x y : Die) : Prop := { y with walks := x.walks } = x

/-- Nothing differs but what cores, slices, buckets and walk caches hold, and requests. -/
structure State.SameBesideWalks (s t : State) : Prop where
  rest : { t with cores := s.cores, slices := s.slices, buckets := s.buckets, dies := s.dies, flights := s.flights } = s
  die : ∀ d, (s.die d).SameBesideWalks (t.die d)

theorem State.SameBesideWalks.refl (s : State) : s.SameBesideWalks s := ⟨rfl, fun _ => rfl⟩

theorem State.SameBesideWalks.trans {s t u : State} (h : s.SameBesideWalks t) (k : t.SameBesideWalks u) : s.SameBesideWalks u :=
  ⟨(congrArg (fun x : State =>
      { x with cores := s.cores, slices := s.slices, buckets := s.buckets, dies := s.dies, flights := s.flights }) k.rest :).trans h.rest,
    fun d => (congrArg (fun x : Die => { x with walks := (s.die d).walks }) (k.die d) :).trans (h.die d)⟩

theorem State.SameBesideWalks.keeps {s t : State} (h : s.SameBesideWalks t) {α : Type} (g : State → α)
    (hg : ∀ u c sl b d f, g { u with cores := c, slices := sl, buckets := b, dies := d, flights := f } = g u) : g t = g s :=
  (hg t s.cores s.slices s.buckets s.dies s.flights).symm.trans (congrArg g h.rest)

theorem State.sameBesideWalks_of {s t : State} (h : { t with cores := s.cores, slices := s.slices, buckets := s.buckets, flights := s.flights } = s) :
    s.SameBesideWalks t := by
  have hd : t.dies = s.dies := (congrArg State.dies h :)
  refine ⟨?_, fun d => ?_⟩
  · rw [← hd]
    exact h
  · rw [State.die, State.die, hd]
    rfl

theorem State.sameBesideWalks_setCore (s : State) (k : Nat) (c : Core) : s.SameBesideWalks (s.setCore k c) := State.sameBesideWalks_of rfl

theorem State.sameBesideWalks_recall (s : State) (core line : Nat) : s.SameBesideWalks (s.recall core line) := State.sameBesideWalks_of rfl

theorem State.sameBesideWalks_recallAll (s : State) (a n : Nat) : s.SameBesideWalks (s.recallAll a n) := by
  unfold State.recallAll
  split
  · exact State.SameBesideWalks.refl s
  · exact foldl_rel State.SameBesideWalks.refl State.SameBesideWalks.trans (fun u _ => u.sameBesideWalks_recall _ _) _ _

theorem State.sameBesideWalks_touchSlice (s : State) (vd pa ev : Nat) : s.SameBesideWalks (s.touchSlice vd pa ev) := by
  unfold State.touchSlice
  dsimp only
  split
  · exact State.sameBesideWalks_of rfl
  · split
    · exact State.SameBesideWalks.refl s
    · split
      · exact State.sameBesideWalks_of rfl
      · exact State.SameBesideWalks.refl s

theorem State.sameBesideWalks_sliceGrant (s : State) (pa vd ev : Nat) : s.SameBesideWalks (s.sliceGrant pa vd ev) := by
  obtain ⟨b, h⟩ := s.charge_eq (s.sliceArbiter pa) vd 1
  have charged : s.SameBesideWalks (s.charge (s.sliceArbiter pa) vd 1) := by
    rw [h]
    exact State.sameBesideWalks_of rfl
  exact charged.trans (State.sameBesideWalks_touchSlice _ _ _ _)

theorem State.sameBesideWalks_keepWalks (s : State) (die : Nat) (ws : List WalkEntry) : s.SameBesideWalks (s.keepWalks die ws) := by
  unfold State.keepWalks
  dsimp only
  split
  · exact State.SameBesideWalks.refl s
  · refine ⟨rfl, fun d => ?_⟩
    rw [State.die_setDie]
    split
    · next e => rw [e]; rfl
    · rfl

theorem State.sameBesideWalks_afterWalk (s : State) (die vd : Nat) (w : Walk) : s.SameBesideWalks (s.afterWalk die vd w) := by
  have read := foldl_rel State.SameBesideWalks.refl State.SameBesideWalks.trans
    (f := fun (s : State) ea => (s.recall 999 (ea / 128)).sliceGrant ea vd 0)
    (fun u ea => (u.sameBesideWalks_recall 999 (ea / 128)).trans (State.sameBesideWalks_sliceGrant _ _ _ _)) (s.walkReads die vd w) s
  exact (read.trans (State.sameBesideWalks_keepWalks _ die w.kept)).trans (State.sameBesideWalks_of rfl)

theorem State.sameBesideWalks_tlbFill (s : State) (core : Nat) (units : List Nat) (vd : Nat) (va pte : W64) :
    s.SameBesideWalks (s.tlbFill core units vd va pte) := s.sameBesideWalks_setCore _ _

theorem State.sameBesideWalks_keepLine (s : State) (core : Nat) (lane : Bool) (l : ILine) : s.SameBesideWalks (s.keepLine core lane l) :=
  s.sameBesideWalks_setCore _ _

section Same
variable {s t : State} (h : s.SameBesideWalks t)
include h

theorem State.SameBesideWalks.mem : t.mem = s.mem := h.keeps State.mem (fun _ _ _ _ _ _ => rfl)
theorem State.SameBesideWalks.strands : t.strands = s.strands := h.keeps State.strands (fun _ _ _ _ _ _ => rfl)
theorem State.SameBesideWalks.pkgnum : t.pkgnum = s.pkgnum := h.keeps State.pkgnum (fun _ _ _ _ _ _ => rfl)
theorem State.SameBesideWalks.region : t.region = s.region := h.keeps State.region (fun _ _ _ _ _ _ => rfl)

/-- A die reads the same but for its walk cache. -/
theorem State.SameBesideWalks.die_eq {α : Type} (g : Die → α) (hg : ∀ x w, g { x with walks := w } = g x) (d : Nat) :
    g (t.die d) = g (s.die d) :=
  (hg (t.die d) (s.die d).walks).symm.trans (congrArg g (h.die d))

theorem State.SameBesideWalks.homeOf (pa : Nat) : t.homeOf pa = s.homeOf pa := by
  simp only [State.homeOf, h.region, h.die_eq Die.present (fun _ _ => rfl), h.die_eq Die.fenced (fun _ _ => rfl)]

theorem State.SameBesideWalks.paOk (pa : Nat) : t.paOk pa = s.paOk pa := by
  have hecc : t.eccBad = s.eccBad := h.keeps State.eccBad (fun _ _ _ _ _ _ => rfl)
  have hports : t.ports = s.ports := h.keeps State.ports (fun _ _ _ _ _ _ => rfl)
  have hholds : t.holdsPkg = s.holdsPkg := h.keeps State.holdsPkg (fun _ _ _ _ _ _ => rfl)
  simp only [State.paOk, State.groupUsed, State.sliceUsed, hecc, hports, hholds, h.pkgnum, h.region, h.homeOf,
    h.die_eq Die.present (fun _ _ => rfl), h.die_eq Die.fenced (fun _ _ => rfl), h.die_eq Die.banks (fun _ _ => rfl),
    h.die_eq Die.hbmg (fun _ _ => rfl), h.die_eq Die.slices (fun _ _ => rfl)]

theorem State.SameBesideWalks.vdRefused (vd pa : Nat) : t.vdRefused vd pa = s.vdRefused vd pa := by
  have hforeign : t.foreignGroup = s.foreignGroup := h.keeps State.foreignGroup (fun _ _ _ _ _ _ => rfl)
  have hcnt : (t.dies.get (Die.reset 9) 4).refcnt = (s.dies.get (Die.reset 9) 4).refcnt := h.die_eq Die.refcnt (fun _ _ => rfl) 4
  simp only [State.vdRefused, State.iommuRefuses, hforeign, hcnt, h.pkgnum, h.region]

theorem State.SameBesideWalks.refreshing (pa : Nat) : t.refreshing pa = s.refreshing pa := by
  simp only [State.refreshing, h.pkgnum, h.region, h.die_eq Die.refreshing (fun _ _ => rfl)]

theorem State.SameBesideWalks.gangOf (k : Nat) : t.gangOf k = s.gangOf k := h.keeps (State.gangOf · k) (fun _ _ _ _ _ _ => rfl)

end Same

/-- The first line that an instruction cache holds is the one that entered it last. -/
theorem State.head?_keepLine (s : State) (core : Nat) (lane : Bool) (l : ILine) :
    (if lane then ((s.keepLine core lane l).core core).icL.head? else ((s.keepLine core lane l).core core).icS.head?) = some l := by
  cases lane <;> simp [State.keepLine]

/-- A line of memory that enters an instruction cache after a walk changes nothing else. -/
theorem State.SameBesideWalks.keepLine {s v : State} (h : s.SameBesideWalks v) (core : Nat) (lane : Bool) (vd line a : Nat) :
    let w := v.keepLine core lane { vd, line, bytes := v.bytes a 128 }
    w.strands = s.strands ∧ (∀ b, w.byte b = s.byte b) ∧
      (if lane then (w.core core).icL.head? else (w.core core).icS.head?) = some { vd, line, bytes := s.bytes a 128 } := by
  have hw := h.trans (v.sameBesideWalks_keepLine core lane { vd, line, bytes := v.bytes a 128 })
  refine ⟨hw.strands, State.byte_congr_mem hw.mem, ?_⟩
  rw [State.head?_keepLine, State.bytes_congr_mem h.mem]

section Fetch
variable {s : State} {k : Nat} {lane : Bool} {pc pte : W64}

/-- The translations that a fetch keeps once its walk has found a leaf. -/
def State.fetchKept (s : State) (k : Nat) (lane : Bool) (pc pte : W64) : State :=
  let t := s.strand k
  let vd := (s.gangOf k).vd
  (s.afterWalk t.die vd (s.walkVa t.die vd pc)).tlbFill t.core ([t.units lane |>.headD 4, 4].eraseDups) vd pc pte

theorem State.sameBesideWalks_fetchKept (s : State) (k : Nat) (lane : Bool) (pc pte : W64) : s.SameBesideWalks (s.fetchKept k lane pc pte) :=
  (s.sameBesideWalks_afterWalk _ _ _).trans (State.sameBesideWalks_tlbFill _ _ _ _ _ _)

/-- The state in which the home of a fetched line has read it. -/
def State.fetchRead (s : State) (k : Nat) (lane : Bool) (pc pte : W64) : State :=
  ((s.fetchKept k lane pc pte).recallAll (leafPa pte pc / 128 * 128) 128).sliceGrant (leafPa pte pc) (s.gangOf k).vd 0

theorem State.sameBesideWalks_fetchRead (s : State) (k : Nat) (lane : Bool) (pc pte : W64) : s.SameBesideWalks (s.fetchRead k lane pc pte) :=
  ((s.sameBesideWalks_fetchKept k lane pc pte).trans (State.sameBesideWalks_recallAll _ _ _)).trans (State.sameBesideWalks_sliceGrant _ _ _ _)

/-- A fetch that no translation answers. -/
structure State.FetchMisses (s : State) (k : Nat) (lane : Bool) (pc : W64) : Prop where
  pc_eq : (if lane then (s.strand k).lanePc else (s.strand k).pc) = pc
  due : s.fetchDue k lane = true
  canonical : pc.toNat < 2 ^ 56
  outside : inReserve pc = false
  none : (s.core (s.strand k).core).tlbFind ((s.strand k).units lane) (s.gangOf k).vd pc = none
  turn : s.walkTurn (s.strand k).die (s.gangOf k).vd (s.walkVa (s.strand k).die (s.gangOf k).vd pc) = true

theorem State.FetchMisses.field (h : s.FetchMisses k lane pc) : (fieldOf pc 56 8 != 0) = false := by
  have := h.canonical
  have hf : fieldOf pc 56 8 = 0 := by unfold fieldOf; omega
  rw [hf]
  rfl

/-- The line of a fetch enters the instruction cache (R396). -/
theorem exec_fetchMissLineArrival_leaf (h : s.FetchMisses k lane pc)
    (hfin : (s.walkVa (s.strand k).die (s.gangOf k).vd pc).fin = .leaf pte)
    (hperm : permits pte (if lane then needXL else needXS) = true) (hok : s.paOk (leafPa pte pc) = true)
    (hvd : s.vdRefused (s.gangOf k).vd (leafPa pte pc) = false) (hpkg : pkgOf (leafPa pte pc) = s.pkgnum.toNat)
    (hrefresh : s.refreshing (leafPa pte pc) = false)
    (hslice : (s.fetchKept k lane pc pte).sliceTurn (leafPa pte pc) (s.gangOf k).vd (s.gangOf k).prio = true) :
    exec (.fetchMissLineArrival k lane) s = .next ((s.fetchRead k lane pc pte).keepLine (s.strand k).core lane
      { vd := (s.gangOf k).vd, line := pc.toNat / 128, bytes := (s.fetchRead k lane pc pte).bytes (leafPa pte pc / 128 * 128) 128 }) := by
  have hsame := s.sameBesideWalks_fetchKept k lane pc pte
  have hk : s.fetchKept k lane pc pte = (s.afterWalk (s.strand k).die (s.gangOf k).vd (s.walkVa (s.strand k).die (s.gangOf k).vd pc)).tlbFill
    (s.strand k).core ([(s.strand k).units lane |>.headD 4, 4].eraseDups) (s.gangOf k).vd pc pte := rfl
  rw [← hsame.paOk] at hok
  rw [← hsame.vdRefused] at hvd
  rw [← hsame.pkgnum] at hpkg
  rw [← hsame.refreshing] at hrefresh
  simp only [exec, execFetchMissLineArrival, h.pc_eq, h.due, h.field, h.outside, h.none, h.turn, hfin, hperm, ← hk, hok, hvd, hpkg, hrefresh,
    hsame.gangOf, hslice, Bool.not_true, Bool.or_self, beq_self_eq_true, Bool.false_eq_true, if_false, if_true, State.fetchRead]

theorem exec_fetchMissLineArrival_notMapped (h : s.FetchMisses k lane pc)
    (hfin : (s.walkVa (s.strand k).die (s.gangOf k).vd pc).fin = .notMapped) : exec (.fetchMissLineArrival k lane) s =
      .next ((s.afterWalk (s.strand k).die (s.gangOf k).vd (s.walkVa (s.strand k).die (s.gangOf k).vd pc)).parkStrand k pc xkNotMapped false true
        lane 0 pc) := by
  simp only [exec, execFetchMissLineArrival, h.pc_eq, h.due, h.field, h.outside, h.none, h.turn, hfin, State.fetchFault, Bool.not_true,
    Bool.false_eq_true, if_false, beq_self_eq_true, Bool.true_or, if_true]

end Fetch

/-! ### The fault queue (R351) -/

theorem Strand.parked_writeS (t : Strand) (d : SReg) (v : W64) : (t.writeS d v).parked = t.parked := (congrArg Strand.parked (t.writeS_frame d v) :)

/-- What a strand is parked on. -/
def State.parkedOf (k : Nat) (s : State) : Option Parked := (s.strand k).parked

section Parked
variable (k : Nat)

theorem State.parkedOf_congr {s t : State} (h : t.strands = s.strands) : t.parkedOf k = s.parkedOf k :=
  congrArg (fun m : KMap Strand => (m.get Strand.zero k).parked) h

theorem State.parkedOf_setStrand (s : State) (j : Nat) (x : Strand) (h : x.parked = (s.strand j).parked) :
    (s.setStrand j x).parkedOf k = s.parkedOf k := by
  rw [State.parkedOf, State.parkedOf, State.strand_setStrand]
  split
  · next e => rw [e, h]
  · rfl

theorem State.parkedOf_endWfe (s : State) (j : Nat) (d : SReg) (v : W64) : (s.endWfe j d v).parkedOf k = s.parkedOf k := by
  have h : (s.endWfe j d v).strands = (s.setStrand j { ((s.strand j).writeS d v).advance with wait := .none }).strands := rfl
  rw [State.parkedOf_congr k h]
  exact s.parkedOf_setStrand k _ _ (Strand.parked_writeS _ _ _)

theorem State.parkedOf_wakeWfe (s : State) (p : Nat → Nat → Nat → Bool) : (s.wakeWfe p).parkedOf k = s.parkedOf k := by
  unfold State.wakeWfe
  refine foldl_keeps _ (State.parkedOf k) (fun u c => ?_) _ s
  dsimp only
  split
  · split
    · rw [State.parkedOf_endWfe, State.seeWfe]
      exact u.parkedOf_setStrand k _ _ rfl
    · rfl
  · rfl

theorem State.strands_invalidate (s : State) (core line : Nat) : (s.invalidate core line).strands = s.strands := by
  unfold State.invalidate
  dsimp only
  split
  · split <;> rfl
  · rfl

theorem State.strands_patchL1 (s : State) (core a ev : Nat) (v : SMap 32) (bs : List Byte) : (s.patchL1 core a ev v bs).strands = s.strands := by
  unfold State.patchL1
  dsimp only
  split <;> rfl

theorem State.strands_overlayL1 (s : State) (core line : Nat) : (s.overlayL1 core line).strands = s.strands :=
  foldl_keeps _ State.strands (fun u _ => u.strands_patchL1 _ _ _ _ _) _ _

theorem State.parkedOf_writeLine (s : State) (core a : Nat) (bs : List Byte) : (s.writeLine core a bs).parkedOf k = s.parkedOf k := by
  unfold State.writeLine
  split
  · exact State.parkedOf_congr k (congrArg State.strands (s.storeSpad_frame a bs) :)
  · rw [State.parkedOf_wakeWfe]
    refine State.parkedOf_congr k ?_
    rw [State.strands_overlayL1, State.strands_patchL1, State.strands_invalidate]
    exact (congrArg State.strands ((s.recall core (a / 128)).storeBytes_frame a bs) :)

theorem State.parkedOf_writeLines (s : State) (core n a : Nat) (bs : List Byte) : (s.writeLines core n a bs).parkedOf k = s.parkedOf k := by
  induction n generalizing s a bs with
  | zero => rfl
  | succ n ih =>
    unfold State.writeLines
    split
    · rfl
    · rw [ih, State.parkedOf_writeLine]

theorem State.fqWrite_parked {s u : State} {die p : Nat} {e : LogEntry} (h : s.fqWrite die p e = some u) : u.parkedOf k = s.parkedOf k := by
  unfold State.fqWrite at h
  dsimp only at h
  split at h
  · cases h
  · split at h
    · cases h
      rw [State.parkedOf_wakeWfe]
      exact (State.parkedOf_congr k rfl).trans (State.parkedOf_writeLines k _ _ _ _ _)
    · cases h

theorem State.parkedOf_faultEntry (s : State) (die p : Nat) (e : LogEntry) : (s.faultEntry die p e).parkedOf k = s.parkedOf k := by
  unfold State.faultEntry
  dsimp only
  split
  · rfl
  · cases h : s.fqWrite die p e with
    | none => rfl
    | some u => exact State.fqWrite_parked k h

/-- A strand parks with what it met (R350). -/
theorem State.parkedOf_parkStrand (s : State) (va : W64) (xkind : Nat) (wr fetch lane : Bool) (tmaskf : W32) (pc : W64) :
    ∃ fid, (s.parkStrand k va xkind wr fetch lane tmaskf pc).parkedOf k = some { fid, va := va.toNat, xkind, fetch, lane, tmaskf } := by
  unfold State.parkStrand
  dsimp only
  rw [State.parkedOf_faultEntry, State.parkedOf, State.strand_setStrand, if_pos rfl]
  exact ⟨_, rfl⟩

end Parked

theorem State.parts_wakeWfe (s : State) (p : Nat → Nat → Nat → Bool) : (s.wakeWfe p).parts = s.parts := by
  unfold State.wakeWfe
  refine foldl_keeps _ State.parts (fun u c => ?_) _ s
  dsimp only
  split
  · split <;> rfl
  · rfl

/-- An entry that enters the fault queue moves TAIL on (R351). -/
theorem State.fqWrite_tail {s u : State} {die p : Nat} {e : LogEntry} (h : s.fqWrite die p e = some u) :
    (u.part p).fqtail = BitVec.ofNat 64 (((s.part p).fqtail.toNat % (s.part p).fqSize + 1) % (s.part p).fqSize) := by
  unfold State.fqWrite at h
  dsimp only at h
  split at h
  · cases h
  · split at h
    · cases h
      rw [State.part, State.parts_wakeWfe]
      exact congrArg Part.fqtail ((State.part_setPart ..).trans (if_pos rfl))
    · cases h

theorem exec_faultQueueHeldWrite {s u : State} {die : Nat} {h : Nat × LogEntry} (hh : (s.die die).held = [h]) (hs : (s.die die).source = [])
    (hq : s.fqWrite die h.1 h.2 = some u) : exec (.faultQueueHeldWrite die) s = .next (u.setDie die ((u.die die).store [])) := by
  have hw : s.heldWrite die [] (s.die die).unwritten = some (u, []) := by
    simp [Die.unwritten, hh, hs, State.heldWrite, hq]
  simp only [exec, execFaultQueueHeldWrite, hw]

/-! ### Errors of ECC (R27) -/

/-- A line that has an uncorrectable error takes no access. -/
theorem State.paRefused_of_ecc {s : State} {f : Flight} (h : s.eccBad f.key = true) : s.paRefused f = true := by
  simp [State.paRefused, State.paOk, h]

theorem gives_eccError (s : State) (die addr : Nat) (correctable : Bool) : Gives (.eccError die addr correctable none) s (fun v =>
    (v.die die).errIdx = (s.die die).errIdx + 1 ∧ v.strands = s.strands ∧ (∀ a, v.byte a = s.byte a) ∧ v.flights = s.flights ∧
      (correctable = true → v.ecc = s.ecc) ∧
      (correctable = false → ∀ f : Flight, f.key / 128 = addr / 128 → v.paRefused f = true)) := by
  generalize hr : ({ kind := if correctable then 0x13 else 0x14, va := BitVec.ofNat 64 addr } : Report) = r
  have hidx : ((s.log die r).die die).errIdx = (s.die die).errIdx + 1 := by simp [State.log, State.logEntry]
  cases correctable with
  | true => exact ⟨s.log die r, by simp [exec, execEccError, ← hr], hidx, rfl, fun _ => rfl, rfl, fun _ => rfl, nofun⟩
  | false =>
    refine ⟨{ s.log die r with ecc := [addr / 128] }, by simp [exec, execEccError, ← hr], hidx, rfl, fun _ => rfl, rfl, nofun, fun _ f hf => ?_⟩
    exact State.paRefused_of_ecc (by simp [State.eccBad, hf])

end Sys2Proof.Machine

open Sys2Proof Sys2Proof.Machine Sys2Proof.Claims

/-- Settles O47: each step between a core and a home by its own lemma, and a fetch by what its walk found. -/
theorem linesWalksFetchesAndReports : Obligations.LinesWalksFetchesAndReports := by
  refine ⟨fun s id die n core line f m => ?_, fun s u k die lane i vas unit pte addr h => ?_⟩
  · exact ⟨gives_coalescingEntrySend, gives_binSend s die n, gives_invalidationApply, gives_lineRecall, gives_edramRefresh s die n⟩
  · refine ⟨fun hw hn => ⟨fun hno => ?_, fun hyes hu => ?_⟩,
      fun hdue hpc hres hnone => ⟨fun hfin hturn hperm hok hvd hpkg hrefresh hslice => ?_,
      fun hfin hturn => ?_⟩, fun hh hs hq => ?_, fun correctable => gives_eccError s die addr correctable⟩
    · exact ⟨_, exec_pageWalk_stays hw hn hno, rfl⟩
    · exact ⟨_, exec_pageWalk_goesOn hw hn hyes hu, rfl⟩
    · have hmiss : s.FetchMisses k lane _ := ⟨rfl, hdue, hpc, hres, hnone, hturn⟩
      exact ⟨_, exec_fetchMissLineArrival_leaf hmiss hfin hperm hok hvd hpkg hrefresh hslice,
        (s.sameBesideWalks_fetchRead k lane _ pte).keepLine _ _ _ _ _⟩
    · have hmiss : s.FetchMisses k lane _ := ⟨rfl, hdue, hpc, hres, hnone, hturn⟩
      obtain ⟨fid, hp⟩ := State.parkedOf_parkStrand k (s.afterWalk _ _ _) _ xkNotMapped false true lane 0 _
      exact ⟨_, exec_fetchMissLineArrival_notMapped hmiss hfin, _, hp, rfl, rfl, rfl, rfl⟩
    · refine ⟨_, exec_faultQueueHeldWrite hh hs hq, ?_, fun a => rfl, (State.fqWrite_tail hq :)⟩
      rw [State.die_setDie, if_pos rfl]
      rfl

end

section
/-! The scalar encoding (R36 to R39, R266, R305, R337): the fields of a word in each format, and the decoder's tables read from a word
to its instruction and back. -/

namespace Sys2Proof.Decode

open Sys2Proof

/-! ### Fields and words of the scalar formats (R36) -/

theorem scalarFields_encSR (major : BitVec 6) (rd ra rb : SReg) (minor : BitVec 8) :
    scalarFields (encSR major rd ra rb minor) =
      { major, rd, ra, rb, minor, imm14 := (encSR major rd ra rb minor).extractLsb' 0 14,
        imm20 := (encSR major rd ra rb minor).extractLsb' 0 20 } := by
  simp only [scalarFields, encSR, ScalarFields.mk.injEq, and_true]
  refine ⟨?_, ?_, ?_, ?_, BitVec.extractLsb'_append_eq_right⟩
  all_goals repeat rw [BitVec.extractLsb'_append_eq_of_le (by decide)]
  · exact BitVec.extractLsb'_eq_self
  all_goals exact BitVec.extractLsb'_append_eq_right

theorem scalarFields_encSI (major : BitVec 6) (rd ra : SReg) (imm : BitVec 14) :
    scalarFields (encSI major rd ra imm) =
      { major, rd, ra, imm14 := imm, rb := (encSI major rd ra imm).extractLsb' 8 6,
        minor := (encSI major rd ra imm).extractLsb' 0 8, imm20 := (encSI major rd ra imm).extractLsb' 0 20 } := by
  simp only [scalarFields, encSI, ScalarFields.mk.injEq, and_true, true_and]
  refine ⟨?_, ?_, ?_, BitVec.extractLsb'_append_eq_right⟩
  all_goals repeat rw [BitVec.extractLsb'_append_eq_of_le (by decide)]
  · exact BitVec.extractLsb'_eq_self
  all_goals exact BitVec.extractLsb'_append_eq_right

theorem scalarFields_encSU (major : BitVec 6) (rd : SReg) (imm : BitVec 20) :
    scalarFields (encSU major rd imm) =
      { major, rd, imm20 := imm, ra := (encSU major rd imm).extractLsb' 14 6, rb := (encSU major rd imm).extractLsb' 8 6,
        minor := (encSU major rd imm).extractLsb' 0 8, imm14 := (encSU major rd imm).extractLsb' 0 14 } := by
  simp only [scalarFields, encSU, ScalarFields.mk.injEq, true_and]
  refine ⟨?_, ?_, BitVec.extractLsb'_append_eq_right⟩
  all_goals repeat rw [BitVec.extractLsb'_append_eq_of_le (by decide)]
  · exact BitVec.extractLsb'_eq_self
  · exact BitVec.extractLsb'_append_eq_right

variable (w : W32)

theorem encSR_scalarFields : encSR (scalarFields w).major (scalarFields w).rd (scalarFields w).ra (scalarFields w).rb
    (scalarFields w).minor = w := by
  simp only [encSR, scalarFields]
  repeat rw [BitVec.extractLsb'_append_extractLsb'_eq_extractLsb' (by rfl)]
  exact BitVec.extractLsb'_eq_self

theorem encSI_scalarFields : encSI (scalarFields w).major (scalarFields w).rd (scalarFields w).ra (scalarFields w).imm14 = w := by
  simp only [encSI, scalarFields]
  repeat rw [BitVec.extractLsb'_append_extractLsb'_eq_extractLsb' (by rfl)]
  exact BitVec.extractLsb'_eq_self

theorem encSU_scalarFields : encSU (scalarFields w).major (scalarFields w).rd (scalarFields w).imm20 = w := by
  simp only [encSU, scalarFields]
  repeat rw [BitVec.extractLsb'_append_extractLsb'_eq_extractLsb' (by rfl)]
  exact BitVec.extractLsb'_eq_self

/-! ### From a word to its instruction -/

theorem ifZero_eq_ok {z : Bool} {i j : Instr} : ifZero z i = .ok j ↔ z = true ∧ i = j := by
  cases z <;> simp [ifZero]

theorem ifWf_eq_ok {x : Except DecodeError Instr} {i : Instr} : ifWf x = .ok i ↔ x = .ok i ∧ i.wf = true := by
  cases x with
  | error e => simp [ifWf]
  | ok j => by_cases hj : j.wf = true <;> simp [ifWf, hj] <;> grind

section Word

variable {w : W32} {f : ScalarFields} {i : Instr} {M m : Nat}

theorem eq_ofNat_of_toNat {n k : Nat} {x : BitVec n} (h : x.toNat = k) : x = BitVec.ofNat n k := by
  rw [← h, BitVec.ofNat_toNat, BitVec.setWidth_eq]

theorem encSR_of_codes {rd ra rb : SReg} (hM : f.major.toNat = M) (hm : f.minor.toNat = m) :
    encSR f.major rd ra rb f.minor = encSR (BitVec.ofNat 6 M) rd ra rb (BitVec.ofNat 8 m) := by
  rw [eq_ofNat_of_toNat hM, eq_ofNat_of_toNat hm]

theorem encodeScalar_of_decodeSalu (hM : f.major.toNat = 0x01) (h : decodeSalu f = .ok i) :
    encodeScalar i = some (encSR f.major f.rd f.ra f.rb f.minor) := by
  unfold decodeSalu at h
  split at h
  case h_20 => cases h
  case h_18 hm | h_19 hm =>
    obtain ⟨hz, rfl⟩ := ifZero_eq_ok.mp h
    rw [encSR_of_codes hM hm, eq_of_beq hz]
    rfl
  all_goals
    next hm =>
    cases h
    rw [encSR_of_codes hM hm]
    rfl

theorem encodeScalar_of_decodeSync (hM : f.major.toNat = 0x24) (h : decodeSync f = .ok i) :
    encodeScalar i = some (encSR f.major f.rd f.ra f.rb f.minor) := by
  unfold decodeSync at h
  split at h
  case h_8 => cases h
  case h_2 hm =>
    rw [encSR_of_codes hM hm]
    split at h
    case isTrue hz =>
      cases h
      rw [eq_of_beq hz]
      rfl
    case isFalse =>
      obtain ⟨hz, rfl⟩ := ifZero_eq_ok.mp h
      rw [eq_of_beq hz]
      rfl
  case h_7 hm =>
    cases h
    rw [encSR_of_codes hM hm]
    rfl
  all_goals
    next hm =>
    obtain ⟨hz, rfl⟩ := ifZero_eq_ok.mp h
    simp only [Bool.and_eq_true, beq_iff_eq] at hz
    simp only [encSR_of_codes hM hm, hz]
    rfl

theorem encodeScalar_of_decodeMsg (hM : f.major.toNat = 0x25) (h : decodeMsg f = .ok i) :
    encodeScalar i = some (encSR f.major f.rd f.ra f.rb f.minor) := by
  unfold decodeMsg at h
  split at h
  case h_3 => cases h
  all_goals
    next hm =>
    cases h
    rw [encSR_of_codes hM hm]
    rfl

theorem encodeScalar_of_decodeSys (hM : f.major.toNat = 0x2F) (h : decodeSys f = .ok i) :
    encodeScalar i = some (encSR f.major f.rd f.ra f.rb f.minor) := by
  unfold decodeSys at h
  split at h
  case h_10 => cases h
  case h_1 hm =>
    obtain ⟨hz, rfl⟩ := ifZero_eq_ok.mp h
    rw [encSR_of_codes hM hm, eq_of_beq hz]
    change some (encSR 0x2F 0 ((f.ra ++ f.rb).extractLsb' 6 6) ((f.ra ++ f.rb).extractLsb' 0 6) 0) = _
    rw [BitVec.extractLsb'_append_eq_left, BitVec.extractLsb'_append_eq_right]
    rfl
  case h_2 hm | h_5 hm | h_6 hm =>
    obtain ⟨hz, rfl⟩ := ifZero_eq_ok.mp h
    simp only [Bool.and_eq_true, beq_iff_eq] at hz
    simp only [encSR_of_codes hM hm, hz]
    rfl
  all_goals
    next hm =>
    cases h
    rw [encSR_of_codes hM hm]
    rfl

theorem encodeScalar_of_decodeEngine (h : decodeEngine f = .ok i) :
    encodeScalar i = some (encSR f.major f.rd f.ra f.rb f.minor) := by
  unfold decodeEngine at h
  split at h
  case h_12 => cases h
  case h_2 hM hm | h_7 hM hm | h_8 hM hm | h_11 hM hm =>
    obtain ⟨hz, rfl⟩ := ifZero_eq_ok.mp h
    simp only [Bool.and_eq_true, beq_iff_eq] at hz
    simp only [encSR_of_codes hM hm, hz]
    rfl
  all_goals
    next hM hm =>
    cases h
    rw [encSR_of_codes hM hm]
    rfl

theorem encodeScalar_of_decodeTask (h : decodeTask f = .ok i) :
    encodeScalar i = some (encSR f.major f.rd f.ra f.rb f.minor) := by
  unfold decodeTask at h
  split at h
  case h_12 => cases h
  case h_1 hM hm | h_2 hM hm | h_3 hM hm =>
    cases h
    rw [encSR_of_codes hM hm]
    rfl
  all_goals
    next hM hm =>
    obtain ⟨hz, rfl⟩ := ifZero_eq_ok.mp h
    simp only [Bool.and_eq_true, beq_iff_eq] at hz
    simp only [encSR_of_codes hM hm, hz]
    rfl

/-- The shift amount of an immediate shift stands below bits that are zero. -/
theorem zero_append_extractLsb' {hi lo : Nat} {x : BitVec (hi + lo)} (h : x.extractLsb' lo hi = 0) : (0 : BitVec hi) ++ x.extractLsb' 0 lo = x := by
  rw [← h, BitVec.extractLsb'_append_extractLsb']

theorem encodeScalar_of_decodeFields (h : decodeFields (scalarFields w) = .ok i) : encodeScalar i = some w := by
  have hSR := encSR_scalarFields w
  have hSI := encSI_scalarFields w
  have hSU := encSU_scalarFields w
  generalize scalarFields w = f at h hSR hSI hSU
  unfold decodeFields at h
  split at h
  case h_1 hM => exact hSR ▸ encodeScalar_of_decodeSalu hM h
  case h_34 hM => exact hSR ▸ encodeScalar_of_decodeSync hM h
  case h_35 hM => exact hSR ▸ encodeScalar_of_decodeMsg hM h
  case h_43 hM => exact hSR ▸ encodeScalar_of_decodeSys hM h
  case h_44 | h_45 | h_46 | h_47 | h_48 | h_49 | h_50 | h_51 => exact hSR ▸ encodeScalar_of_decodeEngine h
  case h_52 | h_53 | h_54 | h_55 | h_56 | h_57 | h_58 | h_59 => exact hSR ▸ encodeScalar_of_decodeTask h
  case h_60 => cases h
  case h_9 hM | h_10 hM | h_11 hM | h_21 hM =>
    cases h
    rw [← hSU, eq_ofNat_of_toNat hM]
    rfl
  case h_12 hM | h_13 hM | h_14 hM =>
    obtain ⟨hz, rfl⟩ := ifZero_eq_ok.mp h
    rw [← hSI, eq_ofNat_of_toNat hM]
    exact congrArg (some <| encSI _ _ _ ·) (zero_append_extractLsb' (eq_of_beq hz))
  case h_36 hM =>
    cases h
    rw [← hSU, eq_ofNat_of_toNat hM]
    exact congrArg (some <| encSU _ _ ·) BitVec.extractLsb'_append_extractLsb'
  case h_37 hM =>
    split at h
    case isFalse => cases h
    case isTrue hm =>
      obtain ⟨hz, rfl⟩ := ifZero_eq_ok.mp h
      rw [← hSR, eq_ofNat_of_toNat hM, eq_of_beq hm, eq_of_beq hz]
      rfl
  case h_38 hM | h_42 hM =>
    obtain ⟨hz, rfl⟩ := ifZero_eq_ok.mp h
    simp only [Bool.and_eq_true, beq_iff_eq] at hz
    simp only [← hSU, eq_ofNat_of_toNat hM, hz]
    rfl
  case h_39 hM =>
    obtain ⟨hz, rfl⟩ := ifZero_eq_ok.mp h
    simp only [Bool.and_eq_true, beq_iff_eq] at hz
    obtain ⟨⟨hd, ha⟩, hlow⟩ := hz
    rw [← hSI, eq_ofNat_of_toNat hM, hd, ha]
    refine congrArg (some <| encSI _ _ _ ·) ?_
    rw [← hlow, BitVec.extractLsb'_append_extractLsb'_eq_extractLsb' (by rfl)]
    exact BitVec.extractLsb'_append_extractLsb'
  case h_40 hM | h_41 hM =>
    obtain ⟨hz, rfl⟩ := ifZero_eq_ok.mp h
    simp only [Bool.and_eq_true, beq_iff_eq] at hz
    rw [← hSI, eq_ofNat_of_toNat hM, hz.1]
    exact congrArg (some <| encSI _ _ _ ·) (zero_append_extractLsb' hz.2)
  all_goals
    next hM =>
    cases h
    rw [← hSI, eq_ofNat_of_toNat hM]
    rfl

end Word

/-! ### From an instruction to its word and back -/

/-- The instruction that the word of a scalar instruction decodes to: the first row of those that share a word (log entry 53). -/
def firstOfWord : Instr → Instr
  | .haltRelease d a b | .haltAndSuspend d a b => .haltInPlace d a b
  | .resumePage d a b | .resumeDeliverFault d a b | .resumeFailTask d a b => .resumeRestart d a b
  | i => i

theorem decodeScalar_eq {w : W32} {f : ScalarFields} {i : Instr} (hf : scalarFields w = f) (h : decodeFields f = .ok i) (hi : i.wf = true) :
    decodeScalar w = .ok i := by
  rw [decodeScalar, hf, ifWf_eq_ok]
  exact ⟨h, hi⟩

theorem ifZero_zero_append {hi lo : Nat} (x : BitVec lo) (mk : BitVec lo → Instr) :
    ifZero (((0 : BitVec hi) ++ x).extractLsb' lo hi == 0) (mk (((0 : BitVec hi) ++ x).extractLsb' 0 lo)) = .ok (mk x) := by
  rw [BitVec.extractLsb'_append_eq_left, BitVec.extractLsb'_append_eq_right]
  exact ifZero_eq_ok.mpr ⟨beq_self_eq_true _, rfl⟩

theorem decodeScalar_of_encodeScalar {w : W32} {i : Instr} (hi : i.wf = true) (h : encodeScalar i = some w) :
    decodeScalar w = .ok (firstOfWord i) := by
  cases i with
  | addi | andi | ori | xori | slti | sltiu | muli | beq | bne | blt | bge | bltu | bgeu | jalr | ldb | ldh | ldw | ldd | stb | sth | stw
  | std | ldbs | ldhs | ldws =>
    cases h
    exact decodeScalar_eq (scalarFields_encSI ..) rfl rfl
  | lui | addpc | lhi | jal | ldrain | yield =>
    cases h
    exact decodeScalar_eq (scalarFields_encSU ..) rfl rfl
  | shli | shri | sari | mfc | mtc =>
    cases h
    exact decodeScalar_eq (scalarFields_encSI ..) (ifZero_zero_append _ _) rfl
  | sfence ord scope =>
    cases h
    refine decodeScalar_eq (scalarFields_encSI ..) (i := .sfence ord scope) ?_ hi
    have hord : (ord ++ scope ++ (0 : BitVec 9)).extractLsb' 12 2 = ord :=
      (BitVec.extractLsb'_append_eq_of_le (by decide)).trans BitVec.extractLsb'_append_eq_left
    have hscope : (ord ++ scope ++ (0 : BitVec 9)).extractLsb' 9 3 = scope :=
      (BitVec.extractLsb'_append_eq_of_le (by decide)).trans BitVec.extractLsb'_append_eq_right
    have hlow : (ord ++ scope ++ (0 : BitVec 9)).extractLsb' 0 9 = 0 := BitVec.extractLsb'_append_eq_right
    refine ifZero_eq_ok.mpr ⟨beq_iff_eq.mpr hlow, congrArg₂ Instr.sfence hord hscope⟩
  | lrun count sheet slot =>
    cases h
    exact decodeScalar_eq (scalarFields_encSU ..)
      (congrArg₂ (Except.ok <| Instr.lrun count · ·) BitVec.extractLsb'_append_eq_left BitVec.extractLsb'_append_eq_right) hi
  | trap code =>
    cases h
    exact decodeScalar_eq (scalarFields_encSR ..) (congrArg (Except.ok <| Instr.trap ·) BitVec.extractLsb'_append_extractLsb') rfl
  | arriveCb a b =>
    cases h
    exact decodeScalar_eq (scalarFields_encSR ..) (if_neg (bne_iff_ne.mp hi ∘ eq_of_beq)) hi
  | add | sub | and | or | xor | shl | shr | sar | mul | mulh | mulhu | min | max | minu | maxu | slt | sltu | clz | popc | bar | arrive | lock
  | unlock | join | leave | cbwait | msend | mrecv | lrunr | bkpt | haltInPlace | haltRelease | haltAndSuspend | wfe | rft | isync
  | resumeRestart | resumePage | resumeDeliverFault | resumeFailTask | csave | crstr | chart | chartFree | wload | mma | mmaNs | mmaBm | mzero
  | mwait | tcopy | gcopy | cwait | spawn | nodeput | ffill | ffillCancel | fwait | fwaitNb | fget | tdone | cancel | cancelJob | prio =>
    cases h
    exact decodeScalar_eq (scalarFields_encSR ..) rfl rfl
  | _ => cases h

end Sys2Proof.Decode

open Sys2Proof Sys2Proof.Decode

/-- Settles O54: from a word by the decoder's tables, from an instruction by the fields of its word. -/
theorem scalarEncodeDecode : Obligations.ScalarEncodeDecode := by
  refine ⟨fun w i h => ?_, fun w i hi h => ?_⟩
  · obtain ⟨hd, hi⟩ := ifWf_eq_ok.mp h
    exact ⟨hi, encodeScalar_of_decodeFields hd⟩
  · rw [decodeScalar_of_encodeScalar hi h]
    cases i <;> rfl

end

section
/-! The lane encoding (R42 to R52): operand codes, the fields of a word and of MOD, what each class's decoder accepts, and the opcode map. -/

namespace Sys2Proof.Decode

open Sys2Proof

/-! ### Operand codes (R43, R44, R46, R121, R123, R125, R214) -/

theorem Rm.ofCode_eq_some {c : BitVec 3} {x : Rm} : Rm.ofCode c = some x ↔ x.code = c := by
  cases x <;> revert c <;> decide

theorem Fmt.ofTy_eq_some {c : BitVec 4} {x : Fmt} : Fmt.ofTy c = some x ↔ x.ty ≠ 15 ∧ x.ty = c := by
  cases x <;> revert c <;> decide

theorem Fmt.ofNf_eq_some {c : BitVec 5} {x : Fmt} : Fmt.ofNf c = some x ↔ x.nf = c := by
  cases x <;> revert c <;> decide

theorem Cond.ofCode_eq_some {c : BitVec 3} {x : Cond} : Cond.ofCode c = some x ↔ x.code = c := by
  cases x <;> revert c <;> decide

theorem Ord.ofCode_eq {c : BitVec 2} {x : Ord} : Ord.ofCode c = x ↔ x.code = c := by
  cases x <;> revert c <;> decide

theorem Scope.ofCode_eq {c : BitVec 3} {x : Scope} : Scope.ofCode c = x ↔ x.code = c := by
  cases x <;> revert c <;> decide

theorem Width.ofCode_eq_some {c : BitVec 3} {x : Width} : Width.ofCode c = some x ↔ x.code = c := by
  cases x <;> revert c <;> decide

theorem Qual.ofCode_eq_some {c : BitVec 2} {x : Qual} : Qual.ofCode c = some x ↔ x.code = c := by
  cases x <;> revert c <;> decide

theorem AtomOp.ofCode_eq_some {c : BitVec 4} {x : AtomOp} : AtomOp.ofCode c = some x ↔ x.code = c := by
  cases x <;> revert c <;> decide

theorem ShflMode.ofCode_eq_some {c : BitVec 3} {x : ShflMode} : ShflMode.ofCode c = some x ↔ x.code = c := by
  cases x <;> revert c <;> decide

theorem VoteOp.ofCode_eq_some {c : BitVec 3} {x : VoteOp} : VoteOp.ofCode c = some x ↔ x.code = c := by
  cases x <;> revert c <;> decide

theorem ScanOp.ofCode_eq_some {c : BitVec 3} {x : ScanOp} : ScanOp.ofCode c = some x ↔ x.code = c := by
  cases x <;> revert c <;> decide

theorem Special.ofCode_eq {c : BitVec 3} {x : Special} : Special.ofCode c = x ↔ x.code = c := by
  cases x <;> revert c <;> decide

theorem VReg.field_of_ofField : ∀ {c : BitVec 8} {r : VReg}, VReg.ofField c = some r → VReg.field r = c := by
  have h : ∀ c : BitVec 8, c.toNat < 128 → VReg.field (c.extractLsb' 0 7) = c := by decide
  intro c r hr
  rw [VReg.ofField, Option.ite_none_right_eq_some, Option.some.injEq] at hr
  exact hr.2 ▸ h c hr.1

theorem VReg.ofField_eq_some {c : BitVec 8} {r : VReg} : VReg.ofField c = some r ↔ VReg.field r = c := by
  have hr : ∀ r : VReg, VReg.ofField (VReg.field r) = some r := by decide
  exact ⟨VReg.field_of_ofField, fun h => h ▸ hr r⟩

theorem sregField_eq_some {c : BitVec 8} {r : SReg} : sregField c = some r ↔ SReg.field r = c := by
  have hc : ∀ c : BitVec 8, c.extractLsb' 6 2 = 2 → SReg.field (c.extractLsb' 0 6) = c := by decide
  have hr : ∀ r : SReg, sregField (SReg.field r) = some r := by decide
  constructor
  · intro h
    simp only [sregField, beq_iff_eq, Option.ite_none_right_eq_some, Option.some.injEq] at h
    exact h.2 ▸ hc c h.1
  · exact fun h => h ▸ hr r

theorem Src.ofField_field (a : Src) : Src.ofField a.field = some a := by
  cases a with
  | v n => revert n; decide
  | s n => revert n; decide
  | special x => cases x <;> decide
  | imm => decide

theorem Src.ofField_eq_some {c : BitVec 8} {a : Src} : Src.ofField c = some a ↔ a.field = c := by
  have hc : ∀ c : BitVec 8, (match Src.ofField c with | some a => a.field == c | none => true) = true := by decide
  exact ⟨fun h => by simpa [h] using hc c, fun h => h ▸ Src.ofField_field a⟩

/-! ### Fields and words (R42) -/

/-- A word of two parts. -/
theorem append_eq_iff {v w : Nat} {hi : BitVec v} {lo : BitVec w} {x : BitVec (v + w)} :
    hi ++ lo = x ↔ hi = x.extractLsb' w v ∧ lo = x.extractLsb' 0 w := by
  constructor
  · rintro rfl
    exact ⟨BitVec.extractLsb'_append_eq_left.symm, BitVec.extractLsb'_append_eq_right.symm⟩
  · rintro ⟨rfl, rfl⟩
    exact BitVec.extractLsb'_append_extractLsb'

/-- A stretch of bits is two parts, one above the other. -/
theorem append_eq_extractLsb' {v w n s : Nat} {hi : BitVec v} {lo : BitVec w} {x : BitVec n} :
    hi ++ lo = x.extractLsb' s (v + w) ↔ hi = x.extractLsb' (s + w) v ∧ lo = x.extractLsb' s w := by
  rw [← BitVec.extractLsb'_append_extractLsb'_eq_extractLsb' rfl, append_eq_iff, BitVec.extractLsb'_append_eq_left,
    BitVec.extractLsb'_append_eq_right]

theorem ofBool_eq_iff : ∀ {b : Bool} {x : BitVec 1}, BitVec.ofBool b = x ↔ b = (x == 1) := by
  decide

theorem encLane_eq_iff {op : BitVec 8} {ty : BitVec 4} {d s1 s2 s3 : BitVec 8} {m : Mask} {mod : BitVec 16} {imm : W32} {w : W96} :
    encLane op ty d s1 s2 s3 m mod imm = w ↔ op = (laneFields w).op ∧ ty = (laneFields w).ty ∧ d = (laneFields w).d ∧
      s1 = (laneFields w).s1 ∧ s2 = (laneFields w).s2 ∧ s3 = (laneFields w).s3 ∧ m = (laneFields w).mask ∧
      mod = (laneFields w).mod ∧ imm = (laneFields w).imm := by
  obtain ⟨k, ks⟩ := m
  rw [encLane, append_eq_iff]
  repeat rw [append_eq_extractLsb']
  simp only [laneFields, LaneFields.mask, Mask.mk.injEq, ofBool_eq_iff, Nat.reduceAdd, and_assoc]

/-- The word that holds the fields. -/
def word (f : LaneFields) : W96 := encLane f.op f.ty f.d f.s1 f.s2 f.s3 f.mask f.mod f.imm

theorem word_laneFields (w : W96) : word (laneFields w) = w := encLane_eq_iff.mpr ⟨rfl, rfl, rfl, rfl, rfl, rfl, rfl, rfl, rfl⟩

theorem laneFields_word (f : LaneFields) : laneFields (word f) = f := by
  have hbit : ∀ {x y : BitVec 1}, (x == 1) = (y == 1) → x = y := by decide
  obtain ⟨hop, hty, hd, h1, h2, h3, hm, hmod, himm⟩ := encLane_eq_iff.mp (rfl : word f = word f)
  obtain ⟨hk, hks⟩ := Mask.mk.inj hm
  generalize laneFields (word f) = g at *
  cases f
  cases g
  simp only [LaneFields.mk.injEq]
  exact ⟨hop.symm, hty.symm, hd.symm, h1.symm, h2.symm, h3.symm, hk.symm, (hbit hks).symm, hmod.symm, himm.symm⟩

theorem encLane_eq_word {op : BitVec 8} {ty : BitVec 4} {d s1 s2 s3 : BitVec 8} {m : Mask} {mod : BitVec 16} {imm : W32} {f : LaneFields} :
    encLane op ty d s1 s2 s3 m mod imm = word f ↔ op = f.op ∧ ty = f.ty ∧ d = f.d ∧ s1 = f.s1 ∧ s2 = f.s2 ∧ s3 = f.s3 ∧ m = f.mask ∧
      mod = f.mod ∧ imm = f.imm := by
  rw [encLane_eq_iff, laneFields_word]

/-! ### The steps of a class's decoder -/

theorem zero_bind_eq_ok {α : Type} {z : Bool} {k : Unit → Except DecodeError α} {x : α} :
    (zero z >>= k) = .ok x ↔ z = true ∧ k () = .ok x := by
  cases z
  · exact ⟨nofun, nofun⟩
  · exact ⟨fun h => ⟨rfl, h⟩, fun h => h.2⟩

theorem need_bind_eq_ok {α β : Type} {a : Option α} {k : α → Except DecodeError β} {x : β} :
    (need a >>= k) = .ok x ↔ ∃ y, a = some y ∧ k y = .ok x := by
  cases a with
  | none => exact ⟨nofun, nofun⟩
  | some y => exact ⟨fun h => ⟨y, rfl, h⟩, fun ⟨_, hy, h⟩ => Option.some.inj hy ▸ h⟩

theorem pure_eq_ok {α : Type} {x y : α} : (pure x : Except DecodeError α) = .ok y ↔ x = y := Except.ok.injEq x y ▸ Iff.rfl

/-! ### What each class's decoder accepts -/

theorem ofBool_eq_extractLsb' {n s : Nat} {b : Bool} {x : BitVec n} : BitVec.ofBool b = x.extractLsb' s 1 ↔ b = x.getLsbD s := by
  rw [BitVec.getLsbD_eq_extractLsb']
  exact ofBool_eq_iff

theorem ite_throw_eq_ok {α β : Type} {c : Bool} {e : DecodeError} {k : α → Except DecodeError β} {y : Except DecodeError β} {x : β} :
    (if c = true then throw e >>= k else y) = .ok x ↔ c = false ∧ y = .ok x := by
  cases c
  · exact ⟨fun h => ⟨rfl, h⟩, fun h => h.2⟩
  · exact ⟨nofun, nofun⟩

/-! ### The bits of MOD (R46) -/

section Mod

variable {x : BitVec 16} {b b' : Bool} {c2 c2' c2'' : BitVec 2} {c3 c3' c3'' : BitVec 3} {c4 : BitVec 4} {c5 : BitVec 5}

theorem arithMod_eq : c3 ++ BitVec.ofBool b ++ BitVec.ofBool b' ++ (0 : BitVec 11) = x ↔
    c3 = x.extractLsb' 13 3 ∧ b = x.getLsbD 12 ∧ b' = x.getLsbD 11 ∧ 0 = x.extractLsb' 0 11 := by
  rw [append_eq_iff]
  repeat rw [append_eq_extractLsb']
  simp only [ofBool_eq_extractLsb', Nat.reduceAdd, and_assoc]

theorem cmpMod_eq : (0 : BitVec 3) ++ BitVec.ofBool b ++ (0 : BitVec 1) ++ c3 ++ (0 : BitVec 8) = x ↔
    0 = x.extractLsb' 13 3 ∧ b = x.getLsbD 12 ∧ false = x.getLsbD 11 ∧ c3 = x.extractLsb' 8 3 ∧ 0 = x.extractLsb' 0 8 := by
  change (0 : BitVec 3) ++ BitVec.ofBool b ++ BitVec.ofBool false ++ c3 ++ (0 : BitVec 8) = x ↔ _
  rw [append_eq_iff]
  repeat rw [append_eq_extractLsb']
  simp only [ofBool_eq_extractLsb', Nat.reduceAdd, and_assoc]

theorem convMod_eq : c3 ++ BitVec.ofBool b ++ BitVec.ofBool b' ++ c5 ++ (0 : BitVec 6) = x ↔
    c3 = x.extractLsb' 13 3 ∧ b = x.getLsbD 12 ∧ b' = x.getLsbD 11 ∧ c5 = x.extractLsb' 6 5 ∧ 0 = x.extractLsb' 0 6 := by
  rw [append_eq_iff]
  repeat rw [append_eq_extractLsb']
  simp only [ofBool_eq_extractLsb', Nat.reduceAdd, and_assoc]

theorem shflMod_eq : c3 ++ BitVec.ofBool b ++ (0 : BitVec 12) = x ↔ c3 = x.extractLsb' 13 3 ∧ b = x.getLsbD 12 ∧ 0 = x.extractLsb' 0 12 := by
  rw [append_eq_iff]
  repeat rw [append_eq_extractLsb']
  simp only [ofBool_eq_extractLsb', Nat.reduceAdd, and_assoc]

theorem memMod_eq : c2 ++ c3 ++ c3' ++ c3'' ++ BitVec.ofBool b ++ c2' ++ c2'' = x ↔
    c2 = x.extractLsb' 14 2 ∧ c3 = x.extractLsb' 11 3 ∧ c3' = x.extractLsb' 8 3 ∧ c3'' = x.extractLsb' 5 3 ∧ b = x.getLsbD 4 ∧
      c2' = x.extractLsb' 2 2 ∧ c2'' = x.extractLsb' 0 2 := by
  rw [append_eq_iff]
  repeat rw [append_eq_extractLsb']
  simp only [ofBool_eq_extractLsb', Nat.reduceAdd, and_assoc]

theorem atomicMod_eq : c2 ++ c3 ++ c3' ++ c4 ++ (0 : BitVec 2) ++ c2'' = x ↔
    c2 = x.extractLsb' 14 2 ∧ c3 = x.extractLsb' 11 3 ∧ c3' = x.extractLsb' 8 3 ∧ c4 = x.extractLsb' 4 4 ∧ 0 = x.extractLsb' 2 2 ∧
      c2'' = x.extractLsb' 0 2 := by
  rw [append_eq_iff]
  repeat rw [append_eq_extractLsb']
  simp only [Nat.reduceAdd, and_assoc]

/-- Ordering, scope and event alone. -/
theorem orderMod_eq : c2 ++ c3 ++ c3' ++ (0 : BitVec 8) = x ↔
    c2 = x.extractLsb' 14 2 ∧ c3 = x.extractLsb' 11 3 ∧ c3' = x.extractLsb' 8 3 ∧ 0 = x.extractLsb' 0 8 := by
  rw [append_eq_iff]
  repeat rw [append_eq_extractLsb']
  simp only [Nat.reduceAdd, and_assoc]

theorem queueMod_eq : BitVec.ofBool b ++ (0 : BitVec 7) ++ c3 ++ c5 = x ↔
    b = x.getLsbD 15 ∧ 0 = x.extractLsb' 8 7 ∧ c3 = x.extractLsb' 5 3 ∧ c5 = x.extractLsb' 0 5 := by
  rw [append_eq_iff]
  repeat rw [append_eq_extractLsb']
  simp only [ofBool_eq_extractLsb', Nat.reduceAdd, and_assoc]

theorem feWaitMod_eq : c2 ++ c3 ++ (0 : BitVec 7) ++ c2' ++ c2'' = x ↔
    c2 = x.extractLsb' 14 2 ∧ c3 = x.extractLsb' 11 3 ∧ 0 = x.extractLsb' 4 7 ∧ c2' = x.extractLsb' 2 2 ∧ c2'' = x.extractLsb' 0 2 := by
  rw [append_eq_iff]
  repeat rw [append_eq_extractLsb']
  simp only [Nat.reduceAdd, and_assoc]

theorem drainMod_eq {h clr : Bool} :
    c3 ++ BitVec.ofBool b ++ BitVec.ofBool b' ++ c5 ++ BitVec.ofBool h ++ BitVec.ofBool clr ++ (0 : BitVec 4) = x ↔
      c3 = x.extractLsb' 13 3 ∧ b = x.getLsbD 12 ∧ b' = x.getLsbD 11 ∧ c5 = x.extractLsb' 6 5 ∧ h = x.getLsbD 5 ∧ clr = x.getLsbD 4 ∧
        0 = x.extractLsb' 0 4 := by
  rw [append_eq_iff]
  repeat rw [append_eq_extractLsb']
  simp only [ofBool_eq_extractLsb', Nat.reduceAdd, and_assoc]

end Mod

/-! ### What each class's decoder accepts -/

variable {f : LaneFields} {i : Instr}

theorem decodeArith_eq_ok {mk : Arith → Instr} : decodeArith f mk = .ok i ↔ ∃ r, mk r = i ∧ r.ty.ty ≠ 15 ∧ r.enc f.op = word f := by
  simp only [decodeArith, zero_bind_eq_ok, need_bind_eq_ok, pure_eq_ok, Arith.enc, encLane_eq_word, Fmt.ofTy_eq_some, Rm.ofCode_eq_some,
    VReg.ofField_eq_some, Src.ofField_eq_some, arithMod_eq, LaneFields.bits, LaneFields.bit, Nat.reduceSub, beq_iff_eq, true_and]
  constructor
  · rintro ⟨hz, ty, ⟨hne, hty⟩, rm, hrm, d, hd, a, ha, b, hb, c, hc, rfl⟩
    exact ⟨_, rfl, hne, hty, hd, ha, hb, hc, rfl, ⟨hrm, rfl, rfl, hz.symm⟩, rfl⟩
  · rintro ⟨⟨ty, rm, ftz, sat, d, a, b, c, m, imm⟩, rfl, hne, hty, hd, ha, hb, hc, rfl, ⟨hrm, rfl, rfl, hz⟩, rfl⟩
    exact ⟨hz.symm, ty, ⟨hne, hty⟩, rm, hrm, d, hd, a, ha, b, hb, c, hc, rfl⟩

theorem decodeCmp_eq_ok {mk : Cmp → Instr} : decodeCmp f mk = .ok i ↔ ∃ r, mk r = i ∧ r.ty.ty ≠ 15 ∧ r.enc f.op = word f := by
  have hd {k : BitVec 3} : (0 : BitVec 5) ++ k = f.d ↔ 0 = f.d.extractLsb' 3 5 ∧ k = f.d.extractLsb' 0 3 := append_eq_iff
  simp only [decodeCmp, zero_bind_eq_ok, need_bind_eq_ok, pure_eq_ok, Cmp.enc, encLane_eq_word, Fmt.ofTy_eq_some, Cond.ofCode_eq_some,
    Src.ofField_eq_some, cmpMod_eq, hd, LaneFields.bits, LaneFields.bit, Nat.reduceSub, Bool.and_eq_true, Bool.not_eq_true', beq_iff_eq, true_and]
  constructor
  · rintro ⟨⟨⟨⟨⟨hlow, hrm⟩, hsat⟩, hc⟩, hd⟩, ty, ⟨hne, hty⟩, cond, hcond, a, ha, b, hb, rfl⟩
    exact ⟨_, rfl, hne, hty, ⟨hd.symm, rfl⟩, ha, hb, hc.symm, rfl, ⟨hrm.symm, rfl, hsat.symm, hcond, hlow.symm⟩, rfl⟩
  · rintro ⟨⟨ty, ftz, cond, kd, a, b, m, imm⟩, rfl, hne, hty, ⟨hd, rfl⟩, ha, hb, hc, rfl, ⟨hrm, rfl, hsat, hcond, hlow⟩, rfl⟩
    exact ⟨⟨⟨⟨⟨hlow.symm, hrm.symm⟩, hsat.symm⟩, hc.symm⟩, hd.symm⟩, ty, ⟨hne, hty⟩, cond, hcond, a, ha, b, hb, rfl⟩

theorem decodeConv_eq_ok {mk : Conv → Instr} : decodeConv f mk = .ok i ↔ ∃ r, mk r = i ∧ r.ty.ty ≠ 15 ∧ r.enc f.op = word f := by
  simp only [decodeConv, zero_bind_eq_ok, need_bind_eq_ok, pure_eq_ok, Conv.enc, encLane_eq_word, Fmt.ofTy_eq_some, Fmt.ofNf_eq_some,
    Rm.ofCode_eq_some, VReg.ofField_eq_some, Src.ofField_eq_some, convMod_eq, LaneFields.bits, LaneFields.bit, Nat.reduceSub, beq_iff_eq,
    true_and]
  constructor
  · rintro ⟨hz, ty, ⟨hne, hty⟩, nf, hnf, rm, hrm, d, hd, a, ha, b, hb, c, hc, rfl⟩
    exact ⟨_, rfl, hne, hty, hd, ha, hb, hc, rfl, ⟨hrm, rfl, rfl, hnf, hz.symm⟩, rfl⟩
  · rintro ⟨⟨ty, nf, rm, ftz, sat, d, a, b, c, m, imm⟩, rfl, hne, hty, hd, ha, hb, hc, rfl, ⟨hrm, rfl, rfl, hnf, hz⟩, rfl⟩
    exact ⟨hz.symm, ty, ⟨hne, hty⟩, nf, hnf, rm, hrm, d, hd, a, ha, b, hb, c, hc, rfl⟩

theorem decodeCross_eq_ok {z : Bool} {r : Cross} :
    decodeCross f z = .ok r ↔ z = true ∧ r.ty.ty ≠ 15 ∧ r.enc f.op f.mod = word f := by
  simp only [decodeCross, zero_bind_eq_ok, need_bind_eq_ok, pure_eq_ok, Cross.enc, encLane_eq_word, Fmt.ofTy_eq_some, VReg.ofField_eq_some,
    Src.ofField_eq_some, Bool.and_eq_true, beq_iff_eq, true_and]
  constructor
  · rintro ⟨⟨hz, hc⟩, ty, ⟨hne, hty⟩, d, hd, a, ha, b, hb, rfl⟩
    exact ⟨hz, hne, hty, hd, ha, hb, hc.symm, rfl, rfl⟩
  · obtain ⟨ty, d, a, b, m, imm⟩ := r
    rintro ⟨hz, hne, hty, hd, ha, hb, hc, rfl, rfl⟩
    exact ⟨⟨hz, hc.symm⟩, ty, ⟨hne, hty⟩, d, hd, a, ha, b, hb, rfl⟩

theorem decodeMem_eq_ok {mk : LaneMem → Instr} : decodeMem f mk = .ok i ↔ ∃ r, mk r = i ∧ r.enc f.op = word f := by
  simp only [decodeMem, zero_bind_eq_ok, need_bind_eq_ok, pure_eq_ok, LaneMem.enc, encLane_eq_word, Width.ofCode_eq_some, Qual.ofCode_eq_some,
    VReg.ofField_eq_some, sregField_eq_some, Src.ofField_eq_some, memMod_eq, LaneFields.bits, LaneFields.bit, Nat.reduceSub, beq_iff_eq,
    true_and]
  constructor
  · rintro ⟨hz, width, hw, qual, hq, d, hd, base, hbase, off, hoff, data, hdata, rfl⟩
    exact ⟨_, rfl, hz.symm, hd, hbase, hoff, hdata, rfl, ⟨Ord.ofCode_eq.mp rfl, Scope.ofCode_eq.mp rfl, rfl, hw, rfl, hq, rfl⟩, rfl⟩
  · rintro ⟨⟨width, sx, qual, ord, scope, ev, scale, d, base, off, data, m, imm⟩, rfl, hz, hd, hbase, hoff, hdata, rfl,
      ⟨hord, hscope, rfl, hw, rfl, hq, rfl⟩, rfl⟩
    obtain rfl := Ord.ofCode_eq.mpr hord
    obtain rfl := Scope.ofCode_eq.mpr hscope
    exact ⟨hz.symm, width, hw, qual, hq, d, hd, base, hbase, off, hoff, data, hdata, rfl⟩

theorem decodeTlbSync_eq_ok : decodeTlbSync f = .ok i ↔ ∃ r : TlbSync, .tlbsync r = i ∧
    encLane f.op 0 0 (SReg.field r.base) 128 (SReg.field r.data) r.m ((0 : BitVec 2) ++ r.scope.code ++ r.ev ++ (0 : BitVec 8)) r.imm = word f := by
  simp only [decodeTlbSync, zero_bind_eq_ok, ite_throw_eq_ok, need_bind_eq_ok, pure_eq_ok, encLane_eq_word, sregField_eq_some, orderMod_eq,
    LaneFields.bits, Nat.reduceSub, Bool.and_eq_true, beq_iff_eq, bne_eq_false_iff_eq, true_and]
  constructor
  · rintro ⟨⟨⟨⟨hty, hd⟩, hord⟩, hlow⟩, h2, base, hbase, data, hdata, rfl⟩
    exact ⟨_, rfl, hty.symm, hd.symm, hbase, h2.symm, hdata, rfl, ⟨hord.symm, Scope.ofCode_eq.mp rfl, rfl, hlow.symm⟩, rfl⟩
  · rintro ⟨⟨scope, ev, base, data, m, imm⟩, rfl, hty, hd, hbase, h2, hdata, rfl, ⟨hord, hscope, rfl, hlow⟩, rfl⟩
    obtain rfl := Scope.ofCode_eq.mpr hscope
    exact ⟨⟨⟨⟨hty.symm, hd.symm⟩, hord.symm⟩, hlow.symm⟩, h2.symm, base, hbase, data, hdata, rfl⟩

theorem decodeFence_eq_ok : decodeFence f = .ok i ↔ ∃ ord scope ev m, .fence ord scope ev m = i ∧
    encLane f.op 0 0 0 0 0 m (ord.code ++ scope.code ++ ev ++ (0 : BitVec 8)) 0 = word f := by
  simp only [decodeFence, zero_bind_eq_ok, pure_eq_ok, encLane_eq_word, orderMod_eq, LaneFields.bits, Nat.reduceSub, Bool.and_eq_true,
    beq_iff_eq, true_and]
  constructor
  · rintro ⟨⟨⟨⟨⟨⟨⟨hty, hd⟩, h1⟩, h2⟩, h3⟩, himm⟩, hlow⟩, rfl⟩
    exact ⟨_, _, _, _, rfl, hty.symm, hd.symm, h1.symm, h2.symm, h3.symm, rfl, ⟨Ord.ofCode_eq.mp rfl, Scope.ofCode_eq.mp rfl, rfl, hlow.symm⟩, himm.symm⟩
  · rintro ⟨ord, scope, ev, m, rfl, hty, hd, h1, h2, h3, rfl, ⟨hord, hscope, rfl, hlow⟩, himm⟩
    obtain rfl := Ord.ofCode_eq.mpr hord
    obtain rfl := Scope.ofCode_eq.mpr hscope
    exact ⟨⟨⟨⟨⟨⟨⟨hty.symm, hd.symm⟩, h1.symm⟩, h2.symm⟩, h3.symm⟩, himm.symm⟩, hlow.symm⟩, rfl⟩

theorem decodeAtomic_eq_ok {mk : Atomic → Instr} : decodeAtomic f mk = .ok i ↔ ∃ r, mk r = i ∧ r.ty.ty ≠ 15 ∧ r.enc f.op = word f := by
  simp only [decodeAtomic, zero_bind_eq_ok, need_bind_eq_ok, pure_eq_ok, Atomic.enc, encLane_eq_word, Fmt.ofTy_eq_some, AtomOp.ofCode_eq_some,
    VReg.ofField_eq_some, sregField_eq_some, Src.ofField_eq_some, atomicMod_eq, LaneFields.bits, Nat.reduceSub, beq_iff_eq, true_and]
  constructor
  · rintro ⟨hz, op, hop, ty, ⟨hne, hty⟩, d, hd, base, hbase, off, hoff, data, hdata, rfl⟩
    exact ⟨_, rfl, hne, hty, hd, hbase, hoff, hdata, rfl, ⟨Ord.ofCode_eq.mp rfl, Scope.ofCode_eq.mp rfl, rfl, hop, hz.symm, rfl⟩, rfl⟩
  · rintro ⟨⟨op, ty, ord, scope, ev, scale, d, base, off, data, m, imm⟩, rfl, hne, hty, hd, hbase, hoff, hdata, rfl,
      ⟨hord, hscope, rfl, hop, hz, rfl⟩, rfl⟩
    obtain rfl := Ord.ofCode_eq.mpr hord
    obtain rfl := Scope.ofCode_eq.mpr hscope
    exact ⟨hz.symm, op, hop, ty, ⟨hne, hty⟩, d, hd, base, hbase, off, hoff, data, hdata, rfl⟩

theorem decodeInk_eq_ok {mk : Ink → Instr} : decodeInk f mk = .ok i ↔ ∃ r, mk r = i ∧ r.ty.ty ≠ 15 ∧ r.enc f.op = word f := by
  simp only [decodeInk, zero_bind_eq_ok, need_bind_eq_ok, pure_eq_ok, Ink.enc, encLane_eq_word, Fmt.ofTy_eq_some, VReg.ofField_eq_some,
    sregField_eq_some, Src.ofField_eq_some, orderMod_eq, LaneFields.bits, Nat.reduceSub, beq_iff_eq, true_and]
  constructor
  · rintro ⟨hz, ty, ⟨hne, hty⟩, d, hd, base, hbase, off, hoff, data, hdata, rfl⟩
    exact ⟨_, rfl, hne, hty, hd, hbase, hoff, hdata, rfl, ⟨Ord.ofCode_eq.mp rfl, Scope.ofCode_eq.mp rfl, rfl, hz.symm⟩, rfl⟩
  · rintro ⟨⟨ty, ord, scope, ev, d, base, off, data, m, imm⟩, rfl, hne, hty, hd, hbase, hoff, hdata, rfl, ⟨hord, hscope, rfl, hz⟩, rfl⟩
    obtain rfl := Ord.ofCode_eq.mpr hord
    obtain rfl := Scope.ofCode_eq.mpr hscope
    exact ⟨hz.symm, ty, ⟨hne, hty⟩, d, hd, base, hbase, off, hoff, data, hdata, rfl⟩

theorem decodeQueue_eq_ok {mk : QOp → Instr} : decodeQueue f mk = .ok i ↔ ∃ r, mk r = i ∧ r.enc f.op = word f := by
  simp only [decodeQueue, zero_bind_eq_ok, need_bind_eq_ok, pure_eq_ok, QOp.enc, encLane_eq_word, Width.ofCode_eq_some, VReg.ofField_eq_some,
    Src.ofField_eq_some, queueMod_eq, LaneFields.bits, LaneFields.bit, Nat.reduceSub, Bool.and_eq_true, beq_iff_eq, true_and]
  constructor
  · rintro ⟨⟨⟨⟨⟨hty, h1⟩, h2⟩, himm⟩, hz⟩, width, hw, d, hd, data, hdata, rfl⟩
    exact ⟨_, rfl, hty.symm, hd, h1.symm, h2.symm, hdata, rfl, ⟨rfl, hz.symm, hw, rfl⟩, himm.symm⟩
  · rintro ⟨⟨nb, width, q, d, data, m⟩, rfl, hty, hd, h1, h2, hdata, rfl, ⟨rfl, hz, hw, rfl⟩, himm⟩
    exact ⟨⟨⟨⟨⟨hty.symm, h1.symm⟩, h2.symm⟩, himm.symm⟩, hz.symm⟩, width, hw, d, hd, data, hdata, rfl⟩

theorem decodeFeWait_eq_ok : decodeFeWait f = .ok i ↔ ∃ r : FeWait, .fewait r = i ∧
    encLane f.op 0 0 (SReg.field r.base) r.off.field 0 r.m
      (r.ord.code ++ r.scope.code ++ (0 : BitVec 7) ++ (if r.full then (1 : BitVec 2) else 2) ++ r.scale) r.imm = word f := by
  have hfull : ∀ {c : BitVec 2} {b : Bool}, (if c = 1 then some true else if c = 2 then some false else none) = some b ↔
      (if b then (1 : BitVec 2) else 2) = c := by decide
  simp only [decodeFeWait, zero_bind_eq_ok, need_bind_eq_ok, pure_eq_ok, hfull, encLane_eq_word, sregField_eq_some, Src.ofField_eq_some,
    feWaitMod_eq, LaneFields.bits, Nat.reduceSub, Bool.and_eq_true, beq_iff_eq, true_and]
  constructor
  · rintro ⟨⟨⟨⟨hty, hd⟩, h3⟩, hz⟩, full, hf, base, hbase, off, hoff, rfl⟩
    exact ⟨_, rfl, hty.symm, hd.symm, hbase, hoff, h3.symm, rfl, ⟨Ord.ofCode_eq.mp rfl, Scope.ofCode_eq.mp rfl, hz.symm, hf, rfl⟩, rfl⟩
  · rintro ⟨⟨full, ord, scope, scale, base, off, m, imm⟩, rfl, hty, hd, hbase, hoff, h3, rfl, ⟨hord, hscope, hz, hf, rfl⟩, rfl⟩
    obtain rfl := Ord.ofCode_eq.mpr hord
    obtain rfl := Scope.ofCode_eq.mpr hscope
    exact ⟨⟨⟨⟨hty.symm, hd.symm⟩, h3.symm⟩, hz.symm⟩, full, hf, base, hbase, off, hoff, rfl⟩

theorem decodeSpawnV_eq_ok : decodeSpawnV f = .ok i ↔ ∃ r : SpawnV, .spawnv r = i ∧
    encLane f.op 7 (VReg.field r.d) r.handle.field (SReg.field r.tmpl) 0 r.m 0 r.imm = word f := by
  simp only [decodeSpawnV, zero_bind_eq_ok, ite_throw_eq_ok, need_bind_eq_ok, pure_eq_ok, encLane_eq_word, VReg.ofField_eq_some,
    sregField_eq_some, Src.ofField_eq_some, Bool.and_eq_true, beq_iff_eq, bne_eq_false_iff_eq, true_and]
  constructor
  · rintro ⟨⟨h3, hmod⟩, hty, d, hd, handle, hhandle, tmpl, htmpl, rfl⟩
    exact ⟨_, rfl, hty.symm, hd, hhandle, htmpl, h3.symm, rfl, hmod.symm, rfl⟩
  · rintro ⟨⟨d, handle, tmpl, m, imm⟩, rfl, hty, hd, hhandle, htmpl, h3, rfl, hmod, rfl⟩
    exact ⟨⟨h3.symm, hmod.symm⟩, hty.symm, d, hd, handle, hhandle, tmpl, htmpl, rfl⟩

theorem decodeFeed_eq_ok : decodeFeed f = .ok i ↔ ∃ r : Feed, .feed r = i ∧ encLane f.op 0 0 r.a.field 0 0 r.m 0 r.imm = word f := by
  simp only [decodeFeed, zero_bind_eq_ok, need_bind_eq_ok, pure_eq_ok, encLane_eq_word, Src.ofField_eq_some, Bool.and_eq_true, beq_iff_eq,
    true_and]
  constructor
  · rintro ⟨⟨⟨⟨⟨hty, hd⟩, h2⟩, h3⟩, hmod⟩, a, ha, rfl⟩
    exact ⟨_, rfl, hty.symm, hd.symm, ha, h2.symm, h3.symm, rfl, hmod.symm, rfl⟩
  · rintro ⟨⟨a, m, imm⟩, rfl, hty, hd, ha, h2, h3, rfl, hmod, rfl⟩
    exact ⟨⟨⟨⟨⟨hty.symm, hd.symm⟩, h2.symm⟩, h3.symm⟩, hmod.symm⟩, a, ha, rfl⟩

theorem decodeDrain_eq_ok : decodeDrain f = .ok i ↔ ∃ r : Drain, .drain r = i ∧ encLane f.op 0 (VReg.field r.d) 0 0 0 r.m
    (r.rm.code ++ BitVec.ofBool r.ftz ++ BitVec.ofBool r.sat ++ r.fmt.nf ++ BitVec.ofBool r.h ++ BitVec.ofBool r.clr ++ (0 : BitVec 4))
    ((0 : BitVec 16) ++ r.chart ++ (0 : BitVec 4) ++ r.tile) = word f := by
  have himm {chart : BitVec 8} {tile : BitVec 4} {imm : W32} : (0 : BitVec 16) ++ chart ++ (0 : BitVec 4) ++ tile = imm ↔
      0 = imm.extractLsb' 16 16 ∧ chart = imm.extractLsb' 8 8 ∧ 0 = imm.extractLsb' 4 4 ∧ tile = imm.extractLsb' 0 4 := by
    rw [append_eq_iff]
    repeat rw [append_eq_extractLsb']
    simp only [Nat.reduceAdd, and_assoc]
  simp only [decodeDrain, zero_bind_eq_ok, need_bind_eq_ok, pure_eq_ok, encLane_eq_word, Fmt.ofNf_eq_some, Rm.ofCode_eq_some,
    VReg.ofField_eq_some, drainMod_eq, himm, LaneFields.bits, LaneFields.bit, Nat.reduceSub, Bool.and_eq_true, beq_iff_eq, true_and]
  constructor
  · rintro ⟨⟨⟨⟨⟨⟨⟨hty, h1⟩, h2⟩, h3⟩, hlow⟩, hi16⟩, hi4⟩, fmt, hfmt, rm, hrm, d, hd, rfl⟩
    exact ⟨_, rfl, hty.symm, hd, h1.symm, h2.symm, h3.symm, rfl, ⟨hrm, rfl, rfl, hfmt, rfl, rfl, hlow.symm⟩, hi16.symm, rfl, hi4.symm, rfl⟩
  · rintro ⟨⟨fmt, h, clr, rm, ftz, sat, d, tile, chart, m⟩, rfl, hty, hd, h1, h2, h3, rfl, ⟨hrm, rfl, rfl, hfmt, rfl, rfl, hlow⟩,
      hi16, rfl, hi4, rfl⟩
    exact ⟨⟨⟨⟨⟨⟨⟨hty.symm, h1.symm⟩, h2.symm⟩, h3.symm⟩, hlow.symm⟩, hi16.symm⟩, hi4.symm⟩, fmt, hfmt, rm, hrm, d, hd, rfl⟩

theorem decodeCond_eq_ok {mk : Mask → Instr} : decodeCond f mk = .ok i ↔ ∃ m, mk m = i ∧ encLane f.op 0 0 0 0 0 m 0 0 = word f := by
  simp only [decodeCond, zero_bind_eq_ok, pure_eq_ok, encLane_eq_word, LaneFields.controlZero, Bool.and_eq_true, beq_iff_eq, true_and]
  constructor
  · rintro ⟨⟨⟨⟨⟨⟨⟨hty, hd⟩, h1⟩, h2⟩, h3⟩, hmod⟩, himm⟩, rfl⟩
    exact ⟨_, rfl, hty.symm, hd.symm, h1.symm, h2.symm, h3.symm, rfl, hmod.symm, himm.symm⟩
  · rintro ⟨m, rfl, hty, hd, h1, h2, h3, rfl, hmod, himm⟩
    exact ⟨⟨⟨⟨⟨⟨⟨hty.symm, hd.symm⟩, h1.symm⟩, h2.symm⟩, h3.symm⟩, hmod.symm⟩, himm.symm⟩, rfl⟩

theorem mask_eq_all : Mask.all = f.mask ↔ f.k = 0 ∧ f.ks = 0 := by
  have hks : ∀ {c : BitVec 1}, false = (c == 1) ↔ c = 0 := by decide
  simp only [Mask.all, LaneFields.mask, Mask.mk.injEq, hks, eq_comm (a := (0 : BitVec 3))]

theorem decodeLoop_eq_ok {needImm : Bool} {mk : W32 → Instr} :
    decodeLoop f needImm mk = .ok i ↔ ∃ imm, mk imm = i ∧ (needImm = true ∨ imm = 0) ∧ encLane f.op 0 0 0 0 0 Mask.all 0 imm = word f := by
  simp only [decodeLoop, zero_bind_eq_ok, pure_eq_ok, encLane_eq_word, mask_eq_all, LaneFields.controlZero, Bool.and_eq_true, Bool.or_eq_true,
    beq_iff_eq, true_and]
  constructor
  · rintro ⟨⟨⟨⟨⟨⟨⟨⟨⟨hty, hd⟩, h1⟩, h2⟩, h3⟩, hmod⟩, hk⟩, hks⟩, himm⟩, rfl⟩
    exact ⟨_, rfl, himm, hty.symm, hd.symm, h1.symm, h2.symm, h3.symm, ⟨hk, hks⟩, hmod.symm, rfl⟩
  · rintro ⟨imm, rfl, himm, hty, hd, h1, h2, h3, ⟨hk, hks⟩, hmod, rfl⟩
    exact ⟨⟨⟨⟨⟨⟨⟨⟨⟨hty.symm, hd.symm⟩, h1.symm⟩, h2.symm⟩, h3.symm⟩, hmod.symm⟩, hk⟩, hks⟩, himm⟩, rfl⟩

/-! ### Well-formed operands have a type code (R44, R51) -/

/-- A property that holds of no narrow format holds only of formats with a TY code. -/
theorem Fmt.ty_ne_of {p : Fmt → Bool} {t : Fmt} (h : p t = true)
    (hp : ∀ t ∈ [Fmt.e4m3, .e5m2, .s4, .z4, .k8, .n4], p t = false) : t.ty ≠ 15 := by
  intro ht
  have hmem : t ∈ [Fmt.e4m3, .e5m2, .s4, .z4, .k8, .n4] := by revert ht; cases t <;> decide
  rw [hp t hmem] at h
  cases h

section Operands

variable {r : Arith} {q : Cmp} {c : Conv} {x : Cross} {a : Atomic} {k : Ink} {n : Nat} {b b' : Bool}

theorem Arith.ty_ne_of_wfInt (h : r.wfInt n b b' = true) : r.ty.ty ≠ 15 :=
  Fmt.ty_ne_of (p := fun ty => ({ r with ty } : Arith).wfInt n b b') h (by simp [Arith.wfInt, Fmt.isInt])

theorem Arith.ty_ne_of_wfBit (h : r.wfBit n = true) : r.ty.ty ≠ 15 :=
  Fmt.ty_ne_of (p := fun ty => ({ r with ty } : Arith).wfBit n) h (by simp [Arith.wfBit])

theorem Arith.ty_ne_of_wfFloat (h : r.wfFloat n b b' = true) : r.ty.ty ≠ 15 :=
  Fmt.ty_ne_of (p := fun ty => ({ r with ty } : Arith).wfFloat n b b') h (by simp [Arith.wfFloat, Fmt.isFloat, Fmt.isPaired])

theorem Cmp.ty_ne_of_wf (h : q.wf b = true) : q.ty.ty ≠ 15 :=
  Fmt.ty_ne_of (p := fun ty => ({ q with ty } : Cmp).wf b) h (by simp [Cmp.wf, Fmt.isFloat, Fmt.isInt])

theorem narrowPair_narrow {nf : Fmt} : ∀ t ∈ [Fmt.e4m3, .e5m2, .s4, .z4, .k8, .n4], narrowPair t nf = false := by
  cases nf <;> decide

theorem Conv.ty_ne_of_wfCvt (h : c.wfCvt = true) : c.ty.ty ≠ 15 :=
  Fmt.ty_ne_of (p := fun ty => ({ c with ty } : Conv).wfCvt) h (by simp [Conv.wfCvt, Fmt.isWide, Fmt.isFloat, Fmt.isInt, Fmt.isPaired])

theorem Conv.ty_ne_of_wfQnt (h : c.wfQnt = true) : c.ty.ty ≠ 15 :=
  Fmt.ty_ne_of (p := fun ty => ({ c with ty } : Conv).wfQnt) h fun t ht => by simp [Conv.wfQnt, narrowPair_narrow t ht]

theorem Conv.ty_ne_of_wfDqnt (h : c.wfDqnt = true) : c.ty.ty ≠ 15 :=
  Fmt.ty_ne_of (p := fun ty => ({ c with ty } : Conv).wfDqnt) h fun t ht => by simp [Conv.wfDqnt, narrowPair_narrow t ht]

theorem Conv.ty_ne_of_wfBscale (h : c.wfBscale = true) : c.ty.ty ≠ 15 :=
  Fmt.ty_ne_of (p := fun ty => ({ c with ty } : Conv).wfBscale) h fun t ht => by simp [Conv.wfBscale, narrowPair_narrow t ht]

theorem Cross.ty_ne_of_wfShfl (h : x.wfShfl = true) : x.ty.ty ≠ 15 :=
  Fmt.ty_ne_of (p := fun ty => ({ x with ty } : Cross).wfShfl) h (by simp [Cross.wfShfl])

theorem Cross.ty_ne_of_wfGatherv {w : Width} (h : x.wfGatherv w = true) : x.ty.ty ≠ 15 :=
  Fmt.ty_ne_of (p := fun ty => ({ x with ty } : Cross).wfGatherv w) h (by simp [Cross.wfGatherv])

theorem Cross.width_ne_of_wfGatherv {w : Width} (h : x.wfGatherv w = true) : w ≠ .w128 := by
  rintro rfl
  simp [Cross.wfGatherv] at h

theorem Cross.ty_ne_of_wfVote (h : x.wfVote = true) : x.ty.ty ≠ 15 :=
  Fmt.ty_ne_of (p := fun ty => ({ x with ty } : Cross).wfVote) h (by simp [Cross.wfVote])

theorem Cross.ty_ne_of_wfBallot (h : x.wfBallot = true) : x.ty.ty ≠ 15 :=
  Fmt.ty_ne_of (p := fun ty => ({ x with ty } : Cross).wfBallot) h (by simp [Cross.wfBallot])

theorem Cross.ty_ne_of_wfScan {op : ScanOp} (h : x.wfScan op = true) : x.ty.ty ≠ 15 :=
  Fmt.ty_ne_of (p := fun ty => ({ x with ty } : Cross).wfScan op) h (by cases op <;> simp [Cross.wfScan])

theorem Cross.ty_ne_of_wfIntersect (h : x.wfIntersect = true) : x.ty.ty ≠ 15 :=
  Fmt.ty_ne_of (p := fun ty => ({ x with ty } : Cross).wfIntersect) h (by simp [Cross.wfIntersect])

theorem AtomOp.types_narrow {op : AtomOp} : ∀ t ∈ [Fmt.e4m3, .e5m2, .s4, .z4, .k8, .n4], op.types t = false := by
  cases op <;> decide

theorem Atomic.ty_ne_of_wfAtom (h : a.wfAtom = true) : a.ty.ty ≠ 15 :=
  Fmt.ty_ne_of (p := fun ty => ({ a with ty } : Atomic).wfAtom) h fun t ht => by simp [Atomic.wfAtom, AtomOp.types_narrow t ht]

theorem Atomic.ty_ne_of_wfRed (h : a.wfRed = true) : a.ty.ty ≠ 15 :=
  Fmt.ty_ne_of (p := fun ty => ({ a with ty } : Atomic).wfRed) h fun t ht => by simp [Atomic.wfRed, AtomOp.types_narrow t ht]

theorem Ink.ty_ne_of_wfAdd (h : k.wfAdd = true) : k.ty.ty ≠ 15 :=
  Fmt.ty_ne_of (p := fun ty => ({ k with ty } : Ink).wfAdd) h (by simp [Ink.wfAdd])

theorem Ink.ty_ne_of_wfRead (h : k.wfRead = true) : k.ty.ty ≠ 15 :=
  Fmt.ty_ne_of (p := fun ty => ({ k with ty } : Ink).wfRead) h (by simp [Ink.wfRead])

theorem Ink.ty_ne_of_wfClr (h : k.wfClr = true) : k.ty.ty ≠ 15 :=
  Fmt.ty_ne_of (p := fun ty => ({ k with ty } : Ink).wfClr) h (by simp [Ink.wfClr])

end Operands

/-! ### The cross-thread entries (R121 to R126): what their bits of MOD add -/

theorem bind_eq_ok {α β : Type} {a : Except DecodeError α} {k : α → Except DecodeError β} {x : β} :
    (a >>= k) = .ok x ↔ ∃ y, a = .ok y ∧ k y = .ok x := by
  cases a with
  | error e => exact ⟨nofun, nofun⟩
  | ok y => exact ⟨fun h => ⟨y, rfl, h⟩, fun ⟨_, hy, h⟩ => Except.ok.inj hy ▸ h⟩

theorem decodeCross_bind_eq_ok {z : Bool} {k : Cross → Except DecodeError Instr} :
    (decodeCross f z >>= k) = .ok i ↔ ∃ r, (z = true ∧ r.ty.ty ≠ 15 ∧ r.enc f.op f.mod = word f) ∧ k r = .ok i :=
  bind_eq_ok.trans (exists_congr fun _ => and_congr_left' decodeCross_eq_ok)

/-- A code in bits 47 to 45 with a flag in bit 44, of SHFL and SCAN. -/
theorem decodeFlagged_eq_ok {α : Type} {ofCode : BitVec 3 → Option α} {code : α → BitVec 3}
    (hc : ∀ {c x}, ofCode c = some x ↔ code x = c) {mk : α → Bool → Cross → Instr} :
    (need (ofCode (f.bits 45 3)) >>= fun o => decodeCross f (f.bits 32 12 == 0) >>= fun r => pure (mk o (f.bit 44) r)) = .ok i ↔
      ∃ o b r, mk o b r = i ∧ r.ty.ty ≠ 15 ∧ r.enc f.op (code o ++ BitVec.ofBool b ++ (0 : BitVec 12)) = word f := by
  simp only [need_bind_eq_ok, decodeCross_bind_eq_ok, pure_eq_ok, hc, Cross.enc, encLane_eq_word, shflMod_eq, LaneFields.bits,
    LaneFields.bit, Nat.reduceSub, beq_iff_eq, true_and]
  constructor
  · rintro ⟨o, ho, r, ⟨hz, hne, hty, hd, ha, hb, hc, hm, himm⟩, rfl⟩
    exact ⟨o, _, r, rfl, hne, hty, hd, ha, hb, hc, hm, ⟨ho, rfl, hz.symm⟩, himm⟩
  · rintro ⟨o, _, r, rfl, hne, hty, hd, ha, hb, hc, hm, ⟨ho, rfl, hz⟩, himm⟩
    exact ⟨o, ho, r, ⟨hz.symm, hne, hty, hd, ha, hb, hc, hm, himm⟩, rfl⟩

theorem decodeVote_eq_ok : (need (VoteOp.ofCode (f.bits 45 3)) >>= fun op => decodeCross f (f.bits 32 13 == 0) >>= fun r =>
    pure (.vote op r)) = .ok i ↔
      ∃ op r, .vote op r = i ∧ r.ty.ty ≠ 15 ∧ r.enc f.op (op.code ++ (0 : BitVec 13)) = word f := by
  have hmod {c : BitVec 3} : c ++ (0 : BitVec 13) = f.mod ↔ c = f.mod.extractLsb' 13 3 ∧ 0 = f.mod.extractLsb' 0 13 := append_eq_iff
  simp only [need_bind_eq_ok, decodeCross_bind_eq_ok, pure_eq_ok, VoteOp.ofCode_eq_some, Cross.enc, encLane_eq_word, hmod,
    LaneFields.bits, Nat.reduceSub, beq_iff_eq, true_and]
  constructor
  · rintro ⟨op, ho, r, ⟨hz, hne, hty, hd, ha, hb, hc, hm, himm⟩, rfl⟩
    exact ⟨op, r, rfl, hne, hty, hd, ha, hb, hc, hm, ⟨ho, hz.symm⟩, himm⟩
  · rintro ⟨op, r, rfl, hne, hty, hd, ha, hb, hc, hm, ⟨ho, hz⟩, himm⟩
    exact ⟨op, ho, r, ⟨hz.symm, hne, hty, hd, ha, hb, hc, hm, himm⟩, rfl⟩

/-- The width of GATHERV has two bits, so no code of 128 bits. -/
theorem decodeGatherv_eq_ok : (need (Width.ofCode ((f.bits 46 2).setWidth 3)) >>= fun w => decodeCross f (f.bits 32 14 == 0) >>= fun r =>
    pure (.gatherv w r)) = .ok i ↔
      ∃ w r, .gatherv w r = i ∧ w ≠ .w128 ∧ r.ty.ty ≠ 15 ∧ r.enc f.op (w.code.setWidth 2 ++ (0 : BitVec 14)) = word f := by
  have hmod {c : BitVec 2} : c ++ (0 : BitVec 14) = f.mod ↔ c = f.mod.extractLsb' 14 2 ∧ 0 = f.mod.extractLsb' 0 14 := append_eq_iff
  have hw {c : BitVec 2} {w : Width} : w.code = c.setWidth 3 ↔ w ≠ .w128 ∧ w.code.setWidth 2 = c := by
    revert c; cases w <;> decide
  simp only [need_bind_eq_ok, decodeCross_bind_eq_ok, pure_eq_ok, Width.ofCode_eq_some, hw, Cross.enc, encLane_eq_word, hmod,
    LaneFields.bits, Nat.reduceSub, beq_iff_eq, true_and]
  constructor
  · rintro ⟨w, ⟨hne', hw⟩, r, ⟨hz, hne, hty, hd, ha, hb, hc, hm, himm⟩, rfl⟩
    exact ⟨w, r, rfl, hne', hne, hty, hd, ha, hb, hc, hm, ⟨hw, hz.symm⟩, himm⟩
  · rintro ⟨w, r, rfl, hne', hne, hty, hd, ha, hb, hc, hm, ⟨hw, hz⟩, himm⟩
    exact ⟨w, ⟨hne', hw⟩, r, ⟨hz.symm, hne, hty, hd, ha, hb, hc, hm, himm⟩, rfl⟩

/-- BALLOT and INTERSECT have no bits of MOD. -/
theorem decodePlain_eq_ok {mk : Cross → Instr} : (decodeCross f (f.mod == 0) >>= fun r => pure (mk r)) = .ok i ↔
    ∃ r, mk r = i ∧ r.ty.ty ≠ 15 ∧ r.enc f.op 0 = word f := by
  simp only [decodeCross_bind_eq_ok, pure_eq_ok, Cross.enc, encLane_eq_word, beq_iff_eq, true_and]
  constructor
  · rintro ⟨r, ⟨hz, hne, hty, hd, ha, hb, hc, hm, himm⟩, rfl⟩
    exact ⟨r, rfl, hne, hty, hd, ha, hb, hc, hm, hz.symm, himm⟩
  · rintro ⟨r, rfl, hne, hty, hd, ha, hb, hc, hm, hz, himm⟩
    exact ⟨r, ⟨hz.symm, hne, hty, hd, ha, hb, hc, hm, himm⟩, rfl⟩

/-! ### The opcode map (R50) -/

theorem encodeLane_of_decodeLaneFields (h : decodeLaneFields f = .ok i) : encodeLane i = some (word f) := by
  unfold decodeLaneFields at h
  split at h
  case h_73 => cases h
  case h_10 hop | h_29 hop =>
    obtain ⟨r, rfl, -, hw⟩ := decodeCmp_eq_ok.mp h
    rw [← hw, eq_ofNat_of_toNat hop]
    rfl
  case h_35 hop | h_36 hop | h_37 hop | h_38 hop =>
    obtain ⟨r, rfl, -, hw⟩ := decodeConv_eq_ok.mp h
    rw [← hw, eq_ofNat_of_toNat hop]
    rfl
  case h_39 hop | h_44 hop | h_45 hop =>
    obtain ⟨m, rfl, hw⟩ := decodeCond_eq_ok.mp h
    rw [← hw, eq_ofNat_of_toNat hop]
    rfl
  case h_40 hop | h_41 hop =>
    obtain ⟨imm, rfl, himm, hw⟩ := decodeLoop_eq_ok.mp h
    obtain rfl := himm.resolve_left nofun
    rw [← hw, eq_ofNat_of_toNat hop]
    rfl
  case h_42 hop | h_43 hop =>
    obtain ⟨imm, rfl, -, hw⟩ := decodeLoop_eq_ok.mp h
    rw [← hw, eq_ofNat_of_toNat hop]
    rfl
  case h_46 hop =>
    obtain ⟨mode, zf, r, rfl, -, hw⟩ := (decodeFlagged_eq_ok ShflMode.ofCode_eq_some).mp h
    rw [← hw, eq_ofNat_of_toNat hop]
    rfl
  case h_47 hop =>
    obtain ⟨w, r, rfl, -, -, hw⟩ := decodeGatherv_eq_ok.mp h
    rw [← hw, eq_ofNat_of_toNat hop]
    rfl
  case h_48 hop =>
    obtain ⟨op, r, rfl, -, hw⟩ := decodeVote_eq_ok.mp h
    rw [← hw, eq_ofNat_of_toNat hop]
    rfl
  case h_49 hop | h_51 hop =>
    obtain ⟨r, rfl, -, hw⟩ := decodePlain_eq_ok.mp h
    rw [← hw, eq_ofNat_of_toNat hop]
    rfl
  case h_50 hop =>
    obtain ⟨op, excl, r, rfl, -, hw⟩ := (decodeFlagged_eq_ok ScanOp.ofCode_eq_some).mp h
    rw [← hw, eq_ofNat_of_toNat hop]
    rfl
  case h_52 hop | h_53 hop | h_54 hop | h_55 hop | h_56 hop | h_57 hop | h_58 hop | h_59 hop =>
    obtain ⟨r, rfl, hw⟩ := decodeMem_eq_ok.mp h
    rw [← hw, eq_ofNat_of_toNat hop]
    rfl
  case h_60 hop =>
    obtain ⟨r, rfl, hw⟩ := decodeTlbSync_eq_ok.mp h
    rw [← hw, eq_ofNat_of_toNat hop]
    rfl
  case h_61 hop =>
    obtain ⟨ord, scope, ev, m, rfl, hw⟩ := decodeFence_eq_ok.mp h
    rw [← hw, eq_ofNat_of_toNat hop]
    rfl
  case h_62 hop | h_63 hop =>
    obtain ⟨r, rfl, -, hw⟩ := decodeAtomic_eq_ok.mp h
    rw [← hw, eq_ofNat_of_toNat hop]
    rfl
  case h_64 hop | h_65 hop | h_66 hop =>
    obtain ⟨r, rfl, -, hw⟩ := decodeInk_eq_ok.mp h
    rw [← hw, eq_ofNat_of_toNat hop]
    rfl
  case h_67 hop | h_68 hop =>
    obtain ⟨r, rfl, hw⟩ := decodeQueue_eq_ok.mp h
    rw [← hw, eq_ofNat_of_toNat hop]
    rfl
  case h_69 hop =>
    obtain ⟨r, rfl, hw⟩ := decodeFeWait_eq_ok.mp h
    rw [← hw, eq_ofNat_of_toNat hop]
    rfl
  case h_70 hop =>
    obtain ⟨r, rfl, hw⟩ := decodeSpawnV_eq_ok.mp h
    rw [← hw, eq_ofNat_of_toNat hop]
    rfl
  case h_71 hop =>
    obtain ⟨r, rfl, hw⟩ := decodeFeed_eq_ok.mp h
    rw [← hw, eq_ofNat_of_toNat hop]
    rfl
  case h_72 hop =>
    obtain ⟨r, rfl, hw⟩ := decodeDrain_eq_ok.mp h
    rw [← hw, eq_ofNat_of_toNat hop]
    rfl
  all_goals
    next hop =>
    obtain ⟨r, rfl, -, hw⟩ := decodeArith_eq_ok.mp h
    rw [← hw, eq_ofNat_of_toNat hop]
    rfl

theorem decodeLaneFields_of_encodeLane (hi : i.wf = true) (h : encodeLane i = some (word f)) : decodeLaneFields f = .ok i := by
  obtain ⟨op, ty, d, s1, s2, s3, k, ks, mod, imm⟩ := f
  cases i with
  | laneAddInt r | laneSubInt r | laneMulInt r | laneMulh r | laneMad r | laneMinInt r | laneMaxInt r | laneAbsInt r | laneNegInt r =>
    have hw := Option.some.inj h
    obtain rfl : _ = op := (encLane_eq_word.mp hw).1
    exact decodeArith_eq_ok.mpr ⟨r, rfl, Arith.ty_ne_of_wfInt hi, hw⟩
  | laneShl r | laneShr r | laneSar r | laneAnd r | laneOr r | laneXor r | laneNot r | lanePopc r | laneClz r | laneBrev r | laneSel r
  | laneMov r =>
    have hw := Option.some.inj h
    obtain rfl : _ = op := (encLane_eq_word.mp hw).1
    exact decodeArith_eq_ok.mpr ⟨r, rfl, Arith.ty_ne_of_wfBit hi, hw⟩
  | laneAddFloat r | laneSubFloat r | laneMulFloat r | laneFma r | laneMinFloat r | laneMaxFloat r | laneSqrte r | laneRcpe r | laneRsqrte r
  | laneAbsFloat r | laneNegFloat r =>
    have hw := Option.some.inj h
    obtain rfl : _ = op := (encLane_eq_word.mp hw).1
    exact decodeArith_eq_ok.mpr ⟨r, rfl, Arith.ty_ne_of_wfFloat hi, hw⟩
  | laneCmpInt r =>
    have hw := Option.some.inj h
    obtain rfl : _ = op := (encLane_eq_word.mp hw).1
    exact decodeCmp_eq_ok.mpr ⟨r, rfl, Cmp.ty_ne_of_wf (Bool.and_eq_true_iff.mp hi).1, hw⟩
  | laneCmpFloat r =>
    have hw := Option.some.inj h
    obtain rfl : _ = op := (encLane_eq_word.mp hw).1
    exact decodeCmp_eq_ok.mpr ⟨r, rfl, Cmp.ty_ne_of_wf hi, hw⟩
  | cvt r =>
    have hw := Option.some.inj h
    obtain rfl : _ = op := (encLane_eq_word.mp hw).1
    exact decodeConv_eq_ok.mpr ⟨r, rfl, Conv.ty_ne_of_wfCvt hi, hw⟩
  | qnt r =>
    have hw := Option.some.inj h
    obtain rfl : _ = op := (encLane_eq_word.mp hw).1
    exact decodeConv_eq_ok.mpr ⟨r, rfl, Conv.ty_ne_of_wfQnt hi, hw⟩
  | dqnt r =>
    have hw := Option.some.inj h
    obtain rfl : _ = op := (encLane_eq_word.mp hw).1
    exact decodeConv_eq_ok.mpr ⟨r, rfl, Conv.ty_ne_of_wfDqnt hi, hw⟩
  | bscale r =>
    have hw := Option.some.inj h
    obtain rfl : _ = op := (encLane_eq_word.mp hw).1
    exact decodeConv_eq_ok.mpr ⟨r, rfl, Conv.ty_ne_of_wfBscale hi, hw⟩
  | ifm m | brk m | cont m =>
    have hw := Option.some.inj h
    obtain rfl : _ = op := (encLane_eq_word.mp hw).1
    exact decodeCond_eq_ok.mpr ⟨m, rfl, hw⟩
  | elsem =>
    have hw := Option.some.inj h
    obtain rfl : _ = op := (encLane_eq_word.mp hw).1
    exact (decodeLoop_eq_ok (needImm := false) (mk := fun _ => .elsem)).mpr ⟨0, rfl, .inr rfl, hw⟩
  | endif =>
    have hw := Option.some.inj h
    obtain rfl : _ = op := (encLane_eq_word.mp hw).1
    exact (decodeLoop_eq_ok (needImm := false) (mk := fun _ => .endif)).mpr ⟨0, rfl, .inr rfl, hw⟩
  | loop n | endloop n =>
    have hw := Option.some.inj h
    obtain rfl : _ = op := (encLane_eq_word.mp hw).1
    exact decodeLoop_eq_ok.mpr ⟨n, rfl, .inl rfl, hw⟩
  | shfl mode zf r =>
    have hw := Option.some.inj h
    obtain rfl : _ = op := (encLane_eq_word.mp hw).1
    exact (decodeFlagged_eq_ok ShflMode.ofCode_eq_some).mpr ⟨mode, zf, r, rfl, Cross.ty_ne_of_wfShfl hi, hw⟩
  | gatherv w r =>
    have hw := Option.some.inj h
    obtain rfl : _ = op := (encLane_eq_word.mp hw).1
    exact decodeGatherv_eq_ok.mpr ⟨w, r, rfl, Cross.width_ne_of_wfGatherv hi, Cross.ty_ne_of_wfGatherv hi, hw⟩
  | vote o r =>
    have hw := Option.some.inj h
    obtain rfl : _ = op := (encLane_eq_word.mp hw).1
    exact decodeVote_eq_ok.mpr ⟨o, r, rfl, Cross.ty_ne_of_wfVote hi, hw⟩
  | ballot r =>
    have hw := Option.some.inj h
    obtain rfl : _ = op := (encLane_eq_word.mp hw).1
    exact decodePlain_eq_ok.mpr ⟨r, rfl, Cross.ty_ne_of_wfBallot hi, hw⟩
  | scan o excl r =>
    have hw := Option.some.inj h
    obtain rfl : _ = op := (encLane_eq_word.mp hw).1
    exact (decodeFlagged_eq_ok ScanOp.ofCode_eq_some).mpr ⟨o, excl, r, rfl, Cross.ty_ne_of_wfScan hi, hw⟩
  | intersect r =>
    have hw := Option.some.inj h
    obtain rfl : _ = op := (encLane_eq_word.mp hw).1
    exact decodePlain_eq_ok.mpr ⟨r, rfl, Cross.ty_ne_of_wfIntersect hi, hw⟩
  | ld r | st r | ldl r | ldx r | stNt r | lds r | sts r | pref r =>
    have hw := Option.some.inj h
    obtain rfl : _ = op := (encLane_eq_word.mp hw).1
    exact decodeMem_eq_ok.mpr ⟨r, rfl, hw⟩
  | tlbsync r =>
    have hw := Option.some.inj h
    obtain rfl : _ = op := (encLane_eq_word.mp hw).1
    exact decodeTlbSync_eq_ok.mpr ⟨r, rfl, hw⟩
  | fence ord scope ev m =>
    have hw := Option.some.inj h
    obtain rfl : _ = op := (encLane_eq_word.mp hw).1
    exact decodeFence_eq_ok.mpr ⟨ord, scope, ev, m, rfl, hw⟩
  | atom r =>
    have hw := Option.some.inj h
    obtain rfl : _ = op := (encLane_eq_word.mp hw).1
    exact decodeAtomic_eq_ok.mpr ⟨r, rfl, Atomic.ty_ne_of_wfAtom hi, hw⟩
  | red r =>
    have hw := Option.some.inj h
    obtain rfl : _ = op := (encLane_eq_word.mp hw).1
    exact decodeAtomic_eq_ok.mpr ⟨r, rfl, Atomic.ty_ne_of_wfRed hi, hw⟩
  | inkAdd r =>
    have hw := Option.some.inj h
    obtain rfl : _ = op := (encLane_eq_word.mp hw).1
    exact decodeInk_eq_ok.mpr ⟨r, rfl, Ink.ty_ne_of_wfAdd hi, hw⟩
  | inkRead r =>
    have hw := Option.some.inj h
    obtain rfl : _ = op := (encLane_eq_word.mp hw).1
    exact decodeInk_eq_ok.mpr ⟨r, rfl, Ink.ty_ne_of_wfRead hi, hw⟩
  | inkClr r =>
    have hw := Option.some.inj h
    obtain rfl : _ = op := (encLane_eq_word.mp hw).1
    exact decodeInk_eq_ok.mpr ⟨r, rfl, Ink.ty_ne_of_wfClr hi, hw⟩
  | qpush r | qpop r =>
    have hw := Option.some.inj h
    obtain rfl : _ = op := (encLane_eq_word.mp hw).1
    exact decodeQueue_eq_ok.mpr ⟨r, rfl, hw⟩
  | fewait r =>
    have hw := Option.some.inj h
    obtain rfl : _ = op := (encLane_eq_word.mp hw).1
    exact decodeFeWait_eq_ok.mpr ⟨r, rfl, hw⟩
  | spawnv r =>
    have hw := Option.some.inj h
    obtain rfl : _ = op := (encLane_eq_word.mp hw).1
    exact decodeSpawnV_eq_ok.mpr ⟨r, rfl, hw⟩
  | feed r =>
    have hw := Option.some.inj h
    obtain rfl : _ = op := (encLane_eq_word.mp hw).1
    exact decodeFeed_eq_ok.mpr ⟨r, rfl, hw⟩
  | drain r =>
    have hw := Option.some.inj h
    obtain rfl : _ = op := (encLane_eq_word.mp hw).1
    exact decodeDrain_eq_ok.mpr ⟨r, rfl, hw⟩
  | _ => cases h

end Sys2Proof.Decode

open Sys2Proof Sys2Proof.Decode

/-- Settles O55: each class's decoder accepts exactly the words of its operands, and the opcode map names the class. -/
theorem laneEncodeDecode : Obligations.LaneEncodeDecode := by
  intro w i
  rw [decodeLane, ifWf_eq_ok]
  constructor
  · rintro ⟨hd, hi⟩
    exact ⟨hi, word_laneFields w ▸ encodeLane_of_decodeLaneFields hd⟩
  · rintro ⟨hi, he⟩
    exact ⟨decodeLaneFields_of_encodeLane hi ((word_laneFields w).symm ▸ he), hi⟩

end

section
/-! The register budget of the lanes (R52), and the words of the spec. -/

namespace Sys2Proof.Machine

open Sys2Proof

/-- Every instruction that names v registers issues through `State.laneIssue`, with those registers and its mask. -/
theorem exec_eq_laneIssue (i : Instr) (h : i.laneUse.v ≠ []) :
    ∃ body : State → W32 → State → State, ∀ s, exec i s = .next (s.laneIssue i.laneUse.v i.laneUse.m (body s)) := by
  cases i with
  | laneAddInt | laneSubInt | laneMulInt | laneMulh | laneMad | laneMinInt | laneMaxInt | laneAbsInt | laneNegInt | laneCmpInt | laneShl
  | laneShr | laneSar | laneAnd | laneOr | laneXor | laneNot | lanePopc | laneClz | laneBrev | laneSel | laneMov | laneAddFloat
  | laneSubFloat | laneMulFloat | laneFma | laneMinFloat | laneMaxFloat | laneCmpFloat | laneSqrte | laneRcpe | laneRsqrte | laneAbsFloat
  | laneNegFloat | cvt | qnt | dqnt | bscale | shfl | gatherv | vote | ballot | scan | intersect | ld | st | ldl | ldx | stNt | lds | sts
  | pref | atom | red | inkAdd | inkRead | inkClr | qpush | qpop | fewait | spawnv | feed | drain => exact ⟨_, fun _ => rfl⟩
  | _ => exact absurd rfl h

theorem Strand.budgetOk_eq_false {t : Strand} {regs : List (Nat × Nat)} (h : ∃ r ∈ regs, t.budget < r.1 + r.2) : t.budgetOk regs = false := by
  simpa [Strand.budgetOk] using h

end Sys2Proof.Machine

open Sys2Proof Sys2Proof.Machine Sys2Proof.Claims Sys2Proof.Decode

/-- Settles O29: an instruction that names v registers issues them against the budget. -/
theorem laneBudgetTraps : Obligations.LaneBudgetTraps := by
  intro s i h
  obtain ⟨body, hbody⟩ := exec_eq_laneIssue i (by rintro hv; simp [hv] at h)
  rw [hbody, State.laneIssue_trap _ _ _ _ (Strand.budgetOk_eq_false h)]

/-- Settles O56: each word is the encoding of its instruction; zero is none. -/
theorem decodesSpecWords : Obligations.DecodesSpecWords := by
  have hscalar (i : Instr) : decodeScalar 0 ≠ .ok i := nofun
  have hlane (i : Instr) : decodeLane 0 ≠ .ok i := nofun
  exact ⟨rfl, rfl, rfl, rfl, rfl, rfl, rfl, rfl, rfl, rfl, rfl, rfl, rfl, rfl, hscalar, rfl, hlane⟩

end

section
/-! Lane runs from the scalar stream (R48, R49, R75): what stands of a state whose current strand alone changes, the decision queue,
and where LRUNR traps. -/

namespace Sys2Proof.Machine

open Sys2Proof Sys2Proof.Claims

/-! ### The current strand alone changes -/

theorem onlyMe_setMe (s : State) (t : Strand) : OnlyMe s (s.setMe t) :=
  ⟨fun k hk => by simp [hk], fun _ => rfl, rfl⟩

theorem onlyMe_setMe_setMe (s : State) (t u : Strand) : OnlyMe s ((s.setMe t).setMe u) :=
  ⟨fun k hk => by simp [hk], fun _ => rfl, rfl⟩

theorem wentTo_advance (s : State) : WentTo s (s.setMe s.me.advance) (s.me.pc + 4) := by
  refine ⟨onlyMe_setMe s _, ?_, ?_⟩ <;> rw [State.me_setMe] <;> rfl

/-! ### The decision queue (R75) -/

/-- The strand of an instruction that has appended a run. -/
def Strand.enqueued (t : Strand) (pc : W64) (count : Nat) : Strand :=
  { t.advance with runs := t.runs ++ [{ seq := t.nextRun, pc, left := count, bound := t.accs }], nextRun := t.nextRun + 1 }

/-- Appending a run changes nothing else, and `wait` only where the instruction has waited. -/
theorem Strand.enqueued_frame (t : Strand) (pc : W64) (count : Nat) (w : Wait) :
    { ({ t with wait := w } : Strand).enqueued pc count with
      pc := t.pc, runs := t.runs, nextRun := t.nextRun, wstep := t.wstep, wait := t.wait } = t := by rfl

theorem State.enqueueRun_of_lt {s : State} (h : s.me.runs.length < 16) (pc : W64) (count : Nat) :
    s.enqueueRun pc count = s.setMe (s.me.enqueued pc count) := if_neg (Nat.not_le.mpr h)

theorem State.enqueueRun_of_le {s : State} (h : 16 ≤ s.me.runs.length) (pc : W64) (count : Nat) : s.enqueueRun pc count = s := if_pos h

/-! ### LRUNR (R48, R49) -/

/-- A lane PC of R48 within the 56 bits of an address. -/
theorem lanePc_legal_iff {pc : W64} : (!lanePcOk pc || fieldOf pc 56 8 != 0) = false ↔
    pc.toNat < 2 ^ 56 ∧ pc.toNat % 64 % 12 = 0 ∧ pc.toNat % 64 ≤ 48 := by
  have hhigh : pc.toNat / 2 ^ 56 % 2 ^ 8 = 0 ↔ pc.toNat < 2 ^ 56 := by
    have hlt : pc.toNat / 2 ^ 56 < 2 ^ 8 := Nat.div_lt_of_lt_mul pc.isLt
    rw [Nat.mod_eq_of_lt hlt, Nat.div_eq_zero_iff_lt (by decide)]
  simp only [lanePcOk, fieldOf, Bool.or_eq_false_iff, Bool.not_eq_false', Bool.and_eq_true, beq_iff_eq, decide_eq_true_eq, bne_eq_false_iff_eq,
    hhigh]
  tauto

section Lrunr

variable {s : State} {a b : SReg}

theorem exec_lrunr_of_count (h : 65535 < (s.me.s b).toNat) : exec (.lrunr a b) s = .next (s.raiseScalar cIllegal 0) := if_pos h

theorem exec_lrunr_of_illegal (hb : (s.me.s b).toNat ≤ 65535) (h : (!lanePcOk (s.me.s a) || fieldOf (s.me.s a) 56 8 != 0) = true) :
    exec (.lrunr a b) s = .next (s.raiseScalar cLanePc (s.me.s a)) :=
  (if_neg (Nat.not_lt.mpr hb)).trans (if_pos h)

theorem exec_lrunr_of_zero (hb : (s.me.s b).toNat = 0) (h : (!lanePcOk (s.me.s a) || fieldOf (s.me.s a) 56 8 != 0) = false) :
    exec (.lrunr a b) s = .next (s.setMe s.me.advance) := by
  show execLrunr a b s = _
  simp [execLrunr, hb, h]

/-- With its page translated, LRUNR enqueues as LRUN does, no longer waiting for a walk. -/
theorem exec_lrunr_of_key {key : Nat} (h0 : 0 < (s.me.s b).toNat) (hb : (s.me.s b).toNat ≤ 65535)
    (hr : (s.me.s a).toNat < 0xFFFF0000000000) (h12 : (s.me.s a).toNat % 64 % 12 = 0) (h48 : (s.me.s a).toNat % 64 ≤ 48)
    (hkey : s.translate s.cur false needXL (s.me.s a) = .key key) :
    exec (.lrunr a b) s = .next ((s.setMe { s.me with wait := .none }).enqueueRun (s.me.s a) (s.me.s b).toNat) := by
  have hlegal := lanePc_legal_iff.mpr ⟨by omega, h12, h48⟩
  have hres : inReserve (s.me.s a) = false := by simp [inReserve]; omega
  show execLrunr a b s = _
  simp [execLrunr, Nat.not_lt.mpr hb, hlegal, Nat.ne_of_gt h0, hres, hkey]

end Lrunr

end Sys2Proof.Machine

open Sys2Proof Sys2Proof.Machine Sys2Proof.Claims

/-- Settles O6: LRUN is `State.enqueueRun`; LRUNR is it once its count and lane PC are legal and its page translates. -/
theorem laneRunsEnqueue : Obligations.LaneRunsEnqueue := by
  refine ⟨?_, fun s count sheet slot a b => ⟨fun hlen => ⟨?_, fun key h0 hb hr h12 h48 hkey => ?_⟩, exec_lrunr_of_count,
    fun hb hbad => ?_⟩⟩
  · intro s count sheet slot a b key added hlen
    refine ⟨?_, fun hb hlt h12 h48 => ?_, fun h0 hb hr h12 h48 hkey => ?_⟩
    · refine ⟨_, congrArg Host.Outcome.next (State.enqueueRun_of_lt hlen _ _), onlyMe_setMe s _, ?_⟩
      simp only [State.me_setMe]
      exact ⟨rfl, rfl, rfl, Strand.enqueued_frame ..⟩
    · exact ⟨_, exec_lrunr_of_zero hb (lanePc_legal_iff.mpr ⟨hlt, h12, h48⟩), wentTo_advance s⟩
    · refine ⟨_, (exec_lrunr_of_key h0 hb hr h12 h48 hkey).trans (congrArg Host.Outcome.next (State.enqueueRun_of_lt (by simpa using hlen) _ _)),
        onlyMe_setMe_setMe s _ _, ?_⟩
      simp only [State.me_setMe]
      exact ⟨rfl, rfl, rfl, Strand.enqueued_frame ..⟩
  · exact congrArg Host.Outcome.next (State.enqueueRun_of_le hlen _ _)
  · rw [exec_lrunr_of_key h0 hb hr h12 h48 hkey, State.enqueueRun_of_le (by simpa using hlen)]
  · refine exec_lrunr_of_illegal hb (Bool.eq_true_of_not_eq_false fun h => ?_)
    obtain ⟨hlt, h12, h48⟩ := lanePc_legal_iff.mp h
    omega

end

section
/-! Control registers as MFC reads them (R41, R82, R351, R367). -/

namespace Sys2Proof.Machine

open Sys2Proof Sys2Proof.Claims

/-! ### A scalar result -/

theorem wrote_scalarResult (s : State) (d : SReg) (v : W64) : Wrote s (s.scalarResult d v) d v (s.me.pc + 4) := by
  refine ⟨onlyMe_setMe s _, ?_, ?_, fun hd => ?_, fun r hr => ?_, fun m q r hm hq => ?_, ?_⟩
  all_goals rw [State.scalarResult_me]
  · simp
  · exact Strand.s_zero _
  · rw [Strand.s_advance, Strand.s_writeS, if_pos ⟨rfl, hd⟩]
  · rw [Strand.s_advance, Strand.s_writeS, if_neg fun h => hr h.1]
  · exact Strand.laneS_putS_keepS s.me d v m hm q hq r
  · have h := Strand.writeS_frame s.me d v
    exact congrArg (fun t : Strand => { t with pc := s.me.pc, wstep := s.me.wstep }) h

/-! ### MFC and MTC -/

section Read

variable {s : State} {d : SReg} {n : BitVec 12} {v : W64}

theorem gives_mfc (h : s.readCr s.cur n.toNat = some v) : Gives (.mfc d n) s (fun t => Wrote s t d v (s.me.pc + 4)) := by
  refine ⟨s.scalarResult d v, ?_, wrote_scalarResult s d v⟩
  show execMfc d n s = _
  simp only [execMfc, h]

theorem exec_mfc_of_none (h : s.readCr s.cur n.toNat = none) : exec (.mfc d n) s = .next (s.raiseScalar cIllegal 0) := by
  show execMfc d n s = _
  simp only [execMfc, h]

theorem exec_mtc_of_none (h : s.readCr s.cur n.toNat = none) : exec (.mtc d n) s = .next (s.raiseScalar cIllegal 0) := by
  show execMtc d n s = _
  simp only [execMtc, h]

end Read

/-! ### The table (R41) -/

theorem State.readCr_watch (s : State) (k : Nat) {i : Nat} (hi : i < 8) : s.readCr k (0x20 + i) = some ((s.strand k).wp.get i) := by
  interval_cases i <;> rfl

theorem State.readCr_ephem (s : State) (k : Nat) {b : Nat} (hb : b < 32) :
    s.readCr k (0x40 + b) = some ((s.die (s.strand k).die).ephem.get b) := by
  interval_cases b <;> rfl

theorem State.readCr_none (s : State) (k n : Nat) (h : (5 ≤ n ∧ n < 0x10) ∨ (0x15 ≤ n ∧ n < 0x20) ∨ (0x2C ≤ n ∧ n < 0x40) ∨ 0x63 ≤ n) :
    s.readCr k n = none := by
  simp only [State.readCr, beq_iff_eq, Bool.and_eq_true, decide_eq_true_eq]
  repeat rw [if_neg (by omega)]

theorem State.readCr_watchCtl (s : State) (k : Nat) {i : Nat} (hi : i < 4) : s.readCr k (0x28 + i) =
    some (if s.vdDebug (s.gangOf k).vd then (s.strand k).wp.get (8 + i) else setField ((s.strand k).wp.get (8 + i)) 5 1 0) := by
  interval_cases i <;> rfl

/-! ### Fields as masks -/

theorem lbaseOf_eq (w : W64) : lbaseOf w = w &&& 0xFFFFFFFFFFFFC0 := by
  have hmask : ∀ i < 64, (0xFFFFFFFFFFFFC0 : W64).getLsbD i = (decide (6 ≤ i) && decide (i < 56)) := by decide
  refine BitVec.eq_of_getLsbD_eq fun i hi => ?_
  have h64 : lbaseOf w = BitVec.ofNat 64 (fieldOf w 6 50 * 2 ^ 6) := rfl
  rw [h64, BitVec.getLsbD_and, hmask i hi, BitVec.getLsbD_ofNat, fieldOf, Nat.testBit_mul_two_pow, Nat.testBit_mod_two_pow,
    Nat.testBit_div_two_pow, ← BitVec.testBit_toNat]
  by_cases h6 : 6 ≤ i
  · have : i - 6 < 50 ↔ i < 56 := by omega
    simp [h6, hi, this, Bool.and_comm]
  · simp [h6]

/-- Clearing the field of one bit. -/
theorem setField_bit_zero (w : W64) {n : Nat} (hn : n < 64) : setField w n 1 0 = w &&& ~~~BitVec.twoPow 64 n := by
  have hor : (w &&& ~~~BitVec.twoPow 64 n) ||| (w &&& BitVec.twoPow 64 n) = w := by
    rw [← BitVec.and_or_distrib_left, BitVec.or_comm, BitVec.or_not_self, BitVec.and_allOnes]
  have hsub : w &&& ~~~BitVec.twoPow 64 n = w - (w &&& BitVec.twoPow 64 n) := by
    refine eq_sub_of_add_eq (.trans (BitVec.add_eq_or_of_and_eq_zero _ _ ?_) hor)
    ext i
    simp +contextual
  have hbit : (w &&& BitVec.twoPow 64 n).toNat = fieldOf w n 1 * 2 ^ n := by
    rw [BitVec.toNat_and, BitVec.toNat_twoPow, Nat.mod_eq_of_lt (Nat.pow_lt_pow_right (by decide) hn), Nat.and_two_pow, Nat.toNat_testBit]
    rfl
  have hle : w &&& BitVec.twoPow 64 n ≤ w := Nat.and_le_left
  refine BitVec.eq_of_toNat_eq ?_
  rw [hsub, BitVec.toNat_sub_of_le hle, hbit, setField, BitVec.toNat_ofNat, Nat.zero_mod, Nat.zero_mul, Nat.add_zero,
    Nat.mod_eq_of_lt (Nat.lt_of_le_of_lt (Nat.sub_le ..) w.isLt)]

end Sys2Proof.Machine

open Sys2Proof Sys2Proof.Machine Sys2Proof.Claims

/-- Settles O8: each number of the table by what `State.readCr` answers for it. -/
theorem controlRegisterReads : Obligations.ControlRegisterReads := by
  intro s d reads die part sup
  refine ⟨gives_mfc rfl, gives_mfc rfl, gives_mfc rfl, gives_mfc rfl, gives_mfc (congrArg some (lbaseOf_eq _)), gives_mfc rfl, gives_mfc rfl,
    gives_mfc rfl, gives_mfc rfl, gives_mfc rfl, fun i hi => ?_, fun i hi => ?_, fun b hb => ?_, gives_mfc rfl, gives_mfc rfl, gives_mfc rfl,
    fun n hn => ?_⟩
  · refine gives_mfc ?_
    rw [BitVec.toNat_ofNat, Nat.mod_eq_of_lt (by omega)]
    exact State.readCr_watch s s.cur hi
  · refine gives_mfc ?_
    rw [BitVec.toNat_ofNat, Nat.mod_eq_of_lt (by omega), State.readCr_watchCtl s s.cur hi, setField_bit_zero _ (by decide)]
    rfl
  · refine gives_mfc ?_
    rw [BitVec.toNat_ofNat, Nat.mod_eq_of_lt (by omega)]
    exact State.readCr_ephem s s.cur hb
  · exact ⟨exec_mfc_of_none (State.readCr_none s s.cur _ hn), exec_mtc_of_none (State.readCr_none s s.cur _ hn)⟩

end

section
/-! Privilege and HALT (R39, R365): what the supervisor's halt operations leave of its own strand and of memory, and what becomes of the
gangs of the stack. -/

namespace Sys2Proof.Machine

open Sys2Proof Sys2Proof.Claims

/-! ### Privilege (R39) -/

theorem State.privileged_of_isSup {s : State} {go : State → State} (h : s.isSup s.cur = true) : s.privileged go = .next (go s) := if_pos h

theorem State.privileged_of_not_isSup {s : State} {go : State → State} (h : s.isSup s.cur = false) :
    s.privileged go = .next (s.raiseScalar cPriv 0) := if_neg (by simp [h])

/-! ### A result after changes elsewhere -/

/-- Strands and memory stay, and the strand whose instruction is executed. -/
def SameStrands (s t : State) : Prop := t.cur = s.cur ∧ t.strands = s.strands ∧ t.mem = s.mem

theorem SameStrands.refl (s : State) : SameStrands s s := ⟨rfl, rfl, rfl⟩

theorem SameStrands.trans {s t u : State} (h : SameStrands s t) (h' : SameStrands t u) : SameStrands s u :=
  ⟨h'.1.trans h.1, h'.2.1.trans h.2.1, h'.2.2.trans h.2.2⟩

/-- A result written where strands and memory are those before the instruction. -/
theorem SameStrands.scalarResult {s t : State} (h : SameStrands s t) {d : SReg} (hd : d ≠ 0) (v : W64) :
    (t.scalarResult d v).me.s d = v ∧ (t.scalarResult d v).me.pc = s.me.pc + 4 ∧
      (∀ r, r ≠ d → (t.scalarResult d v).me.s r = s.me.s r) ∧ ∀ x, (t.scalarResult d v).byte x = s.byte x := by
  obtain ⟨hcur, hstrands, hmem⟩ := h
  have hme : t.me = s.me := by rw [State.me, State.me, State.strand, State.strand, hcur, hstrands]
  obtain ⟨-, hpc, -, hv, hr, -⟩ := wrote_scalarResult t d v
  refine ⟨hv hd, hme ▸ hpc, fun r h => hme ▸ hr r h, fun x => ?_⟩
  rw [State.byte_scalarResult, State.byte, State.byte, hmem]

/-! ### Folds over the gangs of a stack -/

/-- A fold whose steps keep J makes Q of each member, where each step makes it of its own and takes it from none. -/
theorem foldl_each {α β : Type} {J : β → Prop} {Q : α → β → Prop} {f : β → α → β}
    (step : ∀ b a, J b → J (f b a) ∧ Q a (f b a) ∧ ∀ x, Q x b → Q x (f b a)) (l : List α) :
    ∀ b, J b → J (l.foldl f b) ∧ ∀ x, x ∈ l ∨ Q x b → Q x (l.foldl f b) := by
  induction l with
  | nil => exact fun b hb => ⟨hb, fun x hx => hx.resolve_left (by simp)⟩
  | cons a l ih =>
    intro b hb
    obtain ⟨hJ, hown, hkeep⟩ := step b a hb
    obtain ⟨hj, hq⟩ := ih (f b a) hJ
    refine ⟨hj, fun x hx => hq x ?_⟩
    rcases hx with hx | hx
    · rcases List.mem_cons.mp hx with rfl | hx
      · exact .inr hown
      · exact .inl hx
    · exact .inr (hkeep x hx)

theorem State.haltStack_stack (s : State) (g : Nat) : SameStrands s (s.haltStack g true) ∧
    ∀ x ∈ s.stackOf g, ((s.haltStack g true).gang x).halted = true := by
  have h := foldl_each (J := SameStrands s) (Q := fun x t => (t.gang x).halted = true)
    (f := fun s x => s.setGang x { s.gang x with halted := true }) (fun b a hb => ⟨hb, by simp, fun x hx => ?_⟩) (s.stackOf g) s (.refl s)
  · exact ⟨h.1, fun x hx => h.2 x (.inl hx)⟩
  · by_cases hax : x = a <;> simp [hax, hx]

/-- Neither mark of a halt. -/
def Gang.Released (g : Gang) : Prop := g.halted = false ∧ g.hsusp = false

/-- Where no cancel state has reached a core, releasing a stack clears the marks of a halt on each of its gangs. -/
theorem State.releaseHalt_stack (s : State) (g : Nat) (hjobs : ∀ j, (s.job j).reached = []) : SameStrands s (s.releaseHalt g) ∧
    ∀ x ∈ s.stackOf g, ((s.releaseHalt g).gang x).Released := by
  unfold State.releaseHalt
  refine And.imp And.left (fun hq x hx => hq x (.inl hx)) (foldl_each (J := fun t => SameStrands s t ∧ t.jobs = s.jobs)
    (Q := fun x t => (t.gang x).Released) (fun b a hb => ?_) (s.stackOf g) s ⟨.refl s, rfl⟩)
  have hjob (j : Nat) : (b.job j).reached = [] := by rw [State.job, hb.2]; exact hjobs j
  extract_lets y u c m v jk
  have hv : v.jobs = b.jobs ∧ v.gangs = u.gangs ∧ SameStrands b v := by
    unfold v
    split <;> exact ⟨rfl, rfl, rfl, rfl, rfl⟩
  obtain ⟨hvj, hvg, hvs⟩ := hv
  rw [if_neg (by rw [State.job, hvj]; simpa [State.job] using congrArg (List.contains · y.core) (hjob jk))]
  have hgang (x : Nat) : v.gang x = if x = a then { y with halted := false, hsusp := false } else b.gang x := by
    rw [State.gang, hvg]
    exact State.gang_setGang ..
  refine ⟨⟨hb.1.trans hvs, hvj.trans hb.2⟩, ?_, fun x hx => ?_⟩
  · rw [hgang, if_pos rfl]
    exact ⟨rfl, rfl⟩
  · rw [hgang]
    split
    · exact ⟨rfl, rfl⟩
    · exact hx

/-! ### HALT (R365) -/

section Halt

variable {s : State} {d a b : SReg} {g : Nat}

theorem State.halt_of_operation (hsup : s.isSup s.cur = true) (h : 3 ≤ (s.me.s b).toNat) : s.halt d a b = .next (s.scalarResult d 3) :=
  (State.privileged_of_isSup hsup).trans (congrArg Host.Outcome.next (if_pos h))

/-- The task that register a names, in the strand's partition. -/
def State.haltTask (s : State) (a : SReg) : Option Nat := s.taskOf (s.vdPart (s.gangOf s.cur).vd) ((s.me.s a).toNat % 2 ^ 32)

theorem State.halt_of_no_task (hsup : s.isSup s.cur = true) (h : (s.me.s b).toNat < 3) (ht : s.haltTask a = none) :
    s.halt d a b = .next (s.taskError d ((s.me.s a).toNat % 2 ^ 32)) := by
  rw [State.haltTask] at ht
  simp only [State.halt, State.privileged_of_isSup hsup, if_neg (Nat.not_le.mpr h), ht]

/-- A halt operation that is done, on a task that the strand is not part of. -/
theorem State.halt_of_done {u : State} (hsup : s.isSup s.cur = true) (h : (s.me.s b).toNat < 3) (ht : s.haltTask a = some g)
    (hg : s.me.gang ∉ s.stackOf g) (hop : s.haltOp g (s.me.s b).toNat = .done u) : s.halt d a b = .next (u.scalarResult d 0) := by
  rw [State.haltTask] at ht
  have hg' : (s.stackOf g).contains s.me.gang = false := by simpa using hg
  simp only [State.halt, State.privileged_of_isSup hsup, if_neg (Nat.not_le.mpr h), ht, hg', Bool.false_and, Bool.false_eq_true, if_false, hop]

/-- The error of a handle changes no strand, no memory and no gang before its status. -/
theorem State.taskError_eq (s : State) (d : SReg) (h : Nat) :
    ∃ t, s.taskError d h = t.scalarResult d 3 ∧ SameStrands s t ∧ t.gangs = s.gangs := by
  unfold State.taskError
  dsimp only
  split
  · exact ⟨s, rfl, .refl s, rfl⟩
  · exact ⟨_, rfl, ⟨rfl, rfl, rfl⟩, rfl⟩

theorem State.haltOp_collected (h : ∀ x ∈ (s.haltStack g true).stackOf g, (s.haltStack g true).collected x = true) :
    s.haltOp g 0 = .done (s.haltStack g true) := if_pos (List.all_eq_true.mpr h)

/-- A saved gang is marked, and stays where it is. -/
theorem State.haltOp_saved (h : (s.gang g).place = .saved ∨ (s.gang g).place = .beneath) :
    s.haltOp g 2 = .done (s.setGang g { s.gang g with hsusp := true }) := by
  rcases h with h | h <;> simp only [State.haltOp, h]

end Halt

end Sys2Proof.Machine

open Sys2Proof Sys2Proof.Machine Sys2Proof.Claims

/-- Settles O14: the privilege check first; then each answer of HALT is a status written where strands and memory are as before. -/
theorem privilegeAndHalt : Obligations.PrivilegeAndHalt := by
  refine ⟨fun s d a b i hi hsup => ?_, fun s d a b i g hi hsup hd => ?_⟩
  · simp only [List.mem_cons, List.not_mem_nil, or_false] at hi
    have hhalt : s.halt d a b = .next (s.raiseScalar cPriv 0) := State.privileged_of_not_isSup hsup
    have hresume : s.resume d a b = .next (s.raiseScalar cPriv 0) := State.privileged_of_not_isSup hsup
    rcases hi with rfl | rfl | rfl | rfl | rfl | rfl | rfl | rfl | rfl
    · exact hhalt
    · exact hhalt
    · exact hhalt
    · exact hresume
    · exact hresume
    · exact hresume
    · exact hresume
    · exact (State.privileged_of_not_isSup hsup : execCsave d a b s = _)
    · exact (State.privileged_of_not_isSup hsup : execCrstr d a b s = _)
  · intro task answers
    have hexec : exec i s = s.halt d a b := by
      simp only [List.mem_cons, List.not_mem_nil, or_false] at hi
      rcases hi with rfl | rfl | rfl <;> rfl
    have hanswers {v : W64} {t : State} {P : State → Prop} (ht : s.halt d a b = .next (t.scalarResult d v)) (hs : SameStrands s t)
        (hP : P (t.scalarResult d v)) : answers v P := by
      obtain ⟨hv, hpc, hr, hx⟩ := hs.scalarResult hd v
      exact ⟨_, hexec.trans ht, hv, hpc, hr, hx, hP⟩
    refine ⟨fun h => ?_, fun ht hg => ⟨fun hb hc => ?_, fun hb hjobs => ?_, fun hb hp => ?_⟩⟩
    · by_cases h3 : 3 ≤ (s.me.s b).toNat
      · exact hanswers (State.halt_of_operation hsup h3) (.refl s) rfl
      · obtain ⟨t, ht, hs, hgangs⟩ := s.taskError_eq d ((s.me.s a).toNat % 2 ^ 32)
        have hnone := State.halt_of_no_task (d := d) hsup (Nat.not_le.mp h3) (h.resolve_left h3)
        exact hanswers (hnone.trans (congrArg _ ht)) hs hgangs
    · obtain ⟨hs, hh⟩ := s.haltStack_stack g
      exact hanswers (State.halt_of_done hsup (by simp [hb]) ht hg (by rw [hb]; exact State.haltOp_collected hc)) hs hh
    · obtain ⟨hs, hh⟩ := s.releaseHalt_stack g hjobs
      exact hanswers (State.halt_of_done hsup (by simp [hb]) ht hg (by rw [hb]; rfl)) hs hh
    · have hop := State.haltOp_saved hp
      exact hanswers (State.halt_of_done hsup (by simp [hb]) ht hg ((congrArg (fun w : W64 => s.haltOp g w.toNat) hb).trans hop))
        ⟨rfl, rfl, rfl⟩ (by simp [State.scalarResult])

end

section
/-! What the arithmetic and bit instructions of the lanes leave (R44, R99 to R102). -/

namespace Sys2Proof.Machine

open Sys2Proof Sys2Proof.Claims

/-! ### The lane stream goes on -/

theorem Strand.laneS_freeRen {t : Strand} {x : Run} {q : Nat} (hx : t.runs.head? = some x) (hq : x.seq ≤ q) (r : SReg) :
    t.freeRen.laneS q r = t.laneS q r := by
  obtain ⟨rs, hruns⟩ := List.head?_eq_some_iff.mp hx
  have hren : t.freeRen = { t with ren := t.ren.filter (fun e => x.seq ≤ e.seq) } := by simp only [Strand.freeRen, hruns]
  have hfind : t.freeRen.ren.find? (fun e => e.reg == r && q ≤ e.seq) = t.ren.find? (fun e => e.reg == r && q ≤ e.seq) := by
    rw [hren, List.find?_filter]
    congr 1
    funext e
    rw [Bool.eq_iff_iff]
    simp only [Bool.and_eq_true, decide_eq_true_eq]
    exact ⟨fun h => h.2, fun h => ⟨hq.trans h.2, h⟩⟩
  rw [Strand.laneS, Strand.laneS, hfind, hren]
  rfl

/-- The instructions of the runs that are left read what they would have read (R77). -/
theorem Strand.laneS_laneAdvance {t : Strand} {x : Run} {q : Nat} (hx : t.laneAdvance.runs.head? = some x) (hq : x.seq ≤ q) (r : SReg) :
    t.laneAdvance.laneS q r = t.laneS q r := by
  have hset : t.settleTags.runs = t.runs := rfl
  unfold Strand.laneAdvance Strand.nextSlot at hx ⊢
  rw [hset] at hx ⊢
  cases hr : t.runs with
  | nil => rfl
  | cons r' rs =>
    simp only [hr] at hx ⊢
    split at hx
    · rw [if_pos ‹_›]
      rw [Strand.runs_freeRen] at hx
      exact Strand.laneS_freeRen hx hq r
    · rw [if_neg ‹_›]
      rfl

/-- Tags noted for registers leave the tag of another. -/
theorem get_foldl_set (r : Nat) (l : List (Nat × Tag)) (m : KMap Tag) (h : ∀ e ∈ l, e.1 ≠ r) :
    (l.foldl (fun m e => m.set e.1 e.2) m).get .uniform r = m.get .uniform r := by
  induction l generalizing m with
  | nil => rfl
  | cons e l ih =>
    rw [List.foldl_cons, ih _ (fun e' he => h e' (List.mem_cons_of_mem _ he)), KMap.get_set, if_neg (h e (List.mem_cons_self ..)).symm]

theorem Strand.nextSlot_tags (t : Strand) : t.nextSlot.tags = t.tags ∧ t.nextSlot.issuing = t.issuing := by
  unfold Strand.nextSlot
  split
  · exact ⟨rfl, rfl⟩
  · split
    · unfold Strand.freeRen
      split <;> exact ⟨rfl, rfl⟩
    · exact ⟨rfl, rfl⟩

@[simp] theorem Strand.tags_laneAdvance (t : Strand) : t.laneAdvance.tags = t.issuing.foldl (fun m e => m.set e.1 e.2) t.tags :=
  t.settleTags.nextSlot_tags.1

@[simp] theorem Strand.issuing_laneAdvance (t : Strand) : t.laneAdvance.issuing = [] := t.settleTags.nextSlot_tags.2

/-- The lane stream goes on from a strand whose v registers and masks alone have changed. -/
theorem laneWent_laneAdvance {s : State} {u : Strand} (h : { u with vregs := s.me.vregs, kregs := s.me.kregs } = s.me) :
    LaneWent s (s.setMe u.laneAdvance) := by
  have hruns : u.runs = s.me.runs := (congrArg Strand.runs h :)
  have hsregs : u.sregs = s.me.sregs := (congrArg Strand.sregs h :)
  have hren : u.ren = s.me.ren := (congrArg Strand.ren h :)
  have htags : u.tags = s.me.tags := (congrArg Strand.tags h :)
  have hissuing : u.issuing = s.me.issuing := (congrArg Strand.issuing h :)
  have hs (r : SReg) : u.s r = s.me.s r := by rw [Strand.s, Strand.s, hsregs]
  rw [LaneWent, State.me_setMe]
  refine ⟨?_, u.redo_laneAdvance, fun r => ?_, u.issuing_laneAdvance, fun r hr => ?_, fun x r q hx hq => ?_⟩
  · rw [u.runs_laneAdvance, hruns]
    rfl
  · rw [← hs, Strand.s, Strand.s, u.sregs_laneAdvance]
  · rw [u.tags_laneAdvance, hissuing, get_foldl_set r _ _ hr, htags]
  · rw [Strand.laneS_laneAdvance hx hq, Strand.laneS, Strand.laneS, hren, hs]

/-! ### What LaneWrite and LaneCompare leave -/

/-- A pass over an instruction that no thread executes writes nothing. -/
theorem laneWrote_pass (s : State) (d n : Nat) (val : Nat → Nat) : LaneWrote s (s.setMe s.me.laneAdvance) 0 d n val := by
  refine ⟨onlyMe_setMe s _, laneWent_laneAdvance rfl, fun i _ hx => by simp at hx, fun r i _ _ => ?_, ?_⟩ <;> rw [State.me_setMe]
  · rw [Strand.v, Strand.v, Strand.vregs_laneAdvance]
  · exact congrArg (fun u : Strand => { u with vregs := s.me.vregs }) s.me.laneAdvance_frame

/-- A strand with what going on may change as in another. -/
def Strand.withStream (w t : Strand) : Strand :=
  { w with runs := t.runs, redo := t.redo, ren := t.ren, tags := t.tags, issuing := t.issuing }

theorem Strand.laneAdvance_withStream (u t : Strand) : u.laneAdvance.withStream t = u.withStream t :=
  congrArg (·.withStream t) u.laneAdvance_frame

theorem laneWrote_laneWrite (s : State) (x : W32) (d n : Nat) (val : Nat → Nat) : LaneWrote s (s.laneWrite x d n val) x d n val := by
  have hframe := s.me.foldl_putVs_frame d n val (threadsIn x)
  refine ⟨onlyMe_setMe s _, laneWent_laneAdvance (congrArg (fun u : Strand => { u with kregs := s.me.kregs }) hframe),
    fun i hi hx => Strand.getVs_eq_mod _ _ _ _ _ fun j hj => ?_, fun r i hi hr => ?_, ?_⟩
  · rw [State.v_laneWrite _ _ _ _ _ _ _ hi, if_pos ⟨hx, by omega, by omega⟩, Nat.add_sub_cancel_left]
  · rw [State.v_laneWrite _ _ _ _ _ _ _ hi, if_neg hr]
  · rw [State.laneWrite, State.me_setMe]
    exact (congrArg (fun u : Strand => { u with vregs := s.me.vregs }) (Strand.laneAdvance_withStream _ s.me)).trans
      (congrArg (·.withStream s.me) hframe)

/-- What is written counts modulo the registers' width, and for threads alone. -/
theorem laneWrote_congr {s t : State} {x : W32} {d n : Nat} {val val' : Nat → Nat} (h : LaneWrote s t x d n val)
    (hval : ∀ j < 32, val j % 2 ^ (32 * n) = val' j % 2 ^ (32 * n)) : LaneWrote s t x d n val' := by
  obtain ⟨hme, hwent, hv, hrest⟩ := h
  exact ⟨hme, hwent, fun i hi hx => (hv i hi hx).trans (hval i hi), hrest⟩

/-- The value of a thread's three sources under a function. -/
def State.arithVal (s : State) (r : Arith) (f : Nat → Nat → Nat → Nat) (j : Nat) : Nat :=
  f (s.src s.cur j r.ty r.imm r.a) (s.src s.cur j r.ty r.imm r.b) (s.src s.cur j r.ty r.imm r.c)

theorem State.laneOp_eq_write {s : State} {r : Arith} {n : Nat} (f : Nat → Nat → Nat → Nat) (hb : s.me.budgetOk (r.vregs n) = true)
    (hx : s.me.execSet r.m ≠ 0) :
    s.laneOp r n f = .next (s.laneWrite (s.me.execSet r.m) r.d.toNat r.ty.regs (s.arithVal r f)) :=
  congrArg Host.Outcome.next (s.laneIssue_run _ _ _ hb hx)

/-- An arithmetic instruction within its budget writes its function's value in each executing thread. -/
theorem laneOp_gives {i : Instr} {s : State} {r : Arith} {n : Nat} {f : Nat → Nat → Nat → Nat} (hi : exec i s = s.laneOp r n f)
    (hb : s.me.budgetOk (r.vregs n) = true) :
    Gives i s (fun t => LaneWrote s t (s.me.execSet r.m) r.d.toNat r.ty.regs (s.arithVal r f)) := by
  by_cases hx : s.me.execSet r.m = 0
  · refine ⟨_, hi.trans (congrArg Host.Outcome.next (s.laneIssue_pass _ _ _ hb hx)), ?_⟩
    rw [hx]
    exact laneWrote_pass ..
  · exact ⟨_, hi.trans (State.laneOp_eq_write f hb hx), laneWrote_laneWrite ..⟩

/-- The same, where another form of the value agrees in every thread. -/
theorem laneOp_gives_of_eq {i : Instr} {s : State} {r : Arith} {n : Nat} {f : Nat → Nat → Nat → Nat} {val : Nat → Nat}
    (hi : exec i s = s.laneOp r n f) (hval : ∀ j < 32, s.arithVal r f j = val j) (hb : s.me.budgetOk (r.vregs n) = true) :
    Gives i s (fun t => LaneWrote s t (s.me.execSet r.m) r.d.toNat r.ty.regs val) := by
  obtain ⟨t, ht, hw⟩ := laneOp_gives hi hb
  exact ⟨t, ht, laneWrote_congr hw fun j hj => congrArg (· % _) (hval j hj)⟩

/-! ### Sums of powers of two -/

theorem sum_range_bits_lt (p : Nat → Bool) (n : Nat) : ((List.range n).map (fun i => if p i then 2 ^ i else 0)).sum < 2 ^ n := by
  induction n with
  | zero => simp
  | succ n ih =>
    rw [List.range_succ, List.map_append, List.sum_append, List.map_singleton, List.sum_singleton, pow_succ]
    split <;> omega

theorem testBit_sum_range_bits (p : Nat → Bool) (n j : Nat) :
    ((List.range n).map (fun i => if p i then 2 ^ i else 0)).sum.testBit j = (decide (j < n) && p j) := by
  induction n with
  | zero => simp
  | succ n ih =>
    have hlt := sum_range_bits_lt p n
    rw [List.range_succ, List.map_append, List.sum_append, List.map_singleton, List.sum_singleton]
    by_cases hp : p n = true
    · rw [if_pos hp, Nat.add_comm, ← Nat.mul_one (2 ^ n), Nat.two_pow_add_eq_or_of_lt hlt, Nat.mul_one, Nat.testBit_or, ih, Nat.testBit_two_pow]
      rcases Nat.lt_trichotomy j n with h | rfl | h
      · simp [h, h.ne', Nat.lt_succ_of_lt h]
      · simp [hp]
      · simp [h.not_gt, h.ne, show ¬j < n + 1 by omega]
    · rw [if_neg hp, Nat.add_zero, ih]
      rcases Nat.lt_trichotomy j n with h | rfl | h
      · simp [h, Nat.lt_succ_of_lt h]
      · simp [hp]
      · simp [h.not_gt, show ¬j < n + 1 by omega]

theorem getLsbD_threadSet (l : List Nat) (j : Nat) : (threadSet l).getLsbD j = (decide (j < 32) && l.contains j) := by
  have h := testBit_sum_range_bits (l.contains ·) 32 j
  rw [threadSet, BitVec.getLsbD_ofNat, h]
  simp

/-- A mask register after a compare: the bits of the executing threads are those of the compare. -/
theorem getLsbD_maskWith (old x : W32) (f : Nat → Bool) {j : Nat} (hj : j < 32) :
    (maskWith old x f).getLsbD j = if x.getLsbD j = true then f j else old.getLsbD j := by
  have hmem : ((threadsIn x).filter f).contains j = (x.getLsbD j && f j) := by
    rw [Bool.eq_iff_iff, List.contains_iff_mem, List.mem_filter, mem_threadsIn, Bool.and_eq_true, and_iff_right hj]
  rw [maskWith, BitVec.getLsbD_or, BitVec.getLsbD_and, BitVec.getLsbD_not, getLsbD_threadSet, hmem, decide_eq_true hj]
  cases x.getLsbD j <;> simp

/-- The bits of a number reversed: the only number of its width with them. -/
theorem reverseBits_eq {w a v : Nat} (hv : v < 2 ^ w) (h : ∀ i < w, v.testBit i = a.testBit (w - 1 - i)) : reverseBits w a = v := by
  have hsum : reverseBits w a = ((List.range w).map (fun i => if v.testBit i then 2 ^ i else 0)).sum := by
    refine (Finset.sum_range_reflect (fun i => if a.testBit i then 2 ^ (w - 1 - i) else 0) w).symm.trans (Finset.sum_congr rfl fun i hi => ?_)
    have hi := Finset.mem_range.mp hi
    rw [h i hi, show w - 1 - (w - 1 - i) = i by omega]
  refine Nat.eq_of_testBit_eq fun i => ?_
  rw [hsum, testBit_sum_range_bits]
  by_cases hi : i < w
  · simp [hi]
  · simp [hi, Nat.testBit_eq_false_of_lt (hv.trans_le (Nat.pow_le_pow_right two_pos (Nat.not_lt.mp hi)))]

/-- The length of a number between two powers of two. -/
theorem bitLen_eq {a n : Nat} (hlt : a < 2 ^ n) (hle : n = 0 ∨ 2 ^ (n - 1) ≤ a) : bitLen a = n := by
  cases n with
  | zero => rw [bitLen, if_pos (by simpa using hlt)]
  | succ n =>
    have hle : 2 ^ n ≤ a := hle.resolve_left n.succ_ne_zero
    have hpos : a ≠ 0 := ((Nat.two_pow_pos n).trans_le hle).ne'
    rw [bitLen, if_neg hpos, (Nat.log2_eq_iff hpos).mpr ⟨hle, hlt⟩]

end Sys2Proof.Machine
end

section
/-! Integer values of the lanes, and the bit operations (R44, R99 to R102). -/

namespace Sys2Proof.Machine

open Sys2Proof Sys2Proof.Claims

/-! ### Integer values (R44, R99) -/

theorem intBits_eq_toNat_ofInt (w : Nat) (v : Int) : intBits w v = (BitVec.ofInt w v).toNat := (BitVec.toNat_ofInt v).symm

theorem bits_pos_of_signedFmt {ty : Fmt} (h : signedFmt ty = true) : 0 < ty.bits := by
  revert h
  cases ty <;> decide

theorem intVal_eq (ty : Fmt) (x : Nat) : intVal ty x = if signedFmt ty then
    if 2 ^ (ty.bits - 1) ≤ x % 2 ^ ty.bits then ((x % 2 ^ ty.bits : Nat) : Int) - 2 ^ ty.bits else (x % 2 ^ ty.bits : Nat)
    else (x % 2 ^ ty.bits : Nat) := by cases ty <;> rfl

/-- The value of the low bits of a word in a signed type is that of the bit vector. -/
theorem intVal_of_signedFmt {ty : Fmt} (h : signedFmt ty = true) (x : Nat) : intVal ty x = (BitVec.ofNat ty.bits x).toInt := by
  have hpow : 2 ^ ty.bits = 2 * 2 ^ (ty.bits - 1) := by rw [← pow_succ', Nat.sub_add_cancel (bits_pos_of_signedFmt h)]
  have hcast : ((2 ^ ty.bits : Nat) : Int) = (2 : Int) ^ ty.bits := by push_cast; rfl
  rw [intVal_eq, if_pos h, BitVec.toInt_eq_toNat_cond, BitVec.toNat_ofNat, hcast]
  split <;> split <;> omega

theorem intVal_eq_asInt (ty : Fmt) (x : Nat) : intVal ty x = asInt ty x := by
  unfold asInt
  split
  · exact intVal_of_signedFmt ‹_› x
  · rw [intVal_eq, if_neg ‹_›]

/-- The low bits of a result, extended to its register, or pair. -/
theorem extendTo_intBits {ty : Fmt} (hty : isInt ty) (v : Int) :
    extendTo ty (intBits ty.bits v) % 2 ^ (32 * ty.regs) = asBits ty v % 2 ^ (32 * ty.regs) := by
  have hv : BitVec.ofNat ty.bits (intBits ty.bits v) = BitVec.ofInt ty.bits v := by
    rw [intBits_eq_toNat_ofInt, BitVec.ofNat_toNat, BitVec.setWidth_eq]
  unfold asBits extendTo
  by_cases hs : signedFmt ty = true
  · rw [if_pos hs, if_pos hs, intVal_of_signedFmt hs, hv, intBits_eq_toNat_ofInt, intBits_eq_toNat_ofInt]
    by_cases h64 : ty.is64 = true
    · have hb : ty.bits = 64 := by revert hs h64; cases ty <;> decide
      have hr : 32 * ty.regs = 64 := by rw [Fmt.regs, if_pos h64]
      rw [if_pos h64, hr, hb, BitVec.signExtend_eq, Nat.mod_mod]
    · have hr : 32 * ty.regs = 32 := by rw [Fmt.regs, if_neg h64]
      rw [if_neg h64, hr]
      rfl
  · rw [if_neg hs, if_neg hs, intBits_eq_toNat_ofInt, Nat.mod_eq_of_lt (BitVec.isLt _)]
    split
    · have hr : 32 * ty.regs = 64 := by rw [Fmt.regs, if_pos ‹_›]
      rw [hr, Nat.mod_mod]
    · rfl

/-- A value clamped to the range of its type with SAT. -/
def satInt (ty : Fmt) (sat : Bool) (v : Int) : Int :=
  if sat then min (max v (if signedFmt ty then -(2 : Int) ^ (ty.bits - 1) else 0))
    (if signedFmt ty then (2 : Int) ^ (ty.bits - 1) - 1 else (2 : Int) ^ ty.bits - 1) else v

theorem clampInt_eq_satInt (ty : Fmt) (v : Int) : clampInt ty v = satInt ty true v := by
  rw [clampInt, minInt, maxInt, satInt, if_pos rfl]
  push_cast
  rfl

theorem intResult_eq_asBits {ty : Fmt} (hty : isInt ty) (sat : Bool) (v : Int) :
    intResult ty sat v % 2 ^ (32 * ty.regs) = asBits ty (satInt ty sat v) % 2 ^ (32 * ty.regs) := by
  have hsat : (if sat = true then clampInt ty v else v) = satInt ty sat v := by
    cases sat
    · rfl
    · exact clampInt_eq_satInt ty v
  rw [intResult, hsat, extendTo_intBits hty]

/-- An integer instruction writes the exact result of its sources' values, clamped with SAT, in each executing thread. -/
theorem laneInt_gives {i : Instr} {s : State} {r : Arith} {n : Nat} {g : Int → Int → Int → Int} (hty : isInt r.ty)
    (hi : exec i s = s.laneInt r n g) (hb : s.me.budgetOk (r.vregs n) = true) :
    Gives i s (fun t => LaneWrote s t (s.me.execSet r.m) r.d.toNat r.ty.regs (fun j => asBits r.ty (satInt r.ty r.sat
      (g (asInt r.ty (s.src s.cur j r.ty r.imm r.a)) (asInt r.ty (s.src s.cur j r.ty r.imm r.b))
        (asInt r.ty (s.src s.cur j r.ty r.imm r.c)))))) := by
  obtain ⟨t, ht, hw⟩ := laneOp_gives hi hb
  refine ⟨t, ht, laneWrote_congr hw fun j _ => ?_⟩
  simp only [State.arithVal, intResult_eq_asBits hty, intVal_eq_asInt]

/-! ### Compares (R101) -/

theorem condInt_iff (c : Cond) (a b : Int) : condInt c a b = true ↔ HoldsInt c a b := by
  cases c <;> simp [condInt, HoldsInt]

theorem laneCompared_laneCompare (s : State) (x : W32) {kd : BitVec 3} (hk : kd ≠ 0) (f : Nat → Bool) :
    LaneCompared s (s.laneCompare x kd f) x kd (fun j => f j = true) := by
  have hput : s.me.putK kd (maskWith (s.me.k kd) x f) = { s.me with kregs := s.me.kregs.set kd.toNat (maskWith (s.me.kregs.get kd.toNat) x f) } := by
    rw [Strand.k, if_neg hk, Strand.putK, if_neg hk]
  refine ⟨onlyMe_setMe s _, laneWent_laneAdvance (by rw [hput]), fun i hi => ?_, fun n hn => ?_, ?_⟩ <;>
    rw [State.laneCompare, State.me_setMe]
  · rw [Strand.kregs_laneAdvance, hput, SMap.get_set, if_pos rfl, getLsbD_maskWith _ _ _ hi]
    split <;> rfl
  · rw [Strand.kregs_laneAdvance, hput, SMap.get_set, if_neg hn]
  · refine (congrArg (fun u : Strand => { u with kregs := s.me.kregs }) (Strand.laneAdvance_withStream _ s.me)).trans ?_
    rw [hput]
    rfl

/-- A pass over a compare that no thread executes changes no mask. -/
theorem laneCompared_pass (s : State) (kd : BitVec 3) (c : Nat → Prop) : LaneCompared s (s.setMe s.me.laneAdvance) 0 kd c := by
  refine ⟨onlyMe_setMe s _, laneWent_laneAdvance rfl, fun i _ => ?_, fun n _ => ?_, ?_⟩ <;> rw [State.me_setMe]
  · rw [Strand.kregs_laneAdvance, if_neg (by simp)]
  · rw [Strand.kregs_laneAdvance]
  · exact congrArg (fun u : Strand => { u with kregs := s.me.kregs }) (s.me.laneAdvance_withStream s.me)

theorem laneCmpInt_gives {s : State} {q : Cmp} (hk : q.kd ≠ 0) (hb : s.me.budgetOk q.vregs = true) :
    Gives (.laneCmpInt q) s (fun t => LaneCompared s t (s.me.execSet q.m) q.kd (fun j => HoldsInt q.cond
      (asInt q.ty (s.src s.cur j q.ty q.imm q.a)) (asInt q.ty (s.src s.cur j q.ty q.imm q.b)))) := by
  by_cases hx : s.me.execSet q.m = 0
  · refine ⟨_, congrArg Host.Outcome.next (s.laneIssue_pass _ _ _ hb hx), ?_⟩
    rw [hx]
    exact laneCompared_pass ..
  · refine ⟨_, congrArg Host.Outcome.next (s.laneIssue_run _ _ _ hb hx), ?_⟩
    have h := laneCompared_laneCompare s (s.me.execSet q.m) hk (fun j =>
      condInt q.cond (intVal q.ty (s.src s.cur j q.ty q.imm q.a)) (intVal q.ty (s.src s.cur j q.ty q.imm q.b)))
    simp only [condInt_iff, intVal_eq_asInt] at h ⊢
    exact h

/-! ### Bit operations (R102) -/

theorem laneSar_value {ty : Fmt} (hty : ty = .z32 ∨ ty = .z64) (a k : Nat) :
    intBits ty.bits (intVal (signedOf ty) a / 2 ^ k) = (BitVec.ofInt ty.bits ((BitVec.ofNat ty.bits a).toInt / (2 : Int) ^ k)).toNat := by
  rw [intBits_eq_toNat_ofInt]
  rcases hty with rfl | rfl
  · rw [intVal_of_signedFmt (ty := signedOf .z32) rfl]
    rfl
  · rw [intVal_of_signedFmt (ty := signedOf .z64) rfl]
    rfl

/-- The leading zeros of a number of w bits. -/
theorem sub_bitLen_eq {w a z : Nat} (hz : z ≤ w) (hlt : a < 2 ^ (w - z)) (hle : z = w ∨ 2 ^ (w - 1 - z) ≤ a) : w - bitLen a = z := by
  have hlen : bitLen a = w - z := bitLen_eq hlt (hle.imp (by omega) (by rw [Nat.sub_right_comm]; exact id))
  omega

end Sys2Proof.Machine

end

section
/-! The scalarisation unit (R91, R96 to R98): the tags that additions, subtractions, products and XOR of z32 values leave. -/

namespace Sys2Proof.Machine

open Sys2Proof Sys2Proof.Claims

/-! ### Uniform and affine values (R96) -/

/-- One value in all threads. -/
def Uniform (f : Nat → W32) : Prop := ∀ j < 32, f j = f 0

/-- A base and a multiple of the thread's number. -/
def Affine (f : Nat → W32) : Prop := ∃ b m : W32, ∀ j < 32, f j = b + BitVec.ofNat 32 j * m

/-- What a tag says of values. -/
def Tag.Fits (tag : Tag) (f : Nat → W32) : Prop :=
  match tag with
  | .uniform => Uniform f
  | .affine 1 => Affine f
  | _ => True

theorem tagHolds_iff (t : Strand) (r : Nat) : TagHolds t r ↔ (t.tags.get .uniform r).Fits (t.v r) := by
  unfold TagHolds Tag.Fits
  rfl

/-- What a tag says is of the values of threads 0 to 31. -/
theorem Tag.Fits.congr {tag : Tag} {f g : Nat → W32} (hf : tag.Fits f) (h : ∀ j < 32, f j = g j) : tag.Fits g := by
  unfold Tag.Fits at hf ⊢
  split
  · exact fun j hj => by rw [← h j hj, ← h 0 (by omega), hf j hj]
  · obtain ⟨b, m, hf⟩ := hf
    exact ⟨b, m, fun j hj => (h j hj).symm.trans (hf j hj)⟩
  · trivial

section Values

variable {f g : Nat → W32}

theorem Uniform.affine (h : Uniform f) : Affine f := ⟨f 0, 0, fun j hj => by rw [h j hj, mul_zero, add_zero]⟩

theorem Uniform.map₂ (hf : Uniform f) (hg : Uniform g) (op : W32 → W32 → W32) : Uniform (fun j => op (f j) (g j)) :=
  fun j hj => by simp only [hf j hj, hg j hj]

theorem Affine.add (hf : Affine f) (hg : Affine g) : Affine (fun j => f j + g j) := by
  obtain ⟨b, m, hf⟩ := hf
  obtain ⟨c, n, hg⟩ := hg
  exact ⟨b + c, m + n, fun j hj => by simp only [hf j hj, hg j hj]; ring⟩

theorem Affine.sub (hf : Affine f) (hg : Affine g) : Affine (fun j => f j - g j) := by
  obtain ⟨b, m, hf⟩ := hf
  obtain ⟨c, n, hg⟩ := hg
  exact ⟨b - c, m - n, fun j hj => by simp only [hf j hj, hg j hj]; ring⟩

theorem Affine.mul_uniform (hf : Affine f) (hg : Uniform g) : Affine (fun j => f j * g j) := by
  obtain ⟨b, m, hf⟩ := hf
  exact ⟨b * g 0, m * g 0, fun j hj => by simp only [hf j hj, hg j hj]; ring⟩

theorem Uniform.mul_affine (hf : Uniform f) (hg : Affine g) : Affine (fun j => f j * g j) := by
  simpa only [mul_comm] using hg.mul_uniform hf

end Values

/-- Affine values that agree in two threads agree in all. -/
theorem Affine.uniform {f : Nat → W32} (hf : Affine f) (h : f 0 = f 1) : Uniform f := by
  obtain ⟨b, m, hf⟩ := hf
  have hm : m = 0 := by
    have h' := (hf 0 (by omega)).symm.trans (h.trans (hf 1 (by omega)))
    simpa using h'
  intro j hj
  rw [hf j hj, hf 0 (by omega), hm, mul_zero, mul_zero]

/-! ### The tags of the sources and of the results (R97) -/

/-- What the tag of a v source says of its values. -/
theorem Strand.tagOf_fits {t : Strand} {a : Src} {r : VReg} (ha : a = .v r) (h : TagHolds t r.toNat) :
    (t.tagOf 1 a = .uniform → Uniform (t.v r.toNat)) ∧ (t.tagOf 1 a ≠ .general → Affine (t.v r.toNat)) := by
  subst ha
  rw [tagHolds_iff] at h
  simp only [Strand.tagOf, bne_self_eq_false, Bool.false_and, Bool.false_eq_true, if_false]
  generalize t.tags.get .uniform r.toNat = tag at h
  cases tag with
  | uniform => exact ⟨fun _ => h, fun _ => Uniform.affine h⟩
  | general => simp
  | affine m =>
    by_cases hm : m = 1
    · subst hm
      have haff : Affine (t.v r.toNat) := h
      by_cases h01 : t.v r.toNat 0 = t.v r.toNat 1
      · exact ⟨fun _ => haff.uniform h01, fun _ => haff⟩
      · simp [h01, haff]
    · simp [hm]

/-- R97: the tag of a sum of two z32 values. -/
def tagOfSum (A B : Tag) : Tag :=
  if A = .uniform ∧ B = .uniform then .uniform else if A ≠ .general ∧ B ≠ .general then .affine 1 else .general

theorem sumTag_z32 (A B : Tag) : sumTag .z32 [A, B] = tagOfSum A B := by
  cases A <;> cases B <;> simp [sumTag, tagOfSum, Tag.flat, Fmt.isLinear, Fmt.regs, Fmt.is64]

theorem uniformTag_pair (A B : Tag) : uniformTag [A, B] = if A = .uniform ∧ B = .uniform then .uniform else .general := by
  simp [uniformTag]

theorem productTag_z32 (A B : Tag) : productTag .z32 A B = if A = .uniform ∨ B = .uniform then tagOfSum A B else .general := by
  simp [productTag, sumTag_z32]

theorem Tag.fits_ite {p : Prop} [Decidable p] {a b : Tag} {f : Nat → W32} (ha : p → a.Fits f) (hb : ¬p → b.Fits f) :
    (if p then a else b).Fits f := by
  split
  · exact ha ‹_›
  · exact hb ‹_›

theorem tagOfSum_fits {A B : Tag} {f : Nat → W32} (huni : A = .uniform → B = .uniform → Uniform f)
    (haff : A ≠ .general → B ≠ .general → Affine f) : (tagOfSum A B).Fits f :=
  Tag.fits_ite (fun h => huni h.1 h.2) fun _ => Tag.fits_ite (fun h => haff h.1 h.2) fun _ => trivial

/-! ### An instruction writes the tag that its issue has noted (R98) -/

theorem Strand.issuing_foldl_putVs (t : Strand) (d n : Nat) (val : Nat → Nat) (l : List Nat) :
    (l.foldl (fun t i => t.putVs d i n (val i)) t).issuing = t.issuing :=
  (congrArg Strand.issuing (t.foldl_putVs_frame d n val l) :)

theorem State.tag_laneWrite {s : State} {d : Nat} {tag : Tag} (h : s.me.issuing = [(d, tag)]) (x : W32) (n : Nat) (val : Nat → Nat) :
    (s.laneWrite x d n val).me.tags.get .uniform d = tag := by
  rw [State.laneWrite, State.me_setMe, Strand.tags_laneAdvance, Strand.issuing_foldl_putVs, h, List.foldl_cons, List.foldl_nil, KMap.get_set,
    if_pos rfl]

theorem State.me_noteTags (s : State) (i : Instr) :
    (s.noteTags s.cur true i).me = { s.me with issuing := s.me.newTags (s.me.setOf i) i } := s.me_setMe _

theorem State.cur_noteIssue (s : State) (k n : Nat) (lane : Bool) : (s.noteIssue k lane n).cur = s.cur :=
  (congrArg State.cur (s.noteIssue_frame k n lane) :)

theorem State.me_noteIssue (s : State) (n : Nat) : (s.noteIssue s.cur true n).me = { s.me with stampL := s.issues + 1 } := by
  obtain ⟨b, h⟩ := s.noteIssue_eq s.cur n true
  rw [h]
  exact s.me_setMe _

/-- The tags that an instruction gives do not depend on the moment of its issue. -/
theorem Strand.newTags_stampL (t : Strand) (m : Nat) (x : W32) (i : Instr) : ({ t with stampL := m } : Strand).newTags x i = t.newTags x i := by
  rfl

theorem State.me_noteIssue_noteTags (s : State) (n : Nat) (i : Instr) : ((s.noteIssue s.cur true n).noteTags s.cur true i).me =
    { s.me with stampL := s.issues + 1, issuing := s.me.newTags (s.me.setOf i) i } := by
  have h := (s.noteIssue s.cur true n).me_noteTags i
  rw [s.cur_noteIssue, s.me_noteIssue, Strand.newTags_stampL] at h
  exact h

/-- An instruction of two z32 sources whose result in each thread is g of theirs and whose tag is noted for its one register. -/
structure TwoSources (r : Arith) (i : Instr) (g : Nat → Nat → Nat) : Prop where
  exec (u : State) : exec i u = u.laneOp r 2 (fun a b _ => g a b)
  mask : i.laneUse.m = r.m
  noted (t : Strand) (x : W32) : t.newTags x i = [(r.d.toNat, if x = 0xFFFFFFFF then t.resultTag i else .general)]
  cycles : i.once = false ∧ i.cyclesEach = 1

section Follows

variable {s : State} {r : Arith} {i : Instr} {g : Nat → Nat → Nat} {va vb : VReg}

theorem State.src_v (s : State) (j : Nat) (imm : W32) (a : VReg) : s.src s.cur j .z32 imm (.v a) = (s.me.v a.toNat j).toNat := by
  simp [State.src, Strand.getVs, Fmt.is64, State.me]

/-- What such an instruction writes: its results, and the tag noted for them. -/
theorem TwoSources.gives (h : TwoSources r i g) (hty : r.ty = .z32) (ha : r.a = .v va) (hb : r.b = .v vb)
    (hbud : s.me.budgetOk (r.vregs 2) = true) (hx : s.me.execSet r.m ≠ 0) {tag : Tag} (hiss : s.me.issuing = [(r.d.toNat, tag)]) :
    Gives i s (fun t => t.me.tags.get .uniform r.d.toNat = tag ∧ ∀ j < 32, (s.me.execSet r.m).getLsbD j = true →
      t.me.v r.d.toNat j = BitVec.ofNat 32 (g (s.me.v va.toNat j).toNat (s.me.v vb.toNat j).toNat)) := by
  refine ⟨_, (h.exec s).trans (State.laneOp_eq_write _ hbud hx), State.tag_laneWrite hiss _ _ _, fun j hj hxj => ?_⟩
  have hregs : r.ty.regs = 1 := by rw [hty]; rfl
  rw [State.v_laneWrite _ _ _ _ _ _ _ hj, if_pos ⟨hxj, le_rfl, by omega⟩, State.arithVal, hty, ha, hb, State.src_v, State.src_v]
  simp

theorem TwoSources.issueCycles (h : TwoSources r i g) : s.issueCycles s.cur i =
    if s.me.execSet r.m = 0xFFFFFFFF ∧ s.me.resultTag i ≠ .general then 1 else (threadsIn (s.me.execSet r.m)).length := by
  have hset : (s.strand s.cur).setOf i = s.me.execSet r.m := by rw [Strand.setOf, h.mask]; rfl
  have hflat (tag : Tag) : tag.flat = true ↔ tag ≠ .general := by cases tag <;> simp [Tag.flat]
  have hme : s.strand s.cur = s.me := rfl
  rw [State.issueCycles, h.cycles.1, h.cycles.2, hset, Strand.scalarises, hme]
  simp only [Bool.false_eq_true, if_false, Nat.one_mul, Bool.and_eq_true, beq_iff_eq, hflat]

theorem getLsbD_all {j : Nat} (hj : j < 32) : (0xFFFFFFFF : W32).getLsbD j = true := by
  revert j
  decide

theorem threadsIn_all : (threadsIn 0xFFFFFFFF).length = 32 := by decide

/-- What the obligation says of one instruction: the tag of its result where all threads execute, and where fewer do. -/
def FollowsTag (s : State) (r : Arith) (n : Nat) (i : Instr) (tag : Tag) : Prop :=
  let x := s.me.execSet r.m
  let gives (tag : Tag) : Prop := Gives i ((s.noteIssue s.cur true n).noteTags s.cur true i) (fun u =>
    u.me.tags.get .uniform r.d.toNat = tag ∧ TagHolds u.me r.d.toNat)
  (x = 0xFFFFFFFF → gives tag ∧ s.issueCycles s.cur i = if tag = .general then 32 else 1) ∧
    (x ≠ 0xFFFFFFFF → x ≠ 0 → gives .general ∧ s.issueCycles s.cur i = (threadsIn x).length)

/-- The tag of R97 follows, where it fits the results. -/
theorem TwoSources.follows (h : TwoSources r i g) (hty : r.ty = .z32) (ha : r.a = .v va) (hb : r.b = .v vb)
    (hbud : s.me.budgetOk (r.vregs 2) = true) (n : Nat)
    (hfit : (s.me.resultTag i).Fits (fun j => BitVec.ofNat 32 (g (s.me.v va.toNat j).toNat (s.me.v vb.toNat j).toNat))) :
    FollowsTag s r n i (s.me.resultTag i) := by
  have hu := s.me_noteIssue_noteTags n i
  have hset : s.me.setOf i = s.me.execSet r.m := by rw [Strand.setOf, h.mask]
  rw [hset, h.noted] at hu
  have hgives (hx : s.me.execSet r.m ≠ 0) {tag : Tag}
      (htag : (if s.me.execSet r.m = 0xFFFFFFFF then s.me.resultTag i else .general) = tag) :=
    h.gives (s := (s.noteIssue s.cur true n).noteTags s.cur true i) (tag := tag) hty ha hb (by rw [hu]; exact hbud) (by rw [hu]; exact hx)
      (by rw [hu, htag])
  have hexec : ((s.noteIssue s.cur true n).noteTags s.cur true i).me.execSet r.m = s.me.execSet r.m := by rw [hu]; rfl
  have hv (a j : Nat) : ((s.noteIssue s.cur true n).noteTags s.cur true i).me.v a j = s.me.v a j := by rw [hu]; rfl
  simp only [hexec, hv] at hgives
  refine ⟨fun hall => ⟨?_, ?_⟩, fun hall hx => ⟨?_, ?_⟩⟩
  · obtain ⟨t, ht, htag, hval⟩ := hgives (by rw [hall]; decide) (if_pos hall)
    refine ⟨t, ht, htag, (tagHolds_iff ..).mpr ?_⟩
    rw [htag]
    exact hfit.congr fun j hj => (hval j hj (by rw [hall]; exact getLsbD_all hj)).symm
  · rw [h.issueCycles, hall, threadsIn_all]
    by_cases hg : s.me.resultTag i = .general <;> simp [hg]
  · obtain ⟨t, ht, htag, -⟩ := hgives hx (if_neg hall)
    exact ⟨t, ht, htag, (tagHolds_iff ..).mpr (by rw [htag]; trivial)⟩
  · rw [h.issueCycles, if_neg (fun h => hall h.1)]

end Follows

/-! ### The four instructions -/

theorem ofNat_intResult_z32 (v : Int) : BitVec.ofNat 32 (intResult .z32 false v) = BitVec.ofInt 32 v := by
  change BitVec.ofNat 32 (intBits 32 v % 2 ^ 32) = _
  rw [intBits_eq_toNat_ofInt, Nat.mod_eq_of_lt (BitVec.isLt _), BitVec.ofNat_toNat, BitVec.setWidth_eq]

theorem intVal_z32 (x : W32) : intVal .z32 x.toNat = x.toNat := congrArg Nat.cast (Nat.mod_eq_of_lt x.isLt)

theorem ofInt_toNat (x : W32) : BitVec.ofInt 32 x.toNat = x := by rw [BitVec.ofInt_natCast, BitVec.ofNat_toNat, BitVec.setWidth_eq]

section Instructions

variable {r : Arith}

theorem noted_of_regs {t : Strand} {x : W32} {i : Instr} (hregs : r.ty.regs = 1)
    (h : t.newTags x i = (([(r.d.toNat, r.ty.regs)] : List (Nat × Nat)).map (fun q => (List.range q.2).map (fun j =>
      (q.1 + j, if x == 0xFFFFFFFF then t.resultTag i else .general)))).flatten) :
    t.newTags x i = [(r.d.toNat, if x = 0xFFFFFFFF then t.resultTag i else .general)] := by
  rw [h, hregs]
  simp

theorem twoSources_laneAddInt (h : r.ty.regs = 1) :
    TwoSources r (.laneAddInt r) (fun a b => intResult r.ty r.sat (intVal r.ty a + intVal r.ty b)) :=
  ⟨fun _ => rfl, rfl, fun _ _ => noted_of_regs h rfl, rfl, rfl⟩

theorem twoSources_laneSubInt (h : r.ty.regs = 1) :
    TwoSources r (.laneSubInt r) (fun a b => intResult r.ty r.sat (intVal r.ty a - intVal r.ty b)) :=
  ⟨fun _ => rfl, rfl, fun _ _ => noted_of_regs h rfl, rfl, rfl⟩

theorem twoSources_laneMulInt (h : r.ty.regs = 1) :
    TwoSources r (.laneMulInt r) (fun a b => intResult r.ty r.sat (intVal r.ty a * intVal r.ty b)) :=
  ⟨fun _ => rfl, rfl, fun _ _ => noted_of_regs h rfl, rfl, rfl⟩

theorem twoSources_laneXor (h : r.ty.regs = 1) : TwoSources r (.laneXor r) (fun a b => a ^^^ b) :=
  ⟨fun _ => rfl, rfl, fun _ _ => noted_of_regs h rfl, rfl, rfl⟩

end Instructions

theorem tagsFollow : TagsFollow := by
  intro s r a b n va vb t x hty hsat ha hb hva hvb hbud hta htb A B sum gives all
  subst hva hvb
  have hregs : r.ty.regs = 1 := by rw [hty]; rfl
  obtain ⟨hauni, haaff⟩ := Strand.tagOf_fits ha hta
  obtain ⟨hbuni, hbaff⟩ := Strand.tagOf_fits hb htb
  have follows {i : Instr} {g : Nat → Nat → Nat} {tag : Tag} {op : W32 → W32 → W32} (h : TwoSources r i g) (htag : t.resultTag i = tag)
      (hop : ∀ x y : W32, BitVec.ofNat 32 (g x.toNat y.toNat) = op x y)
      (hfit : tag.Fits (fun j => op (t.v va.toNat j) (t.v vb.toNat j))) : all i tag := by
    subst htag
    exact h.follows hty ha hb hbud n (hfit.congr fun j _ => (hop _ _).symm)
  refine ⟨follows (op := (· + ·)) (twoSources_laneAddInt hregs) ?_ (fun x y => ?_) ?_,
    follows (op := (· - ·)) (twoSources_laneSubInt hregs) ?_ (fun x y => ?_) ?_,
    follows (op := (· * ·)) (twoSources_laneMulInt hregs) ?_ (fun x y => ?_) ?_,
    follows (op := (· ^^^ ·)) (twoSources_laneXor hregs) ?_ (fun x y => ?_) ?_⟩
  · simp only [Strand.resultTag, hsat, hty]
    exact sumTag_z32 A B
  · simp only [hsat, hty, ofNat_intResult_z32, intVal_z32, BitVec.ofInt_add, ofInt_toNat]
  · exact tagOfSum_fits (fun ha hb => (hauni ha).map₂ (hbuni hb) _) fun ha hb => (haaff ha).add (hbaff hb)
  · simp only [Strand.resultTag, hsat, hty]
    exact sumTag_z32 A B
  · simp only [hsat, hty, ofNat_intResult_z32, intVal_z32, Int.sub_eq_add_neg, BitVec.ofInt_add, BitVec.ofInt_neg,
      ofInt_toNat, BitVec.sub_eq_add_neg]
  · exact tagOfSum_fits (fun ha hb => (hauni ha).map₂ (hbuni hb) _) fun ha hb => (haaff ha).sub (hbaff hb)
  · simp only [Strand.resultTag, hsat, hty]
    exact productTag_z32 A B
  · simp only [hsat, hty, ofNat_intResult_z32, intVal_z32, BitVec.ofInt_mul, ofInt_toNat]
  · refine Tag.fits_ite (fun h => tagOfSum_fits (fun ha hb => (hauni ha).map₂ (hbuni hb) _) fun ha hb => ?_) fun _ => trivial
    rcases h with h | h
    · exact (hauni h).mul_affine (hbaff hb)
    · exact (haaff ha).mul_uniform (hbuni h)
  · simp only [Strand.resultTag, hsat, hty]
    exact uniformTag_pair A B
  · rw [BitVec.ofNat_xor, BitVec.ofNat_toNat, BitVec.ofNat_toNat, BitVec.setWidth_eq, BitVec.setWidth_eq]
  · exact Tag.fits_ite (fun h => (hauni h.1).map₂ (hbuni h.2) _) fun _ => trivial

end Sys2Proof.Machine

open Sys2Proof Sys2Proof.Machine Sys2Proof.Claims

/-- Settles O30: the tags; each integer instruction with its exact result; each bit operation with its function of the sources' words. -/
theorem laneIntegerAndBitOperations : Obligations.LaneIntegerAndBitOperations := by
  refine ⟨tagsFollow, fun s r q hr _ => ?_, fun s r hr => ?_⟩
  · intro x a b c w lo hi put
    refine ⟨?_, ?_, ?_, ?_, ?_, ?_, ?_, ?_, ?_, laneCmpInt_gives⟩
    · exact laneInt_gives (g := fun a b _ => a + b) hr rfl
    · exact laneInt_gives (g := fun a b _ => a - b) hr rfl
    · exact laneInt_gives (g := fun a b _ => a * b) hr rfl
    · exact laneInt_gives (g := fun a b _ => a * b / 2 ^ r.ty.bits) hr rfl
    · exact laneInt_gives (g := fun a b c => a * b + c) hr rfl
    · exact laneInt_gives (g := fun a b _ => min a b) hr rfl
    · exact laneInt_gives (g := fun a b _ => max a b) hr rfl
    · exact laneInt_gives (g := fun a _ _ => |a|) hr rfl
    · exact laneInt_gives (g := fun a _ _ => -a) hr rfl
  · intro x w a b c put
    refine ⟨?_, ?_, ?_, ?_, ?_, ?_, ?_, ?_, fun z hz => ?_, fun v hv => ?_, ?_, ?_⟩
    · exact laneOp_gives (f := fun a b _ => a * 2 ^ (b % w) % 2 ^ w) rfl
    · exact laneOp_gives (f := fun a b _ => a / 2 ^ (b % w)) rfl
    · exact laneOp_gives_of_eq (f := fun a b _ => intBits w (intVal (signedOf r.ty) a / 2 ^ (b % w))) rfl fun j _ => laneSar_value hr _ _
    · exact laneOp_gives (f := fun a b _ => a &&& b) rfl
    · exact laneOp_gives (f := fun a b _ => a ||| b) rfl
    · exact laneOp_gives (f := fun a b _ => a ^^^ b) rfl
    · exact laneOp_gives (f := fun a _ _ => 2 ^ w - 1 - a) rfl
    · exact laneOp_gives (f := fun a _ _ => countBits w a) rfl
    · refine laneOp_gives_of_eq (f := fun a _ _ => w - bitLen a) rfl fun j hj => ?_
      obtain ⟨hle, hlt, hge⟩ := hz j hj
      exact sub_bitLen_eq hle hlt hge
    · refine laneOp_gives_of_eq (f := fun a _ _ => reverseBits w a) rfl fun j hj => ?_
      obtain ⟨hlt, hbits⟩ := hv j hj
      exact reverseBits_eq hlt hbits
    · refine laneOp_gives_of_eq (f := fun a b c => if c != 0 then a else b) rfl fun j _ => ?_
      simp only [State.arithVal, bne_iff_ne]
      rfl
    · exact laneOp_gives (f := fun a _ _ => a) rfl

end

section
/-! Scalar arithmetic, immediate forms, branches and calls (R66 to R69): the words, and the functions of the scalar unit as
arithmetic. -/

namespace Sys2Proof.Machine

open Sys2Proof Sys2Proof.Claims Sys2Proof.Decode

/-! ### An instruction that writes rd (R66, R67) -/

/-- The word of an instruction that stands for it alone. -/
theorem decodeScalar_word {w : W32} {i : Instr} (hi : i.wf = true) (hw : encodeScalar i = some w) (hrow : firstOfWord i = i) :
    decodeScalar w = .ok i := hrow ▸ decodeScalar_of_encodeScalar hi hw

/-- An instruction whose meaning is a scalar result, with the value given in another form. -/
theorem gives_wrote {s : State} {d : SReg} {i : Instr} {u v : W64} (hx : exec i s = .next (s.scalarResult d u)) (hv : u = v) :
    Gives i s (fun t => Wrote s t d v (s.me.pc + 4)) :=
  ⟨_, hx, hv ▸ wrote_scalarResult s d u⟩

theorem decodes_and_wrote {s : State} {d : SReg} {w : W32} {i : Instr} {u v : W64} (hi : i.wf = true) (hw : encodeScalar i = some w)
    (hrow : firstOfWord i = i) (hx : exec i s = .next (s.scalarResult d u)) (hv : u = v) :
    decodeScalar w = .ok i ∧ Gives i s (fun t => Wrote s t d v (s.me.pc + 4)) :=
  ⟨decodeScalar_word hi hw hrow, gives_wrote hx hv⟩

/-! ### Shifts (R66, R67) -/

theorem shiftLeft_eq_ofNat (x : W64) (n : Nat) : x <<< n = BitVec.ofNat 64 (x.toNat * 2 ^ n) := by
  apply BitVec.eq_of_toNat_eq
  rw [BitVec.toNat_shiftLeft, BitVec.toNat_ofNat, Nat.shiftLeft_eq]

theorem ushiftRight_eq_ofNat (x : W64) (n : Nat) : x >>> n = BitVec.ofNat 64 (x.toNat / 2 ^ n) := by
  rw [← Nat.shiftRight_eq_div_pow, ← BitVec.toNat_ushiftRight, BitVec.ofNat_toNat, BitVec.setWidth_eq]

theorem sshiftRight_eq_ofInt (x : W64) (n : Nat) : x.sshiftRight n = BitVec.ofInt 64 (x.toInt / 2 ^ n) := by
  rw [← BitVec.ofInt_toInt (x := x.sshiftRight n), BitVec.toInt_sshiftRight, Int.shiftRight_eq_div_pow]
  rfl

/-! ### High halves of products (R66) -/

/-- The high half of 128 bits, read as a signed number. -/
theorem setWidth_ushiftRight_64 (p : BitVec 128) : (p >>> 64).setWidth 64 = BitVec.ofInt 64 (p.toInt / 2 ^ 64) := by
  have h := p.isLt
  apply BitVec.eq_of_toNat_eq
  rw [BitVec.toNat_setWidth, BitVec.toNat_ushiftRight, Nat.shiftRight_eq_div_pow, BitVec.toNat_ofInt, BitVec.toInt_eq_toNat_cond]
  split <;> omega

theorem abs_toInt_le (x : W64) : |x.toInt| ≤ 2 ^ 63 := by
  have hlt := BitVec.two_mul_toInt_lt (x := x)
  have hle := BitVec.le_two_mul_toInt (x := x)
  rw [abs_le]
  omega

theorem mulHigh_eq (x y : W64) : mulHigh x y = ((x.signExtend 128 * y.signExtend 128) >>> 64).setWidth 64 := by
  have habs : |x.toInt * y.toInt| ≤ 2 ^ 63 * 2 ^ 63 := by
    rw [abs_mul]
    exact mul_le_mul (abs_toInt_le x) (abs_toInt_le y) (abs_nonneg _) (by norm_num)
  rw [abs_le] at habs
  have hprod : (x.signExtend 128 * y.signExtend 128).toInt = x.toInt * y.toInt := by
    rw [show x.signExtend 128 * y.signExtend 128 = BitVec.ofInt 128 (x.toInt * y.toInt) from (BitVec.ofInt_mul ..).symm]
    exact BitVec.toInt_ofInt_eq_self (by decide) (by omega) (by omega)
  rw [setWidth_ushiftRight_64, hprod, mulHigh]

theorem mulHighU_eq (x y : W64) : mulHighU x y = ((x.setWidth 128 * y.setWidth 128) >>> 64).setWidth 64 := by
  have hlt : x.toNat * y.toNat < 2 ^ 128 := (Nat.mul_lt_mul'' x.isLt y.isLt).trans_eq (by norm_num)
  apply BitVec.eq_of_toNat_eq
  have hx : x.toNat % 2 ^ 128 = x.toNat := Nat.mod_eq_of_lt (x.isLt.trans (by norm_num))
  have hy : y.toNat % 2 ^ 128 = y.toNat := Nat.mod_eq_of_lt (y.isLt.trans (by norm_num))
  rw [mulHighU, BitVec.toNat_ofNat, BitVec.toNat_setWidth, BitVec.toNat_ushiftRight, Nat.shiftRight_eq_div_pow, BitVec.toNat_mul,
    BitVec.toNat_setWidth, BitVec.toNat_setWidth, hx, hy, Nat.mod_eq_of_lt hlt]

/-! ### Smaller and greater (R66) -/

theorem min_toInt_eq (x y : W64) : (if x.slt y then x else y) = BitVec.ofInt 64 (min x.toInt y.toInt) := by
  simp only [BitVec.slt_eq_decide, decide_eq_true_eq]
  split
  · rw [min_eq_left (by omega), BitVec.ofInt_toInt]
  · rw [min_eq_right (by omega), BitVec.ofInt_toInt]

theorem max_toInt_eq (x y : W64) : (if x.slt y then y else x) = BitVec.ofInt 64 (max x.toInt y.toInt) := by
  simp only [BitVec.slt_eq_decide, decide_eq_true_eq]
  split
  · rw [max_eq_right (by omega), BitVec.ofInt_toInt]
  · rw [max_eq_left (by omega), BitVec.ofInt_toInt]

theorem min_toNat_eq (x y : W64) : (if x.ult y then x else y) = BitVec.ofNat 64 (min x.toNat y.toNat) := by
  simp only [BitVec.ult_eq_decide, decide_eq_true_eq]
  split
  · rw [Nat.min_eq_left (by omega), BitVec.ofNat_toNat, BitVec.setWidth_eq]
  · rw [Nat.min_eq_right (by omega), BitVec.ofNat_toNat, BitVec.setWidth_eq]

theorem max_toNat_eq (x y : W64) : (if x.ult y then y else x) = BitVec.ofNat 64 (max x.toNat y.toNat) := by
  simp only [BitVec.ult_eq_decide, decide_eq_true_eq]
  split
  · rw [Nat.max_eq_right (by omega), BitVec.ofNat_toNat, BitVec.setWidth_eq]
  · rw [Nat.max_eq_left (by omega), BitVec.ofNat_toNat, BitVec.setWidth_eq]

theorem truth_slt (x y : W64) : truth (x.slt y) = if x.toInt < y.toInt then 1 else 0 := by simp [truth, BitVec.slt_eq_decide]

theorem truth_ult (x y : W64) : truth (x.ult y) = if x.toNat < y.toNat then 1 else 0 := by simp [truth, BitVec.ult_eq_decide]

/-! ### Bits counted (R66) -/

theorem leadingZeros_eq {x : W64} {z : Nat} (hlow : ∀ i, 64 - z ≤ i → x.getLsbD i = false)
    (hbit : z = 64 ∨ z < 64 ∧ x.getLsbD (63 - z) = true) : leadingZeros x = BitVec.ofNat 64 z := by
  have hlt : x.toNat < 2 ^ (64 - z) := Nat.lt_pow_two_of_testBit _ fun i hi => hlow i hi
  have hle : z = 64 ∨ 2 ^ (64 - 1 - z) ≤ x.toNat := hbit.imp id fun h => Nat.ge_two_pow_of_testBit h.2
  have hlen := sub_bitLen_eq (w := 64) (by omega) hlt hle
  rw [leadingZeros, ← hlen, bitLen]
  by_cases hx : x = 0
  · simp [hx]
  · have hne : x.toNat ≠ 0 := fun h => hx (BitVec.eq_of_toNat_eq h)
    rw [if_neg hx, if_neg hne, ← Nat.sub_sub, Nat.sub_right_comm]

theorem length_filter_eq_sum {α : Type} (p : α → Bool) (l : List α) : (l.filter p).length = (l.map fun x => (p x).toNat).sum := by
  induction l with
  | nil => rfl
  | cons x l ih => cases hx : p x <;> simp [hx, ih, Nat.add_comm]

theorem popCount_eq (x : W64) : popCount x = BitVec.ofNat 64 ((List.range 64).map fun i => (x.getLsbD i).toNat).sum := by
  rw [popCount, length_filter_eq_sum]

/-! ### Words of CLZ and POPC (R37, R39) -/

theorem decodeScalar_clz_ne {d a b : SReg} (hb : b ≠ 0) (i : Instr) : decodeScalar (encSR 0x01 d a b 0x11) ≠ .ok i := by
  have h : decodeScalar (encSR 0x01 d a b 0x11) = ifWf (ifZero (b == 0) (.clz d a)) := by
    rw [decodeScalar, scalarFields_encSR]; rfl
  rw [h, beq_false_of_ne hb]
  nofun

theorem decodeScalar_popc_ne {d a b : SReg} (hb : b ≠ 0) (i : Instr) : decodeScalar (encSR 0x01 d a b 0x12) ≠ .ok i := by
  have h : decodeScalar (encSR 0x01 d a b 0x12) = ifWf (ifZero (b == 0) (.popc d a)) := by
    rw [decodeScalar, scalarFields_encSR]; rfl
  rw [h, beq_false_of_ne hb]
  nofun

/-! ### Immediates (R67) -/

theorem lui_eq (big : BitVec 20) : (big.zeroExtend 32 <<< 12).signExtend 64 = BitVec.ofInt 64 (big.toInt * 4096) := by
  apply BitVec.eq_of_toNat_eq
  have h : (big.zeroExtend 32 <<< 12).toInt = big.toInt * 4096 := by
    have hlt := big.isLt
    rw [BitVec.toInt_eq_toNat_cond, BitVec.toInt_eq_toNat_cond, BitVec.toNat_shiftLeft, BitVec.toNat_setWidth, Nat.shiftLeft_eq]
    split <;> split <;> omega
  rw [BitVec.signExtend, h]

theorem signExtend_shiftLeft_12 (big : BitVec 20) : big.signExtend 64 <<< 12 = BitVec.ofInt 64 (big.toInt * 4096) := by
  rw [BitVec.ofInt_mul, BitVec.shiftLeft_eq_mul_twoPow]
  rfl

theorem signExtend_mul_4 {w : Nat} (off : BitVec w) : off.signExtend 64 * 4 = BitVec.ofInt 64 (off.toInt * 4) := by
  rw [BitVec.ofInt_mul]
  rfl

theorem lhi_eq (big : BitVec 20) (x : W64) :
    (big.zeroExtend 64 <<< 32) ||| (x &&& 0xFFFFFFFF) = BitVec.ofNat 64 (big.toNat * 2 ^ 32 + x.toNat % 2 ^ 32) := by
  have hlow : (x &&& 0xFFFFFFFF).toNat = x.toNat % 2 ^ 32 := Nat.and_two_pow_sub_one_eq_mod x.toNat 32
  have hhigh : (big.zeroExtend 64 <<< 32).toNat = 2 ^ 32 * big.toNat := by
    have hlt := big.isLt
    rw [BitVec.toNat_shiftLeft, BitVec.toNat_setWidth, Nat.shiftLeft_eq]
    omega
  rw [← BitVec.setWidth_eq (_ ||| _), ← BitVec.ofNat_toNat, BitVec.toNat_or, hlow, hhigh,
    ← Nat.two_pow_add_eq_or_of_lt (Nat.mod_lt _ (by norm_num)), Nat.mul_comm]

theorem truth_slt_i14 (x : W64) (imm : BitVec 14) : truth (x.slt (i14 imm)) = if x.toInt < imm.toInt then 1 else 0 := by
  rw [truth_slt, i14, BitVec.toInt_signExtend_of_le (by decide)]

/-- The word of an immediate shift: the amount stands in the low bits of imm14. -/
theorem encSI_shift (major : BitVec 6) (d a : SReg) (amt : BitVec 6) :
    encSI major d a ((0 : BitVec 8) ++ amt) = major ++ d ++ a ++ (0 : BitVec 8) ++ amt :=
  BitVec.append_assoc' (x₁ := major ++ d ++ a)

/-! ### Branches and calls (R68, R69) -/

theorem bnot_slt_iff (x y : W64) : (!x.slt y) = true ↔ y.toInt ≤ x.toInt := by simp [BitVec.slt_eq_decide]

theorem bnot_ult_iff (x y : W64) : (!x.ult y) = true ↔ y.toNat ≤ x.toNat := by simp [BitVec.ult_eq_decide]

/-- The strand goes to an address. -/
theorem wentTo_setPc (s : State) (pc : W64) : WentTo s (s.setMe { s.me with pc := pc, wstep := none }) pc := by
  refine ⟨onlyMe_setMe s _, ?_, ?_⟩ <;> rw [State.me_setMe]

theorem branch_goes {s : State} {i : Instr} {a b : SReg} {off : BitVec 14} {cond : W64 → W64 → Bool} {c : Prop} {w : W32}
    (hi : i.wf = true) (hw : encodeScalar i = some w) (hrow : firstOfWord i = i) (hx : exec i s = s.branch a b off cond)
    (hc : cond (s.me.s a) (s.me.s b) = true ↔ c) :
    decodeScalar w = .ok i ∧ (c → Gives i s (fun t => WentTo s t (s.me.pc + BitVec.ofInt 64 (off.toInt * 4)))) ∧
      (¬c → Gives i s (fun t => WentTo s t (s.me.pc + 4))) := by
  refine ⟨decodeScalar_word hi hw hrow, fun h => ⟨_, hx, ?_⟩, fun h => ⟨_, hx, ?_⟩⟩
  · rw [if_pos (hc.mpr h), signExtend_mul_4]
    exact wentTo_setPc s _
  · rw [if_neg (mt hc.mp h)]
    exact wentTo_advance s

/-- rd is written, and the strand goes to an address: the scalar result with another PC. -/
theorem wrote_setPc (s : State) (d : SReg) (v pc : W64) :
    Wrote s (s.setMe { s.me.writeS d v with pc := pc, wstep := none }) d v pc := by
  obtain ⟨-, -, hzero, hd, hr, hlane, hframe⟩ := wrote_scalarResult s d v
  rw [State.scalarResult_me] at hzero hd hr hlane hframe
  refine ⟨onlyMe_setMe s _, ?_, ?_, ?_, ?_, ?_, ?_⟩ <;> rw [State.me_setMe]
  · exact hzero
  · exact hd
  · exact hr
  · exact hlane
  · exact hframe

end Sys2Proof.Machine

open Sys2Proof Sys2Proof.Machine Sys2Proof.Claims Sys2Proof.Decode

/-- Settles O1: each word by the encoder, each value by the function of the scalar unit as arithmetic. -/
theorem scalarRegisterArithmetic : Obligations.ScalarRegisterArithmetic := by
  intro s d a b x y n word does put
  refine ⟨?_, ?_, ?_, ?_, ?_, ?_, ?_, ?_, ?_, ?_, ?_, ?_, ?_, ?_, ?_, ?_, ?_, fun hb => ?_, fun hb i => ?_, fun z hlow hbit => ?_, ?_⟩
  · exact decodes_and_wrote rfl rfl rfl rfl rfl
  · exact decodes_and_wrote rfl rfl rfl rfl rfl
  · exact decodes_and_wrote rfl rfl rfl rfl rfl
  · exact decodes_and_wrote rfl rfl rfl rfl rfl
  · exact decodes_and_wrote rfl rfl rfl rfl rfl
  · exact decodes_and_wrote rfl rfl rfl rfl (shiftLeft_eq_ofNat x n)
  · exact decodes_and_wrote rfl rfl rfl rfl (ushiftRight_eq_ofNat x n)
  · exact decodes_and_wrote rfl rfl rfl rfl (sshiftRight_eq_ofInt x n)
  · exact decodes_and_wrote rfl rfl rfl rfl rfl
  · exact decodes_and_wrote rfl rfl rfl rfl (mulHigh_eq x y)
  · exact decodes_and_wrote rfl rfl rfl rfl (mulHighU_eq x y)
  · exact decodes_and_wrote rfl rfl rfl rfl (min_toInt_eq x y)
  · exact decodes_and_wrote rfl rfl rfl rfl (max_toInt_eq x y)
  · exact decodes_and_wrote rfl rfl rfl rfl (min_toNat_eq x y)
  · exact decodes_and_wrote rfl rfl rfl rfl (max_toNat_eq x y)
  · exact decodes_and_wrote rfl rfl rfl rfl (truth_slt x y)
  · exact decodes_and_wrote rfl rfl rfl rfl (truth_ult x y)
  · subst hb
    exact ⟨decodeScalar_word rfl rfl rfl, decodeScalar_word rfl rfl rfl⟩
  · exact ⟨decodeScalar_clz_ne hb i, decodeScalar_popc_ne hb i⟩
  · exact gives_wrote rfl (leadingZeros_eq hlow hbit)
  · exact gives_wrote rfl (popCount_eq x)

/-- Settles O2: as the register forms, with the immediates' extensions. -/
theorem scalarImmediateArithmetic : Obligations.ScalarImmediateArithmetic := by
  intro s d a imm amt big x sx zx put si su sh
  refine ⟨?_, ?_, ?_, ?_, ?_, ?_, ?_, ?_, ?_, ?_, ?_, ?_, ?_⟩
  · exact decodes_and_wrote rfl rfl rfl rfl rfl
  · exact decodes_and_wrote rfl rfl rfl rfl rfl
  · exact decodes_and_wrote rfl rfl rfl rfl rfl
  · exact decodes_and_wrote rfl rfl rfl rfl rfl
  · exact decodes_and_wrote rfl rfl rfl rfl (truth_slt_i14 x imm)
  · exact decodes_and_wrote rfl rfl rfl rfl (truth_ult x sx)
  · exact decodes_and_wrote rfl rfl rfl rfl (lui_eq big)
  · exact decodes_and_wrote rfl rfl rfl rfl (congrArg (s.me.pc + ·) (signExtend_shiftLeft_12 big))
  · exact decodes_and_wrote rfl rfl rfl rfl (lhi_eq big _)
  · exact decodes_and_wrote rfl (congrArg some (encSI_shift ..)) rfl rfl (shiftLeft_eq_ofNat x amt.toNat)
  · exact decodes_and_wrote rfl (congrArg some (encSI_shift ..)) rfl rfl (ushiftRight_eq_ofNat x amt.toNat)
  · exact decodes_and_wrote rfl (congrArg some (encSI_shift ..)) rfl rfl (sshiftRight_eq_ofInt x amt.toNat)
  · exact decodes_and_wrote rfl rfl rfl rfl rfl

/-- Settles O3: each instruction is `State.branch` with its condition. -/
theorem compareAndBranch : Obligations.CompareAndBranch := by
  intro s a b off x y go
  refine ⟨?_, ?_, ?_, ?_, ?_, ?_⟩
  · exact branch_goes rfl rfl rfl rfl beq_iff_eq
  · exact branch_goes rfl rfl rfl rfl bne_iff_ne
  · exact branch_goes rfl rfl rfl rfl BitVec.slt_iff_toInt_lt
  · exact branch_goes (cond := fun a b => !a.slt b) rfl rfl rfl rfl (bnot_slt_iff x y)
  · exact branch_goes rfl rfl rfl rfl BitVec.ult_iff_lt
  · exact branch_goes (cond := fun a b => !a.ult b) rfl rfl rfl rfl (bnot_ult_iff x y)

/-- Settles O4: both write rd and go to their target, which is formed first; JALR then looks at the target's low bits. -/
theorem jumpAndLink : Obligations.JumpAndLink := by
  intro s d a imm off target
  refine ⟨decodeScalar_word rfl rfl rfl, decodeScalar_word rfl rfl rfl, ⟨_, rfl, ?_⟩, fun h => ⟨_, if_pos h, wrote_setPc s d _ _⟩,
    fun h => ⟨_, wrote_setPc s d _ _, (if_neg h).trans ?_⟩⟩
  · rw [← signExtend_mul_4]
    exact wrote_setPc s d _ _
  · rfl

end

section
/-! Scalar loads and stores (R71 to R73): the access that an instruction starts, and what stays beside it. -/

namespace Sys2Proof.Machine

open Sys2Proof Sys2Proof.Claims

/-! ### The access of an instruction -/

/-- The strand whose scalar instruction has counted an access. -/
def Strand.countAcc (t : Strand) : Strand := { t with accs := t.accs + 1, wait := .none }

/-- A scalar access that passes its check starts, and the instruction is done. -/
theorem State.issueAccs_scalar_pass {s : State} {i : Instr} {f : AccForm} {a : Acc} {done : State → State} {key : Nat} (hr : f.ord = .rlx)
    (hc : s.checkAcc s.cur false f a = .pass key) :
    s.issueAccs s.cur false i f [a] done = done ((s.setMe s.me.countAcc).launchAcc s.cur false f a (some key)) := by
  rw [State.issueAccs_one s s.cur false i f a done hr (by simp [hc])]
  simp only [hc]
  rw [State.settle_pass _ _ _ _ _ _ _ rfl]
  rfl

/-- A scalar access that is misaligned traps (R72). -/
theorem State.issueAccs_scalar_misaligned {s : State} {i : Instr} {f : AccForm} {a : Acc} {done : State → State} (hr : f.ord = .rlx)
    (ha : a.va.toNat % f.align ≠ 0) :
    s.issueAccs s.cur false i f [a] done = (s.setMe s.me.countAcc).raiseScalar cMisdata a.va := by
  have hc := State.checkAcc_misaligned s s.cur false f a ha
  rw [State.issueAccs_one s s.cur false i f a done hr (by simp [hc])]
  simp only [hc]
  rw [if_neg (by decide), State.settle_trap]
  rfl

/-- A scalar instruction of one access has gone on: no register has changed. -/
theorem accessIssued_of_me {s t : State} {r : List Ren} (h : t.me = { s.me.countAcc.advance with ren := r }) : AccessIssued s t := by
  refine ⟨?_, ?_, ?_, fun r => ?_, ?_⟩ <;> rw [h] <;> rfl

theorem Strand.keepS_eq (t : Strand) (d : SReg) : t.keepS d = { t with ren := (t.keepS d).ren } := by
  unfold Strand.keepS
  split <;> rfl

/-! ### The request -/

/-- The request of a scalar access with a translation, before it has its number and stage. -/
def State.scalarRequest (s : State) (f : AccForm) (a : Acc) (key : Nat) : Flight :=
  let page := s.pageUsed s.cur false a.va
  { id := 0, strand := s.cur, lane := false, inst := s.me.accs, bound := 0, thread := a.thread, kind := a.kind, va := a.va, key, bytes := f.bytes,
    data := a.data, qual := f.qual, ord := f.ord, scope := f.scope, ev := f.ev, sx := f.sx, dest := a.dest, stage := .home, value := 0,
    vec := [], watch := !f.precise && !s.me.exempt false && s.me.watched f.wp a.va f.bytes, pc := s.me.pc, orphan := false,
    entry := 0, tag := 0, granted := false, pbase := page.1, plog := page.2, agent := none }

/-- A scalar access takes no window, line or bin. -/
theorem State.launchAcc_scalar {s : State} {f : AccForm} {a : Acc} {key : Nat} (hstage : f.stage = .home) :
    s.launchAcc s.cur false f a (some key) = s.launchFlight (s.scalarRequest f a key) .home := by
  simp only [State.launchAcc, State.loadMicro, hstage, ite_self, Bool.false_and]
  rfl

/-- A request joins those in flight, and takes the next number. -/
def State.withRequest (s : State) (f : Flight) : State := { s with flights := s.flights ++ [f], nextId := s.nextId + 1 }

@[simp] theorem State.me_withRequest (s : State) (f : Flight) : (s.withRequest f).me = s.me := rfl

/-- A list that has got one entry, with a number of its own, holds what it held beside. -/
theorem mem_append_request {fs : List Flight} {f g : Flight} {n : Nat} (hf : f.id = n) (hg : g.id ≠ n) : g ∈ fs ++ [f] ↔ g ∈ fs := by
  have hne : g ≠ f := fun h => hg (h ▸ hf)
  simp [hne]

theorem asked_withRequest {s : State} {x y : Strand} {f : Flight} {P : Flight → Prop} (hid : f.id = s.nextId) (hk : f.strand = s.cur)
    (ho : f.orphan = false) (hP : P f) : Claims.Asked s (((s.setMe x).withRequest f).setMe y) P := by
  refine ⟨⟨f, List.mem_append_right _ (List.mem_singleton_self f), hid, hk, ho, hP⟩, fun g hg => mem_append_request hid hg, rfl, fun _ => rfl,
    fun k hk => ?_, rfl⟩
  exact (State.strand_setMe ..).trans ((if_neg hk).trans ((State.strand_setMe ..).trans (if_neg hk)))

/-- A request as it starts on its way: with its number, at its first stage. -/
def Flight.started (f : Flight) (id : Nat) : Flight := { f with id, stage := f.firstStage }

/-- A scalar read that passes its check: its request joins those in flight, and the strand goes on by `step`. -/
theorem State.issueAccs_scalar_read {s : State} {i : Instr} {f : AccForm} {a : Acc} {key : Nat} {step : Strand → Strand} (hr : f.ord = .rlx)
    (hstage : f.stage = .home) (hc : s.checkAcc s.cur false f a = .pass key) (hw : a.kind.writes = false) :
    s.issueAccs s.cur false i f [a] (fun t => t.setMe (step t.me)) =
      ((s.setMe s.me.countAcc).withRequest (((s.setMe s.me.countAcc).scalarRequest f a key).started s.nextId)).setMe (step s.me.countAcc) := by
  have hlaunch : (s.setMe s.me.countAcc).launchAcc s.cur false f a (some key) =
      (s.setMe s.me.countAcc).withRequest (((s.setMe s.me.countAcc).scalarRequest f a key).started s.nextId) :=
    (State.launchAcc_scalar hstage).trans (State.launchFlight_read _ _ hw)
  rw [State.issueAccs_scalar_pass hr hc, hlaunch, State.me_withRequest, State.me_setMe]

/-! ### Stores (R176, R189) -/

/-- Lines of the write-combining buffer may have left; every other request stands as it was. -/
def WcLeft (s t : State) : Prop :=
  { t with flights := s.flights } = s ∧ (∀ g ∈ s.flights, g.stage ≠ .wc → g ∈ t.flights) ∧
    ∀ g ∈ t.flights, g ∈ s.flights ∨ ∃ h ∈ s.flights, h.stage = .wc ∧ { g with stage := .wc, entry := h.entry } = h

theorem WcLeft.refl (s : State) : WcLeft s s := ⟨rfl, fun _ hg _ => hg, fun _ hg => .inl hg⟩

theorem State.stage_of_sameEntry {s : State} {f g : Flight} (h : s.sameEntry f g = true) : g.stage = f.stage := by
  simp only [State.sameEntry, Bool.and_eq_true, beq_iff_eq] at h
  exact h.1.1.symm

theorem WcLeft.sendEntry {s t : State} (hst : WcLeft s t) {f : Flight} (hf : f.stage = .wc) : WcLeft s (t.sendEntry f) := by
  obtain ⟨hframe, hkeep, hfrom⟩ := hst
  refine ⟨hframe, fun g hg hwc => ?_, fun g hg => ?_⟩
  · refine List.mem_map.mpr ⟨g, hkeep g hg hwc, if_neg fun h => hwc ?_⟩
    rw [State.stage_of_sameEntry h, hf]
  · obtain ⟨x, hx, rfl⟩ := List.mem_map.mp hg
    split
    case isFalse => exact hfrom x hx
    case isTrue h =>
      rcases hfrom x hx with hs | ⟨y, hy, hywc, hxy⟩
      · have hxwc : x.stage = .wc := (State.stage_of_sameEntry h).trans hf
        exact .inr ⟨x, hs, hxwc, by rw [← hxwc]⟩
      · exact .inr ⟨y, hy, hywc, hxy⟩

theorem State.sendWc_left (s : State) (f : Flight) : WcLeft s (s.sendWc f) := by
  unfold State.sendWc
  refine List.foldlRecOn _ _ (WcLeft.refl s) fun t ht g _ => ?_
  split
  · split
    case isTrue h => exact ht.sendEntry (beq_iff_eq.mp h)
    case isFalse => exact ht
  · exact ht

theorem askedWrite_withRequest {s u : State} {x y : Strand} {f : Flight} {P : Flight → Prop} (hu : WcLeft (s.setMe x) u)
    (hid : f.id = s.nextId) (hk : f.strand = s.cur) (ho : f.orphan = false) (hP : P f) :
    AskedWrite s ((u.withRequest f).setMe y) P := by
  obtain ⟨hframe, hkeep, hfrom⟩ := hu
  have hcur : u.cur = s.cur := (congrArg State.cur hframe :)
  have hstrand (k : Nat) : u.strand k = (s.setMe x).strand k := (congrArg (State.strand · k) hframe :)
  refine ⟨⟨f, List.mem_append_right _ (List.mem_singleton_self f), hid, hk, ho, hP⟩, fun g hg hwc => List.mem_append_left _ (hkeep g hg hwc),
    fun g hg hne => hfrom g ((mem_append_request hid hne).mp hg), (congrArg (State.nextId · + 1) hframe :), 
    fun b => (congrArg (State.byte · b) hframe :), fun k hk => ?_, ?_⟩
  · refine (State.strand_setMe ..).trans ((if_neg (hcur ▸ hk)).trans ((hstrand k).trans ?_))
    rw [State.strand_setMe, if_neg hk]
  · exact (congrArg (fun t : State => { t with strands := s.strands, nextId := s.nextId }) hframe :)

/-- What starting a relaxed write on its way does (R162, R189). -/
theorem State.launchFlight_write (s : State) (f : Flight) (hw : f.kind.writes = true) :
    s.launchFlight f .home = (s.sendWc (f.started s.nextId)).withRequest (f.started s.nextId) := by
  simp [State.launchFlight, hw]
  rfl

/-- A scalar write that passes its check: lines of the write-combining buffer may leave before its request joins those in flight. -/
theorem State.issueAccs_scalar_write {s : State} {i : Instr} {f : AccForm} {a : Acc} {key : Nat} {step : Strand → Strand} (hr : f.ord = .rlx)
    (hstage : f.stage = .home) (hc : s.checkAcc s.cur false f a = .pass key) (hw : a.kind.writes = true) :
    ∃ u, WcLeft (s.setMe s.me.countAcc) u ∧ s.issueAccs s.cur false i f [a] (fun t => t.setMe (step t.me)) =
      (u.withRequest (((s.setMe s.me.countAcc).scalarRequest f a key).started s.nextId)).setMe (step s.me.countAcc) := by
  have hleft := (s.setMe s.me.countAcc).sendWc_left (((s.setMe s.me.countAcc).scalarRequest f a key).started s.nextId)
  have hme := (congrArg State.me hleft.1 :)
  have hlaunch := (State.launchAcc_scalar (s := s.setMe s.me.countAcc) (key := key) hstage).trans (State.launchFlight_write _ _ hw)
  refine ⟨_, hleft, (State.issueAccs_scalar_pass hr hc).trans ?_⟩
  rw [State.cur_setMe] at hlaunch
  rw [hlaunch, State.me_withRequest]
  exact congrArg (State.setMe _ <| step ·) (hme.trans (State.me_setMe ..))

/-! ### Scalar loads and stores -/

theorem State.scalarLoad_asks {s : State} {i : Instr} {d a : SReg} {imm : BitVec 14} {n key : Nat} {sx : Bool}
    (ha : (s.me.s a + i14 imm).toNat % n = 0) (hkey : s.translate s.cur false needR (s.me.s a + i14 imm) = .key key)
    (hwatch : Unwatched s wpLd (s.me.s a + i14 imm) n) :
    ∃ t, s.scalarLoad i d a imm n sx = .next t ∧ AccessIssued s t ∧ Claims.Asked s t (fun f =>
      f.lane = false ∧ f.kind = .load ∧ f.va = s.me.s a + i14 imm ∧ f.key = key ∧ f.bytes = n ∧ f.sx = sx ∧ f.dest = .s d ∧ f.ord = .rlx ∧
        f.ev = 4 ∧ f.stage = if isSpad key then .home else .l1) := by
  have hc := State.checkAcc_pass s s.cur false { bytes := n, align := n, need := needR, wp := wpLd, ev := 4, sx }
    { thread := 0, va := s.me.s a + i14 imm, kind := .load, dest := .s d } key ha rfl rfl hkey hwatch
  refine ⟨_, congrArg Host.Outcome.next (State.issueAccs_scalar_read (step := fun t => (t.keepS d).advance) rfl rfl hc rfl),
    accessIssued_of_me (r := (s.me.countAcc.keepS d).ren) ?_,
    asked_withRequest rfl rfl rfl ⟨rfl, rfl, rfl, rfl, rfl, rfl, rfl, rfl, rfl, ?_⟩⟩
  · rw [State.me_setMe]
    exact congrArg Strand.advance (s.me.countAcc.keepS_eq d)
  · cases hs : isSpad key <;> simp [Flight.started, Flight.firstStage, Flight.mayHit, State.scalarRequest, hs, ReqKind.writes, Ord.isAcq]

theorem State.scalarStore_asks {s : State} {i : Instr} {d a : SReg} {imm : BitVec 14} {n key : Nat}
    (ha : (s.me.s a + i14 imm).toNat % n = 0) (hkey : s.translate s.cur false needW (s.me.s a + i14 imm) = .key key)
    (hwatch : Unwatched s wpSt (s.me.s a + i14 imm) n) :
    ∃ t, s.scalarStore i d a imm n = .next t ∧ AccessIssued s t ∧ AskedWrite s t (fun f =>
      f.lane = false ∧ f.kind = .store ∧ f.va = s.me.s a + i14 imm ∧ f.key = key ∧ f.bytes = n ∧ f.data = (s.me.s d).toNat % 256 ^ n ∧
        f.dest = .none ∧ f.ord = .rlx ∧ f.ev = 4 ∧ f.stage = .held) := by
  have hc := State.checkAcc_pass s s.cur false { bytes := n, align := n, need := needW, wp := wpSt, ev := 4 }
    { thread := 0, va := s.me.s a + i14 imm, kind := .store, data := (s.me.s d).toNat % 2 ^ (8 * n) } key ha rfl rfl hkey hwatch
  obtain ⟨u, hu, hrun⟩ := State.issueAccs_scalar_write (i := i) (step := Strand.advance) rfl rfl hc rfl
  refine ⟨_, congrArg Host.Outcome.next hrun, accessIssued_of_me (r := s.me.ren) (State.me_setMe ..),
    askedWrite_withRequest hu rfl rfl rfl ⟨rfl, rfl, rfl, rfl, rfl, ?_, rfl, rfl, rfl, rfl⟩⟩
  exact congrArg ((s.me.s d).toNat % ·) (Nat.pow_mul 2 8 n)

end Sys2Proof.Machine

open Sys2Proof Sys2Proof.Machine Sys2Proof.Claims

/-- Settles O5: every scalar load is `State.scalarLoad`, every store `State.scalarStore`, at its width. -/
theorem scalarAccessesStart : Obligations.ScalarAccessesStart := by
  refine ⟨fun s d a imm i n sx key hi ha hkey hwatch => ?_, fun s d a imm i n key hi ha hkey hwatch => ?_,
    fun s d a imm i n hi ha => ?_⟩
  · have hexec : exec i s = s.scalarLoad i d a imm n sx := by
      simp only [List.mem_cons, List.not_mem_nil, or_false, Prod.mk.injEq] at hi
      rcases hi with ⟨rfl, rfl, rfl⟩ | ⟨rfl, rfl, rfl⟩ | ⟨rfl, rfl, rfl⟩ | ⟨rfl, rfl, rfl⟩ | ⟨rfl, rfl, rfl⟩ | ⟨rfl, rfl, rfl⟩ | ⟨rfl, rfl, rfl⟩ <;> rfl
    obtain ⟨t, ht, h⟩ := State.scalarLoad_asks ha hkey hwatch
    exact ⟨t, hexec.trans ht, h⟩
  · have hexec : exec i s = s.scalarStore i d a imm n := by
      simp only [List.mem_cons, List.not_mem_nil, or_false, Prod.mk.injEq] at hi
      rcases hi with ⟨rfl, rfl⟩ | ⟨rfl, rfl⟩ | ⟨rfl, rfl⟩ | ⟨rfl, rfl⟩ <;> rfl
    obtain ⟨t, ht, h⟩ := State.scalarStore_asks ha hkey hwatch
    exact ⟨t, hexec.trans ht, h⟩
  · have hexec : (∃ sx, exec i s = s.scalarLoad i d a imm n sx) ∨ exec i s = s.scalarStore i d a imm n := by
      simp only [List.mem_cons, List.not_mem_nil, or_false, Prod.mk.injEq] at hi
      rcases hi with ⟨rfl, rfl⟩ | ⟨rfl, rfl⟩ | ⟨rfl, rfl⟩ | ⟨rfl, rfl⟩ | ⟨rfl, rfl⟩ | ⟨rfl, rfl⟩ | ⟨rfl, rfl⟩ | ⟨rfl, rfl⟩
      · exact .inl ⟨_, rfl⟩
      · exact .inl ⟨_, rfl⟩
      · exact .inl ⟨_, rfl⟩
      · exact .inl ⟨_, rfl⟩
      · exact .inl ⟨_, rfl⟩
      · exact .inr rfl
      · exact .inr rfl
      · exact .inr rfl
    rcases hexec with ⟨sx, h⟩ | h
    · exact h.trans (congrArg Host.Outcome.next (State.issueAccs_scalar_misaligned rfl ha))
    · exact h.trans (congrArg Host.Outcome.next (State.issueAccs_scalar_misaligned rfl ha))

end

section
/-! ISYNC and what the fetches of its strand have asked of peer packages (R186, R383). -/

namespace Sys2Proof.Machine

open Sys2Proof Sys2Proof.Claims

/-- A strand whose lane work is done, while its scalar stream has asked a peer package for a line of code. -/
def askedPeerForCode : State :=
  { State.reset with
    strands := [(0, { Strand.zero with live := true })],
    flights := [agentFlight { who := .fetch 0 false, src := 0, vd := 0, prio := 0 } .load 0x1000000000000 128 0 0 0 0 0 .home 0] }

/-- Nothing holds ISYNC back in this state. -/
theorem askedPeerForCode_ready : WindowsEmpty askedPeerForCode ∧ Drained askedPeerForCode ∧ StoresDone askedPeerForCode := by
  unfold WindowsEmpty Drained StoresDone
  decide

/-- ISYNC forgets what its strand has asked of peers: the request is gone. -/
theorem exec_isync_askedPeerForCode : ∃ t, exec .isync askedPeerForCode = .next t ∧ t.flights = [] := ⟨_, rfl, rfl⟩

end Sys2Proof.Machine

open Sys2Proof Sys2Proof.Machine Sys2Proof.Claims

/-- Refutes O7: ISYNC also drops the requests in flight by which its strand's fetches have asked a peer package (R186), and the
statement keeps every request. -/
theorem not_drainsAndFences : ¬ Obligations.DrainsAndFences := by
  intro h
  obtain ⟨hwin, hdrained, hstores⟩ := askedPeerForCode_ready
  obtain ⟨-, -, hisync⟩ := (h.1 askedPeerForCode hwin).1 hdrained
  obtain ⟨t, ht, -, -, -, -, -, -, -, -, -, hframe⟩ := hisync hstores
  obtain ⟨u, hu, hempty⟩ := exec_isync_askedPeerForCode
  have hut : u = t := by
    rw [hu] at ht
    exact Host.Outcome.next.inj ht
  have hkept : t.flights = askedPeerForCode.flights := (congrArg State.flights hframe :)
  rw [← hut, hempty] at hkept
  cases hkept

end

section
/-! Control registers as MTC writes them (R41, R82, R84, R85, R344 to R346, R351, R362). -/

namespace Sys2Proof.Machine

open Sys2Proof Sys2Proof.Claims

/-! ### Fields as masks -/

/-- A field in its place is the word under the field's mask. -/
theorem ofNat_fieldOf_mul {v m : W64} {lo n : Nat} (hm : ∀ i < 64, m.getLsbD i = (decide (lo ≤ i) && decide (i < lo + n))) :
    BitVec.ofNat 64 (fieldOf v lo n * 2 ^ lo) = v &&& m := by
  refine BitVec.eq_of_getLsbD_eq fun i hi => ?_
  rw [BitVec.getLsbD_and, hm i hi, BitVec.getLsbD_ofNat, fieldOf, Nat.testBit_mul_two_pow, Nat.testBit_mod_two_pow, Nat.testBit_div_two_pow,
    ← BitVec.testBit_toNat]
  by_cases hlo : lo ≤ i
  · have hn : i - lo < n ↔ i < lo + n := by omega
    simp [hlo, hi, hn, Bool.and_comm]
  · simp [hlo]

theorem ofNat_fieldOf_low {v m : W64} {n : Nat} (hm : ∀ i < 64, m.getLsbD i = decide (i < n)) : BitVec.ofNat 64 (fieldOf v 0 n) = v &&& m := by
  have h := ofNat_fieldOf_mul (v := v) (m := m) (lo := 0) (n := n) (by simpa using hm)
  rwa [Nat.pow_zero, Nat.mul_one] at h

/-- Words without a bit in common. -/
theorem add_eq_or_of_disjoint {x y : W64} (h : ∀ i < 64, x.getLsbD i = true → y.getLsbD i = false) : x + y = x ||| y := by
  refine BitVec.add_eq_or_of_and_eq_zero _ _ (BitVec.eq_of_getLsbD_eq fun i hi => ?_)
  rw [BitVec.getLsbD_and, BitVec.getLsbD_zero, Bool.and_eq_false_imp]
  exact h i hi

/-- A field of one bit that takes the bit of another word. -/
theorem setField_bit (w v : W64) {n : Nat} (hn : n < 64) :
    setField w n 1 (fieldOf v n 1) = (w &&& ~~~BitVec.twoPow 64 n) ||| (v &&& BitVec.twoPow 64 n) := by
  have hbit : fieldOf v n 1 % 2 ^ 1 = fieldOf v n 1 := Nat.mod_mod ..
  have hmask : ∀ i < 64, (BitVec.twoPow 64 n).getLsbD i = (decide (n ≤ i) && decide (i < n + 1)) := by
    intro i hi
    rw [BitVec.getLsbD_twoPow, ← Bool.decide_and, ← Bool.decide_and]
    exact decide_eq_decide.mpr (by omega)
  have hzero : BitVec.ofNat 64 (w.toNat - fieldOf w n 1 * 2 ^ n) = w &&& ~~~BitVec.twoPow 64 n := by
    simpa [setField] using setField_bit_zero w hn
  rw [setField, hbit, BitVec.ofNat_add, hzero, ofNat_fieldOf_mul hmask]
  refine add_eq_or_of_disjoint fun i hi => ?_
  simp only [BitVec.getLsbD_and, BitVec.getLsbD_not]
  grind

/-- FQBASE: the base and, beneath it, the size (R351). -/
theorem fqbase_eq (v : W64) : BitVec.ofNat 64 (fieldOf v 12 44 * 4096 + min (fieldOf v 0 4) 10) =
    (v &&& 0xFFFFFFFFFFF000) ||| BitVec.ofNat 64 (min (v.toNat % 16) 10) := by
  have hmask : ∀ i < 64, (0xFFFFFFFFFFF000 : W64).getLsbD i = (decide (12 ≤ i) && decide (i < 12 + 44)) := by decide
  have hbase := ofNat_fieldOf_mul (v := v) hmask
  have hsize : fieldOf v 0 4 = v.toNat % 16 := by simp [fieldOf]
  rw [BitVec.ofNat_add, show (4096 : Nat) = 2 ^ 12 from rfl, hbase, hsize]
  refine add_eq_or_of_disjoint fun i hi h => ?_
  rw [BitVec.getLsbD_and, hmask i hi] at h
  simp only [Bool.and_eq_true, decide_eq_true_eq] at h
  have hlt : min (v.toNat % 16) 10 < 2 ^ i := (show _ < 2 ^ 12 by omega).trans_le (Nat.pow_le_pow_right (by decide) h.2.1)
  rw [BitVec.getLsbD_ofNat, Nat.testBit_lt_two_pow hlt, Bool.and_false]

/-! ### MTC -/

section Write

variable {s : State} {a : SReg} {n : BitVec 12} {r : W64}

/-- MTC of a number of the table: the write, and the strand goes on. -/
theorem exec_mtc {u : State} (hread : s.readCr s.cur n.toNat = some r) (hw : s.writeCr s.cur n.toNat (s.me.s a) = u) :
    exec (.mtc a n) s = .next (u.setMe u.me.advance) := by
  show execMtc a n s = _
  simp only [execMtc, hread, hw]

/-- A register of the strand itself. -/
theorem gives_mtc_mine {u : Strand} (hread : s.readCr s.cur n.toNat = some r) (hpc : u.pc = s.me.pc)
    (hw : s.writeCr s.cur n.toNat (s.me.s a) = s.setMe u) :
    Gives (.mtc a n) s (fun t => OnlyMe s t ∧ t.me = { u with pc := s.me.pc + 4, wstep := none }) := by
  refine ⟨_, exec_mtc hread hw, onlyMe_setMe_setMe s u _, ?_⟩
  rw [State.me_setMe, State.me_setMe, ← hpc]
  rfl

/-- A register that discards the write. -/
theorem gives_mtc_discarded (hread : s.readCr s.cur n.toNat = some r) (hw : s.writeCr s.cur n.toNat (s.me.s a) = s) :
    Gives (.mtc a n) s (fun t => OnlyMe s t ∧ t.me = { s.me with pc := s.me.pc + 4, wstep := none }) :=
  ⟨_, exec_mtc hread hw, onlyMe_setMe s _, State.me_setMe ..⟩

/-- A register of the strand's partition. -/
theorem gives_mtc_part {p : Part} {k : Nat} (hread : s.readCr s.cur n.toNat = some r)
    (hw : s.writeCr s.cur n.toNat (s.me.s a) = s.setPart k p) :
    Gives (.mtc a n) s (fun t => t.me.pc = s.me.pc + 4 ∧ (∀ q, t.part q = if q = k then p else s.part q) ∧
      { t.me with pc := s.me.pc, wstep := s.me.wstep } = s.me ∧ (∀ k, k ≠ s.cur → t.strand k = s.strand k) ∧
      (∀ b, t.byte b = s.byte b) ∧ { t with strands := s.strands, parts := s.parts } = s) := by
  refine ⟨_, exec_mtc hread hw, ?_, fun q => ?_, ?_, fun j hj => ?_, fun _ => rfl, rfl⟩
  · rw [State.me_setMe]; rfl
  · rw [State.part_setMe, State.part_setPart]
  · rw [State.me_setMe]; rfl
  · exact (State.strand_setMe ..).trans (if_neg hj)

end Write

/-! ### YIELDDL (R84 to R86) -/

/-- What a write of YIELDDL leaves of its gang's COUNT. -/
theorem State.count_writeYielddl (s : State) (k : Nat) (v : W64) :
    ((s.writeYielddl k v).gang (s.strand k).gang).count = if s.isSup k then v.setWidth 32 else
      BitVec.ofNat 32 (min (v.toNat % 2 ^ 32) (s.gang (s.strand k).gang).count.toNat) := by
  have hmin (x y : W32) : (if x.ult y then x else y) = BitVec.ofNat 32 (min x.toNat y.toNat) := by
    simp only [BitVec.ult_eq_decide, decide_eq_true_eq]
    split
    · rw [Nat.min_eq_left (by omega), BitVec.ofNat_toNat, BitVec.setWidth_eq]
    · rw [Nat.min_eq_right (by omega), BitVec.ofNat_toNat, BitVec.setWidth_eq]
  rw [State.writeYielddl, State.gang_setGang, if_pos rfl]
  split
  · rfl
  · exact hmin _ _

/-- It changes nothing of any gang but COUNT and the deadline, and only its own. -/
theorem State.gang_writeYielddl (s : State) (k : Nat) (v : W64) (g : Nat) :
    { (s.writeYielddl k v).gang g with count := (s.gang g).count, due := (s.gang g).due } = s.gang g ∧
      (g ≠ (s.strand k).gang → (s.writeYielddl k v).gang g = s.gang g) := by
  rw [State.writeYielddl, State.gang_setGang]
  split
  case isTrue h => exact ⟨by rw [h], fun hne => absurd h hne⟩
  case isFalse h => exact ⟨rfl, fun _ => rfl⟩

/-! ### The registers of the strand (R344 to R346, R362) -/

theorem State.readCr_watchLen (s : State) (k : Nat) {i : Nat} (hi : i < 4) : s.readCr k (0x024 + i) = some ((s.strand k).wp.get (4 + i)) := by
  interval_cases i <;> rfl

section Watch

variable (s : State) (v : W64) {i : Nat}

theorem State.writeCr_watchAddr (hi : i < 4) :
    s.writeCr s.cur (0x020 + i) v = s.setMe { s.me with wp := SMap.set s.me.wp i (v &&& 0xFFFFFFFFFFFFF0) } := by
  rw [← ofNat_fieldOf_mul (v := v) (m := 0xFFFFFFFFFFFFF0) (lo := 4) (n := 52) (by decide)]
  interval_cases i <;> rfl

theorem State.writeCr_watchLen (hi : i < 4) :
    s.writeCr s.cur (0x024 + i) v = s.setMe { s.me with wp := SMap.set s.me.wp (4 + i) (v &&& 0xFFFF) } := by
  rw [← ofNat_fieldOf_low (v := v) (m := 0xFFFF) (n := 16) (by decide)]
  interval_cases i <;> rfl

theorem State.writeCr_watchCtl (hi : i < 4) :
    s.writeCr s.cur (0x028 + i) v = s.setMe { s.me with wp := SMap.set s.me.wp (8 + i) (v &&& 0x3F) } := by
  rw [← ofNat_fieldOf_low (v := v) (m := 0x3F) (n := 6) (by decide)]
  interval_cases i <;> rfl

end Watch

/-- The fault-queue registers that a supervisor strand writes (R351). -/
theorem State.writeCr_fqbase (s : State) (v : W64) (hsup : s.isSup s.cur = true) : s.writeCr s.cur 0x060 v =
    s.setPart (s.vdPart (s.gangOf s.cur).vd)
      { s.part (s.vdPart (s.gangOf s.cur).vd) with fqbase := BitVec.ofNat 64 (fieldOf v 12 44 * 4096 + min (fieldOf v 0 4) 10) } :=
  if_pos hsup

theorem State.writeCr_fqhead (s : State) (v : W64) (hsup : s.isSup s.cur = true) : s.writeCr s.cur 0x061 v =
    s.setPart (s.vdPart (s.gangOf s.cur).vd) { s.part (s.vdPart (s.gangOf s.cur).vd) with fqhead := BitVec.ofNat 64 (fieldOf v 0 16) } :=
  if_pos hsup

/-- The registers that are read-only discard the write (R82). -/
theorem State.writeCr_readOnly (s : State) (v : W64) {n : Nat} (h : n ∈ [0, 1, 2, 4, 0x13, 0x62] ∨ (0x40 ≤ n ∧ n < 0x60)) :
    s.writeCr s.cur n v = s := by
  simp only [List.mem_cons, List.not_mem_nil, or_false] at h
  simp only [State.writeCr, beq_iff_eq, Bool.and_eq_true, decide_eq_true_eq]
  repeat rw [if_neg (by omega)]

theorem State.readCr_readOnly (s : State) {n : Nat} (h : n ∈ [0, 1, 2, 4, 0x13, 0x62] ∨ (0x40 ≤ n ∧ n < 0x60)) :
    ∃ r, s.readCr s.cur n = some r := by
  rcases h with h | ⟨h1, h2⟩
  · simp only [List.mem_cons, List.not_mem_nil, or_false] at h
    rcases h with rfl | rfl | rfl | rfl | rfl | rfl <;> exact ⟨_, rfl⟩
  · obtain ⟨b, rfl⟩ := Nat.exists_eq_add_of_le h1
    exact ⟨_, s.readCr_ephem s.cur (by omega)⟩

end Sys2Proof.Machine

open Sys2Proof Sys2Proof.Machine Sys2Proof.Claims

/-- Settles O9: each number of the table by what `State.writeCr` makes of it. -/
theorem controlRegisterWrites : Obligations.ControlRegisterWrites := by
  refine ⟨?_, fun s k v hlive => ?_⟩
  · intro s a v on mine part partIs
    have hnum {c i : Nat} (h : c + i < 4096) : (BitVec.ofNat 12 (c + i)).toNat = c + i := by
      rw [BitVec.toNat_ofNat, Nat.mod_eq_of_lt h]
    refine ⟨fun n hn => ?_, ?_, ?_, ?_, ?_, fun i hi => ⟨?_, ?_, ?_⟩, ?_, fun hsup => ⟨?_, ?_⟩, fun hsup => ⟨?_, ?_⟩⟩
    · obtain ⟨r, hr⟩ := s.readCr_readOnly hn
      exact gives_mtc_discarded hr (s.writeCr_readOnly v hn)
    · refine gives_mtc_mine (u := { s.me with trapcause := (s.me.trapcause &&& ~~~(0x200000000 : W64)) ||| (v &&& 0x200000000) }) rfl rfl ?_
      exact congrArg (fun w : W64 => s.setMe { s.me with trapcause := w }) (setField_bit s.me.trapcause v (n := 33) (by decide))
    · exact gives_mtc_mine (u := { s.me with trapva := v }) rfl rfl rfl
    · exact gives_mtc_mine (u := { s.me with trappc := v }) rfl rfl rfl
    · refine gives_mtc_mine (u := { s.me with tmaskf := v &&& 0xFFFFFFFF }) rfl rfl ?_
      exact congrArg (fun w : W64 => s.setMe { s.me with tmaskf := w }) (ofNat_fieldOf_low (n := 32) (by decide))
    · exact gives_mtc_mine ((congrArg (s.readCr s.cur) (hnum (by omega))).trans (s.readCr_watch s.cur (by omega))) rfl
        ((congrArg (s.writeCr s.cur · v) (hnum (by omega))).trans (s.writeCr_watchAddr v hi))
    · exact gives_mtc_mine ((congrArg (s.readCr s.cur) (hnum (by omega))).trans (s.readCr_watchLen s.cur hi)) rfl
        ((congrArg (s.writeCr s.cur · v) (hnum (by omega))).trans (s.writeCr_watchLen v hi))
    · exact gives_mtc_mine ((congrArg (s.readCr s.cur) (hnum (by omega))).trans (s.readCr_watchCtl s.cur hi)) rfl
        ((congrArg (s.writeCr s.cur · v) (hnum (by omega))).trans (s.writeCr_watchCtl v hi))
    · refine ⟨_, exec_mtc (u := s.writeYielddl s.cur v) rfl rfl, ?_, ?_, s.count_writeYielddl s.cur v, fun g => (s.gang_writeYielddl s.cur v g).1,
        fun g => (s.gang_writeYielddl s.cur v g).2, fun k hk => ?_, fun _ => rfl, rfl⟩
      · rw [State.me_setMe]; rfl
      · rw [State.me_setMe]; rfl
      · exact (State.strand_setMe ..).trans (if_neg hk)
    · exact gives_mtc_discarded rfl (if_neg (by simp [hsup]))
    · exact gives_mtc_discarded rfl (if_neg (by simp [hsup]))
    · exact gives_mtc_part rfl ((s.writeCr_fqbase v hsup).trans (congrArg (fun w : W64 => s.setPart _ { part with fqbase := w }) (fqbase_eq v)))
    · exact gives_mtc_part rfl ((s.writeCr_fqhead v hsup).trans
        (congrArg (fun w : W64 => s.setPart _ { part with fqhead := w }) (ofNat_fieldOf_low (n := 16) (by decide))))
  · refine ⟨s.writeYielddl k v, ?_, s.count_writeYielddl k v, fun g => (s.gang_writeYielddl k v g).1, fun g => (s.gang_writeYielddl k v g).2, rfl⟩
    exact congrArg Host.Outcome.next (if_pos hlive)

end

section
/-! Matrix commands and the waits for them (R80, R305 to R310, R331). -/

namespace Sys2Proof.Machine

open Sys2Proof Sys2Proof.Claims

/-! ### A scalar answer (R224) -/

/-- A scalar result written where the strand's registers and PC are those before the instruction. -/
theorem answered_scalarResult {s t : State} (hs : ∀ r, t.me.s r = s.me.s r) (hpc : t.me.pc = s.me.pc) (d : SReg) (v : W64) :
    Answered s (t.scalarResult d v) d v := by
  obtain ⟨-, hpc', hzero, hd, hr, -⟩ := wrote_scalarResult t d v
  exact ⟨hd, hzero, fun r h => (hr r h).trans (hs r), hpc'.trans (by rw [hpc])⟩

theorem answered_scalarResult_of_me {s t : State} (h : t.me = s.me) (d : SReg) (v : W64) : Answered s (t.scalarResult d v) d v :=
  answered_scalarResult (fun r => by rw [h]) (by rw [h]) d v

/-- An answer after which the wait of the scalar stream has ended. -/
theorem answered_of_clearWait {s t : State} {d : SReg} {v : W64} (h : Answered s.clearWait t d v) : Answered s t d v := by
  obtain ⟨hd, hzero, hr, hpc⟩ := h
  have hme : s.clearWait.me = { s.me with wait := .none } := State.me_setMe ..
  exact ⟨hd, hzero, fun r h => (hr r h).trans (by rw [hme]; rfl), hpc.trans (by rw [hme])⟩

/-! ### The address of a scalar operand -/

/-- An address that passes its checks: the wait for its walk has ended. -/
theorem State.withVa_of_reaches {s : State} {i : Instr} {f : AccForm} {va : W64} {key : Nat} (ok : State → Nat → State) (err : State → State)
    (hink : f.ink = false) (hspad : f.spadOnly = false) (h : Reaches s f va key) : s.withVa i f va ok err = ok s.clearWait key := by
  obtain ⟨halign, -, hkey, hwatch⟩ := h
  have hc := State.checkAcc_pass s s.cur false f { thread := 0, also := 0, va, kind := .load } key halign hink hspad hkey hwatch
  unfold State.withVa State.withAddr
  dsimp only
  rw [show ({ thread := (threadsIn 0).headD 0, also := 0, va, kind := .load } : Acc) = { thread := 0, also := 0, va, kind := .load } from rfl, hc]
  rfl

/-! ### Acceptance (R80, R305) -/

section Command

variable {s : State} {d : SReg} {named : Option Nat} {bad : State → Option W64} {op : State → MOp}

theorem State.command_of_cancelled (h : s.cancelled s.cur = true) : s.command d named bad op = s.scalarResult d 1 := if_pos h

theorem State.command_of_full (h : s.cancelled s.cur = false) (hfull : Config.matrixDepth ≤ (mqOf s).length) : s.command d named bad op = s := by
  have hq : Config.matrixDepth ≤ (s.core s.me.core).mq.length := hfull
  simp [State.command, h, hq]

theorem State.command_of_pending {e : Nat} (h : s.cancelled s.cur = false) (hp : s.chartPending s.me.core s.me.gang e = true) :
    s.command d (some e) bad op = s := by
  simp [State.command, h, hp]

/-- A command that finds room, and no chart of its own pending, is refused where its operands are. -/
theorem State.command_of_bad {va : W64} (h : s.cancelled s.cur = false) (hroom : (mqOf s).length < Config.matrixDepth)
    (hp : named.any (fun e => s.chartPending s.me.core s.me.gang e) = false) (hbad : bad s = some va) :
    s.command d named bad op = s.refuseCmd d va := by
  have hq : ¬ Config.matrixDepth ≤ (s.core s.me.core).mq.length := Nat.not_le.mpr hroom
  simp [State.command, h, hq, hp, hbad]

/-- Else it is accepted. -/
theorem State.command_of_good (h : s.cancelled s.cur = false) (hroom : (mqOf s).length < Config.matrixDepth)
    (hp : named.any (fun e => s.chartPending s.me.core s.me.gang e) = false) (hbad : bad s = none) :
    s.command d named bad op = s.acceptCmd d (op s) := by
  have hq : ¬ Config.matrixDepth ≤ (s.core s.me.core).mq.length := Nat.not_le.mpr hroom
  simp [State.command, h, hq, hp, hbad]

end Command

/-- A scalar result leaves the strand on its core. -/
@[simp] theorem State.core_me_scalarResult (s : State) (d : SReg) (v : W64) : (s.scalarResult d v).me.core = s.me.core := by
  rw [State.scalarResult_me]
  exact (congrArg Strand.core (s.me.writeS_frame d v) :)

@[simp] theorem mqOf_scalarResult (s : State) (d : SReg) (v : W64) : mqOf (s.scalarResult d v) = mqOf s := by
  rw [mqOf, State.core_me_scalarResult]
  rfl

/-- The command as it stands in the queue. -/
def State.newCmd (s : State) (op : MOp) : MCmd :=
  { id := s.nextId, gang := s.me.gang, strand := s.cur, pc := s.me.pc, bound := s.me.accs,
    before := (s.strandsOf s.me.gang).map (fun k => (k, (s.strand k).nextRun)), op }

/-- A command that is accepted stands last in its core's queue. -/
theorem cmdAccepted_acceptCmd (s : State) (d : SReg) (o : MOp) : CmdAccepted s (s.acceptCmd d o) d o := by
  refine ⟨answered_scalarResult_of_me rfl d 0, ⟨s.newCmd o, ?_, rfl, rfl, rfl, rfl⟩, fun k hk => State.strand_scalarResult _ d 0 k hk, fun _ => rfl⟩
  refine (mqOf_scalarResult _ d 0).trans (congrArg Core.mq (?_ : State.core _ s.me.core = { s.core s.me.core with mq := mqOf s ++ [s.newCmd o] }))
  exact (State.core_setCore ..).trans (if_pos rfl)

/-- A command that is refused changes only its strand and the error log. -/
theorem cmdRefused_refuseCmd (s : State) (d : SReg) (va : W64) : CmdRefused s (s.refuseCmd d va) d := by
  refine ⟨answered_scalarResult_of_me rfl d 3, mqOf_scalarResult _ d 3, ?_, fun _ => rfl⟩
  rfl

theorem cmdAccepted_of_clearWait {s t : State} {d : SReg} {o : MOp} (h : CmdAccepted s.clearWait t d o) : CmdAccepted s t d o := by
  obtain ⟨ha, ⟨m, hmq, hop, hgang, hstrand, hid⟩, hk, hb⟩ := h
  have hme : s.clearWait.me = { s.me with wait := .none } := State.me_setMe ..
  have hmqOf : mqOf s.clearWait = mqOf s := by rw [mqOf, hme]; rfl
  refine ⟨answered_of_clearWait ha, ⟨m, hmqOf ▸ hmq, hop, hgang.trans (by rw [hme]), hstrand, hid⟩, fun k h => (hk k h).trans ?_, hb⟩
  exact (State.strand_setMe ..).trans (if_neg h)

theorem cmdRefused_of_clearWait {s t : State} {d : SReg} (h : CmdRefused s.clearWait t d) : CmdRefused s t d := by
  obtain ⟨ha, hmq, hport, hb⟩ := h
  have hme : s.clearWait.me = { s.me with wait := .none } := State.me_setMe ..
  have hmqOf : mqOf s.clearWait = mqOf s := by rw [mqOf, hme]; rfl
  rw [hme] at hport
  exact ⟨answered_of_clearWait ha, hmq.trans hmqOf, hport, hb⟩

/-- The cancel state of a strand whose wait has ended. -/
theorem State.cancelled_clearWait (s : State) : s.clearWait.cancelled s.clearWait.cur = s.cancelled s.cur := by
  have hme : s.clearWait.strand s.cur = { s.me with wait := .none } := (State.strand_setMe ..).trans (if_pos rfl)
  unfold State.cancelled State.jobKey State.gangOf
  rw [show s.clearWait.cur = s.cur from rfl, hme]
  rfl

section Accept

variable {s : State} {d a b : SReg}

/-- The instructions of the front end whose refusal does not come from an address. -/
theorem gives_command {i : Instr} {named : Option Nat} {bad : State → Option W64} {op : State → MOp} {o : MOp}
    (hx : exec i s = .next (s.command d named bad op)) (h : s.cancelled s.cur = false) (hroom : (mqOf s).length < Config.matrixDepth)
    (hp : named.any (fun e => s.chartPending s.me.core s.me.gang e) = false) (hbad : bad s = none) (ho : op s = o) :
    Gives i s (fun t => CmdAccepted s t d o) :=
  ⟨_, hx.trans (congrArg _ (State.command_of_good h hroom hp hbad)), ho ▸ cmdAccepted_acceptCmd s d (op s)⟩

theorem gives_command_refused {i : Instr} {named : Option Nat} {bad : State → Option W64} {op : State → MOp} {va : W64}
    (hx : exec i s = .next (s.command d named bad op)) (h : s.cancelled s.cur = false) (hroom : (mqOf s).length < Config.matrixDepth)
    (hp : named.any (fun e => s.chartPending s.me.core s.me.gang e) = false) (hbad : bad s = some va) :
    Gives i s (fun t => CmdRefused s t d) :=
  ⟨_, hx.trans (congrArg _ (State.command_of_bad h hroom hp hbad)), cmdRefused_refuseCmd s d va⟩

/-- CHART with an address that it may read is a command of the strand whose wait has ended. -/
theorem exec_chart {key : Nat} (h : Reaches s { bytes := 256, align := 256, need := needR, wp := wpNone } (s.me.s a) key) :
    exec (.chart d a b) s = .next (s.clearWait.command d none
      (fun s' => if 256 ≤ (s.me.s b).toNat || ((s'.gangOf s'.cur).chart? (s.me.s b).toNat |>.isNone) &&
        !s'.chartPending s'.me.core s'.me.gang (s.me.s b).toNat && Config.chartStore ≤ s'.chartsTaken s'.me.core then some (s.me.s a) else none)
      (fun _ => .chart (s.me.s b).toNat (s.me.s a))) :=
  congrArg Host.Outcome.next (State.withVa_of_reaches _ _ rfl rfl h)

theorem mqOf_clearWait (s : State) : mqOf s.clearWait = mqOf s := by
  rw [mqOf, show s.clearWait.me = { s.me with wait := .none } from State.me_setMe ..]
  rfl

theorem State.gangOf_clearWait (s : State) : s.clearWait.gangOf s.clearWait.cur = s.gangOf s.cur := by
  rw [State.gangOf, show s.clearWait.strand s.clearWait.cur = { s.me with wait := .none } from (State.strand_setMe ..).trans (if_pos rfl)]
  rfl

theorem gives_chart {key : Nat} (h : Reaches s { bytes := 256, align := 256, need := needR, wp := wpNone } (s.me.s a) key)
    (hc : s.cancelled s.cur = false) (hroom : (mqOf s).length < Config.matrixDepth) (hb : (s.me.s b).toNat < 256)
    (hfit : ((s.gangOf s.cur).chart? (s.me.s b).toNat).isSome = true ∨ s.chartsTaken s.me.core < Config.chartStore) :
    Gives (.chart d a b) s (fun t => CmdAccepted s t d (.chart (s.me.s b).toNat (s.me.s a))) := by
  refine ⟨_, (exec_chart h).trans (congrArg _
    (State.command_of_good (s.cancelled_clearWait.trans hc) (by rwa [mqOf_clearWait]) rfl (if_neg ?_))),
    cmdAccepted_of_clearWait (cmdAccepted_acceptCmd _ _ _)⟩
  have hme : s.clearWait.me = { s.me with wait := .none } := State.me_setMe ..
  have hcore : s.clearWait.me.core = s.me.core := by rw [hme]
  have htaken : s.clearWait.chartsTaken s.clearWait.me.core = s.chartsTaken s.me.core := by rw [hcore]; rfl
  rw [State.gangOf_clearWait, htaken]
  simp only [Bool.or_eq_true, Bool.and_eq_true, decide_eq_true_eq, Bool.not_eq_true', Option.isNone_iff_eq_none]
  rcases hfit with hsome | hlt
  · rintro (hge | ⟨⟨hnone, -⟩, -⟩)
    · omega
    · simp [hnone] at hsome
  · omega

theorem gives_chart_refused {key : Nat} (h : Reaches s { bytes := 256, align := 256, need := needR, wp := wpNone } (s.me.s a) key)
    (hc : s.cancelled s.cur = false) (hroom : (mqOf s).length < Config.matrixDepth) (hb : 256 ≤ (s.me.s b).toNat) :
    Gives (.chart d a b) s (fun t => CmdRefused s t d) :=
  ⟨_, (exec_chart h).trans (congrArg _
    (State.command_of_bad (s.cancelled_clearWait.trans hc) (by rwa [mqOf_clearWait]) rfl (if_pos (by simp [hb])))),
    cmdRefused_of_clearWait (cmdRefused_refuseCmd _ _ _)⟩

end Accept

/-! ### CHART_FREE (R306) -/

section ChartFree

variable {s : State} {d b : SReg}

theorem exec_chartFree_of_room (hc : s.cancelled s.cur = false) (hroom : (mqOf s).length < Config.matrixDepth) :
    exec (.chartFree d b) s = .next (if 256 ≤ (s.me.s b).toNat then s.refuseCmd d 0
      else if s.chartPending s.me.core s.me.gang (s.me.s b).toNat then s.acceptCmd d (.chartFree (s.me.s b).toNat)
      else (s.clearChart s.me.gang (s.me.s b).toNat).scalarResult d 0) := by
  show execChartFree d b s = _
  have hq : ¬ Config.matrixDepth ≤ (s.core s.me.core).mq.length := Nat.not_le.mpr hroom
  simp only [execChartFree, hc, hq, Bool.false_eq_true, if_false]

theorem mem_charts_clearChart (s : State) (g e : Nat) (x : Nat × Chart) :
    x ∈ ((s.clearChart g e).gang g).charts ↔ x ∈ (s.gang g).charts ∧ x.1 ≠ e := by
  rw [State.clearChart, State.gang_setGang, if_pos rfl, List.mem_filter, bne_iff_ne]

end ChartFree

/-! ### MWAIT and CWAIT (R310, R331) -/

section Waits

variable {s : State} {d : SReg}

/-- A command of the strand's gang that was accepted before number n stands in its core's queue. -/
def mqBusy (s : State) (n : Nat) : Bool := (s.core s.me.core).mq.any (fun m => m.gang == s.me.gang && m.id < n)

theorem mqBusy_iff {n : Nat} : mqBusy s n = true ↔ ∃ x ∈ mqOf s, x.gang = s.me.gang ∧ x.id < n := by
  simp [mqBusy, mqOf]

/-- MWAIT ends with the summary of MSTAT, which becomes zero. -/
def State.mwaitDone (s : State) (d : SReg) : State :=
  ((s.setGang s.me.gang { s.gang s.me.gang with mstat := Mstat.zero }).clearWait).scalarResult d (s.gang s.me.gang).mstat.word

theorem exec_mwait_waiting {n : Nat} (h : s.me.wait = .mwait n) :
    exec (.mwait d) s = .next (if mqBusy s n then s else s.mwaitDone d) := by
  show execMwait d s = _
  simp only [execMwait, h]
  rfl

theorem exec_mwait_issues (h : s.me.wait = .none) (hc : s.cancelled s.cur = false) :
    exec (.mwait d) s = .next (if mqBusy s s.nextId then s.setMe { s.me with wait := .mwait s.nextId } else s.mwaitDone d) := by
  show execMwait d s = _
  simp only [execMwait, h, hc]
  rfl

theorem mwaitDone_answers (s : State) (d : SReg) :
    Answered s (s.mwaitDone d) d (s.gang s.me.gang).mstat.word ∧ ((s.mwaitDone d).gang s.me.gang).mstat = Mstat.zero ∧
      ∀ a, (s.mwaitDone d).byte a = s.byte a := by
  have hme : (s.setGang s.me.gang { s.gang s.me.gang with mstat := Mstat.zero }).clearWait.me = { s.me with wait := .none } :=
    State.me_setMe ..
  refine ⟨answered_scalarResult (fun r => ?_) ?_ d _, ?_, fun _ => rfl⟩
  · rw [hme]; rfl
  · rw [hme]
  · exact congrArg Gang.mstat ((State.gang_setGang ..).trans (if_pos rfl))

/-- A copy command of the strand, or the report of one, is outstanding. -/
def copiesHeld (s : State) : Bool := (s.copiesOf s.me.gang).any (fun c => c.strand == s.cur) || s.me.pend.any (fun r => r.engv)

theorem copiesHeld_iff : copiesHeld s = true ↔ (∃ x ∈ s.copiesOf s.me.gang, x.strand = s.cur) ∨ ∃ r ∈ s.me.pend, r.engv = true := by
  simp [copiesHeld]

/-- CWAIT ends with the summary of CSTAT, which becomes zero. -/
def State.cwaitDone (s : State) (d : SReg) : State :=
  ((s.setMe { s.me with cstat := Cstat.zero, wait := .none }).acquireAt s.cur .domain).scalarResult d s.me.cstat.word

theorem exec_cwait (h : s.cancelled s.cur = false ∨ s.me.wait = .cwait) :
    exec (.cwait d) s = .next (if copiesHeld s then s.setMe { s.me with wait := .cwait } else s.cwaitDone d) := by
  show execCwait d s = _
  have hneg : (s.me.wait != .cwait && s.cancelled s.cur) = false := by rcases h with h | h <;> simp [h]
  simp only [execCwait, hneg]
  rfl

theorem cwaitDone_answers (s : State) (d : SReg) :
    Answered s (s.cwaitDone d) d s.me.cstat.word ∧ (s.cwaitDone d).me.cstat = Cstat.zero ∧ ∀ a, (s.cwaitDone d).byte a = s.byte a := by
  have hme : ((s.setMe { s.me with cstat := Cstat.zero, wait := .none }).acquireAt s.cur .domain).me =
      { s.me with cstat := Cstat.zero, wait := .none } := State.me_setMe ..
  refine ⟨answered_scalarResult (fun r => ?_) ?_ d _, ?_, fun _ => rfl⟩
  · rw [hme]; rfl
  · rw [hme]
  · rw [State.cwaitDone, State.scalarResult_me, hme]
    exact (congrArg Strand.cstat (Strand.writeS_frame _ d _) :)

theorem mstat_word_eq (m : Mstat) : m.word = BitVec.ofNat 64 ((if m.cnt = 0 then 0 else 3) * 2 ^ 61 + m.cnt * 2 ^ 32 + m.code * 2 ^ 28 +
    m.tile * 2 ^ 24 + m.slot * 2 ^ 21 + m.chart * 2 ^ 13) := by
  simp only [Mstat.word, beq_iff_eq]

theorem cstat_word_eq (c : Cstat) : c.word = BitVec.ofNat 64 ((if c.cnt = 0 then 0 else 3) * 2 ^ 61 + c.cnt * 2 ^ 32 + c.code * 2 ^ 28 +
    c.engine * 2 ^ 25 + c.die * 2 ^ 21) := by
  simp only [Cstat.word, beq_iff_eq]

end Waits

/-! ### The clauses of O42 -/

section Operands

variable {s : State} {d a b : SReg}

/-- The word of an MMA's operands (R308). -/
def mmaOp (form : MmaForm) (ra rb : W64) : MOp :=
  .mma form (fieldOf ra 0 4) (fieldOf ra 4 3) ((chartFmt (fieldOf ra 8 5)).getD .none) (fieldOf ra 16 19) (fieldOf rb 0 19)

theorem State.mma_eq_command (s : State) (form : MmaForm) (d a b : SReg) : s.mma form d a b = s.command d none
    (fun s' => if !s'.holdsEngine || mmaBad form (s.me.s a) (s.me.s b) then some 0 else none) (fun _ => mmaOp form (s.me.s a) (s.me.s b)) := rfl

theorem exec_mma {i : Instr} {form : MmaForm} (hi : (i, form) ∈ [(Instr.mma d a b, MmaForm.dense), (.mmaNs d a b, .ns), (.mmaBm d a b, .bm)]) :
    exec i s = .next (s.command d none
      (fun s' => if !s'.holdsEngine || mmaBad form (s.me.s a) (s.me.s b) then some 0 else none) (fun _ => mmaOp form (s.me.s a) (s.me.s b))) := by
  rw [← State.mma_eq_command]
  simp only [List.mem_cons, Prod.mk.injEq, List.not_mem_nil, or_false] at hi
  rcases hi with ⟨rfl, rfl⟩ | ⟨rfl, rfl⟩ | ⟨rfl, rfl⟩ <;> rfl

/-- The matrix instructions that answer CANCELLED and stall on a full queue before they read memory. -/
def Queued (i : Instr) (d a b : SReg) : Prop :=
  i ∈ [Instr.chartFree d b, .wload d a b, .mma d a b, .mmaNs d a b, .mmaBm d a b, .mzero d a]

/-- Each of them but CHART_FREE is a command of the front end. -/
theorem exec_queued {i : Instr} (hi : Queued i d a b) :
    i = .chartFree d b ∨ ∃ named bad op, exec i s = .next (s.command d named bad op) := by
  simp only [Queued, List.mem_cons, List.not_mem_nil, or_false] at hi
  rcases hi with rfl | rfl | rfl | rfl | rfl | rfl
  · exact .inl rfl
  · exact .inr ⟨_, _, _, rfl⟩
  · exact .inr ⟨_, _, _, exec_mma (form := .dense) (a := a) (b := b) (by simp)⟩
  · exact .inr ⟨_, _, _, exec_mma (form := .ns) (a := a) (b := b) (by simp)⟩
  · exact .inr ⟨_, _, _, exec_mma (form := .bm) (a := a) (b := b) (by simp)⟩
  · exact .inr ⟨_, _, _, rfl⟩

theorem gives_queued_cancelled (hc : s.cancelled s.cur = true) {i : Instr} (hi : Queued i d a b) :
    Gives i s (fun t => Wrote s t d 1 (s.me.pc + 4)) := by
  refine ⟨s.scalarResult d 1, ?_, wrote_scalarResult s d 1⟩
  rcases exec_queued (s := s) hi with rfl | ⟨_, _, _, hx⟩
  · exact congrArg Host.Outcome.next (if_pos hc)
  · exact hx.trans (congrArg _ (State.command_of_cancelled hc))

theorem exec_queued_full (hc : s.cancelled s.cur = false) (hfull : Config.matrixDepth ≤ (mqOf s).length) {i : Instr} (hi : Queued i d a b) :
    exec i s = .next s := by
  rcases exec_queued (s := s) hi with rfl | ⟨_, _, _, hx⟩
  · have hq : Config.matrixDepth ≤ (s.core s.me.core).mq.length := hfull
    exact congrArg Host.Outcome.next ((if_neg (by simp [hc])).trans (if_pos hq))
  · exact hx.trans (congrArg _ (State.command_of_full hc hfull))

theorem gives_mma (hc : s.cancelled s.cur = false) (hroom : (mqOf s).length < Config.matrixDepth) (hold : s.holdsEngine = true)
    {i : Instr} {form : MmaForm} (hi : (i, form) ∈ [(Instr.mma d a b, MmaForm.dense), (.mmaNs d a b, .ns), (.mmaBm d a b, .bm)])
    (hgood : mmaBad form (s.me.s a) (s.me.s b) = false) :
    Gives i s (fun t => CmdAccepted s t d (mmaOp form (s.me.s a) (s.me.s b))) := by
  have hbad : (if !s.holdsEngine || mmaBad form (s.me.s a) (s.me.s b) then some (0 : W64) else none) = none := by simp [hold, hgood]
  exact gives_command (exec_mma hi) hc hroom rfl hbad rfl

theorem gives_mzero (hc : s.cancelled s.cur = false) (hroom : (mqOf s).length < Config.matrixDepth) (hold : s.holdsEngine = true)
    (hz : fieldOf (s.me.s a) 16 48 = 0) : Gives (.mzero d a) s (fun t => CmdAccepted s t d (.mzero ((s.me.s a).setWidth 16))) := by
  have hbad : (if !s.holdsEngine || fieldOf (s.me.s a) 16 48 != 0 then some (0 : W64) else none) = none := by simp [hold, hz]
  exact gives_command rfl hc hroom rfl hbad rfl

/-- A gang that does not hold the engine is refused (R289). -/
theorem gives_refused_of_notHeld (hc : s.cancelled s.cur = false) (hroom : (mqOf s).length < Config.matrixDepth) (hold : s.holdsEngine = false)
    {i : Instr} (hi : i ∈ [Instr.mma d a b, .mmaNs d a b, .mmaBm d a b, .mzero d a]) : Gives i s (fun t => CmdRefused s t d) := by
  have hrefused {i : Instr} {c : State → Bool} {op : State → MOp}
      (hx : exec i s = .next (s.command d none (fun s' => if !s'.holdsEngine || c s' then some 0 else none) op)) :
      Gives i s (fun t => CmdRefused s t d) := gives_command_refused (va := 0) hx hc hroom rfl (by simp [hold])
  simp only [List.mem_cons, List.not_mem_nil, or_false] at hi
  rcases hi with rfl | rfl | rfl | rfl
  · exact hrefused (exec_mma (form := .dense) (a := a) (b := b) (by simp))
  · exact hrefused (exec_mma (form := .ns) (a := a) (b := b) (by simp))
  · exact hrefused (exec_mma (form := .bm) (a := a) (b := b) (by simp))
  · exact hrefused (c := fun _ => fieldOf (s.me.s a) 16 48 != 0) rfl

theorem exec_wload_pending (hc : s.cancelled s.cur = false) (hp : s.chartPending s.me.core s.me.gang (fieldOf (s.me.s a) 0 8) = true) :
    exec (.wload d a b) s = .next s := congrArg Host.Outcome.next (State.command_of_pending hc hp)

theorem gives_wload {c : Chart} (hc : s.cancelled s.cur = false) (hroom : (mqOf s).length < Config.matrixDepth)
    (hp : s.chartPending s.me.core s.me.gang (fieldOf (s.me.s a) 0 8) = false) (hchart : (s.gangOf s.cur).chart? (fieldOf (s.me.s a) 0 8) = some c)
    (hold : s.holdsEngine = true) (hgood : wloadBad c (s.me.s a) (s.me.s b) = false) :
    Gives (.wload d a b) s (fun t => CmdAccepted s t d (.wload (fieldOf (s.me.s a) 0 8) c (fieldOf (s.me.s a) 8 3) (fieldOf (s.me.s a) 16 11)
      (fieldOf (s.me.s b) 0 32) (fieldOf (s.me.s b) 32 32))) :=
  gives_command rfl hc hroom hp (by simp [hchart, hold, hgood]) (by simp [hchart])

theorem gives_wload_refused (hc : s.cancelled s.cur = false) (hroom : (mqOf s).length < Config.matrixDepth)
    (hp : s.chartPending s.me.core s.me.gang (fieldOf (s.me.s a) 0 8) = false) (hchart : (s.gangOf s.cur).chart? (fieldOf (s.me.s a) 0 8) = none) :
    Gives (.wload d a b) s (fun t => CmdRefused s t d) :=
  gives_command_refused (va := 0) rfl hc hroom hp (by simp [hchart])

theorem gives_chartFree_refused (hc : s.cancelled s.cur = false) (hroom : (mqOf s).length < Config.matrixDepth) (hb : 256 ≤ (s.me.s b).toNat) :
    Gives (.chartFree d b) s (fun t => CmdRefused s t d) :=
  ⟨_, (exec_chartFree_of_room hc hroom).trans (congrArg _ (if_pos hb)), cmdRefused_refuseCmd s d 0⟩

theorem gives_chartFree_pending (hc : s.cancelled s.cur = false) (hroom : (mqOf s).length < Config.matrixDepth) (hb : (s.me.s b).toNat < 256)
    (hp : s.chartPending s.me.core s.me.gang (s.me.s b).toNat = true) :
    Gives (.chartFree d b) s (fun t => CmdAccepted s t d (.chartFree (s.me.s b).toNat)) :=
  ⟨_, (exec_chartFree_of_room hc hroom).trans (congrArg _ ((if_neg (Nat.not_le.mpr hb)).trans (if_pos hp))), cmdAccepted_acceptCmd s d _⟩

theorem gives_chartFree_frees (hc : s.cancelled s.cur = false) (hroom : (mqOf s).length < Config.matrixDepth) (hb : (s.me.s b).toNat < 256)
    (hp : s.chartPending s.me.core s.me.gang (s.me.s b).toNat = false) :
    Gives (.chartFree d b) s (fun t => Answered s t d 0 ∧ mqOf t = mqOf s ∧
      (∀ x, x ∈ (t.gang s.me.gang).charts ↔ x ∈ (s.gangOf s.cur).charts ∧ x.1 ≠ (s.me.s b).toNat) ∧ ∀ x, t.byte x = s.byte x) :=
  ⟨_, (exec_chartFree_of_room hc hroom).trans (congrArg _ ((if_neg (Nat.not_le.mpr hb)).trans (if_neg (by simp [hp])))),
    answered_scalarResult_of_me rfl d 0, mqOf_scalarResult _ d 0, mem_charts_clearChart s s.me.gang _, fun _ => rfl⟩

end Operands

section WaitForms

variable {s : State} {d : SReg}

theorem gives_mwait_done {b : Bool} (hx : exec (.mwait d) s = .next (if b then s else s.mwaitDone d) ∨
      exec (.mwait d) s = .next (if b then s.setMe { s.me with wait := .mwait s.nextId } else s.mwaitDone d)) (hb : b = false) :
    Gives (.mwait d) s (fun t => Answered s t d (s.gang s.me.gang).mstat.word ∧ (t.gang s.me.gang).mstat = Mstat.zero ∧
      ∀ a, t.byte a = s.byte a) := by
  subst hb
  exact ⟨_, hx.elim id id, mwaitDone_answers s d⟩

theorem gives_wait_cancelled (hc : s.cancelled s.cur = true) (h : s.me.wait = .none) {i : Instr} (hi : i ∈ [Instr.cwait d, .mwait d]) :
    Gives i s (fun t => Wrote s t d 0x2000000000000000 (s.me.pc + 4)) := by
  refine ⟨s.scalarResult d 0x2000000000000000, ?_, wrote_scalarResult s d _⟩
  simp only [List.mem_cons, List.not_mem_nil, or_false] at hi
  rcases hi with rfl | rfl
  · show execCwait d s = _
    simp [execCwait, h, hc]
  · show execMwait d s = _
    simp [execMwait, h, hc]

end WaitForms

end Sys2Proof.Machine
end

section

open Sys2Proof Sys2Proof.Machine Sys2Proof.Claims

/-- Settles O42: every command but CHART is `State.command` of the state itself, CHART that of the state whose wait has ended. -/
theorem matrixCommandsAndWaits : Obligations.MatrixCommandsAndWaits := by
  constructor
  · intro s d a b key c ra rb g e af mma forms pending
    refine ⟨fun hc i hi => gives_queued_cancelled hc hi, fun hc hfull i hi => exec_queued_full hc hfull hi, fun hc hroom => ?_⟩
    refine ⟨fun h => ⟨fun hb hsome => gives_chart h hc hroom hb (.inl hsome), fun hb hlt => gives_chart h hc hroom hb (.inr hlt),
      gives_chart_refused h hc hroom⟩, gives_chartFree_refused hc hroom, gives_chartFree_pending hc hroom, gives_chartFree_frees hc hroom,
      exec_wload_pending hc, gives_wload hc hroom, gives_wload_refused hc hroom, ?_, gives_mzero hc hroom, ?_⟩
    · exact fun i form hi hold hgood => gives_mma hc hroom hold hi hgood
    · exact fun hold i hi => gives_refused_of_notHeld hc hroom hold hi
  · intro s d n g m c busy summary ends
    have hsummary : ends = Gives (.mwait d) s (fun t => Answered s t d m.word ∧ (t.gang s.me.gang).mstat = Mstat.zero ∧
        ∀ a, t.byte a = s.byte a) := by rw [mstat_word_eq]
    have hends {k : Nat} (hk : ¬ busy k) : mqBusy s k = false := Bool.eq_false_iff.mpr (mt mqBusy_iff.mp hk)
    refine ⟨fun h => ⟨fun hb => ?_, fun hb => ?_⟩, fun h hc => ⟨fun hb => ?_, fun hb => ?_⟩, fun hc h i hi => gives_wait_cancelled hc h hi, ?_⟩
    · exact (exec_mwait_waiting h).trans (congrArg _ (if_pos (mqBusy_iff.mpr hb)))
    · exact hsummary ▸ gives_mwait_done (.inl (exec_mwait_waiting h)) (hends hb)
    · exact hsummary ▸ gives_mwait_done (.inr (exec_mwait_issues h hc)) (hends hb)
    · exact ⟨_, (exec_mwait_issues h hc).trans (congrArg _ (if_pos (mqBusy_iff.mpr hb))), onlyMe_setMe s _, State.me_setMe ..⟩
    · intro h held
      refine ⟨fun hh => ?_, fun hh => ?_⟩
      · exact ⟨_, (exec_cwait h).trans (congrArg _ (if_pos (copiesHeld_iff.mpr hh))), onlyMe_setMe s _, State.me_setMe ..⟩
      · exact ⟨_, (exec_cwait h).trans (congrArg _ (if_neg (mt copiesHeld_iff.mp hh))), cstat_word_eq s.me.cstat ▸ cwaitDone_answers s d⟩

end

section
/-! What lies aside of a write at a home, of an answer and of a strand's end: the jobs, the units of the dies and their cores' ready
queues; and the strands that they do not wake. -/

namespace Sys2Proof.Machine

open Sys2Proof Sys2Proof.Claims

/-- The part of a strand's cancelled waits that is its scalar stream's (R224). -/
def State.cancelScalar (s : State) (k : Nat) : State :=
  let rest : List Waiter := s.waiters.filter (fun w => w.strand != k)
  match (s.strand k).wait with
  | .future _ _ d => ({ s with waiters := rest } : State).answer k d 1
  | .lock _ _ d => ({ s with waiters := rest } : State).answer k d 1
  | .port d =>
    let u := { s with flights := s.flights.filter (fun f => !(f.strand == k && !f.lane && f.dest == .s d && f.unperformed &&
      (match f.kind with | .fewait _ | .phase _ => true | _ => false))) }
    if u.flights.any (fun f => f.strand == k && !f.lane && f.dest == .s d) then u else u.answer k d 1
  | .recv d => ({ s with clusters := s.clusters.map (fun (c : Nat × Cluster) =>
      (c.1, { c.2 with posted := c.2.posted.filter (fun p => p.strand != k) })) } : State).answer k d (1 * 2 ^ 61)
  | _ => s

theorem State.cancelWait_eq (s : State) (k : Nat) : s.cancelWait k =
    match ((s.cancelScalar k).strand k).laneWait with
    | .queue r _ _ =>
      let u := s.cancelScalar k
      let core := (s.strand k).core
      let b := u.book core r.q.toNat
      (((u.setBook core r.q.toNat { b with waits := b.waits.filter (fun w => w.1 != k) }).queueCancel k r).serveQueue core r.q.toNat 64).settleTask
        (s.strand k).gang
    | _ => { s.cancelScalar k with flights := (s.cancelScalar k).flights.filter (fun f =>
        !(f.strand == k && f.lane && f.unperformed && (match f.kind with | .fewait _ => true | _ => false))) } := rfl

/-! ### Jobs, units and ready queues -/

/-- The current strand, the jobs, the cores' ready queues, and which units the dies have, are the same. -/
structure State.SameJobs (s t : State) : Prop where
  cur : t.cur = s.cur
  jobs : t.jobs = s.jobs
  queue : ∀ k, (t.core k).queue = (s.core k).queue
  units : ∀ d, (t.die d).present = (s.die d).present ∧ (t.die d).fenced = (s.die d).fenced ∧ (t.die d).cores = (s.die d).cores

namespace State.SameJobs

theorem refl (s : State) : s.SameJobs s := ⟨rfl, rfl, fun _ => rfl, fun _ => ⟨rfl, rfl, rfl⟩⟩

theorem trans {s t u : State} (h : s.SameJobs t) (k : t.SameJobs u) : s.SameJobs u where
  cur := k.cur.trans h.cur
  jobs := k.jobs.trans h.jobs
  queue c := (k.queue c).trans (h.queue c)
  units d :=
    have ⟨hp, hf, hc⟩ := h.units d
    have ⟨kp, kf, kc⟩ := k.units d
    ⟨kp.trans hp, kf.trans hf, kc.trans hc⟩

/-- What changes neither jobs, cores nor dies. -/
theorem of_eq {s t : State} (hcur : t.cur = s.cur) (hjobs : t.jobs = s.jobs) (hcores : t.cores = s.cores) (hdies : t.dies = s.dies) :
    s.SameJobs t where
  cur := hcur
  jobs := hjobs
  queue k := congrArg (fun m : KMap Core => (m.get Core.zero k).queue) hcores
  units d := by simp only [State.die, hdies, and_self]

theorem foldl {α : Type} {f : State → α → State} (h : ∀ s a, State.SameJobs s (f s a)) (l : List α) (s : State) : s.SameJobs (l.foldl f s) :=
  foldl_rel refl trans h l s

/-- A core whose ready queue stays. -/
theorem setCore (s : State) (k : Nat) (c : Core) (h : c.queue = (s.core k).queue) : s.SameJobs (s.setCore k c) := by
  refine ⟨rfl, rfl, fun j => ?_, fun _ => ⟨rfl, rfl, rfl⟩⟩
  rw [State.core_setCore]
  split
  · next e => rw [e, h]
  · rfl

/-- A die whose units stay. -/
theorem setDie (s : State) (d : Nat) (x : Die)
    (h : x.present = (s.die d).present ∧ x.fenced = (s.die d).fenced ∧ x.cores = (s.die d).cores) : s.SameJobs (s.setDie d x) := by
  refine ⟨rfl, rfl, fun _ => rfl, fun j => ?_⟩
  rw [State.die_setDie]
  split
  · next e => rw [e]; exact h
  · exact ⟨rfl, rfl, rfl⟩

theorem queue_map {f : Nat × Core → Nat × Core} (h : ∀ c, (f c).1 = c.1 ∧ (f c).2.queue = c.2.queue) (m : KMap Core) (k : Nat) :
    (KMap.get Core.zero (m.map f) k).queue = (m.get Core.zero k).queue :=
  KMap.get_map_rel (fun a b : Core => a.queue = b.queue) Core.zero rfl f h m k

theorem units_map {f : Nat × Die → Nat × Die} (h : ∀ d, (f d).1 = d.1 ∧ (f d).2.present = d.2.present ∧ (f d).2.fenced = d.2.fenced ∧
      (f d).2.cores = d.2.cores) (m : KMap Die) (k : Nat) :
    (KMap.get (Die.reset 9) (m.map f) k).present = (m.get (Die.reset 9) k).present ∧
      (KMap.get (Die.reset 9) (m.map f) k).fenced = (m.get (Die.reset 9) k).fenced ∧
      (KMap.get (Die.reset 9) (m.map f) k).cores = (m.get (Die.reset 9) k).cores :=
  KMap.get_map_rel (fun a b : Die => a.present = b.present ∧ a.fenced = b.fenced ∧ a.cores = b.cores) (Die.reset 9) ⟨rfl, rfl, rfl⟩ f h m k

theorem setStrand (s : State) (k : Nat) (t : Strand) : s.SameJobs (s.setStrand k t) := of_eq rfl rfl rfl rfl

theorem setGang (s : State) (k : Nat) (g : Gang) : s.SameJobs (s.setGang k g) := of_eq rfl rfl rfl rfl

theorem withWaiters (s : State) (ws : List Waiter) : s.SameJobs { s with waiters := ws } := of_eq rfl rfl rfl rfl

theorem withFlights (s : State) (fs : List Flight) : s.SameJobs { s with flights := fs } := of_eq rfl rfl rfl rfl

/-! A write at a home (R194, R198, R208, R368). -/

theorem of_mem {s t : State} (h : { t with mem := s.mem } = s) : s.SameJobs t :=
  of_eq (congrArg State.cur h :) (congrArg State.jobs h :) (congrArg State.cores h :) (congrArg State.dies h :)

theorem putBytes (s : State) (a : Nat) (bs : List Byte) : s.SameJobs (s.putBytes a bs) := of_mem (s.putBytes_frame a bs)

theorem recallLine (s : State) (core line : Nat) : s.SameJobs (s.recall core line) := by
  refine ⟨rfl, rfl, queue_map ?_ _, fun _ => ⟨rfl, rfl, rfl⟩⟩
  intro c
  dsimp only
  split <;> exact ⟨rfl, rfl⟩

theorem patchL1 (s : State) (core a ev : Nat) (v : SMap 32) (bs : List Byte) : s.SameJobs (s.patchL1 core a ev v bs) := by
  unfold State.patchL1
  dsimp only
  split
  · exact setCore s core _ rfl
  · exact refl s

theorem overlayL1 (s : State) (core line : Nat) : s.SameJobs (s.overlayL1 core line) := foldl (fun u _ => patchL1 u _ _ _ _ _) _ s

theorem applyAll (s : State) : s.SameJobs s.applyAll := by
  refine ⟨rfl, rfl, queue_map ?_ _, units_map ?_ _⟩
  · exact fun _ => ⟨rfl, rfl⟩
  · exact fun _ => ⟨rfl, rfl, rfl, rfl⟩

theorem invalidate (s : State) (core line : Nat) : s.SameJobs (s.invalidate core line) := by
  unfold State.invalidate
  dsimp only
  split
  · have hclock : s.SameJobs (if s.clockRoom (s.homeOf (128 * line)).1 then s else s.applyAll) := by
      split
      · exact refl s
      · exact applyAll s
    refine hclock.trans ⟨rfl, rfl, fun _ => rfl, units_map ?_ _⟩
    intro d
    dsimp only
    split <;> exact ⟨rfl, rfl, rfl, rfl⟩
  · exact refl s

theorem endWfe (s : State) (k : Nat) (d : SReg) (v : W64) : s.SameJobs (s.endWfe k d v) :=
  (setCore s (s.strand k).core { s.core (s.strand k).core with
    l1 := (s.core (s.strand k).core).l1.filter (fun l => pkgOf (128 * l.line) == s.pkgnum.toNat) } rfl).trans (of_eq rfl rfl rfl rfl)

theorem wakeWfe (s : State) (p : Nat → Nat → Nat → Bool) : s.SameJobs (s.wakeWfe p) := by
  refine foldl (fun u c => ?_) _ s
  dsimp only
  split
  · split
    · exact (setStrand u c.1 _).trans (endWfe _ _ _ _)
    · exact refl u
  · exact refl u

theorem writeLine (s : State) (core a : Nat) (bs : List Byte) : s.SameJobs (s.writeLine core a bs) := by
  unfold State.writeLine
  split
  · exact of_mem (s.storeSpad_frame a bs)
  · exact (((((recallLine s core (a / 128)).trans (of_mem (State.storeBytes_frame _ a bs))).trans (invalidate _ _ _)).trans
      (patchL1 _ _ _ _ _ _)).trans (overlayL1 _ _ _)).trans (wakeWfe _ _)

theorem writeLines (s : State) (core n a : Nat) (bs : List Byte) : s.SameJobs (s.writeLines core n a bs) := by
  induction n generalizing s a bs with
  | zero => exact refl s
  | succ n ih =>
    unfold State.writeLines
    split
    · exact refl s
    · exact (writeLine s core a _).trans (ih _ _ _)

theorem writeLE (s : State) (core a n v : Nat) : s.SameJobs (s.writeLE core a n v) := writeLines s core _ a _

/-! The record of a task (R249), its strands' answers, and the ends of strands. -/

theorem setRecWord (s : State) (vd h i : Nat) (w : W64) : s.SameJobs (s.setRecWord vd h i w) := by
  unfold State.setRecWord
  split
  · exact writeLE s _ _ _ _
  · exact refl s

theorem settleTask (s : State) (g : Nat) : s.SameJobs (s.settleTask g) := by
  unfold State.settleTask
  dsimp only
  split
  · exact setRecWord s _ _ _ _
  · split
    · exact setRecWord s _ _ _ _
    · exact refl s

theorem acquireAt (s : State) (k : Nat) (sc : Scope) : s.SameJobs (s.acquireAt k sc) := by
  unfold State.acquireAt
  split
  · exact setCore s _ _ rfl
  · exact refl s

theorem sawHome (s : State) (k pa : Nat) : s.SameJobs (s.sawHome k pa) := setStrand s k _

theorem answer (s : State) (k : Nat) (d : SReg) (v : W64) : s.SameJobs (s.answer k d v) := by
  unfold State.answer
  dsimp only
  split
  · exact setStrand s k _
  · split
    · exact ((setStrand s k _).trans (acquireAt _ _ _)).trans (settleTask _ _)
    · exact (setStrand s k _).trans (settleTask _ _)

theorem log (s : State) (die : Nat) (r : Report) : s.SameJobs (s.log die r) := setDie s die _ ⟨rfl, rfl, rfl⟩

theorem fillFuture {s t : State} {pa : Nat} {value : W64} {cancel : Bool} (h : s.fillFuture pa value cancel = some t) : s.SameJobs t := by
  unfold State.fillFuture at h
  dsimp only at h
  split at h
  · cases h
  · cases h
    refine ((writeLE s _ _ _ _).trans (withWaiters _ _)).trans (foldl (fun u w => ?_) _ _)
    split
    · exact (sawHome u _ _).trans (answer _ _ _ _)
    · exact refl u

theorem leaveCon (s : State) (k : Nat) (m : Member) : s.SameJobs (s.leaveCon k m) :=
  ((putBytes s _ _).trans (invalidate _ _ _)).trans (setStrand _ k _)

theorem withdraw (s : State) (k : Nat) : s.SameJobs (s.withdraw k) := by
  refine trans ?_ (setStrand _ k _)
  refine ⟨rfl, rfl, queue_map ?_ _, fun _ => ⟨rfl, rfl, rfl⟩⟩
  exact fun _ => ⟨rfl, rfl⟩

theorem endStrand (s : State) (k : Nat) : s.SameJobs (s.endStrand k) :=
  (((((setGang s _ _).trans (foldl (fun u m => leaveCon u k m) _ _)).trans (withdraw _ k)).trans (withFlights _ _)).trans
    (withFlights _ _)).trans (setStrand _ k _)

theorem strandDone (s : State) (k : Nat) (status : W64) : s.SameJobs (s.strandDone k status) :=
  ((endStrand s k).trans (setGang _ _ _)).trans (settleTask _ _)

theorem mapCopies (s : State) (f : Copy → Option Copy) : s.SameJobs (s.mapCopies f) := by
  refine ⟨rfl, rfl, queue_map ?_ _, units_map ?_ _⟩
  · exact fun _ => ⟨rfl, rfl⟩
  · exact fun _ => ⟨rfl, rfl, rfl, rfl⟩

theorem discardParties (s : State) (g : Nat) (which : Parked → Bool) : s.SameJobs (s.discardParties g which) := by
  refine (mapCopies s _).trans (foldl (fun u k => ?_) _ _)
  split
  · exact strandDone u k 1
  · exact refl u

theorem forgetParties (s : State) (g : Nat) : s.SameJobs (s.forgetParties g) :=
  (mapCopies s _).trans (foldl (fun u k => setStrand u k _) _ _)

/-! Named queues (R240) and the waits that meet the cancel state (R224). -/

theorem setBook (s : State) (core q : Nat) (b : QueueBook) : s.SameJobs (s.setBook core q b) := setCore s core _ rfl

theorem queueOp {s t : State} {k thread : Nat} {r : QOp} {pop : Bool} {status : Nat} (h : s.queueOp k thread r pop = .done status t) :
    s.SameJobs t := by
  unfold State.queueOp at h
  dsimp only at h
  split at h
  · cases h
    exact log s _ _
  · split at h
    · split at h
      · cases h
      · cases h
        exact ((putBytes s _ _).trans (setBook _ _ _ _)).trans (setStrand _ k _)
    · split at h
      · cases h
      · cases h
        exact ((putBytes s _ _).trans (putBytes _ _ _)).trans (setBook _ _ _ _)

theorem serveQueue (s : State) (core q fuel : Nat) : s.SameJobs (s.serveQueue core q fuel) := by
  induction fuel generalizing s with
  | zero => exact refl s
  | succ n ih =>
    unfold State.serveQueue
    dsimp only
    split
    · exact refl s
    · split
      · split
        · exact refl s
        · next hop =>
          exact (((((queueOp hop).trans (setBook _ _ _ _)).trans (setStrand _ _ _)).trans (setStrand _ _ _)).trans (settleTask _ _)).trans (ih _)
      · exact (setBook s _ _ _).trans (ih _)

theorem cancelScalar (s : State) (k : Nat) : s.SameJobs (s.cancelScalar k) := by
  unfold State.cancelScalar
  split
  · exact (withWaiters s _).trans (answer _ _ _ _)
  · exact (withWaiters s _).trans (answer _ _ _ _)
  · dsimp only
    split
    · exact withFlights s _
    · refine trans ?_ (answer _ k _ 1)
      exact withFlights s _
  · refine trans ?_ (answer _ k _ _)
    exact of_eq rfl rfl rfl rfl
  · exact refl s

theorem cancelWait (s : State) (k : Nat) : s.SameJobs (s.cancelWait k) := by
  rw [State.cancelWait_eq]
  refine (cancelScalar s k).trans ?_
  split
  · exact (((setBook _ _ _ _).trans (setStrand _ k _)).trans (serveQueue _ _ _ _)).trans (settleTask _ _)
  · exact of_eq rfl rfl rfl rfl

theorem cancelWaits (s : State) (core jk : Nat) : s.SameJobs (s.cancelWaits core jk) := by
  refine (foldl (fun u g => ?_) _ s).trans (foldl (fun u c => ?_) _ _)
  · split
    · exact forgetParties u g.1
    · split
      · exact refl u
      · exact discardParties u g.1 _
  · dsimp only
    split
    · exact cancelWait u c.1
    · exact refl u

theorem ackCancel (s : State) (j : Nat) : s.SameJobs (s.ackCancel j) := by
  refine foldl (fun u c => ?_) _ s
  dsimp only
  split
  · split
    · exact setStrand u c.1 _
    · exact refl u
  · exact refl u

end State.SameJobs

end Sys2Proof.Machine
end

section
/-! The strands that a write at a home, and what it wakes, leave as they are: all that are in no wait of WFE (R368). -/

namespace Sys2Proof.Machine

open Sys2Proof Sys2Proof.Claims

/-! ### The entries of a strand -/

theorem KMap.mem_insert {α : Type} {m : KMap α} {a : Nat} {v : α} {c : Nat × α} : c ∈ m.insert a v ↔ c = (a, v) ∨ c ∈ m := by
  induction m with
  | nil => simp [KMap.insert]
  | cons e t ih =>
    obtain ⟨k, x⟩ := e
    unfold KMap.insert
    split
    · simp
    · simp only [List.mem_cons, ih]
      exact or_left_comm

theorem KMap.filter_insert {α : Type} (p : Nat × α → Bool) (m : KMap α) (a : Nat) (v : α) (h : p (a, v) = false) :
    (m.insert a v).filter p = m.filter p := by
  induction m with
  | nil => simp [KMap.insert, h]
  | cons e t ih =>
    obtain ⟨k, x⟩ := e
    unfold KMap.insert
    split
    · rw [List.filter_cons_of_neg (by simp [h])]
    · rw [List.filter_cons, List.filter_cons, ih]

/-- The entries of a strand's number; a well-formed state has at most one. -/
def State.entries (s : State) (k : Nat) : List (Nat × Strand) := s.strands.filter (fun c => c.1 == k)

theorem State.entries_congr {s t : State} (h : t.strands = s.strands) (k : Nat) : t.entries k = s.entries k := by
  unfold State.entries; rw [h]

theorem KMap.get_filter_key {α : Type} (d : α) (m : KMap α) (k : Nat) : KMap.get d (m.filter (fun c => c.1 == k)) k = m.get d k := by
  induction m with
  | nil => rfl
  | cons e t ih =>
    obtain ⟨j, x⟩ := e
    by_cases hj : k = j
    · subst hj
      rw [List.filter_cons_of_pos (by simp), KMap.get, KMap.get, if_pos rfl, if_pos rfl]
    · rw [List.filter_cons_of_neg (by simpa using Ne.symm hj), KMap.get, if_neg hj, ih]

theorem State.strand_of_entries {s t : State} {k : Nat} (h : t.entries k = s.entries k) : t.strand k = s.strand k := by
  have hget (u : State) : u.strand k = KMap.get Strand.zero (u.entries k) k := (KMap.get_filter_key _ _ _).symm
  rw [hget, hget, h]

theorem notInWfe_iff_entries {s : State} {k : Nat} : NotInWfe s k ↔ ∀ c ∈ s.entries k, ∀ m p w n d, c.2.wait ≠ .wfe m p w n d := by
  simp only [NotInWfe, State.entries, List.mem_filter, beq_iff_eq, and_imp]

theorem notInWfe_of_entries {s t : State} {k : Nat} (h : t.entries k = s.entries k) (hs : NotInWfe s k) : NotInWfe t k := by
  rw [notInWfe_iff_entries] at hs ⊢
  rwa [h]

theorem State.entries_setStrand_ne (s : State) {j k : Nat} (x : Strand) (h : j ≠ k) : (s.setStrand j x).entries k = s.entries k := by
  unfold State.entries State.setStrand KMap.set
  rw [KMap.filter_insert _ _ _ _ (by simpa using h), KMap.erase, List.filter_filter]
  refine List.filter_congr (fun c _ => ?_)
  by_cases hc : c.1 = k
  · simp [hc, Ne.symm h]
  · simp [hc]

/-- A strand that has been written has one entry. -/
theorem State.mem_entries_setStrand {s : State} {k : Nat} {x : Strand} {c : Nat × Strand} (h : c ∈ (s.setStrand k x).entries k) : c = (k, x) := by
  obtain ⟨hmem, hkey⟩ := List.mem_filter.mp h
  rcases KMap.mem_insert.mp hmem with rfl | he
  · rfl
  · have : c.1 ≠ k := by simpa using (List.mem_filter.mp he).2
    exact absurd (by simpa using hkey) this

theorem notInWfe_setStrand {s : State} {k : Nat} {x : Strand} (h : ∀ m p w n d, x.wait ≠ .wfe m p w n d) : NotInWfe (s.setStrand k x) k := by
  rw [notInWfe_iff_entries]
  intro c hc
  rw [State.mem_entries_setStrand hc]
  exact h

/-! ### What leaves a strand -/

/-- A strand that is in no wait of WFE keeps its entries. -/
def State.Leaves (k : Nat) (s t : State) : Prop := NotInWfe s k → t.entries k = s.entries k

namespace State.Leaves

variable {k : Nat}

theorem refl (s : State) : State.Leaves k s s := fun _ => rfl

theorem trans {s t u : State} (h : State.Leaves k s t) (g : State.Leaves k t u) : State.Leaves k s u :=
  fun hs => (g (notInWfe_of_entries (h hs) hs)).trans (h hs)

theorem of_strands {s t : State} (h : t.strands = s.strands) : State.Leaves k s t := fun _ => State.entries_congr h k

theorem setStrand (s : State) {j : Nat} (x : Strand) (h : j ≠ k) : State.Leaves k s (s.setStrand j x) := fun _ => s.entries_setStrand_ne x h

theorem wakeWfe (s : State) (p : Nat → Nat → Nat → Bool) : State.Leaves k s (s.wakeWfe p) := by
  intro hs
  refine List.foldlRecOn _ _ (motive := fun u : State => u.entries k = s.entries k) rfl (fun u hu c hc => ?_)
  have hmem := (List.mem_filter.mp hc).1
  dsimp only
  split
  · next hw =>
    have hne : c.1 ≠ k := fun he => hs c hmem he _ _ _ _ _ hw
    split
    · refine (State.entries_congr (t := _) (s := (u.seeWfe c.1 _ _).setStrand c.1 _) rfl k).trans ?_
      exact (State.entries_setStrand_ne _ _ hne).trans ((u.entries_setStrand_ne _ hne).trans hu)
    · exact hu
  · exact hu

theorem writeLine (s : State) (core a : Nat) (bs : List Byte) : State.Leaves k s (s.writeLine core a bs) := by
  unfold State.writeLine
  split
  · exact of_strands (congrArg State.strands (s.storeSpad_frame a bs) :)
  · refine trans (of_strands ?_) (wakeWfe _ _)
    rw [State.strands_overlayL1, State.strands_patchL1, State.strands_invalidate]
    exact (congrArg State.strands ((s.recall core (a / 128)).storeBytes_frame a bs) :)

theorem writeLines (s : State) (core n a : Nat) (bs : List Byte) : State.Leaves k s (s.writeLines core n a bs) := by
  induction n generalizing s a bs with
  | zero => exact refl s
  | succ n ih =>
    unfold State.writeLines
    split
    · exact refl s
    · exact (writeLine s core a _).trans (ih _ _ _)

theorem writeLE (s : State) (core a n v : Nat) : State.Leaves k s (s.writeLE core a n v) := writeLines s core _ a _

theorem setRecWord (s : State) (vd h i : Nat) (w : W64) : State.Leaves k s (s.setRecWord vd h i w) := by
  unfold State.setRecWord
  split
  · exact writeLE s _ _ _ _
  · exact refl s

theorem settleTask (s : State) (g : Nat) : State.Leaves k s (s.settleTask g) := by
  unfold State.settleTask
  dsimp only
  split
  · exact setRecWord s _ _ _ _
  · split
    · exact setRecWord s _ _ _ _
    · exact refl s

theorem acquireAt (s : State) (j : Nat) (sc : Scope) : State.Leaves k s (s.acquireAt j sc) := by
  unfold State.acquireAt
  split
  · exact of_strands rfl
  · exact refl s

theorem answer (s : State) {j : Nat} (d : SReg) (v : W64) (h : j ≠ k) : State.Leaves k s (s.answer j d v) := by
  unfold State.answer
  dsimp only
  split
  · exact setStrand s _ h
  · split
    · exact ((setStrand s _ h).trans (acquireAt _ _ _)).trans (settleTask _ _)
    · exact (setStrand s _ h).trans (settleTask _ _)

/-- A fill of a future leaves a strand that does not wait for it. -/
theorem fillFuture {s t : State} {pa : Nat} {value : W64} {cancel : Bool} (h : s.fillFuture pa value cancel = some t)
    (hw : (s.strand k).wait = .none) : State.Leaves k s t := by
  unfold State.fillFuture at h
  dsimp only at h
  split at h
  · cases h
  · cases h
    intro hs
    refine List.foldlRecOn _ _ (motive := fun u : State => u.entries k = s.entries k) (writeLE s _ _ _ _ hs) (fun u hu w _ => ?_)
    split
    · next hf =>
      have hne : w.strand ≠ k := by
        rintro rfl
        rw [State.strand_of_entries hu, hw] at hf
        cases hf
      have hu' : (u.sawHome w.strand pa).entries k = s.entries k := (u.entries_setStrand_ne _ hne).trans hu
      exact (answer _ _ _ hne (notInWfe_of_entries hu' hs)).trans hu'
    · exact hu

end State.Leaves

end Sys2Proof.Machine
end

section
/-! The end of a task by its own instructions, and its cancellation (R88, R281 to R284). -/

namespace Sys2Proof.Machine

open Sys2Proof Sys2Proof.Claims

/-! ### A write of a task's record (R249) -/

theorem State.sameBesideHomes_writeLines (s : State) (core n a : Nat) (bs : List Byte) : s.SameBesideHomes (s.writeLines core n a bs) := by
  induction n generalizing s a bs with
  | zero => exact .refl s
  | succ n ih =>
    unfold State.writeLines
    split
    · exact .refl s
    · exact (s.sameBesideHomes_writeLine core a _).trans (ih _ _ _)

theorem State.sameBesideHomes_writeLE (s : State) (core a n v : Nat) : s.SameBesideHomes (s.writeLE core a n v) :=
  s.sameBesideHomes_writeLines core _ a _

theorem State.sameBesideHomes_setRecWord (s : State) (vd h i : Nat) (w : W64) : s.SameBesideHomes (s.setRecWord vd h i w) := by
  unfold State.setRecWord
  split
  · exact s.sameBesideHomes_writeLE _ _ _ _
  · exact .refl s

theorem State.sameBesideHomes_settleTask (s : State) (g : Nat) : s.SameBesideHomes (s.settleTask g) := by
  unfold State.settleTask
  dsimp only
  split
  · exact s.sameBesideHomes_setRecWord _ _ _ _
  · split
    · exact s.sameBesideHomes_setRecWord _ _ _ _
    · exact .refl s

theorem State.SameBesideHomes.gangs {s t : State} (h : s.SameBesideHomes t) : t.gangs = s.gangs := h.keeps State.gangs (fun _ _ _ _ _ _ => rfl)

theorem State.SameBesideHomes.gang {s t : State} (h : s.SameBesideHomes t) (g : Nat) : t.gang g = s.gang g := by
  rw [State.gang, h.gangs]; rfl

/-! ### The end of a strand (R263, R283) -/

theorem State.gangs_leaveCon (s : State) (k : Nat) (m : Member) : (s.leaveCon k m).gangs = s.gangs := by
  have hput (a : Nat) (bs : List Byte) : (s.putBytes a bs).gangs = s.gangs := (congrArg State.gangs (s.putBytes_frame a bs) :)
  have hinv (t : State) (core line : Nat) : (t.invalidate core line).gangs = t.gangs := (t.sameBesideHomes_invalidate core line).gangs
  exact (hinv _ _ _).trans (hput _ _)

/-- The end of a strand adds what it has released to its gang, and changes no other part of a gang. -/
theorem State.gangs_endStrand (s : State) (k : Nat) : (s.endStrand k).gangs = (s.keepVec (s.strand k).gang (s.strandVec k)).gangs :=
  (foldl_keeps _ State.gangs (fun u m => u.gangs_leaveCon k m) _ _ :)

theorem State.gang_endStrand (s : State) (k : Nat) : (s.endStrand k).gang (s.strand k).gang =
    { s.gang (s.strand k).gang with vec := vecJoin (s.gang (s.strand k).gang).vec (s.strandVec k) } := by
  rw [State.gang, State.gangs_endStrand]
  exact (State.gang_setGang ..).trans (if_pos rfl)

/-- A strand that has ended: it is not live, has no runs and no wait. -/
def Strand.Ended (t : Strand) : Prop := t.live = false ∧ t.runs = [] ∧ t.wait = .none

/-- The strand of `endStrand` is written last. -/
theorem State.endStrand_eq (s : State) (k : Nat) : ∃ u x, s.endStrand k = State.setStrand u k x ∧ x.Ended :=
  ⟨_, _, rfl, rfl, rfl, (congrArg Strand.wait ((State.strand_setStrand ..).trans (if_pos rfl)) :)⟩

theorem State.endStrand_ended (s : State) (k : Nat) : ((s.endStrand k).strand k).Ended ∧ NotInWfe (s.endStrand k) k := by
  obtain ⟨u, x, hend, hx⟩ := s.endStrand_eq k
  rw [hend]
  refine ⟨?_, notInWfe_setStrand (fun m p w n d h => ?_)⟩
  · rw [State.strand_setStrand, if_pos rfl]
    exact hx
  · obtain ⟨-, -, hwait⟩ := hx
    rw [hwait] at h
    cases h

theorem State.strand_leaveCon_ne (s : State) {j k : Nat} (m : Member) (h : j ≠ k) : (s.leaveCon k m).strand j = s.strand j := by
  refine (State.strand_setStrand ..).trans ((if_neg h).trans ?_)
  have hput (a : Nat) (bs : List Byte) : (s.putBytes a bs).strands = s.strands := (congrArg State.strands (s.putBytes_frame a bs) :)
  exact congrArg (fun m : KMap Strand => m.get Strand.zero j) ((State.strands_invalidate _ _ _).trans (hput _ _))

theorem State.strand_endStrand_ne (s : State) {j k : Nat} (h : j ≠ k) : (s.endStrand k).strand j = s.strand j := by
  refine (State.strand_setStrand ..).trans ((if_neg h).trans ((State.strand_setStrand ..).trans ((if_neg h).trans ?_)))
  exact (foldl_keeps _ (fun u : State => u.strand j) (fun u m => u.strand_leaveCon_ne m h) _ _ :)

theorem State.Leaves.strandDone (s : State) (k : Nat) (status : W64) : State.Leaves k (s.endStrand k) (s.strandDone k status) := by
  refine State.Leaves.trans ?_ (State.Leaves.settleTask _ _)
  exact .of_strands rfl

/-- TDONE's end of a strand: its status enters the gang's, and its role gains no strand afterwards. -/
theorem State.strandDone_ends (s : State) (k : Nat) (status : W64) :
    ((s.strandDone k status).strand k).Ended ∧
      ((s.strandDone k status).gang (s.strand k).gang).worst = max (s.gang (s.strand k).gang).worst (min status.toNat 2) ∧
      (s.strand k).role ∈ ((s.strandDone k status).gang (s.strand k).gang).noAdd := by
  obtain ⟨hended, hwfe⟩ := s.endStrand_ended k
  refine ⟨?_, ?_⟩
  · rwa [State.strand_of_entries (State.Leaves.strandDone s k status hwfe)]
  · unfold State.strandDone
    dsimp only
    rw [(State.sameBesideHomes_settleTask _ _).gang, State.gang_setGang, if_pos rfl, State.gang_endStrand]
    exact ⟨rfl, by simp⟩

/-- A gang that ends: none of its strands is live, and its status is at least as bad. -/
theorem State.endGang_ends (s : State) (g status : Nat) :
    (∀ k ∈ s.strandsOf g, ((s.endGang g status).strand k).live = false) ∧ min status 2 ≤ ((s.endGang g status).gang g).worst := by
  constructor
  · intro k hk
    refine (foldl_of_mem (P := fun u : State => (u.strand k).live = false) (fun u j hu => ?_) (a := k) (fun u => ?_) hk s :)
    · by_cases hj : k = j
      · subst hj
        exact (u.endStrand_ended k).1.1
      · rwa [u.strand_endStrand_ne hj]
    · exact (u.endStrand_ended k).1.1
  · have hg : ((s.endGang g status).gang g).worst = max (((s.strandsOf g).foldl State.endStrand s).gang g).worst (min status 2) :=
      congrArg Gang.worst ((State.gang_setGang ..).trans (if_pos rfl))
    omega

/-! ### The lane work of a strand is done (R78) -/

theorem State.sendAll_of_windowsEmpty {s : State} (h : WindowsEmpty s) : s.sendAll s.cur = s := by
  unfold State.sendAll
  dsimp only
  rw [List.filter_eq_nil_iff.mpr]
  · rfl
  · intro f hf
    simp only [Bool.true_and, Bool.and_eq_true, Bool.or_eq_true, beq_iff_eq, not_and, not_or]
    exact h f hf

theorem State.drained_of_drained {s : State} (h : Drained s) : s.drained s.cur = true := by
  obtain ⟨hruns, hflights⟩ := h
  have hr : (s.strand s.cur).runs = [] := hruns
  simp only [State.drained, hr, List.isEmpty_nil, Bool.true_and, Bool.not_eq_true', List.any_eq_false, Bool.and_eq_true, beq_iff_eq, bne_iff_ne,
    Bool.not_eq_true', not_and, and_imp, not_not]
  intro f hf hk hl ho
  exact (hflights f hf hk hl).resolve_left (by simp [ho])

theorem State.afterDrain_of_drained {s : State} (hw : WindowsEmpty s) (hd : Drained s) (go : State → State) : s.afterDrain go = go s := by
  unfold State.afterDrain
  dsimp only
  rw [State.sendAll_of_windowsEmpty hw, if_pos (State.drained_of_drained hd)]

theorem gives_tdone {s : State} (hw : WindowsEmpty s) (hd : Drained s) (a : SReg) :
    Gives (.tdone a) s (fun t => t.me.live = false ∧ t.me.runs = [] ∧
      (t.gang s.me.gang).worst = max (s.gangOf s.cur).worst (min (s.me.s a).toNat 2) ∧ s.me.role ∈ (t.gang s.me.gang).noAdd) := by
  refine ⟨_, congrArg Host.Outcome.next (State.afterDrain_of_drained hw hd _), ?_⟩
  obtain ⟨⟨hlive, hruns, -⟩, hworst, hrole⟩ := s.strandDone_ends s.cur (s.me.s a)
  have hcur := (State.SameJobs.strandDone s s.cur (s.me.s a)).cur
  rw [State.me, hcur]
  exact ⟨hlive, hruns, hworst, hrole⟩

/-! ### PRIO (R284) -/

/-- A priority takes effect: in the task's record, and in the gang, under that of the gang which it helps (R277). -/
def State.withPrio (s : State) (new : Nat) : State :=
  let g := s.gangOf s.cur
  (s.setRecField g.vd g.handle 0 54 4 new).setGang s.me.gang { g with
    prio := match g.adopter with
      | some w => max new (s.gang w).prio
      | none => new }

theorem exec_prio (s : State) (d a : SReg) : exec (.prio d a) s =
    let old := s.recPrio (s.gangOf s.cur).vd (s.gangOf s.cur).handle
    if (s.me.s a).toNat ≤ (s.job (s.jobKey s.cur)).prio then .next ((s.withPrio (s.me.s a).toNat).scalarResult d (BitVec.ofNat 64 old))
    else .next (s.scalarResult d (BitVec.ofNat 64 (old + 2 ^ 63))) := rfl

theorem State.me_withPrio {s : State} (new : Nat) (hw : NotInWfe s s.cur) : (s.withPrio new).me = s.me := by
  have hrec := State.Leaves.setRecWord (k := s.cur) s (s.gangOf s.cur).vd (s.gangOf s.cur).handle 0
    (setField (s.recWord (s.gangOf s.cur).vd (s.gangOf s.cur).handle 0) 54 4 new) hw
  have hcur : (s.withPrio new).cur = s.cur := (State.SameJobs.setRecWord s _ _ 0 _).cur
  rw [State.me, hcur]
  exact State.strand_of_entries hrec

theorem gives_prio {s : State} {d a : SReg} (h : (s.me.s a).toNat ≤ (s.job (s.jobKey s.cur)).prio) (hw : NotInWfe s s.cur) :
    Gives (.prio d a) s (fun t => Answered s t d (BitVec.ofNat 64 (s.recPrio (s.gangOf s.cur).vd (s.gangOf s.cur).handle)) ∧
      (t.gang s.me.gang).prio = match (s.gangOf s.cur).adopter with
        | some w => max (s.me.s a).toNat (s.gang w).prio
        | none => (s.me.s a).toNat) :=
  ⟨_, (exec_prio s d a).trans (if_pos h), answered_scalarResult_of_me (State.me_withPrio _ hw) d _,
    congrArg Gang.prio ((State.gang_setGang ..).trans (if_pos rfl))⟩

theorem gives_prio_refused {s : State} {d a : SReg} (h : (s.job (s.jobKey s.cur)).prio < (s.me.s a).toNat) :
    Gives (.prio d a) s (fun t => Wrote s t d (BitVec.ofNat 64 (s.recPrio (s.gangOf s.cur).vd (s.gangOf s.cur).handle + 2 ^ 63)) (s.me.pc + 4)) :=
  ⟨_, (exec_prio s d a).trans (if_neg (Nat.not_le.mpr h)), wrote_scalarResult s d _⟩

/-! ### CANCEL (R281, R282) -/

/-- The value of a key is one of its entries', or the default. -/
theorem KMap.get_cases {α : Type} {P : α → Prop} {d : α} {m : KMap α} {k : Nat} (hd : P d) (h : ∀ c ∈ m, c.1 = k → P c.2) : P (m.get d k) := by
  induction m with
  | nil => exact hd
  | cons e t ih =>
    obtain ⟨j, x⟩ := e
    rw [KMap.get]
    split
    · next hj => exact h (j, x) List.mem_cons_self hj.symm
    · exact ih (fun c hc => h c (List.mem_cons_of_mem _ hc))

section Cancel

variable {s : State} {j : Nat}

/-- A live job that is cancelled keeps what it has, with its mark. -/
theorem State.job_cancelJob (h : (s.job j).live = true) : (s.cancelJob j).job j = { s.job j with cancelling := true } := by
  unfold State.cancelJob
  split
  · rw [State.job_setJob, if_pos rfl]
  · next hc =>
    have hcan : (s.job j).cancelling = true := by simpa [h] using hc
    rw [← hcan]

theorem State.cancelJob_frame (s : State) (j : Nat) : { s.cancelJob j with jobs := s.jobs } = s := by
  unfold State.cancelJob
  split <;> rfl

/-- A job that is no longer live. -/
def State.jobOver (s : State) (j : Nat) : State := s.setJob j { s.job j with live := false }

theorem State.job_jobOver (s : State) (j : Nat) : (s.jobOver j).job j = { s.job j with live := false } := (State.job_setJob ..).trans (if_pos rfl)

/-- A job's status fills its DONEF (R254). -/
def State.fillDonef (s : State) (j : Nat) : State :=
  let x := s.job j
  let status : W64 := if x.failed then 3 else if x.cancelling then 1 else 0
  let u := s.jobOver j
  let failed : State := u.log 4 { kind := 0x10, va := x.donef, vd := j / 65536, job := j % 65536 }
  if x.donef = 0 then u
  else match u.hwKey 128 (j / 65536) needW x.donef true with
    | some k => if isSpad k || u.region k != .hbm then failed else (u.fillFuture k status false).getD failed
    | none => failed

theorem State.endJob_eq (s : State) (j : Nat) : s.endJob j =
    if (s.job j).irq then { s.fillDonef j with irqs := (s.fillDonef j).irqs ++ [(j / 65536 + 1, 0)] } else s.fillDonef j := rfl

/-- All that the end of a job does: nothing more, an entry in the error log, or a fill of a future. -/
theorem State.fillDonef_cases (s : State) (j : Nat) : s.fillDonef j = s.jobOver j ∨ (∃ r, s.fillDonef j = (s.jobOver j).log 4 r) ∨
    ∃ k v, (s.jobOver j).fillFuture k v false = some (s.fillDonef j) := by
  unfold State.fillDonef
  dsimp only
  split
  · exact .inl rfl
  · split
    · next k _ =>
      split
      · exact .inr (.inl ⟨_, rfl⟩)
      · cases hf : (s.jobOver j).fillFuture k (if (s.job j).failed then 3 else if (s.job j).cancelling then 1 else 0) false with
        | none => exact .inr (.inl ⟨_, rfl⟩)
        | some u => exact .inr (.inr ⟨k, _, hf⟩)
    · exact .inr (.inl ⟨_, rfl⟩)

/-- A job ends: it is no longer live; its end touches no other job, and no unit. -/
theorem State.sameJobs_endJob (s : State) (j : Nat) : (s.jobOver j).SameJobs (s.endJob j) := by
  have hfill : (s.jobOver j).SameJobs (s.fillDonef j) := by
    rcases s.fillDonef_cases j with h | ⟨r, h⟩ | ⟨k, v, h⟩
    · exact h ▸ .refl _
    · exact h ▸ .log _ 4 r
    · exact .fillFuture h
  rw [State.endJob_eq]
  split
  · exact hfill.trans (.of_eq rfl rfl rfl rfl)
  · exact hfill

/-- The end of a job leaves a strand that has no wait. -/
theorem State.leaves_endJob {s : State} {k : Nat} (hw : (s.strand k).wait = .none) (j : Nat) : State.Leaves k (s.jobOver j) (s.endJob j) := by
  have hfill : State.Leaves k (s.jobOver j) (s.fillDonef j) := by
    rcases s.fillDonef_cases j with h | ⟨r, h⟩ | ⟨k', v, h⟩
    · exact h ▸ .refl _
    · exact h ▸ .of_strands rfl
    · exact .fillFuture h hw
  rw [State.endJob_eq]
  split
  · exact hfill.trans (.of_strands rfl)
  · exact hfill

/-- A job has been cancelled, whether it has ended thereby or not: the current strand and the units are the same. -/
structure State.CancelSet (s : State) (j : Nat) (u : State) : Prop where
  me : u.me = s.me
  cancelling : (u.job j).cancelling = true
  reached : (u.job j).reached = (s.job j).reached
  dies : (u.job j).dies = (s.job j).dies
  units : ∀ d, (u.die d).present = (s.die d).present ∧ (u.die d).fenced = (s.die d).fenced ∧ (u.die d).cores = (s.die d).cores

theorem State.cancelSet_cancelJob (h : (s.job j).live = true) : s.CancelSet j (s.cancelJob j) := by
  have hme : (s.cancelJob j).me = s.me := (congrArg State.me (s.cancelJob_frame j) :)
  have hdie (d : Nat) : (s.cancelJob j).die d = s.die d := (congrArg (State.die · d) (s.cancelJob_frame j) :)
  refine ⟨hme, ?_, ?_, ?_, fun d => by simp only [hdie, and_self]⟩ <;> rw [State.job_cancelJob h]

theorem State.jobCheck_of_held (h : (s.job j).liveCnt ≠ 0) : s.jobCheck j = s := by
  unfold State.jobCheck
  simp [h]

/-- A cancelling job without live tasks ends. -/
theorem State.jobCheck_of_cancelling (hl : (s.job j).live = true) (h0 : (s.job j).liveCnt = 0) (hc : (s.job j).cancelling = true) :
    s.jobCheck j = s.endJob j := by
  unfold State.jobCheck
  simp [hl, h0, hc]

/-- A job without live tasks that is cancelled ends at once. -/
theorem State.cancelSet_ended (hl : (s.job j).live = true) (h0 : (s.job j).liveCnt = 0) (hw : ∀ c ∈ s.strands, c.1 = s.cur → c.2.wait = .none) :
    s.CancelSet j ((s.cancelJob j).jobCheck j) ∧ (((s.cancelJob j).jobCheck j).job j).live = false := by
  have hset := State.cancelSet_cancelJob hl
  have hjob := State.job_cancelJob hl
  generalize hu : s.cancelJob j = u at hset hjob
  have hstrands : u.strands = s.strands := hu ▸ (congrArg State.strands (s.cancelJob_frame j) :)
  have hcur : u.cur = s.cur := hu ▸ (congrArg State.cur (s.cancelJob_frame j) :)
  have hends : u.jobCheck j = u.endJob j := State.jobCheck_of_cancelling (by rw [hjob]; exact hl) (by rw [hjob]; exact h0) (by rw [hjob])
  have hsame := u.sameJobs_endJob j
  have hover : (u.endJob j).job j = { u.job j with live := false } := by
    rw [State.job, hsame.jobs]
    exact u.job_jobOver j
  have hwfe : NotInWfe (u.jobOver j) u.cur := by
    intro c hc hk m p w n d h
    rw [hw c (hstrands ▸ hc) (hk.trans hcur)] at h
    cases h
  have hnone : (u.strand u.cur).wait = .none := by
    refine KMap.get_cases (P := fun t : Strand => t.wait = .none) rfl (fun c hc hk => ?_)
    exact hw c (hstrands ▸ hc) (hk.trans hcur)
  have hme : (u.endJob j).me = u.me := by
    rw [State.me, hsame.cur]
    exact State.strand_of_entries (State.leaves_endJob hnone j hwfe)
  rw [hends]
  refine ⟨⟨hme.trans hset.me, ?_, ?_, ?_, fun d => ?_⟩, by rw [hover]⟩
  · rw [hover]; exact hset.cancelling
  · rw [hover]; exact hset.reached
  · rw [hover]; exact hset.dies
  · obtain ⟨hp, hf, hc⟩ := hsame.units d
    obtain ⟨kp, kf, kc⟩ := hset.units d
    exact ⟨hp.trans kp, hf.trans kf, hc.trans kc⟩

theorem State.CancelSet.cancelUnits {u : State} (h : s.CancelSet j u) : u.cancelUnits j = s.cancelUnits j := by
  unfold State.cancelUnits
  rw [h.dies]
  have hpick : (fun d => (u.die d).present && !(u.die d).fenced) = fun d => (s.die d).present && !(s.die d).fenced := by
    funext d
    obtain ⟨hpresent, hfenced, -⟩ := h.units d
    rw [hpresent, hfenced]
  simp only [hpick, (h.units _).2.2]

theorem State.CancelSet.acked {u : State} (h : s.CancelSet j u) : u.cancelAcked j = true ↔ ∀ x ∈ s.cancelUnits j, x ∈ (s.job j).reached := by
  simp [State.cancelAcked, h.cancelling, h.cancelUnits, h.reached]

variable {i : Instr} {d : SReg}

/-- What CANCEL answers once the cancellation is set. -/
def State.cancelReply (u : State) (d : SReg) (j : Nat) : State :=
  if u.cancelAcked j then u.scalarResult d 0 else u.setMe { u.me with wait := .cancelAck j d }

theorem cancelInstr_of_live (h : (s.job j).live = true) : s.cancelInstr d j = .next (((s.cancelJob j).jobCheck j).cancelReply d j) :=
  if_neg (by simp [h])

theorem State.CancelSet.answered {u : State} (h : s.CancelSet j u) (hall : ∀ x ∈ s.cancelUnits j, x ∈ (s.job j).reached) :
    u.cancelReply d j = u.scalarResult d 0 ∧ Answered s (u.scalarResult d 0) d 0 :=
  ⟨if_pos (h.acked.mpr hall), answered_scalarResult_of_me h.me d 0⟩

theorem State.CancelSet.waits {u : State} (h : s.CancelSet j u) (hsome : ∃ x ∈ s.cancelUnits j, x ∉ (s.job j).reached) :
    u.cancelReply d j = u.setMe { u.me with wait := .cancelAck j d } ∧
      (u.setMe { u.me with wait := .cancelAck j d }).me = { s.me with wait := .cancelAck j d } := by
  obtain ⟨x, hx, hn⟩ := hsome
  exact ⟨if_neg (fun ha => hn (h.acked.mp ha x hx)), by rw [State.me_setMe, h.me]⟩

theorem gives_cancel_dead (hx : exec i s = s.cancelInstr d j) (h : (s.job j).live = false) :
    Gives i s (fun t => Answered s t d 3 ∧ ∀ x, t.byte x = s.byte x) :=
  ⟨_, hx.trans (if_pos (by simp [h])), answered_scalarResult_of_me rfl d 3, fun _ => rfl⟩

theorem gives_cancel_ends (hx : exec i s = s.cancelInstr d j) (hl : (s.job j).live = true) (h0 : (s.job j).liveCnt = 0)
    (hw : ∀ c ∈ s.strands, c.1 = s.cur → c.2.wait = .none) :
    Gives i s (fun t => (t.job j).live = false ∧ (t.job j).cancelling = true ∧
      ((∀ u ∈ s.cancelUnits j, u ∈ (s.job j).reached) → Answered s t d 0) ∧
      ((∃ u ∈ s.cancelUnits j, u ∉ (s.job j).reached) → t.me.wait = .cancelAck j d ∧ t.me.pc = s.me.pc ∧ ∀ r, t.me.s r = s.me.s r)) := by
  obtain ⟨hset, hdead⟩ := State.cancelSet_ended hl h0 hw
  refine ⟨_, hx.trans (cancelInstr_of_live hl), ?_⟩
  by_cases hall : ∀ u ∈ s.cancelUnits j, u ∈ (s.job j).reached
  · obtain ⟨hreply, hans⟩ := hset.answered (d := d) hall
    rw [hreply]
    exact ⟨hdead, hset.cancelling, fun _ => hans, fun ⟨u, hu, hn⟩ => absurd (hall u hu) hn⟩
  · obtain ⟨hreply, hme⟩ := hset.waits (d := d) (by simpa using hall)
    rw [hreply, hme]
    exact ⟨hdead, hset.cancelling, fun h => absurd h hall, fun _ => ⟨rfl, rfl, fun _ => rfl⟩⟩

theorem State.byte_cancelJob (s : State) (j x : Nat) : (s.cancelJob j).byte x = s.byte x := (congrArg (State.byte · x) (s.cancelJob_frame j) :)

section Held

variable (hx : exec i s = s.cancelInstr d j) (hl : (s.job j).live = true) (h0 : (s.job j).liveCnt ≠ 0)

include hx hl h0

theorem exec_cancel_held : exec i s = .next ((s.cancelJob j).cancelReply d j) := by
  rw [hx, cancelInstr_of_live hl, State.jobCheck_of_held]
  rwa [State.job_cancelJob hl]

theorem gives_cancel_acked (hall : ∀ u ∈ s.cancelUnits j, u ∈ (s.job j).reached) :
    Gives i s (fun t => Answered s t d 0 ∧ (t.job j).cancelling = true ∧ ∀ x, t.byte x = s.byte x) := by
  have hset := State.cancelSet_cancelJob hl
  obtain ⟨hreply, hans⟩ := hset.answered (d := d) hall
  exact ⟨_, (exec_cancel_held hx hl h0).trans (congrArg _ hreply), hans, hset.cancelling, s.byte_cancelJob j⟩

theorem gives_cancel_waits (hsome : ∃ u ∈ s.cancelUnits j, u ∉ (s.job j).reached) :
    Gives i s (fun t => t.me.wait = .cancelAck j d ∧ t.me.pc = s.me.pc ∧ (t.job j).cancelling = true ∧ ∀ x, t.byte x = s.byte x) := by
  have hset := State.cancelSet_cancelJob hl
  obtain ⟨hreply, hme⟩ := hset.waits (d := d) hsome
  refine ⟨_, (exec_cancel_held hx hl h0).trans (congrArg _ hreply), ?_⟩
  beta_reduce
  rw [hme]
  exact ⟨rfl, rfl, hset.cancelling, s.byte_cancelJob j⟩

end Held

end Cancel

/-! ### Pre-emption (R356, R359), and YIELD (R88) -/

section Yield

/-- Collection of a gang changes its place only. -/
theorem State.gang_collect (s : State) (g x cause : Nat) :
    (s.collect x cause).gang g = if g = x then { s.gang x with place := .collecting cause } else s.gang g := State.gang_setGang ..

/-- A reservation of context blocks changes the gang's blocks and the pool only (R359). -/
theorem State.reserveCtx_frame {s u : State} {g : Nat} (h : s.reserveCtx g = some u) :
    { u with gangs := s.gangs, vds := s.vds } = s ∧ ∀ x, { u.gang x with ctx := (s.gang x).ctx } = s.gang x := by
  unfold State.reserveCtx at h
  dsimp only at h
  split at h
  · cases h
  · cases h
    refine ⟨rfl, fun x => ?_⟩
    rw [State.gang_setGang]
    split
    · next e => rw [e]
    · rfl

theorem State.reserveAll_frame {s u : State} {gs : List Nat} (h : s.reserveAll gs = some u) :
    { u with gangs := s.gangs, vds := s.vds } = s ∧ ∀ x, { u.gang x with ctx := (s.gang x).ctx } = s.gang x := by
  induction gs generalizing s with
  | nil =>
    cases h
    exact ⟨rfl, fun _ => rfl⟩
  | cons g gs ih =>
    unfold State.reserveAll at h
    split at h
    · next v hv =>
      obtain ⟨hframe, hgang⟩ := State.reserveCtx_frame hv
      obtain ⟨kframe, kgang⟩ := ih h
      refine ⟨?_, fun x => ?_⟩
      · exact (congrArg (fun y : State => { y with gangs := s.gangs, vds := s.vds }) kframe).trans hframe
      · exact (congrArg (fun y : Gang => { y with ctx := (s.gang x).ctx }) (kgang x)).trans (hgang x)
    · cases h

/-- The gangs of a list go into collection; nothing changes but their places. -/
theorem State.foldl_collect (cause : Nat → Nat) (l : List Nat) (s : State) :
    { l.foldl (fun u x => u.collect x (cause x)) s with gangs := s.gangs } = s ∧
      ∀ x ∈ l, ((l.foldl (fun u x => u.collect x (cause x)) s).gang x).place = .collecting (cause x) := by
  have h := foldl_each (J := fun u : State => { u with gangs := s.gangs } = s) (Q := fun x u => (u.gang x).place = .collecting (cause x))
    (f := fun u x => u.collect x (cause x)) (fun u a hu => ⟨hu, ?_, fun x hx => ?_⟩) l s rfl
  · exact ⟨h.1, fun x hx => h.2 x (.inl hx)⟩
  · rw [State.gang_collect, if_pos rfl]
  · rw [State.gang_collect]
    split
    · next e => rw [e]
    · exact hx

/-- The resident gangs of a stack are reserved their blocks and go into collection. -/
theorem State.preempt_collects {s u : State} {g cause : Nat} (h : s.preempt g cause = some u) :
    { u with gangs := s.gangs, vds := s.vds } = s ∧ ∀ x ∈ s.stackOf g, (s.gang x).live = true → (s.gang x).place = .resident →
      (u.gang x).place = .collecting (if x == g then cause else 4) := by
  unfold State.preempt at h
  dsimp only at h
  obtain ⟨v, hv, rfl⟩ := Option.map_eq_some_iff.mp h
  obtain ⟨hframe, -⟩ := State.reserveAll_frame hv
  obtain ⟨kframe, kplace⟩ := State.foldl_collect (fun x => if x == g then cause else 4)
    ((s.stackOf g).filter (fun x => (s.gang x).live && (s.gang x).place == .resident)) v
  refine ⟨(congrArg (fun y : State => { y with gangs := s.gangs, vds := s.vds }) kframe).trans hframe, fun x hx hl hp => kplace x ?_⟩
  exact List.mem_filter.mpr ⟨hx, by simp [hl, hp]⟩

theorem State.mem_stackOf_self (s : State) (g : Nat) : g ∈ s.stackOf g := List.mem_cons_self

variable {s : State}

/-- A strand that has yielded, before another gang takes its place. -/
def State.yielded (s : State) : State := (s.setMe s.me.advance).setGang s.me.gang { s.gang s.me.gang with due := 0 }

theorem State.gang_yielded (s : State) (g : Nat) : s.yielded.gang g = if g = s.me.gang then { s.gang s.me.gang with due := 0 } else s.gang g :=
  State.gang_setGang ..

theorem State.competitor_yielded (s : State) : s.yielded.competitor s.me.gang = s.competitor s.me.gang := by
  unfold State.competitor
  rw [s.gang_yielded, if_pos rfl]
  rfl

theorem State.me_yielded (s : State) : s.yielded.me = s.me.advance := State.me_setMe ..

theorem exec_yield (hc : s.cancelled s.cur = false) : exec .yield s =
    .next (if s.competitor s.me.gang then (s.yielded.preempt s.me.gang 1).getD (s.yielded.ctxError s.me.gang) else s.yielded) := by
  rw [← State.competitor_yielded]
  exact if_neg (by simp [hc])

theorem gives_yield_cancelled (hc : s.cancelled s.cur = true) :
    Gives .yield s (fun t => (∀ k ∈ s.strandsOf s.me.gang, (t.strand k).live = false) ∧ 1 ≤ (t.gang s.me.gang).worst) :=
  ⟨_, (if_pos hc : execYield s = _), s.endGang_ends s.me.gang 1⟩

theorem gives_yield_alone (hc : s.cancelled s.cur = false) (h : s.competitor s.me.gang = false) :
    Gives .yield s (fun t => t.me.pc = s.me.pc + 4 ∧ { t.me with pc := s.me.pc, wstep := s.me.wstep } = s.me ∧
      (∀ g, { t.gang g with due := (s.gang g).due } = s.gang g) ∧ (∀ k, k ≠ s.cur → t.strand k = s.strand k) ∧
      (∀ a, t.byte a = s.byte a) ∧ { t with strands := s.strands, gangs := s.gangs } = s) := by
  refine ⟨s.yielded, (exec_yield hc).trans (congrArg _ (if_neg (by simp [h]))), ?_⟩
  beta_reduce
  rw [State.me_yielded]
  refine ⟨rfl, rfl, fun g => ?_, fun k hk => (State.strand_setMe ..).trans (if_neg hk), fun _ => rfl, rfl⟩
  rw [State.gang_yielded]
  split
  · next e => rw [e]
  · rfl

theorem gives_yield_preempted (hc : s.cancelled s.cur = false) (h : s.competitor s.me.gang = true) (hl : (s.gang s.me.gang).live = true)
    (hp : (s.gang s.me.gang).place = .resident) (hsome : (s.yielded.preempt s.me.gang 1).isSome = true) :
    Gives .yield s (fun t => t.me.pc = s.me.pc + 4 ∧ (t.gang s.me.gang).place = .collecting 1) := by
  obtain ⟨u, hu⟩ := Option.isSome_iff_exists.mp hsome
  obtain ⟨hframe, hplace⟩ := State.preempt_collects hu
  refine ⟨u, (exec_yield hc).trans (congrArg _ ((if_pos h).trans (by rw [hu]; rfl))), ?_, ?_⟩
  · have hme : u.me = s.yielded.me := (congrArg State.me hframe :)
    rw [hme, State.me_yielded]
    rfl
  · have hgang : s.yielded.gang s.me.gang = { s.gang s.me.gang with due := 0 } := (s.gang_yielded _).trans (if_pos rfl)
    have hat := hplace s.me.gang (State.mem_stackOf_self _ _) (by rw [hgang]; exact hl) (by rw [hgang]; exact hp)
    simpa using hat

end Yield

end Sys2Proof.Machine
end

section

open Sys2Proof Sys2Proof.Machine Sys2Proof.Claims

/-- Settles O25: the end of a job, a strand or a gang leaves every strand aside that is in no wait. -/
theorem taskEndYieldCancelPriority : Obligations.TaskEndYieldCancelPriority := by
  refine ⟨fun s d a => ?_, fun s => ⟨gives_yield_cancelled, gives_yield_alone, gives_yield_preempted⟩⟩
  intro g cancels
  have hcancels {i : Instr} {j : Nat} (hx : exec i s = s.cancelInstr d j) : cancels i j :=
    ⟨gives_cancel_dead hx, gives_cancel_ends hx, gives_cancel_acked hx, gives_cancel_waits hx⟩
  exact ⟨fun hw hd => gives_tdone hw hd a, hcancels rfl, hcancels rfl, gives_prio, gives_prio_refused⟩

end

section
/-! Deadlines and context saves (R86, R87, R356, R358). -/

namespace Sys2Proof.Machine

open Sys2Proof Sys2Proof.Claims

/-! ### What a write at a home and the ready queues leave: gangs, blocks and jobs -/

/-- The gangs, the scratchpad blocks and the jobs are the same. -/
structure State.SameTasks (s t : State) : Prop where
  gangs : t.gangs = s.gangs
  blocks : t.blocks = s.blocks
  jobs : t.jobs = s.jobs

namespace State.SameTasks

theorem refl (s : State) : s.SameTasks s := ⟨rfl, rfl, rfl⟩

theorem trans {s t u : State} (h : s.SameTasks t) (k : t.SameTasks u) : s.SameTasks u :=
  ⟨k.gangs.trans h.gangs, k.blocks.trans h.blocks, k.jobs.trans h.jobs⟩

theorem gang {s t : State} (h : s.SameTasks t) (g : Nat) : t.gang g = s.gang g := by rw [State.gang, h.gangs]; rfl

theorem of_sameBesideHomes {s t : State} (h : s.SameBesideHomes t) : s.SameTasks t :=
  ⟨h.gangs, h.keeps State.blocks (fun _ _ _ _ _ _ => rfl), h.keeps State.jobs (fun _ _ _ _ _ _ => rfl)⟩

theorem setRecWord (s : State) (vd h i : Nat) (w : W64) : s.SameTasks (s.setRecWord vd h i w) :=
  of_sameBesideHomes (s.sameBesideHomes_setRecWord vd h i w)

theorem writeAreas (s : State) (core : Nat) (keys : List (Nat × Nat)) (bs : List Byte) : s.SameTasks (s.writeAreas core keys bs) := by
  induction keys generalizing s bs with
  | nil => exact refl s
  | cons k keys ih =>
    unfold State.writeAreas
    refine trans ?_ (ih _ _)
    split
    · exact of_sameBesideHomes (s.sameBesideHomes_storeSpad _ _)
    · exact of_sameBesideHomes (s.sameBesideHomes_writeLines _ _ _ _)

theorem setQueueAt (s : State) (p : QPlace) (q : List QEntry) : s.SameTasks (s.setQueueAt p q) := by
  cases p <;> exact ⟨rfl, rfl, rfl⟩

theorem setLocAt (s : State) (vd h : Nat) (p : QPlace) : s.SameTasks (s.setLocAt vd h p) := by
  cases p <;> exact setRecWord s _ _ _ _

theorem addEntry (s : State) (p : QPlace) (e : QEntry) : s.SameTasks (s.addEntry p e) := by
  unfold State.addEntry
  split
  · exact setQueueAt s p _
  · exact (setQueueAt s p _).trans (setLocAt _ _ _ p)

theorem moveBlock (s : State) (src dst : QPlace) (block : List QEntry) : s.SameTasks (s.moveBlock src dst block) :=
  (setQueueAt s src _).trans (foldl_rel refl trans (fun u e => addEntry u dst e) _ _)

theorem roomFor {s t : State} {p : QPlace} {n fuel : Nat} (h : s.roomFor p n fuel = some t) : s.SameTasks t := by
  induction fuel generalizing s t p n with
  | zero => cases h
  | succ fuel ih =>
    unfold State.roomFor at h
    split at h
    · cases h
      exact refl s
    · split at h
      · cases h
      · split at h
        · cases h
        · next v hv =>
          dsimp only at h
          split at h
          · cases h
            exact (ih hv).trans (moveBlock v _ _ _)
          · cases h

theorem enter {s t : State} {p : QPlace} {e : QEntry} (h : s.enter p e = some t) : s.SameTasks t := by
  obtain ⟨u, hu, rfl⟩ := Option.map_eq_some_iff.mp h
  exact (roomFor hu).trans (addEntry u p e)

theorem saveImage (s : State) (g : Nat) : s.SameTasks (s.saveImage g) := by
  have hpool : s.SameTasks (s.writePool g (s.imageNow g)) := by
    unfold State.writePool
    split
    · exact writeAreas s _ _ _
    · exact refl s
  exact ⟨hpool.gangs, hpool.blocks, hpool.jobs⟩

end State.SameTasks

/-- A gang that gets its RESUME entry is saved; no other gang changes. -/
theorem State.enterResume_saves {s t : State} {core g : Nat} (h : s.enterResume core g = some t) :
    t.blocks = s.blocks ∧ ∀ x, t.gang x = if x = g then { s.gang g with place := .saved } else s.gang x := by
  have hsame := State.SameTasks.enter h
  exact ⟨hsame.blocks, fun x => (hsame.gang x).trans (State.gang_setGang ..)⟩

/-! ### DEADLINE_EXPIRY (R86, R87) -/

section Deadline

variable {s : State} {g : Nat}

/-- Every COUNT of the stack is the slice of its gang's virtual device. -/
theorem State.reloadStack_counts (s : State) (root : Nat) :
    ∀ x ∈ s.stackOf root, ((s.reloadStack root).gang x).count = s.vdSlice (s.gang x).vd := by
  have h := foldl_each (J := fun u : State => { u with gangs := s.gangs } = s ∧ ∀ x, (u.gang x).vd = (s.gang x).vd)
    (Q := fun x u => (u.gang x).count = s.vdSlice (s.gang x).vd)
    (f := fun u x => u.setGang x { u.gang x with count := u.slice (u.gang x).vd, due := dueOf (u.slice (u.gang x).vd) })
    (fun u a hu => ?_) (s.stackOf root) s ⟨rfl, fun _ => rfl⟩
  · exact fun x hx => h.2 x (.inl hx)
  · obtain ⟨hframe, hvd⟩ := hu
    have hslice (v : Nat) : u.slice v = s.vdSlice v := (congrArg (State.vdSlice · v) hframe :)
    have hgang (x : Nat) := State.gang_setGang (s := u) a
      { u.gang a with count := u.slice (u.gang a).vd, due := dueOf (u.slice (u.gang a).vd) } x
    refine ⟨⟨hframe, fun x => ?_⟩, ?_, fun x hx => ?_⟩
    · rw [hgang, ← hvd]
      split
      · next e => rw [e]
      · rfl
    · rw [hgang, if_pos rfl, ← hvd, hslice]
    · rw [hgang]
      split
      · next e => rw [e, ← hvd, hslice]
      · exact hx

theorem gives_deadlineExpiry_alone (hdue : s.deadlineDue g = true) (h : s.competitor g = false) :
    Gives (.deadlineExpiry g) s (fun t => ∀ x ∈ s.stackOf (s.rootOf g 8), (t.gang x).count = s.vdSlice (s.gang x).vd) := by
  refine ⟨_, (?_ : execDeadlineExpiry g s = _), s.reloadStack_counts (s.rootOf g 8)⟩
  simp [execDeadlineExpiry, hdue, h]

theorem gives_deadlineExpiry_preempts (hdue : s.deadlineDue g = true) (h : s.competitor g = true)
    (hsome : (s.preemptStack (s.rootOf g 8)).isSome = true) :
    Gives (.deadlineExpiry g) s (fun t => ∀ x ∈ s.stackOf (s.rootOf g 8), (s.gang x).live = true → (s.gang x).place = .resident →
      ∃ c, (t.gang x).place = .collecting c) := by
  obtain ⟨u, hu⟩ := Option.isSome_iff_exists.mp hsome
  have hplace := (State.preempt_collects (s := s) (cause := 0) hu).2
  refine ⟨u, (?_ : execDeadlineExpiry g s = _), fun x hx hl hp => ⟨_, hplace x hx hl hp⟩⟩
  simp [execDeadlineExpiry, hdue, h, hu]

end Deadline

/-! ### CONTEXT_SAVE (R356, R358) -/

section Save

/-- No scratchpad block is a gang's. -/
def State.OwnsNoBlock (s : State) (g : Nat) : Prop := ∀ b ∈ s.blocks, b.2.owner ≠ some g

theorem State.ownsNoBlock_freeBlocks (s : State) (g : Nat) : (s.freeBlocks g).OwnsNoBlock g := by
  intro b hb
  obtain ⟨c, -, rfl⟩ := List.mem_map.mp hb
  dsimp only
  split
  · simp
  · next h => simpa using h

theorem State.gangs_saveStrand (s : State) (k : Nat) : (s.saveStrand k).gangs = s.gangs := by
  have hwaiters (c : Bool) (u : State) (ws : List Waiter) : (if c then { u with waiters := ws } else u).gangs = u.gangs := by cases c <;> rfl
  exact hwaiters _ _ _

theorem State.gangs_releaseEngine (s : State) (core g : Nat) : (s.releaseEngine core g).gangs = s.gangs := by
  unfold State.releaseEngine
  dsimp only
  split <;> rfl

theorem State.live_setGang (s : State) (g : Nat) (x : Gang) : ((s.setGang g x).gang g).live = x.live := by
  rw [State.gang_setGang, if_pos rfl]

theorem State.live_saveEngines (s : State) (g : Nat) : ((s.saveEngines g).gang g).live = (s.gang g).live := by
  unfold State.saveEngines
  dsimp only
  rw [State.gang, State.gangs_releaseEngine]
  exact State.live_setGang s g _

theorem State.setDesc_keeps (s : State) (core q d : Nat) : (s.setDesc core q d).gangs = s.gangs ∧ (s.setDesc core q d).blocks = s.blocks :=
  have hframe := s.putBytes_frame (queueKey core q) (leBytes 16 d)
  ⟨(congrArg State.gangs hframe :), (congrArg State.blocks hframe :)⟩

/-- A gang gives up its named queues: it keeps all else. -/
theorem State.unbindQueues_frame (s : State) (g : Nat) :
    (s.unbindQueues g).blocks = s.blocks ∧ { (s.unbindQueues g).gang g with queues := (s.gang g).queues } = s.gang g := by
  unfold State.unbindQueues
  extract_lets x v
  have hv : v.gangs = s.gangs ∧ v.blocks = s.blocks := by
    refine foldl_inv (fun u : State => u.gangs = s.gangs ∧ u.blocks = s.blocks) _ (fun u q hu => ?_) _ s ⟨rfl, rfl⟩
    dsimp only
    rw [State.gangs_setCore, State.blocks_setCore, (State.setDesc_keeps _ _ _ _).1, (State.setDesc_keeps _ _ _ _).2]
    exact hu
  obtain ⟨hgangs, hblocks⟩ := hv
  have hgang : (v.setGang g { v.gang g with queues := [] }).gang g = { s.gang g with queues := [] } := by
    rw [State.gang_setGang, if_pos rfl, State.gang, hgangs]
    rfl
  exact ⟨hblocks, (congrArg (fun y : Gang => { y with queues := (s.gang g).queues }) hgang :)⟩

/-- A gang's strands and engines are saved, and its blocks and queues free. -/
def State.stripped (s : State) (g : Nat) : State :=
  let u := ((s.strandsOf g).foldl (fun s k => s.saveStrand k) s).saveEngines g
  let x := u.gang g
  ((u.setGang g { x with
    spad := (u.blocksOf g).map (fun b => u.blockImage b), rings := x.queues.map (fun q => u.ringImage x.core q),
    books := x.queues.map (fun q => (q, u.book x.core q)) }).freeBlocks g).unbindQueues g

/-- A gang takes its place outside its core, and its image is written. -/
def State.placedAt (s : State) (g : Nat) (place : GangPlace) : State := (s.setGang g { s.gang g with place }).saveImage g

theorem State.saveGang_eq (s : State) (g : Nat) (place : GangPlace) (adopted : Bool) :
    ∃ vd h w, s.saveGang g place adopted = ((s.stripped g).placedAt g place).setRecWord vd h 0 w := ⟨_, _, _, rfl⟩

theorem State.stripped_frees (s : State) (g : Nat) : ((s.stripped g).gang g).live = (s.gang g).live ∧ (s.stripped g).OwnsNoBlock g := by
  have hstrands : ((s.strandsOf g).foldl (fun s k => s.saveStrand k) s).gang g = s.gang g :=
    foldl_keeps _ (fun u : State => u.gang g) (fun u k => congrArg (fun m : KMap Gang => m.get Gang.zero g) (u.gangs_saveStrand k)) _ _
  have hengines := ((s.strandsOf g).foldl (fun s k => s.saveStrand k) s).live_saveEngines g
  rw [hstrands] at hengines
  unfold State.stripped
  dsimp only
  generalize ((s.strandsOf g).foldl (fun s k => s.saveStrand k) s).saveEngines g = u at hengines
  generalize hx : { u.gang g with
    spad := (u.blocksOf g).map (fun b => u.blockImage b), rings := (u.gang g).queues.map (fun q => u.ringImage (u.gang g).core q),
    books := (u.gang g).queues.map (fun q => (q, u.book (u.gang g).core q)) } = x
  obtain ⟨hblocks, hgang⟩ := ((u.setGang g x).freeBlocks g).unbindQueues_frame g
  have hlive : ((u.setGang g x).gang g).live = (u.gang g).live := (u.live_setGang g x).trans (by rw [← hx])
  refine ⟨(congrArg Gang.live hgang : _ = _).trans (hlive.trans hengines), fun b hb => ?_⟩
  rw [hblocks] at hb
  exact (u.setGang g x).ownsNoBlock_freeBlocks g b hb

theorem State.placedAt_keeps (s : State) (g : Nat) (place : GangPlace) :
    (s.placedAt g place).gang g = { s.gang g with place } ∧ (s.placedAt g place).blocks = s.blocks := by
  have h := State.SameTasks.saveImage (s.setGang g { s.gang g with place }) g
  exact ⟨(h.gang g).trans ((State.gang_setGang ..).trans (if_pos rfl)), h.blocks⟩

/-- A gang's image is written and its place taken: it stays live, and owns no block. -/
theorem State.saveGang_saves (s : State) (g : Nat) (place : GangPlace) (adopted : Bool) :
    ((s.saveGang g place adopted).gang g).place = place ∧ ((s.saveGang g place adopted).gang g).live = (s.gang g).live ∧
      (s.saveGang g place adopted).OwnsNoBlock g := by
  obtain ⟨vd, h, w, heq⟩ := s.saveGang_eq g place adopted
  obtain ⟨hlive, hnone⟩ := s.stripped_frees g
  obtain ⟨hgang, hblocks⟩ := (s.stripped g).placedAt_keeps g place
  have hlast := State.SameTasks.setRecWord ((s.stripped g).placedAt g place) vd h 0 w
  rw [heq, hlast.gang, hgang]
  refine ⟨rfl, hlive, fun b hb => hnone b ?_⟩
  rwa [hlast.blocks, hblocks] at hb

/-- The stack of adoptions that a saved gang leaves: it has no adopter. -/
theorem State.leaveStack_leaves {s t : State} {g cause : Nat} (h : s.leaveStack g cause = some t) (hp : (s.gang g).place = .saved) :
    t.blocks = s.blocks ∧ (t.gang g).place = .saved ∧ (t.gang g).adopter = none ∧ (t.gang g).live = (s.gang g).live := by
  unfold State.leaveStack at h
  extract_lets x u at h
  have hu : u.gang g = { x with adopter := none, depth := 0, waitTask := 0, prio := s.recPrio x.vd x.handle } :=
    (State.gang_setGang ..).trans (if_pos rfl)
  have hself : u.blocks = s.blocks ∧ (u.gang g).place = .saved ∧ (u.gang g).adopter = none ∧ (u.gang g).live = (s.gang g).live := by
    rw [hu]
    exact ⟨rfl, hp, rfl, rfl⟩
  split at h
  · rw [← Option.some.inj h]
    exact hself
  · next w _ =>
    split at h
    · next hw =>
      obtain ⟨hb, hg⟩ := State.enterResume_saves h
      have hne : g ≠ w := by
        rintro rfl
        rw [hself.2.1] at hw
        simp at hw
      rw [hb, hg, if_neg hne]
      exact hself
    · rw [← Option.some.inj h]
      exact hself

/-- The end of a collection that is no waiter's: the gang is saved, its adoption has ended, and it owns no block. -/
theorem State.finishSave_saves {s t : State} {g cause : Nat} (hc : cause ≠ 3) (h : s.finishSave g cause = some t) :
    (t.gang g).place = .saved ∧ (t.gang g).adopter = none ∧ (t.gang g).live = (s.gang g).live ∧ t.OwnsNoBlock g := by
  unfold State.finishSave at h
  rw [if_neg (by simpa using hc)] at h
  extract_lets u y v at h
  obtain ⟨hplace, hlive, hblocks⟩ := s.saveGang_saves g .saved false
  have hv : v.gang g = { u.gang g with hsusp := (u.gang g).hsusp || cause == 2 } := (State.gang_setGang ..).trans (if_pos rfl)
  split at h
  · next z hz =>
    obtain ⟨lblocks, lplace, ladopter, llive⟩ := State.leaveStack_leaves hz (by rw [hv]; exact hplace)
    obtain ⟨eblocks, egang⟩ := State.enterResume_saves h
    rw [egang, if_pos rfl]
    refine ⟨rfl, ladopter, llive.trans ((congrArg Gang.live hv).trans hlive), fun b hb => hblocks b ?_⟩
    rw [eblocks, lblocks] at hb
    exact hb
  · cases h

theorem gives_contextSave {s : State} {g cause : Nat} (hp : (s.gang g).place = .collecting cause) (hc : cause ≠ 3) (hl : (s.gang g).live = true)
    (hk : s.strandsOf g ≠ []) (hcol : s.collected g = true) (hsome : (s.finishSave g cause).isSome = true) :
    Gives (.contextSave g) s (fun t => (t.gang g).place = .saved ∧ (t.gang g).adopter = none ∧ (t.gang g).live = true ∧
      ∀ b ∈ t.blocks, b.2.owner ≠ some g) := by
  obtain ⟨t, ht⟩ := Option.isSome_iff_exists.mp hsome
  obtain ⟨hplace, hadopter, hlive, hblocks⟩ := State.finishSave_saves hc ht
  refine ⟨t, (?_ : execContextSave g s = _), hplace, hadopter, hlive.trans hl, hblocks⟩
  simp [execContextSave, hp, hl, hk, hcol, ht]

end Save

end Sys2Proof.Machine
end

section
/-! The timers of bins (R272), and the arrival of the cancel state (R282). -/

namespace Sys2Proof.Machine

open Sys2Proof Sys2Proof.Claims

/-! ### What a write leaves at its bytes -/

/-- A write whose bytes are not read-only, and are no descriptor of a named queue, leaves them at their place. -/
theorem State.bytes_writeLines (s : State) (core n a : Nat) (bs : List Byte) (hn : a % 128 + bs.length ≤ 128 * n)
    (hro : ∀ i < bs.length, s.roByte (a + i) = false) (hdesc : ∀ i < bs.length, isSpad (a + i) = true → inQueueDesc (a + i) = false) :
    (s.writeLines core n a bs).bytes a bs.length = bs := by
  induction n generalizing s a bs with
  | zero =>
    have : bs = [] := List.eq_nil_of_length_eq_zero (by omega)
    subst this
    rfl
  | succ n ih =>
    unfold State.writeLines
    split
    · next h =>
      rw [List.isEmpty_iff] at h
      subst h
      rfl
    · have hmod : a % 128 < 128 := Nat.mod_lt _ (by decide)
      generalize hm : 128 - a % 128 = m
      generalize hp : bs.take m = p
      generalize hq : bs.drop m = q
      have hbs : bs = p ++ q := by rw [← hp, ← hq, List.take_append_drop]
      have hlp : p.length = min m bs.length := by rw [← hp, List.length_take]
      have hlq : q.length = bs.length - m := by rw [← hq, List.length_drop]
      have hline : (s.writeLine core a p).bytes a p.length = p := by
        by_cases hs : isSpad a = true
        · have hall (i : Nat) (hi : i < p.length) : inQueueDesc (a + i) = false :=
            hdesc i (by omega) (by simp only [isSpad, decide_eq_true_eq] at hs ⊢; omega)
          rw [State.writeLine, if_pos hs, State.storeSpad_plain s a p hall, State.bytes_putBytes]
        · exact State.bytes_writeLine s core a p (by simpa using hs) (fun i hi => hro i (by omega))
      generalize hu : s.writeLine core a p = u at hline
      have huro (b : Nat) : u.roByte b = s.roByte b := by
        have hjobs : u.jobs = s.jobs := hu ▸ (State.SameJobs.writeLine s core a p).jobs
        rw [State.roByte, hjobs]
        rfl
      have hfirst : (u.writeLines core n (a + m) q).bytes a p.length = p := by
        rw [State.bytes_congr a p.length (fun b _ _ => State.writeLines_outside u core n (a + m) q b (by omega)), hline]
      rw [hbs, List.length_append, State.bytes_add, hfirst]
      by_cases hm' : bs.length ≤ m
      · have : q = [] := List.eq_nil_of_length_eq_zero (by omega)
        subst this
        rfl
      · have hpm : p.length = m := by omega
        rw [hpm, ih u (a + m) q (by omega) (fun i hi => ?_) (fun i hi => ?_)]
        · rw [huro, Nat.add_assoc]
          exact hro (m + i) (by omega)
        · rw [Nat.add_assoc]
          exact hdesc (m + i) (by omega)

theorem leNat_leBytes (n v : Nat) : leNat (leBytes n v) = v % 2 ^ (8 * n) := by
  induction n generalizing v with
  | zero => simp [leBytes, leNat, Nat.mod_one]
  | succ n ih =>
    have hpow : 2 ^ (8 * (n + 1)) = 256 * 2 ^ (8 * n) := by rw [Nat.mul_succ, pow_add, mul_comm]; rfl
    rw [leBytes, leNat, ih, hpow, Nat.mod_mul]
    simp

/-- A doubleword written to memory is read back, where none of its bytes is read-only. -/
theorem State.readLE_writeLE (s : State) (core a v : Nat) (hs : isSpad a = false) (hro : ∀ i < 8, s.roByte (a + i) = false) :
    (s.writeLE core a 8 v).readLE a 8 = v % 2 ^ 64 := by
  have h := s.bytes_writeLines core (8 / 128 + 2) a (leBytes 8 v) (by rw [length_leBytes]; omega)
    (fun i hi => hro i (by rwa [length_leBytes] at hi)) (fun i hi hspad => ?_)
  · rw [length_leBytes] at h
    have hw : (s.writeLE core a 8 v).bytes a 8 = leBytes 8 v := by
      rw [State.writeLE, State.write, length_leBytes]
      exact h
    rw [State.readLE, hw, leNat_leBytes]
  · rw [length_leBytes] at hi
    simp only [isSpad, inQueueDesc, spadOff, decide_eq_true_eq, decide_eq_false_iff_not, beq_eq_false_iff_ne] at *
    omega

/-! ### Bytes that become read-only (R225) -/

/-- No byte becomes read-only. -/
def State.NoNewRo (s t : State) : Prop := ∀ a, s.roByte a = false → t.roByte a = false

namespace State.NoNewRo

theorem refl (s : State) : s.NoNewRo s := fun _ h => h

theorem trans {s t u : State} (h : s.NoNewRo t) (k : t.NoNewRo u) : s.NoNewRo u := fun a ha => k a (h a ha)

theorem of_jobs {s t : State} (h : t.jobs = s.jobs) : s.NoNewRo t := by
  intro a ha
  rw [State.roByte, h]
  exact ha

/-- A job of which neither LIVE nor the constellation table changes. -/
theorem setJob (s : State) (j : Nat) (x : Job) (hl : x.live = (s.job j).live) (hc : x.ctabPa = (s.job j).ctabPa) : s.NoNewRo (s.setJob j x) := by
  intro a ha
  simp only [State.roByte, List.any_eq_false] at ha ⊢
  intro c hcmem
  rcases KMap.mem_insert.mp hcmem with rfl | hmem
  · dsimp only
    rw [hl, hc]
    refine KMap.get_cases (P := fun y : Job => ¬(y.live && y.ctabPa.any (fun b => b ≤ a && a < b + 4096 && 8 ≤ (a - b) % 32)) = true) ?_ ?_
    · simp [Job.zero]
    · exact fun c hc _ => ha c hc
  · exact ha c (List.mem_filter.mp hmem).1

theorem spawnRecord {s t : State} {w : Spawner} {h : Nat} {m : Option Image} {ready : Bool} (hs : s.spawnRecord w h m = some (ready, t)) :
    s.NoNewRo t := by
  unfold State.spawnRecord at hs
  extract_lets img jk word w0 w1 w2 w3 u v at hs
  have hv : v.jobs = s.jobs := by
    refine foldl_inv (fun y : State => y.jobs = s.jobs) _ (fun y i hy => ?_) _ s rfl
    exact (State.SameTasks.setRecWord y _ _ _ _).jobs.trans hy
  split at hs
  · cases hs
  · obtain ⟨-, rfl⟩ := Prod.mk.inj (Option.some.inj hs)
    refine (of_jobs hv).trans ?_
    split
    · exact setJob v jk _ rfl rfl
    · exact (of_jobs (State.SameTasks.setRecWord v _ _ _ _).jobs).trans (setJob _ jk _ rfl rfl)

theorem spawnAt {s t : State} {p : QPlace} {w : Spawner} {h : Nat} {m : Option Image} {slot : Bool} (hs : s.spawnAt p w h m slot = some t) :
    s.NoNewRo t := by
  unfold State.spawnAt at hs
  split at hs
  · next u hu =>
    cases hs
    exact (spawnRecord hu).trans (of_jobs (State.SameTasks.addEntry u p _).jobs)
  · next u hu =>
    cases hs
    refine (spawnRecord hu).trans ?_
    split
    · exact of_jobs (State.SameTasks.addEntry u p _).jobs
    · exact refl u
  · cases hs

end State.NoNewRo

/-! ### BIN_TIMER_EXPIRY (R272) -/

section Bins

variable {s : State} {pa vd : Nat}

/-- A FILL of 0 stays 0 whatever buffer becomes current. -/
theorem binFill_closed (w next : Nat) : binFill (setBits (setBits w 56 8 0) 52 4 next % 2 ^ 64) = 0 := by
  simp only [binFill, setBits, bitsOf]
  omega

/-- A batch is closed: its bin holds no record, and has no timer. -/
theorem State.closeBatch_empties (hro : ∀ i < 8, s.roByte (pa + i) = false) (hs : isSpad pa = false) :
    binFill ((s.closeBatch pa).binWord pa 0) = 0 ∧ ∀ b ∈ (s.closeBatch pa).bins, b.1 ≠ pa := by
  constructor
  · unfold State.closeBatch
    extract_lets w w1 cur busy next u v
    have hjobs : u.jobs = s.jobs := (State.SameJobs.writeLE s _ _ _ _).jobs
    have hread : v.readLE pa 8 = setBits (setBits w 56 8 0) 52 4 next % 2 ^ 64 :=
      u.readLE_writeLE 999 pa _ hs (fun i hi => State.NoNewRo.of_jobs hjobs _ (hro i hi))
    have hword : binFill (v.readLE pa 8) = 0 := by rw [hread]; exact binFill_closed w next
    exact hword
  · intro b hb
    have hne := (List.mem_filter.mp hb).2
    simpa using hne

/-- A launch closes the bin's batch, and makes no byte read-only before. -/
theorem State.launchBatch_closes {t : State} (h : s.launchBatch vd pa = some t) : ∃ u, s.NoNewRo u ∧ t = u.closeBatch pa := by
  unfold State.launchBatch at h
  extract_lets hd w die s1 spawned at h
  obtain ⟨u, hu, rfl⟩ := Option.map_eq_some_iff.mp h
  refine ⟨u, ?_, rfl⟩
  have hs1 : s.NoNewRo s1 := .of_jobs (State.SameTasks.setRecWord s _ _ _ _).jobs
  refine hs1.trans ?_
  unfold spawned at hu
  split at hu
  · cases hu
    refine .of_jobs ?_
    unfold State.endRecord
    exact (((State.SameTasks.setRecWord s1 _ _ _ _).trans (.setRecWord _ _ _ _ _)).trans (.setRecWord _ _ _ _ _)).jobs
  · split at hu
    · cases hu
    · next s2 hs2 =>
      refine State.NoNewRo.trans (.of_jobs (State.SameTasks.roomFor hs2).jobs) ?_
      cases hu
      cases hsp : s2.spawnAt (.die die) w hd none false with
      | none => exact .of_jobs rfl
      | some y => exact .spawnAt hsp

theorem gives_binTimer_idle (hbin : s.bins.find? (fun b => b.1 == pa) = some (pa, vd)) (h : binFill (s.binWord pa 0) = 0) :
    Gives (.binTimerExpiry pa) s (fun t => (∀ b, b ∈ t.bins ↔ b ∈ s.bins ∧ b.1 ≠ pa) ∧ { t with bins := s.bins } = s) := by
  refine ⟨{ s with bins := s.bins.filter (fun b => b.1 != pa) }, (?_ : execBinTimerExpiry pa s = _), fun b => ?_, rfl⟩
  · simp [execBinTimerExpiry, hbin, h]
  · simp [List.mem_filter]

theorem gives_binTimer_launches (hbin : s.bins.find? (fun b => b.1 == pa) = some (pa, vd)) (h : binFill (s.binWord pa 0) ≠ 0)
    (hdue : s.binWord pa 3 ≤ (s.die (s.homeOf pa).1).refcnt.toNat) (hsome : (s.launchBatch vd pa).isSome = true)
    (hro : ∀ i < 8, s.roByte (pa + i) = false) (hs : isSpad pa = false) :
    Gives (.binTimerExpiry pa) s (fun t => binFill (t.binWord pa 0) = 0 ∧ ∀ b ∈ t.bins, b.1 ≠ pa) := by
  obtain ⟨t, ht⟩ := Option.isSome_iff_exists.mp hsome
  obtain ⟨u, hu, rfl⟩ := State.launchBatch_closes ht
  refine ⟨u.closeBatch pa, (?_ : execBinTimerExpiry pa s = _), State.closeBatch_empties (fun i hi => hu _ (hro i hi)) hs⟩
  simp [execBinTimerExpiry, hbin, h, Nat.not_lt.mpr hdue, ht]

end Bins

/-! ### CANCEL_STATE_ARRIVAL (R282) -/

section Arrival

variable {s : State} {job unit : Nat}

/-- An entry of a job is marked as its cancel state comes, unless it resumes a gang. -/
def doomed (s : State) (job : Nat) (e : QEntry) : QEntry :=
  if e.void = false ∧ e.resume = false ∧ jobKeyOf e.vd (s.recJob e.vd e.handle) = job then { e with doomed := true } else e

/-- The cancel state reaches a core: its queue's entries are doomed, and no job changes. -/
theorem State.doom_core (hu : unit < 288) : (s.doom job unit).jobs = s.jobs ∧
    ((s.doom job unit).core unit).queue = (s.core unit).queue.map (doomed s job) := by
  unfold State.doom
  rw [if_pos hu]
  refine ⟨rfl, (congrArg Core.queue ((State.core_setCore ..).trans (if_pos rfl))).trans ?_⟩
  refine List.map_congr_left (fun e _ => ?_)
  simp [doomed, and_assoc]

/-- The check of a job's end keeps what has been reached, and every ready queue. -/
theorem State.jobCheck_keeps (s : State) (job : Nat) : ((s.jobCheck job).job job).reached = (s.job job).reached ∧
    ∀ k, ((s.jobCheck job).core k).queue = (s.core k).queue := by
  unfold State.jobCheck
  dsimp only
  split
  · have h := s.sameJobs_endJob job
    have hjob : (s.endJob job).job job = { s.job job with live := false } := by
      rw [State.job, h.jobs]
      exact s.job_jobOver job
    exact ⟨by rw [hjob], fun k => h.queue k⟩
  · exact ⟨rfl, fun _ => rfl⟩

theorem gives_cancelStateArrival (hc : (s.job job).cancelling = true) (hmem : unit ∈ s.cancelUnits job) (hnew : unit ∉ (s.job job).reached)
    (hu : unit < 288) :
    Gives (.cancelStateArrival job unit) s (fun t => unit ∈ (t.job job).reached ∧ (t.core unit).queue = (s.core unit).queue.map (doomed s job)) := by
  obtain ⟨u, hr⟩ : ∃ u, u = s.setJob job { s.job job with reached := (s.job job).reached ++ [unit] } := ⟨_, rfl⟩
  obtain ⟨hjobs, hqueue⟩ := State.doom_core (s := u) (job := job) hu
  have hwaits := State.SameJobs.cancelWaits (u.doom job unit) unit job
  generalize hv : (u.doom job unit).cancelWaits unit job = v at hwaits
  have hack : v.SameJobs (if v.cancelAcked job then v.ackCancel job else v) := by
    split
    · exact .ackCancel v job
    · exact .refl v
  have hall := hwaits.trans hack
  obtain ⟨hreached, hqueues⟩ := State.jobCheck_keeps (if v.cancelAcked job then v.ackCancel job else v) job
  refine ⟨_, (?_ : execCancelStateArrival job unit s = .next ((if v.cancelAcked job then v.ackCancel job else v).jobCheck job)), ?_, ?_⟩
  · simp [execCancelStateArrival, hc, hmem, hnew, hu, ← hv, hr]
  · have hjob : (if v.cancelAcked job then v.ackCancel job else v).job job = u.job job := by
      rw [State.job, hall.jobs, hjobs]
      rfl
    rw [hreached, hjob, hr, State.job_setJob, if_pos rfl]
    simp
  · rw [hqueues, hall.queue, hqueue, hr]
    rfl

end Arrival

end Sys2Proof.Machine
end

section

open Sys2Proof Sys2Proof.Machine Sys2Proof.Claims

/-- Settles O28: a saved gang's blocks are free before its image is written, a batch's bin is written last, and what meets the cancel state
leaves jobs and queues. -/
theorem deadlinesBinsAndCancelState : Obligations.DeadlinesBinsAndCancelState := by
  refine ⟨fun s g cause => ⟨fun hdue => ⟨gives_deadlineExpiry_alone hdue, gives_deadlineExpiry_preempts hdue⟩, gives_contextSave⟩,
    fun s pa vd job unit => ⟨fun hbin => ⟨gives_binTimer_idle hbin, gives_binTimer_launches hbin⟩, fun hc hmem hnew hu => ?_⟩⟩
  obtain ⟨t, hx, hreached, hqueue⟩ := gives_cancelStateArrival hc hmem hnew hu
  exact ⟨t, hx, hreached, fun _ => hqueue⟩

end

section
/-! Float arithmetic and compares of the lanes (R103 to R110): a float function of the sources, for each element of a paired type. -/

namespace Sys2Proof.Machine

open Sys2Proof Sys2Proof.Claims

/-! ### Any compare (R101, R108) -/

/-- A compare within its budget writes its condition's bits of the executing threads. -/
theorem laneCompare_gives {i : Instr} {s : State} {regs : List (Nat × Nat)} {m : Mask} {kd : BitVec 3} {f : State → Nat → Bool}
    (hi : exec i s = .next (s.laneIssue regs m (fun x s => s.laneCompare x kd (f s)))) (hk : kd ≠ 0) (hb : s.me.budgetOk regs = true) :
    Gives i s (fun t => LaneCompared s t (s.me.execSet m) kd (fun j => f s j = true)) := by
  by_cases hx : s.me.execSet m = 0
  · refine ⟨_, hi.trans (congrArg Host.Outcome.next (s.laneIssue_pass _ _ _ hb hx)), ?_⟩
    rw [hx]
    exact laneCompared_pass ..
  · exact ⟨_, hi.trans (congrArg Host.Outcome.next (s.laneIssue_run _ _ _ hb hx)), laneCompared_laneCompare s _ hk _⟩

/-! ### A float function of the sources (R103, R110) -/

theorem floatLane_of_not_paired {ty : Fmt} (h : ty.isPaired = false) (g : FloatFmt → Nat → Nat → Nat → Nat) (a b c : Nat) :
    floatLane ty g a b c = g (floatFmt ty) (a % 2 ^ ty.bits) (b % 2 ^ ty.bits) (c % 2 ^ ty.bits) := by
  rw [floatLane, h]
  rfl

theorem floatLane_of_paired {ty : Fmt} (h : ty.isPaired = true) (g : FloatFmt → Nat → Nat → Nat → Nat) (a b c : Nat) :
    floatLane ty g a b c = g (floatFmt ty) (a % 2 ^ 16) (b % 2 ^ 16) (c % 2 ^ 16) % 2 ^ 16 +
      2 ^ 16 * (g (floatFmt ty) (a / 2 ^ 16 % 2 ^ 16) (b / 2 ^ 16 % 2 ^ 16) (c / 2 ^ 16 % 2 ^ 16) % 2 ^ 16) := by
  rw [floatLane, h]
  rfl

theorem isPaired_eq_false_of_mem {ty : Fmt} (h : ty ∈ [Fmt.f16, .bf16, .f32, .f64]) : ty.isPaired = false := by
  revert ty
  decide

theorem isPaired_of_mem {ty : Fmt} (h : ty ∈ [Fmt.f16x2, .bf16x2]) : ty.isPaired = true ∧ ty.regs = 1 := by
  revert ty
  decide

/-- What the obligation says of one instruction: in each executing thread the function's value of the sources' low bits, or one of each half. -/
def FloatGives (i : Instr) (s : State) (r : Arith) (f : Nat → Nat → Nat → Nat) : Prop :=
  (r.ty ∈ [Fmt.f16, .bf16, .f32, .f64] → Gives i s (fun t => LaneWrote s t (s.me.execSet r.m) r.d.toNat r.ty.regs
    (s.arithVal r (fun a b c => f (a % 2 ^ r.ty.bits) (b % 2 ^ r.ty.bits) (c % 2 ^ r.ty.bits))))) ∧
  (r.ty ∈ [Fmt.f16x2, .bf16x2] → Gives i s (fun t => LaneWrote s t (s.me.execSet r.m) r.d.toNat 1
    (s.arithVal r (fun a b c => f (a % 2 ^ 16) (b % 2 ^ 16) (c % 2 ^ 16) % 2 ^ 16 +
      2 ^ 16 * (f (a / 2 ^ 16 % 2 ^ 16) (b / 2 ^ 16 % 2 ^ 16) (c / 2 ^ 16 % 2 ^ 16) % 2 ^ 16)))))

theorem laneFloat_gives {i : Instr} {s : State} {r : Arith} {n : Nat} (g : FloatFmt → Nat → Nat → Nat → Nat)
    (hi : exec i s = s.laneFloat r n g) (hb : s.me.budgetOk (r.vregs n) = true) : FloatGives i s r (g (floatFmt r.ty)) := by
  refine ⟨fun hty => ?_, fun hty => ?_⟩
  · exact laneOp_gives_of_eq hi (fun j _ => floatLane_of_not_paired (isPaired_eq_false_of_mem hty) g _ _ _) hb
  · obtain ⟨hpaired, hregs⟩ := isPaired_of_mem hty
    rw [← hregs]
    exact laneOp_gives_of_eq hi (fun j _ => floatLane_of_paired hpaired g _ _ _) hb

end Sys2Proof.Machine

open Sys2Proof Sys2Proof.Machine Sys2Proof.Claims

/-- Settles O31: each instruction applies one function of the format to its sources, or to each half of them. -/
theorem laneFloatArithmetic : Obligations.LaneFloatArithmetic := by
  intro s r q x y src num put round
  refine ⟨?_, ?_, ?_, ?_, ?_, ?_, ?_, ?_, ?_, ?_, ?_, ?_⟩
  · exact laneFloat_gives (fun x a b _ => floatAdd x r.rm r.ftz a b) rfl
  · exact laneFloat_gives (fun x a b _ => floatSub x r.rm r.ftz a b) rfl
  · exact laneFloat_gives (fun x a b _ => floatMul x r.rm r.ftz a b) rfl
  · exact laneFloat_gives (fun x a b c => floatFma x r.rm r.ftz a b c) rfl
  · exact laneFloat_gives (fun x a b _ => floatMin x r.ftz a b) rfl
  · exact laneFloat_gives (fun x a b _ => floatMax x r.ftz a b) rfl
  · exact laneFloat_gives (fun x a _ _ => floatSqrte x r.rm r.ftz a) rfl
  · exact laneFloat_gives (fun x a _ _ => floatRcpe x r.rm r.ftz a) rfl
  · exact laneFloat_gives (fun x a _ _ => floatRsqrte x r.rm r.ftz a) rfl
  · exact laneFloat_gives (fun x a _ _ => floatAbs x r.ftz a) rfl
  · exact laneFloat_gives (fun x a _ _ => floatNeg x r.ftz a) rfl
  · intro z val
    exact laneCompare_gives (f := fun s j => condNum q.cond (z.decode (z.flush q.ftz (s.src s.cur j q.ty q.imm q.a % 2 ^ q.ty.bits)))
      (z.decode (z.flush q.ftz (s.src s.cur j q.ty q.imm q.b % 2 ^ q.ty.bits)))) rfl

end

section
/-! The structured control of the lanes (R111 to R116): counters replaced, the lane stream going on from a strand whose nesting has
changed, and the illegal-nesting trap. -/

namespace Sys2Proof.Machine

open Sys2Proof Sys2Proof.Claims

/-! ### Counters (R111) -/

theorem SMap.get_foldl_set {w : Nat} (g : Nat → BitVec w) (l : List Nat) (m : SMap w) (j : Nat) :
    (l.foldl (fun m i => m.set i (g i)) m).get j = if j ∈ l then g j else m.get j := by
  induction l generalizing m with
  | nil => simp
  | cons i l ih =>
    rw [List.foldl_cons, ih, SMap.get_set]
    by_cases hji : j = i <;> simp [hji]

theorem Strand.nest_mapNest (t : Strand) (f : Nat → Nat → Nat) {j : Nat} (hj : j < 32) :
    (t.mapNest f).nest.get j = BitVec.ofNat 8 (f j (t.nest.get j).toNat) := by
  rw [Strand.mapNest, SMap.get_foldl_set, if_pos (List.mem_range.mpr hj)]

/-- The same, where the replacement does not look at the thread. -/
theorem Strand.nest_mapNest_eq {f : Nat → Nat} {g : BitVec 8 → BitVec 8} (h : ∀ c : BitVec 8, BitVec.ofNat 8 (f c.toNat) = g c) (t : Strand)
    {j : Nat} (hj : j < 32) : (t.mapNest (fun _ => f)).nest.get j = g (t.nest.get j) :=
  (t.nest_mapNest _ hj).trans (h _)

theorem Strand.getLsbD_activeSet (t : Strand) {i : Nat} (hi : i < 32) : t.activeSet.getLsbD i = decide (t.nest.get i = 0) := by
  have h := testBit_sum_range_bits (fun i => decide (t.nest.get i = 0)) 32 i
  simp only [decide_eq_true_eq, hi, decide_true, Bool.true_and] at h
  rw [Strand.activeSet, BitVec.getLsbD_ofNat, h, decide_eq_true hi, Bool.true_and]

theorem Strand.activeSet_eq_zero_iff (t : Strand) : t.activeSet = 0 ↔ ∀ i < 32, t.nest.get i ≠ 0 := by
  refine ⟨fun h i hi => ?_, fun h => BitVec.eq_of_getLsbD_eq fun i hi => ?_⟩
  · have hbit := t.getLsbD_activeSet hi
    rw [h] at hbit
    exact of_decide_eq_false (hbit.symm.trans BitVec.getLsbD_zero)
  · rw [t.getLsbD_activeSet hi, decide_eq_false (h i hi)]
    exact BitVec.getLsbD_zero.symm

theorem ofNat_toNat_add {w : Nat} (c : BitVec w) (n : Nat) : BitVec.ofNat w (c.toNat + n) = c + BitVec.ofNat w n := by
  rw [BitVec.ofNat_add, BitVec.ofNat_toNat, BitVec.setWidth_eq]

/-! ### Going on with another nesting -/

/-- A strand with other counters, constructs and loop buffer. -/
def Strand.withNesting (t : Strand) (nest : SMap 8) (stack : List Construct) (loopBuf : List (Nat × W96)) : Strand :=
  { t with nest, stack, loopBuf }

theorem Strand.withNesting_mapNest (t : Strand) (f : Nat → Nat → Nat) (nest : SMap 8) (stack : List Construct) (buf : List (Nat × W96)) :
    (t.mapNest f).withNesting nest stack buf = t.withNesting nest stack buf := rfl

/-- The lane stream goes on from a strand whose nesting alone has changed. -/
theorem laneWent_withNesting (s : State) (nest : SMap 8) (stack : List Construct) (buf : List (Nat × W96)) :
    LaneWent s (s.setMe (s.me.withNesting nest stack buf).laneAdvance) := by
  have h := laneWent_laneAdvance (s := s.setMe (s.me.withNesting nest stack buf)) (u := s.me.withNesting nest stack buf)
    (by rw [State.me_setMe])
  rw [LaneWent, State.me_setMe] at h ⊢
  rw [State.me_setMe] at h
  exact h

/-- The lane stream of the current strand has gone on with a stack of constructs and a counter for each thread; nothing else changes. -/
def Nested (s t : State) (stack : List Construct) (c : Nat → BitVec 8) : Prop :=
  OnlyMe s t ∧ LaneWent s t ∧ (∀ j < 32, t.me.nest.get j = c j) ∧ t.me.stack = stack ∧
    (t.me.withStream s.me).withNesting s.me.nest s.me.stack s.me.loopBuf = s.me

theorem nested_withNesting {s : State} {nest : SMap 8} {c : Nat → BitVec 8} (hc : ∀ j < 32, nest.get j = c j) (stack : List Construct)
    (buf : List (Nat × W96)) : Nested s (s.setMe (s.me.withNesting nest stack buf).laneAdvance) stack c := by
  have hframe := (s.me.withNesting nest stack buf).laneAdvance_frame
  refine ⟨onlyMe_setMe s _, laneWent_withNesting s nest stack buf, fun j hj => ?_, ?_, ?_⟩ <;> rw [State.me_setMe]
  · rw [← hc j hj]
    exact congrArg (fun u : Strand => u.nest.get j) hframe
  · exact (congrArg Strand.stack hframe :)
  · rw [Strand.laneAdvance_withStream]
    rfl

/-! ### Control instructions (R112, R116) -/

section Control

variable {i : Instr} {s : State} {trap : Bool}

theorem control_nests {nest : SMap 8} {stack : List Construct} {buf : List (Nat × W96)} {c : Nat → BitVec 8} (htrap : trap = false)
    (hc : ∀ j < 32, nest.get j = c j) (hi : exec i s = s.control trap (s.me.withNesting nest stack buf).laneAdvance) :
    Gives i s (fun t => Nested s t stack c) := by
  refine ⟨_, hi.trans ?_, nested_withNesting hc stack buf⟩
  rw [State.control, htrap]
  rfl

theorem control_traps {t : Strand} (htrap : trap = true) (hi : exec i s = s.control trap t) :
    exec i s = .next (s.raiseLane cNest 0 0xFFFFFFFF) := by
  rw [hi, State.control, if_pos htrap]

end Control

section Instructions

variable {s : State} {m : Mask} {imm : W32}

/-! ### IF, ELSE, ENDIF (R113) -/

theorem ifm_nests (h : stackDepth s.me.stack < 255) : Gives (.ifm m) s (fun t => Nested s t (.ifE false :: s.me.stack) (fun i =>
    if s.me.nest.get i = 0 then (if (s.me.selects m).getLsbD i then 0 else 1) else s.me.nest.get i + 1)) := by
  refine control_nests (trap := decide (255 < s.me.depth + 1)) (decide_eq_false (by unfold Strand.depth; omega)) (fun j hj => ?_) rfl
  rw [Strand.nest_mapNest _ _ hj]
  by_cases hc : s.me.nest.get j = 0
  · rw [hc, if_pos rfl, if_neg (by simp), Strand.cond]
    split <;> rfl
  · rw [if_neg hc, if_pos (BitVec.toNat_pos_of_ne_zero hc), ofNat_toNat_add]
    rfl

theorem ifm_traps (h : 255 ≤ stackDepth s.me.stack) : exec (.ifm m) s = .next (s.raiseLane cNest 0 0xFFFFFFFF) :=
  control_traps (trap := decide (255 < s.me.depth + 1)) (decide_eq_true (by unfold Strand.depth; omega)) rfl

theorem execElsem_of_if {rest : List Construct} (h : s.me.stack = .ifE false :: rest) : execElsem s = s.control false
    (s.me.withNesting (s.me.mapNest (fun _ c => if c = 0 then 1 else if c = 1 then 0 else c)).nest (.ifE true :: rest) s.me.loopBuf).laneAdvance := by
  simp only [execElsem, h]
  rfl

theorem elsem_nests {rest : List Construct} (h : s.me.stack = .ifE false :: rest) :
    Gives .elsem s (fun t => Nested s t (.ifE true :: rest) (fun i =>
      if s.me.nest.get i = 0 then 1 else if s.me.nest.get i = 1 then 0 else s.me.nest.get i)) :=
  control_nests rfl (fun _ => Strand.nest_mapNest_eq (g := fun c => if c = 0 then 1 else if c = 1 then 0 else c) (by decide) _)
    (execElsem_of_if h)

theorem elsem_traps (h : ∀ rest, s.me.stack ≠ .ifE false :: rest) : exec .elsem s = .next (s.raiseLane cNest 0 0xFFFFFFFF) := by
  refine control_traps (t := s.me) rfl (?_ : execElsem s = s.control true s.me)
  unfold execElsem
  dsimp only
  split
  · exact absurd ‹_› (h _)
  · rfl

theorem execEndif_of_if {e : Bool} {rest : List Construct} (h : s.me.stack = .ifE e :: rest) : execEndif s = s.control false
    (s.me.withNesting (s.me.mapNest (fun _ c => c - 1)).nest rest s.me.loopBuf).laneAdvance := by
  simp only [execEndif, h]
  rfl

theorem endif_nests {e : Bool} {rest : List Construct} (h : s.me.stack = .ifE e :: rest) : Gives .endif s (fun t => Nested s t rest (fun i =>
    if s.me.nest.get i = 0 then 0 else s.me.nest.get i - 1)) :=
  control_nests rfl (fun _ => Strand.nest_mapNest_eq (g := fun c => if c = 0 then 0 else c - 1) (by decide) _)
    (execEndif_of_if h)

theorem endif_traps (h : ∀ e rest, s.me.stack ≠ .ifE e :: rest) : exec .endif s = .next (s.raiseLane cNest 0 0xFFFFFFFF) := by
  refine control_traps (t := s.me) rfl (?_ : execEndif s = s.control true s.me)
  unfold execEndif
  dsimp only
  split
  · exact absurd ‹_› (h _ _)
  · rfl

/-! ### LOOP and ENDLOOP (R114) -/

/-- What LOOP needs: room for the construct and its buffer, and a run that holds the slots to its ENDLOOP (R76). -/
def LoopOk (t : Strand) (imm : W32) : Prop :=
  stackDepth t.stack < 254 ∧ (t.stack.filter (fun e => e.isLoop)).length < 16 ∧ 2 ≤ imm.toNat ∧ ∃ r rs, t.runs = r :: rs ∧ imm.toNat ≤ r.left

/-- The slots that the oldest run has left. -/
def Strand.slotsLeft (t : Strand) : Nat := match t.runs with | [] => 0 | r :: _ => r.left

/-- Where LOOP traps (R114, R116). -/
def Strand.loopTraps (t : Strand) (imm : W32) : Bool :=
  255 < t.depth + 2 || 16 ≤ (t.stack.filter (·.isLoop)).length || imm.toNat < 2 || t.slotsLeft < imm.toNat

theorem Strand.loopTraps_eq_false (t : Strand) (imm : W32) : t.loopTraps imm = false ↔ LoopOk t imm := by
  have hleft (h : 2 ≤ imm.toNat) : imm.toNat ≤ t.slotsLeft ↔ ∃ r rs, t.runs = r :: rs ∧ imm.toNat ≤ r.left := by
    unfold Strand.slotsLeft
    cases t.runs with
    | nil => simp; omega
    | cons r rs => simp
  simp only [Strand.loopTraps, Bool.or_eq_false_iff, decide_eq_false_iff_not, not_lt, not_le, Strand.depth, LoopOk, and_assoc]
  exact and_congr (decide_eq_false_iff_not.trans (by omega)) (and_congr_right fun _ => and_congr_right hleft)

theorem execLoop_eq (imm : W32) (s : State) : execLoop imm s = s.control (s.me.loopTraps imm)
    (s.me.withNesting (s.me.mapNest (fun _ c => if 0 < c then c + 2 else c)).nest (.loopE s.me.lanePc imm :: s.me.stack) []).laneAdvance := rfl

theorem loop_nests (h : LoopOk s.me imm) : Gives (.loop imm) s (fun t => Nested s t (.loopE s.me.lanePc imm :: s.me.stack) (fun i =>
    if s.me.nest.get i = 0 then 0 else s.me.nest.get i + 2)) :=
  control_nests ((s.me.loopTraps_eq_false imm).mpr h) (fun _ => Strand.nest_mapNest_eq (g := fun c => if c = 0 then 0 else c + 2) (by decide) _)
    (execLoop_eq imm s)

theorem loop_traps (h : ¬LoopOk s.me imm) : exec (.loop imm) s = .next (s.raiseLane cNest 0 0xFFFFFFFF) :=
  control_traps (Bool.eq_true_of_not_eq_false fun hf => h ((s.me.loopTraps_eq_false imm).mp hf)) (execLoop_eq imm s)

/-- The threads that CONT has parked go on with the next iteration. -/
def Strand.rejoined (t : Strand) : Strand := t.mapNest (fun _ c => if c = 1 then 0 else c)

theorem Strand.nest_rejoined (t : Strand) {j : Nat} (hj : j < 32) :
    t.rejoined.nest.get j = if t.nest.get j = 1 then 0 else t.nest.get j :=
  Strand.nest_mapNest_eq (g := fun c => if c = 1 then 0 else c) (by decide) t hj

theorem Strand.activeSet_rejoined (t : Strand) : t.rejoined.activeSet = 0 ↔ ∀ i < 32, t.nest.get i ≠ 0 ∧ t.nest.get i ≠ 1 := by
  rw [Strand.activeSet_eq_zero_iff]
  refine forall₂_congr fun i hi => ?_
  rw [t.nest_rejoined hi]
  generalize t.nest.get i = c
  revert c
  decide

theorem execEndloop_of_loop {pc : W64} {n : W32} {rest : List Construct} (h : s.me.stack = .loopE pc n :: rest) :
    execEndloop imm s = s.control (imm != n || slotIndex s.me.lanePc + 1 != slotIndex pc + imm.toNat)
      (if s.me.rejoined.activeSet != 0 then s.me.rejoined.iterate pc imm.toNat
      else (s.me.withNesting (s.me.rejoined.mapNest (fun _ c => c - 2)).nest rest []).laneAdvance) := by
  rw [← Strand.withNesting_mapNest s.me (fun _ c => if c = 1 then 0 else c), ← Strand.withNesting_mapNest _ (fun _ c => c - 2)]
  simp only [execEndloop, h]
  rfl

/-- The loop goes back to the slot after its LOOP: what the current strand has become. -/
def Looped (s t : State) (pc : W64) (imm : W32) (r : Run) (rs : List Run) : Prop :=
  OnlyMe s t ∧ (∀ j < 32, t.me.nest.get j = if s.me.nest.get j = 1 then 0 else s.me.nest.get j) ∧
    t.me.runs = { r with pc := nextLanePc pc, left := r.left + imm.toNat - 2 } :: rs ∧
    { t.me with runs := s.me.runs, redo := s.me.redo, nest := s.me.nest } = s.me

section Endloop

variable {pc : W64} {rest : List Construct} (hstack : s.me.stack = .loopE pc imm :: rest)
  (hslots : slotIndex s.me.lanePc + 1 = slotIndex pc + imm.toNat)

include hstack hslots

theorem endloop_loops (hgoes : ∃ i < 32, s.me.nest.get i = 0 ∨ s.me.nest.get i = 1) {r : Run} {rs : List Run} (hruns : s.me.runs = r :: rs) :
    Gives (.endloop imm) s (fun t => Looped s t pc imm r rs) := by
  have hactive : (s.me.rejoined.activeSet != 0) = true := by
    obtain ⟨i, hi, hc⟩ := hgoes
    rw [bne_iff_ne, Ne, Strand.activeSet_rejoined]
    exact fun h => hc.elim (h i hi).1 (h i hi).2
  have hnext : s.me.rejoined.iterate pc imm.toNat =
      { s.me.rejoined with runs := { r with pc := nextLanePc pc, left := r.left + imm.toNat - 2 } :: rs, redo := none } := by
    rw [Strand.iterate, show s.me.rejoined.runs = r :: rs from hruns]
  refine ⟨s.setMe (s.me.rejoined.iterate pc imm.toNat), (execEndloop_of_loop hstack).trans ?_, onlyMe_setMe s _, fun j hj => ?_, ?_, ?_⟩
  · rw [if_pos hactive]
    simp [State.control, hslots]
  all_goals rw [State.me_setMe, hnext]
  · exact s.me.nest_rejoined hj
  · rfl

theorem endloop_nests (hover : ∀ i < 32, s.me.nest.get i ≠ 0 ∧ s.me.nest.get i ≠ 1) :
    Gives (.endloop imm) s (fun t => Nested s t rest (fun i => s.me.nest.get i - 2)) := by
  have hidle : (s.me.rejoined.activeSet != 0) = false := by rw [s.me.activeSet_rejoined.mpr hover]; rfl
  refine control_nests (trap := imm != imm || slotIndex s.me.lanePc + 1 != slotIndex pc + imm.toNat) (by simp [hslots]) (fun j hj => ?_)
    ((execEndloop_of_loop hstack).trans (by rw [hidle]; rfl))
  obtain ⟨h0, h1⟩ := hover j hj
  rw [Strand.nest_mapNest _ _ hj, s.me.nest_rejoined hj, if_neg h1]
  generalize s.me.nest.get j = c at h0 h1
  revert c
  decide

end Endloop

theorem endloop_traps (h : ∀ pc rest, s.me.stack ≠ .loopE pc imm :: rest) : exec (.endloop imm) s = .next (s.raiseLane cNest 0 0xFFFFFFFF) := by
  cases hstack : s.me.stack with
  | nil => exact control_traps (t := s.me) rfl (by simp only [exec, execEndloop, hstack])
  | cons e rest =>
    cases e with
    | ifE e => exact control_traps (t := s.me) rfl (by simp only [exec, execEndloop, hstack])
    | loopE pc n =>
      have hn : imm ≠ n := fun hn => h pc rest (hn ▸ hstack)
      exact control_traps (by simp [hn]) (execEndloop_of_loop hstack)

/-! ### BRK and CONT (R115) -/

theorem State.leaveLoop_eq (s : State) (m : Mask) (n : Nat) : s.leaveLoop m n = s.control (!s.me.stack.any (·.isLoop))
    (s.me.withNesting (s.me.mapNest (fun i c => if c = 0 && s.me.cond m i then s.me.relDepth + n else c)).nest s.me.stack
      s.me.loopBuf).laneAdvance := rfl

/-- The active threads whose condition holds leave the body of the loop. -/
theorem leaveLoop_nests {i : Instr} {n : Nat} (hi : exec i s = s.leaveLoop m n) (hloop : ∃ e ∈ s.me.stack, e.isLoop = true) :
    Gives i s (fun t => Nested s t s.me.stack (fun i =>
      if s.me.nest.get i = 0 ∧ (s.me.selects m).getLsbD i then BitVec.ofNat 8 (s.me.relDepth + n) else s.me.nest.get i)) := by
  refine control_nests (by simpa using hloop) (fun j hj => ?_) (hi.trans (s.leaveLoop_eq m n))
  rw [Strand.nest_mapNest _ _ hj, Strand.cond]
  by_cases hc : s.me.nest.get j = 0
  · rw [hc]
    by_cases hm : (s.me.selects m).getLsbD j = true <;> simp [hm]
  · have hpos := BitVec.toNat_pos_of_ne_zero hc
    rw [if_neg (by simp [hpos.ne']), if_neg (fun h => hc h.1), BitVec.ofNat_toNat, BitVec.setWidth_eq]

theorem leaveLoop_traps {i : Instr} {n : Nat} (hi : exec i s = s.leaveLoop m n) (hloop : ¬∃ e ∈ s.me.stack, e.isLoop = true) :
    exec i s = .next (s.raiseLane cNest 0 0xFFFFFFFF) :=
  control_traps (by simpa using hloop) (hi.trans (s.leaveLoop_eq m n))

end Instructions

end Sys2Proof.Machine

open Sys2Proof Sys2Proof.Machine Sys2Proof.Claims

/-- Settles O35: the effect of each construct on the counters, and where it traps. -/
theorem laneControlFlow : Obligations.LaneControlFlow := by
  intro s m imm u c cond inLoop above nests traps
  refine ⟨ifm_nests, ifm_traps, fun rest => elsem_nests, elsem_traps, fun e rest => endif_nests, endif_traps, ⟨loop_nests, loop_traps⟩,
    fun pc rest hstack hslots => ⟨fun hgoes r rs => endloop_loops hstack hslots hgoes, endloop_nests hstack hslots⟩, endloop_traps,
    fun h => ⟨leaveLoop_nests rfl h, leaveLoop_nests rfl h⟩, fun h => ⟨leaveLoop_traps rfl h, leaveLoop_traps rfl h⟩⟩

end

section
/-! The cross-thread instructions (R120 to R126): the values that they write, said of the executing threads in ascending order. -/

namespace Sys2Proof.Machine

open Sys2Proof Sys2Proof.Claims

/-! ### One value for each executing thread -/

/-- An instruction within its budget writes in the executing threads what agrees with its values there. -/
theorem laneIssue_gives {i : Instr} {s : State} {regs : List (Nat × Nat)} {m : Mask} {d n : Nat} {written : W32 → State → Nat → Nat}
    {val : Nat → Nat} (hi : exec i s = .next (s.laneIssue regs m (fun x s => s.laneWrite x d n (written x s))))
    (hval : ∀ j ∈ threadsIn (s.me.execSet m), written (s.me.execSet m) s j % 2 ^ (32 * n) = val j % 2 ^ (32 * n))
    (hb : s.me.budgetOk regs = true) : Gives i s (fun t => LaneWrote s t (s.me.execSet m) d n val) := by
  by_cases hx : s.me.execSet m = 0
  · refine ⟨_, hi.trans (congrArg Host.Outcome.next (s.laneIssue_pass _ _ _ hb hx)), ?_⟩
    rw [hx]
    exact laneWrote_pass ..
  · obtain ⟨hme, hwent, hv, hrest⟩ := laneWrote_laneWrite s (s.me.execSet m) d n (written (s.me.execSet m) s)
    exact ⟨_, hi.trans (congrArg Host.Outcome.next (s.laneIssue_run _ _ _ hb hx)), hme, hwent,
      fun j hj hxj => (hv j hj hxj).trans (hval j ((mem_threadsIn _ j).mpr ⟨hj, hxj⟩)), hrest⟩

theorem pairwise_threadsIn (x : W32) : (threadsIn x).Pairwise (· < ·) := List.pairwise_lt_range.filter _

/-- In an ascending list, what stands before an element is what is smaller. -/
theorem takeWhile_ne_eq_filter_lt {l : List Nat} (hl : l.Pairwise (· < ·)) {j : Nat} (hj : j ∈ l) :
    l.takeWhile (fun i => i != j) = l.filter (fun i => i < j) := by
  induction l with
  | nil => simp at hj
  | cons i l ih =>
    obtain ⟨hlt, hl⟩ := List.pairwise_cons.mp hl
    rcases List.mem_cons.mp hj with rfl | hj
    · have hnone : l.filter (fun i => i < j) = [] := List.filter_eq_nil_iff.mpr fun k hk => by simpa using (hlt k hk).le
      simp [hnone]
    · simp [(hlt j hj).ne, hlt j hj, ih hl hj]

/-! ### SHFL (R121) -/

/-- What SHFL gives a thread that names a source: the source's value where it executes, else zero or the thread's own. -/
def shflValue (s : State) (r : Cross) (x : W32) (zf : Bool) (j : Nat) (source : Option Nat) : Nat :=
  match source with
  | some i => if x.getLsbD i then s.src s.cur i r.ty r.imm r.a else if zf then 0 else s.src s.cur j r.ty r.imm r.a
  | none => if zf then 0 else s.src s.cur j r.ty r.imm r.a

theorem shfl_gives {mode : ShflMode} {s : State} {r : Cross} {named : Nat → Option Nat}
    (hnamed : ∀ j, shflSource mode j (s.src32 s.cur j r.imm r.b) = named j) (zf : Bool)
    (hb : s.me.budgetOk (Instr.shfl mode zf r).laneUse.v = true) : Gives (.shfl mode zf r) s (fun t =>
      LaneWrote s t (s.me.execSet r.m) r.d.toNat r.ty.regs (fun j => shflValue s r (s.me.execSet r.m) zf j (named j))) := by
  refine laneIssue_gives (written := fun x s j => shflValue s r x zf j (shflSource mode j (s.src32 s.cur j r.imm r.b))) rfl (fun j _ => ?_) hb
  rw [hnamed]

theorem shflSource_slide (j : Nat) (b : W32) : shflSource .slide j b =
    if 0 ≤ (j : Int) + b.toInt ∧ (j : Int) + b.toInt ≤ 31 then some ((j : Int) + b.toInt).toNat else none := by
  simp [shflSource]

/-! ### GATHERV (R122) -/

/-- The low bytes of a number, sign-extended to a register. -/
theorem extendTo_signed {ty : Fmt} (hs : signedFmt ty = true) (h64 : ty.is64 = false) (v : Nat) :
    extendTo ty v = ((BitVec.ofNat ty.bits v).signExtend 32).toNat := by
  rw [extendTo, h64, if_neg Bool.false_ne_true, if_pos hs, intVal_of_signedFmt hs, intBits_eq_toNat_ofInt]
  rfl

/-- The bytes that a thread names in the line, little-endian. -/
def gathered (s : State) (r : Cross) (w : Width) (x : W32) (j : Nat) : Nat :=
  let o := (s.src32 s.cur j r.imm r.b).toNat % 128 / w.bytes * w.bytes
  ((List.range w.bytes).map (fun i => lineByte x (fun u => (s.src32 s.cur u r.imm r.a).toNat) (o + i) * 256 ^ i)).sum

/-- What GATHERV writes of the bytes that it has gathered. -/
def gatherExtend (ty : Fmt) (w : Width) (v : Nat) : Nat :=
  if ty == .s32 then match w with
    | .w8 => extendTo .s8 v
    | .w16 => extendTo .s16 v
    | _ => v
  else v

theorem gatherExtend_s32 {w : Width} (hw : w ∈ [Width.w8, .w16, .w32]) (v : Nat) :
    gatherExtend .s32 w v % 2 ^ 32 = ((BitVec.ofNat (8 * w.bytes) v).signExtend 32).toNat % 2 ^ 32 := by
  simp only [List.mem_cons, List.not_mem_nil, or_false] at hw
  rcases hw with rfl | rfl | rfl
  · exact congrArg (· % _) (extendTo_signed (ty := .s8) rfl rfl v)
  · exact congrArg (· % _) (extendTo_signed (ty := .s16) rfl rfl v)
  · show v % 2 ^ 32 = ((BitVec.ofNat 32 v).signExtend 32).toNat % 2 ^ 32
    rw [BitVec.signExtend_eq, BitVec.toNat_ofNat, Nat.mod_mod]

theorem gatherv_gives {s : State} {r : Cross} {w : Width} {val : Nat → Nat}
    (hval : ∀ j, gatherExtend r.ty w (gathered s r w (s.me.execSet r.m) j) % 2 ^ 32 = val j % 2 ^ 32)
    (hb : s.me.budgetOk (Instr.gatherv w r).laneUse.v = true) :
    Gives (.gatherv w r) s (fun t => LaneWrote s t (s.me.execSet r.m) r.d.toNat 1 val) :=
  laneIssue_gives (written := fun x s j => gatherExtend r.ty w (gathered s r w x j)) rfl (fun j _ => hval j) hb

/-! ### VOTE and BALLOT (R123, R124) -/

section Votes

variable (xs : List Nat) (a : Nat → Nat)

/-- The threads of a set with their values, as VOTE reads them. -/
def voters : List (Nat × Nat) := xs.map (fun j => (j, a j))

theorem voters_filter : (voters xs a).filter (fun p => p.2 != 0) = voters (xs.filter (fun j => a j != 0)) a := List.filter_map

theorem voteValue_anyOf : voteValue .anyOf (voters xs a) = if ∃ j ∈ xs, a j ≠ 0 then 1 else 0 := by
  simp [voteValue, voters, bitNat]

theorem voteValue_every : voteValue .every (voters xs a) = if ∀ j ∈ xs, a j ≠ 0 then 1 else 0 := by
  rw [voteValue, voters_filter]
  simp [voters, bitNat, List.length_filter_eq_length_iff]

theorem voteValue_same : voteValue .same (voters xs a) = if ∀ i ∈ xs, ∀ j ∈ xs, a i = a j then 1 else 0 := by
  have hall : (voters xs a).all (fun p => p.2 == ((voters xs a).headD (0, 0)).2) = true ↔ ∀ i ∈ xs, ∀ j ∈ xs, a i = a j := by
    cases xs with
    | nil => simp [voters]
    | cons k l =>
      rw [voters, List.all_map, List.all_eq_true]
      simp only [List.map_cons, List.headD_cons, Function.comp_apply, beq_iff_eq]
      exact ⟨fun h i hi j hj => (h i hi).trans (h j hj).symm, fun h i hi => h i hi k (List.mem_cons_self ..)⟩
  simp only [voteValue, bitNat, hall]

theorem voteValue_count : voteValue .count (voters xs a) = (xs.filter (fun j => a j != 0)).length := by
  rw [voteValue, voters_filter]
  exact List.length_map ..

theorem voteValue_first : voteValue .first (voters xs a) = (xs.find? (fun j => a j != 0)).getD 32 := by
  rw [voteValue, voters_filter, ← List.head?_filter]
  cases xs.filter (fun j => a j != 0) <;> rfl

end Votes

theorem vote_gives {op : VoteOp} {s : State} {r : Cross} {v : Nat}
    (hv : voteValue op (voters (threadsIn (s.me.execSet r.m)) (fun j => s.src s.cur j r.ty r.imm r.a)) = v)
    (hb : s.me.budgetOk (Instr.vote op r).laneUse.v = true) :
    Gives (.vote op r) s (fun t => LaneWrote s t (s.me.execSet r.m) r.d.toNat 1 (fun _ => v)) :=
  laneIssue_gives (written := fun x s _ => voteValue op (voters (threadsIn x) (fun j => s.src s.cur j r.ty r.imm r.a))) rfl
    (fun _ _ => congrArg (· % _) hv) hb

theorem find?_threadsIn {x : W32} {p : Nat → Bool} {j : Nat} (hj : j ∈ threadsIn x) (hp : p j = true)
    (hmin : ∀ i < j, i ∈ threadsIn x → p i = false) : (threadsIn x).find? p = some j := by
  obtain ⟨hlt, hx⟩ := (mem_threadsIn x j).mp hj
  rw [threadsIn, List.find?_filter, List.find?_range_eq_some]
  refine ⟨by simp [hx, hp], List.mem_range.mpr hlt, fun i hi => ?_⟩
  by_cases hxi : x.getLsbD i = true
  · simp [hmin i hi ((mem_threadsIn x i).mpr ⟨hi.trans hlt, hxi⟩)]
  · simp [hxi]

theorem threadSet_filter_eq {x v : W32} {p : Nat → Bool} (h : ∀ j < 32, v.getLsbD j = true ↔ j ∈ threadsIn x ∧ p j = true) :
    threadSet ((threadsIn x).filter p) = v := by
  refine BitVec.eq_of_getLsbD_eq fun j hj => ?_
  rw [getLsbD_threadSet, decide_eq_true hj, Bool.true_and, Bool.eq_iff_iff, List.contains_iff_mem, List.mem_filter, h j hj]

theorem ballot_gives {s : State} {r : Cross} {v : W32}
    (hv : threadSet ((threadsIn (s.me.execSet r.m)).filter (fun j => s.src s.cur j r.ty r.imm r.a != 0)) = v)
    (hb : s.me.budgetOk (Instr.ballot r).laneUse.v = true) :
    Gives (.ballot r) s (fun t => LaneWrote s t (s.me.execSet r.m) r.d.toNat 1 (fun _ => v.toNat)) :=
  laneIssue_gives (written := fun x s _ => (threadSet ((threadsIn x).filter (fun j => s.src s.cur j r.ty r.imm r.a != 0))).toNat) rfl
    (fun _ _ => by rw [hv]) hb

/-! ### SCAN (R125) -/

/-- What a scan gives a thread: the fold over the threads up to it, without it where the scan is exclusive. -/
theorem find?_scanList (step : Nat → Nat → Nat) (excl : Bool) (a : Nat → Nat) {l : List Nat} (hl : l.Pairwise (· < ·)) {j : Nat} (hj : j ∈ l)
    (acc : Nat) : ((scanList step excl acc (voters l a)).find? (fun p => p.1 == j)).map (·.2) =
      some (((l.filter (fun i => if excl then i < j else i ≤ j)).map a).foldl step acc) := by
  induction l generalizing acc with
  | nil => simp at hj
  | cons i l ih =>
    obtain ⟨hlt, hl⟩ := List.pairwise_cons.mp hl
    rw [voters, List.map_cons, scanList]
    rcases List.mem_cons.mp hj with rfl | hj
    · have hnone : l.filter (fun i => if excl then i < j else i ≤ j) = [] := by
        refine List.filter_eq_nil_iff.mpr fun k hk => ?_
        have := hlt k hk
        cases excl <;> simp <;> omega
      rw [List.filter_cons, hnone]
      cases excl <;> simp
    · have hij := hlt j hj
      rw [List.find?_cons_of_neg (by simpa using hij.ne), List.filter_cons_of_pos (by cases excl <;> simp <;> omega)]
      exact ih hl hj _

/-- What SCAN gives a thread. -/
def scanValue (s : State) (r : Cross) (op : ScanOp) (excl : Bool) (x : W32) (j : Nat) : Nat :=
  let out := scanList (scanStep op r.ty) excl (scanIdentity op r.ty) (voters (threadsIn x) (fun i => s.src s.cur i r.ty r.imm r.a))
  ((out.find? (fun p => p.1 == j)).map (·.2)).getD 0

theorem scan_gives {op : ScanOp} {excl : Bool} {s : State} {r : Cross} (hb : s.me.budgetOk (Instr.scan op excl r).laneUse.v = true) :
    Gives (.scan op excl r) s (fun t => LaneWrote s t (s.me.execSet r.m) r.d.toNat r.ty.regs (fun j =>
      (((threadsIn (s.me.execSet r.m)).filter (fun i => if excl then i < j else i ≤ j)).map (fun i => s.src s.cur i r.ty r.imm r.a)).foldl
        (scanStep op r.ty) (scanIdentity op r.ty))) := by
  refine laneIssue_gives (written := fun x s j => scanValue s r op excl x j) rfl (fun j hj => ?_) hb
  simp only [scanValue]
  rw [find?_scanList _ _ _ (pairwise_threadsIn _) hj, Option.getD_some]

/-! ### INTERSECT (R126) -/

/-- The two registers that INTERSECT gives a thread, with its place among the executing threads. -/
def intersectValue (s : State) (r : Cross) (xs : List Nat) (place : Nat) : Nat :=
  let a (i : Nat) : Nat := (s.src32 s.cur i r.imm r.a).toNat
  let b (i : Nat) : Nat := (s.src32 s.cur i r.imm r.b).toNat
  let last := (xs.getLast?).getD 0
  let lim := min (a last) (b last)
  let ms := matchesOf xs a b
  (match ms[place]? with | some p => 2 ^ 31 + p.2 * 256 + p.1 | none => 0) +
    2 ^ 32 * (ms.length * 65536 + (xs.filter (fun i => b i ≤ lim)).length * 256 + (xs.filter (fun i => a i ≤ lim)).length)

theorem intersect_gives {s : State} {r : Cross} (hb : s.me.budgetOk (Instr.intersect r).laneUse.v = true) :
    Gives (.intersect r) s (fun t => LaneWrote s t (s.me.execSet r.m) r.d.toNat 2 (fun j =>
      intersectValue s r (threadsIn (s.me.execSet r.m)) ((threadsIn (s.me.execSet r.m)).filter (fun i => i < j)).length)) := by
  refine laneIssue_gives (written := fun x s j => intersectValue s r (threadsIn x) ((threadsIn x).takeWhile (fun i => i != j)).length) rfl
    (fun j hj => ?_) hb
  rw [takeWhile_ne_eq_filter_lt (pairwise_threadsIn _) hj]

end Sys2Proof.Machine

open Sys2Proof Sys2Proof.Machine Sys2Proof.Claims

/-- Settles O36: each instruction's value by its own lemma; the executing threads are the members of `threadsIn`, ascending. -/
theorem crossThreadInstructions : Obligations.CrossThreadInstructions := by
  intro s r x xs inX a a32 b put shfl
  have hmem (j : Nat) : inX j ↔ j ∈ xs := (mem_threadsIn x j).symm
  refine ⟨shfl_gives fun _ => rfl, shfl_gives fun _ => rfl, shfl_gives fun j => shflSource_slide j _, shfl_gives fun _ => rfl,
    fun w hw => ⟨fun hty => gatherv_gives fun j => ?_, fun hty => gatherv_gives fun j => ?_⟩, ?_, fun v hv => ballot_gives ?_,
    fun op excl => scan_gives, intersect_gives⟩
  · rw [hty]
    rfl
  · rw [hty]
    exact gatherExtend_s32 hw _
  · simp only [hmem]
    refine ⟨fun h => vote_gives ?_, fun h => vote_gives ?_, fun h => vote_gives ?_, fun h => vote_gives ?_, fun h => vote_gives ?_,
      fun h => vote_gives ?_, fun _ => vote_gives (voteValue_count xs a), fun j h => vote_gives ?_, fun h => vote_gives ?_⟩
    · exact (voteValue_anyOf xs a).trans (if_pos h)
    · exact (voteValue_anyOf xs a).trans (if_neg (by simpa using h))
    · exact (voteValue_every xs a).trans (if_pos h)
    · exact (voteValue_every xs a).trans (if_neg (by simpa using h))
    · exact (voteValue_same xs a).trans (if_pos fun i hi j hj => h i j hi hj)
    · refine (voteValue_same xs a).trans (if_neg fun hsame => ?_)
      obtain ⟨i, j, hi, hj, hne⟩ := h
      exact hne (hsame i hi j hj)
    · obtain ⟨hj, ha, hmin⟩ := h
      rw [voteValue_first, find?_threadsIn hj (by simpa using ha) fun i hi hx => by simpa using hmin i hi hx]
      rfl
    · rw [voteValue_first, List.find?_eq_none.mpr fun i hi => by simpa using h i hi]
      rfl
  · refine threadSet_filter_eq fun j hj => ?_
    rw [hv j hj, hmem, bne_iff_ne]

end

section
/-! Finite values of the float formats (R127, R128): their fields, their magnitudes, and the rounding of a value that a format holds (R147). -/

namespace Sys2Proof.Machine

open Sys2Proof Sys2Proof.Claims

/-! ### Magnitudes -/

/-- The magnitude of a finite value; nothing for an infinity or a NaN. -/
def Num.mag : Num → ℚ
  | .fin _ m e => (m : ℚ) * (2 : ℚ) ^ e
  | _ => 0

theorem Num.mag_nonneg (x : Num) : 0 ≤ x.mag := by
  cases x with
  | fin _ m e => exact mul_nonneg m.cast_nonneg (zpow_pos two_pos e).le
  | nan => exact le_rfl
  | inf _ => exact le_rfl

theorem natCast_mul_two_zpow_sub (m : Nat) {e e' : Int} (h : e ≤ e') : ((m * 2 ^ (e' - e).toNat : Nat) : ℚ) * (2 : ℚ) ^ e = m * (2 : ℚ) ^ e' := by
  rw [Nat.cast_mul, Nat.cast_pow, Nat.cast_ofNat, mul_assoc, ← zpow_natCast, ← zpow_add₀ two_ne_zero]
  congr 2
  omega

theorem leDy_iff (m1 : Nat) (e1 : Int) (m2 : Nat) (e2 : Int) : leDy m1 e1 m2 e2 = true ↔ (m1 : ℚ) * (2 : ℚ) ^ e1 ≤ m2 * (2 : ℚ) ^ e2 := by
  rw [leDy, decide_eq_true_iff, ← natCast_mul_two_zpow_sub m1 (min_le_left e1 e2), ← natCast_mul_two_zpow_sub m2 (min_le_right e1 e2),
    mul_le_mul_iff_left₀ (zpow_pos two_pos _), Nat.cast_le]

/-- A number of n bits at an exponent lies below the power of two that follows. -/
theorem natCast_mul_two_zpow_lt {m n : Nat} (h : m < 2 ^ n) (e : Int) : (m : ℚ) * (2 : ℚ) ^ e < (2 : ℚ) ^ ((n : Int) + e) := by
  rw [zpow_add₀ two_ne_zero, zpow_natCast]
  exact mul_lt_mul_of_pos_right (by exact_mod_cast h) (zpow_pos two_pos _)

theorem two_zpow_le_natCast_mul {m n : Nat} (h : 2 ^ n ≤ m) (e : Int) : (2 : ℚ) ^ ((n : Int) + e) ≤ (m : ℚ) * (2 : ℚ) ^ e := by
  rw [zpow_add₀ two_ne_zero, zpow_natCast]
  exact mul_le_mul_of_nonneg_right (by exact_mod_cast h) (zpow_pos two_pos _).le

theorem bitLen_le {m n : Nat} (h : m < 2 ^ n) : bitLen m ≤ n := by
  rw [bitLen]
  split
  · exact n.zero_le
  · exact Nat.succ_le_of_lt ((Nat.log2_lt ‹_›).mpr h)

/-- A value that is whole at the last place keeps every bit. -/
theorem roundAt_self (rm : Rm) (seed : BitVec 32) (pos : Nat) (neg : Bool) (m : Nat) (e : Int) : roundAt rm seed pos neg m e e = m := by
  simp [roundAt]

/-! ### Fields (R127) -/

namespace FloatFmt

variable (x : FloatFmt)

def expField (b : Nat) : Nat := b / 2 ^ x.f % 2 ^ x.eb
def fracField (b : Nat) : Nat := b % 2 ^ x.f
def isNeg (b : Nat) : Bool := b / 2 ^ (x.f + x.eb) % 2 == 1

/-- The exponent and the fraction of the largest finite value. -/
def topExp : Nat := if x.finiteTop then 2 ^ x.eb - 1 else 2 ^ x.eb - 2
def topFrac : Nat := if x.finiteTop then 2 ^ x.f - 2 else 2 ^ x.f - 1

/-- The format has a fraction and an exponent field with room for normal values. -/
def HasFields : Prop := 1 ≤ x.f ∧ 2 ≤ x.eb

variable {x}

theorem fracField_lt (b : Nat) : x.fracField b < 2 ^ x.f := Nat.mod_lt _ (Nat.two_pow_pos _)
theorem expField_lt (b : Nat) : x.expField b < 2 ^ x.eb := Nat.mod_lt _ (Nat.two_pow_pos _)

/-- Bits are their fields put together. -/
theorem eq_fields {b : Nat} (hb : b < 2 ^ (1 + x.f + x.eb)) : b = x.signBit (x.isNeg b) + x.expField b * 2 ^ x.f + x.fracField b := by
  have hsign : b / 2 ^ (x.f + x.eb) < 2 := Nat.div_lt_of_lt_mul (by rwa [← pow_succ, show x.f + x.eb + 1 = 1 + x.f + x.eb by omega])
  have hsb : x.signBit (x.isNeg b) = 2 ^ x.f * (2 ^ x.eb * (b / 2 ^ (x.f + x.eb))) := by
    rw [signBit, isNeg, ← mul_assoc, ← pow_add]
    interval_cases b / 2 ^ (x.f + x.eb) <;> simp
  rw [hsb, pow_add, ← Nat.div_div_eq_div_mul, mul_comm (x.expField b), ← mul_add, expField, fracField, Nat.div_add_mod, Nat.div_add_mod]

theorem fracField_mk {E F : Nat} (hF : F < 2 ^ x.f) : x.fracField (E * 2 ^ x.f + F) = F := by
  rw [fracField, mul_comm, Nat.mul_add_mod, Nat.mod_eq_of_lt hF]

theorem expField_mk {E F : Nat} (hE : E < 2 ^ x.eb) (hF : F < 2 ^ x.f) : x.expField (E * 2 ^ x.f + F) = E := by
  rw [expField, mul_comm, Nat.mul_add_div (Nat.two_pow_pos _), Nat.div_eq_of_lt hF, add_zero, Nat.mod_eq_of_lt hE]

theorem decode_eq (b : Nat) : x.decode b =
    if x.expField b = 2 ^ x.eb - 1 ∧ !x.finiteTop then (if x.fracField b = 0 then .inf (x.isNeg b) else .nan)
    else if x.expField b = 2 ^ x.eb - 1 ∧ x.fracField b = 2 ^ x.f - 1 then .nan
    else if x.expField b = 0 then .fin (x.isNeg b) (x.fracField b) x.qmin
    else .fin (x.isNeg b) (2 ^ x.f + x.fracField b) ((x.expField b : Int) - x.bias - x.f) := rfl

/-- A finite value has the fields of a subnormal, or those of a normal value not beyond the largest. -/
theorem decode_fin {b : Nat} {neg : Bool} {m : Nat} {e : Int} (h : x.decode b = .fin neg m e) : neg = x.isNeg b ∧
    (x.expField b = 0 ∧ m = x.fracField b ∧ e = x.qmin ∨
      1 ≤ x.expField b ∧ m = 2 ^ x.f + x.fracField b ∧ e = (x.expField b : Int) - x.bias - x.f ∧ x.expField b ≤ x.topExp ∧
        (x.expField b = x.topExp → x.fracField b ≤ x.topFrac)) := by
  have hE := x.expField_lt b
  have hF := x.fracField_lt b
  rw [decode_eq] at h
  split at h
  · split at h <;> cases h
  next hinf =>
  split at h
  · cases h
  next hnan =>
  split at h
  · cases h
    exact ⟨rfl, .inl ⟨‹_›, rfl, rfl⟩⟩
  · cases h
    refine ⟨rfl, .inr ⟨by omega, rfl, rfl, ?_, fun htop => ?_⟩⟩
    · rw [topExp]
      split
      · omega
      next hfin =>
        have hne : x.expField b ≠ 2 ^ x.eb - 1 := fun heq => hinf ⟨heq, by simpa using hfin⟩
        omega
    · rw [topFrac]
      split
      next hfin =>
        rw [topExp, if_pos hfin] at htop
        have hne : x.fracField b ≠ 2 ^ x.f - 1 := fun heq => hnan ⟨htop, heq⟩
        omega
      · omega

/-- An infinity has the top exponent, no fraction, and a format without finite values there. -/
theorem decode_inf {b : Nat} {neg : Bool} (h : x.decode b = .inf neg) :
    neg = x.isNeg b ∧ x.expField b = 2 ^ x.eb - 1 ∧ x.fracField b = 0 ∧ x.finiteTop = false := by
  rw [decode_eq] at h
  split at h
  next htop =>
    split at h
    · cases h
      exact ⟨rfl, htop.1, ‹_›, by simpa using htop.2⟩
    · cases h
  · split_ifs at h

theorem topExp_lt (hx : x.HasFields) : x.topExp < 2 ^ x.eb ∧ 1 ≤ x.topExp := by
  have hT : 2 ^ 2 ≤ 2 ^ x.eb := Nat.pow_le_pow_right two_pos hx.2
  unfold topExp
  split <;> omega

theorem topFrac_lt : x.topFrac < 2 ^ x.f := by
  have hP := Nat.two_pow_pos x.f
  unfold topFrac
  split <;> omega

theorem largest_eq (hx : x.HasFields) : x.largest = x.topExp * 2 ^ x.f + x.topFrac := by
  have hP : 2 ^ 1 ≤ 2 ^ x.f := Nat.pow_le_pow_right two_pos hx.1
  obtain ⟨n, hn⟩ : ∃ n, 2 ^ x.eb = n + 2 := Nat.exists_eq_add_of_le' (Nat.pow_le_pow_right two_pos (one_le_two.trans hx.2))
  unfold largest topExp topFrac
  rw [pow_add, mul_comm, hn]
  split
  · rw [show n + 2 - 1 = n + 1 by omega, add_mul, add_mul]
    omega
  · rw [show n + 2 - 1 = n + 1 by omega, show n + 2 - 2 = n by omega, add_mul]
    omega

theorem decode_largest (hx : x.HasFields) : x.decode x.largest = .fin false (2 ^ x.f + x.topFrac) ((x.topExp : Int) - x.bias - x.f) := by
  obtain ⟨hE, hpos⟩ := topExp_lt hx
  have hF := x.topFrac_lt
  have hneg : x.isNeg x.largest = false := by
    have hlt : x.largest < 2 ^ (x.f + x.eb) := by
      rw [largest_eq hx, pow_add]
      calc x.topExp * 2 ^ x.f + x.topFrac < (x.topExp + 1) * 2 ^ x.f := by rw [add_mul]; omega
        _ ≤ 2 ^ x.f * 2 ^ x.eb := by rw [mul_comm]; exact Nat.mul_le_mul_left _ hE
    rw [isNeg, Nat.div_eq_of_lt hlt]
    rfl
  rw [decode_eq, hneg, largest_eq hx, expField_mk hE hF, fracField_mk hF, if_neg, if_neg, if_neg (by omega)]
  · rintro ⟨htop, hfrac⟩
    have hP : 2 ^ 1 ≤ 2 ^ x.f := Nat.pow_le_pow_right two_pos hx.1
    rw [topExp] at htop hpos
    rw [topFrac] at hfrac
    split_ifs at htop hpos hfrac <;> omega
  · rintro ⟨htop, hfin⟩
    unfold topExp at htop
    split_ifs at htop
    · simp_all
    · omega

/-- A number of n bits below the last place of the top exponent lies below the largest value. -/
theorem le_largest_of_lt {m n : Nat} {e : Int} (hm : m < 2 ^ n) (he : n + e ≤ (x.topExp : Int) - x.bias) :
    (m : ℚ) * (2 : ℚ) ^ e ≤ ((2 ^ x.f + x.topFrac : Nat) : ℚ) * (2 : ℚ) ^ ((x.topExp : Int) - x.bias - x.f) :=
  calc (m : ℚ) * (2 : ℚ) ^ e ≤ (2 : ℚ) ^ ((n : Int) + e) := (natCast_mul_two_zpow_lt hm e).le
    _ ≤ (2 : ℚ) ^ ((x.f : Int) + ((x.topExp : Int) - x.bias - x.f)) := zpow_le_zpow_right₀ one_le_two (by omega)
    _ ≤ _ := two_zpow_le_natCast_mul (Nat.le_add_right _ _) _

theorem le_largest_of_decode {b : Nat} {neg : Bool} {m : Nat} {e : Int} (hx : x.HasFields) (h : x.decode b = .fin neg m e) :
    (m : ℚ) * (2 : ℚ) ^ e ≤ ((2 ^ x.f + x.topFrac : Nat) : ℚ) * (2 : ℚ) ^ ((x.topExp : Int) - x.bias - x.f) := by
  obtain ⟨-, hpos⟩ := topExp_lt hx
  have hF := x.fracField_lt b
  obtain ⟨-, ⟨-, rfl, rfl⟩ | ⟨-, rfl, rfl, hle, hfrac⟩⟩ := decode_fin h
  · exact le_largest_of_lt hF (by rw [qmin]; omega)
  · rcases hle.lt_or_eq with hlt | heq
    · exact le_largest_of_lt (n := x.f + 1) (by omega) (by omega)
    · rw [heq]
      exact mul_le_mul_of_nonneg_right (by exact_mod_cast Nat.add_le_add_left (hfrac heq) _) (zpow_pos two_pos _).le

theorem beyond_decode {b : Nat} {neg : Bool} {m : Nat} {e : Int} (hx : x.HasFields) (h : x.decode b = .fin neg m e) : x.beyond m e = false := by
  rw [beyond, decode_largest hx, Bool.not_eq_false', leDy_iff]
  exact le_largest_of_decode hx h

theorem mag_decode_lt (hx : x.HasFields) (b : Nat) : (x.decode b).mag < (2 : ℚ) ^ ((x.topExp : Int) + 1 - x.bias) := by
  cases h : x.decode b with
  | fin neg m e =>
    have hF := x.topFrac_lt
    refine (le_largest_of_decode hx h).trans_lt ((natCast_mul_two_zpow_lt (n := x.f + 1) (by omega) _).trans_eq ?_)
    congr 1
    omega
  | nan => exact zpow_pos two_pos _
  | inf neg => exact zpow_pos two_pos _

/-! ### Rounding what a format holds (R137, R147) -/

/-- The last place of a finite value is the one that rounding keeps. -/
theorem lastPlace_decode {b : Nat} {neg : Bool} {m : Nat} {e : Int} (h : x.decode b = .fin neg m e) :
    max x.qmin ((bitLen m : Int) + e - ((x.f : Int) + 1)) = e := by
  have hF := x.fracField_lt b
  obtain ⟨-, ⟨-, rfl, rfl⟩ | ⟨hpos, rfl, rfl, -, -⟩⟩ := decode_fin h
  · have hlen := bitLen_le hF
    omega
  · have hlen : bitLen (2 ^ x.f + x.fracField b) = x.f + 1 := bitLen_eq (by omega) (.inr (Nat.le_add_right _ _))
    rw [hlen, qmin]
    omega

theorem encode_decode {b : Nat} {neg : Bool} {m : Nat} {e : Int} (hb : b < 2 ^ (1 + x.f + x.eb)) (h : x.decode b = .fin neg m e) :
    x.encode neg m e = b := by
  have hF := x.fracField_lt b
  have hfields := eq_fields hb
  obtain ⟨rfl, ⟨hzero, rfl, rfl⟩ | ⟨hpos, rfl, rfl, -, -⟩⟩ := decode_fin h
  · rw [hzero] at hfields
    rw [encode]
    split
    · omega
    next hne =>
      have hlog := (Nat.log2_lt hne).mpr hF
      rw [if_pos (by rw [qmin]; omega), shiftBy, if_pos (by omega)]
      simpa using hfields.symm
  · have hlog : Nat.log2 (2 ^ x.f + x.fracField b) = x.f := (Nat.log2_eq_iff (by omega)).mpr ⟨by omega, by omega⟩
    rw [encode, if_neg (by omega), hlog, if_neg (by omega), shiftBy, if_pos (by omega)]
    rw [show (((x.f : Int) + ((x.expField b : Int) - x.bias - x.f)) + x.bias).toNat = x.expField b by omega]
    simpa using hfields.symm

theorem round_decode_fin {b : Nat} {neg : Bool} {m : Nat} {e : Int} (hx : x.HasFields) (hb : b < 2 ^ (1 + x.f + x.eb))
    (h : x.decode b = .fin neg m e) (rm : Rm) (sat : Bool) (seed : BitVec 32) (pos : Nat) : x.round rm sat false seed pos (.fin neg m e) = b := by
  have hencode := encode_decode hb h
  rw [round, roundP]
  split
  next hm => rw [← hencode, encode, if_pos hm]
  · simp [beyond_decode hx h, lastPlace_decode h, roundAt_self, hencode]

theorem round_decode_inf {b : Nat} {neg : Bool} (hb : b < 2 ^ (1 + x.f + x.eb)) (h : x.decode b = .inf neg)
    (rm : Rm) (seed : BitVec 32) (pos : Nat) : x.round rm false false seed pos (.inf neg) = b := by
  obtain ⟨rfl, hE, hF, hfin⟩ := decode_inf h
  have hfields := eq_fields hb
  rw [hE, hF] at hfields
  rw [round, infinity, hfin]
  exact hfields.symm

/-- A value that a format holds rounds to its own bits; an infinity, where the rounding does not saturate. -/
theorem round_decode {b : Nat} (hx : x.HasFields) (hb : b < 2 ^ (1 + x.f + x.eb)) (hnan : (x.decode b).isNaN = false) {sat : Bool}
    (hsat : sat = false ∨ ∃ n m e, x.decode b = .fin n m e) (rm : Rm) (seed : BitVec 32) (pos : Nat) :
    x.round rm sat false seed pos (x.decode b) = b := by
  cases h : x.decode b with
  | nan =>
    rw [h] at hnan
    cases hnan
  | inf neg =>
    have hsat : sat = false := hsat.resolve_right (by simp [h])
    rw [hsat]
    exact round_decode_inf hb h rm seed pos
  | fin neg m e => exact round_decode_fin hx hb h rm sat seed pos

end FloatFmt

/-- The formats of the statement have fields that fill their bits. -/
theorem floatFmt_hasFields {ty : Fmt} (h : ty ∈ [Fmt.f64, .f32, .f16, .bf16, .e5m2, .e4m3]) :
    (floatFmt ty).HasFields ∧ 1 + (floatFmt ty).f + (floatFmt ty).eb = ty.bits := by
  unfold FloatFmt.HasFields
  revert ty
  decide

end Sys2Proof.Machine

open Sys2Proof Sys2Proof.Machine Sys2Proof.Claims

/-- Settles O32: rounding keeps the last place of a value that the format holds, and its fields are the bits. -/
theorem roundingKeepsRepresentableValues : Obligations.RoundingKeepsRepresentableValues := by
  intro ty rm sat seed pos b hty y hb hnan hsat
  obtain ⟨hfields, hbits⟩ := floatFmt_hasFields hty
  exact FloatFmt.round_decode hfields (by rwa [hbits]) hnan hsat rm seed pos

end

section
/-! The K8 block scale (R133): the largest magnitude of a set, and the smallest exponent that holds it. -/

namespace Sys2Proof.Machine

open Sys2Proof Sys2Proof.Claims

/-! ### The largest magnitude of a set -/

/-- The magnitude that a pair of `maxMag` stands for. -/
def pairMag (p : Nat × Int) : ℚ := (p.1 : ℚ) * (2 : ℚ) ^ p.2

theorem pairMag_nonneg (p : Nat × Int) : 0 ≤ pairMag p := mul_nonneg p.1.cast_nonneg (zpow_pos two_pos _).le

theorem pairMag_eq_zero_iff (p : Nat × Int) : pairMag p = 0 ↔ p.1 = 0 := by simp [pairMag, (zpow_pos (two_pos (α := ℚ)) p.2).ne']

theorem pairMag_maxMag (a b : Nat × Int) : pairMag (maxMag a b) = max (pairMag a) (pairMag b) := by
  rw [maxMag]
  split
  next h => exact (max_eq_right ((leDy_iff _ _ _ _).mp h)).symm
  next h => exact (max_eq_left (not_le.mp (mt (leDy_iff _ _ _ _).mpr h)).le).symm

/-- The larger of a magnitude and a number's, which counts where the number is finite. -/
def withMag (a : Nat × Int) (x : Num) : Nat × Int :=
  match x with
  | .fin _ m e => maxMag a (m, e)
  | _ => a

theorem pairMag_withMag (a : Nat × Int) (x : Num) : pairMag (withMag a x) = max (pairMag a) x.mag := by
  cases x with
  | fin _ m e => exact pairMag_maxMag a (m, e)
  | nan => exact (max_eq_left (pairMag_nonneg a)).symm
  | inf _ => exact (max_eq_left (pairMag_nonneg a)).symm

theorem le_pairMag_foldl (xs : List Num) (a : Nat × Int) :
    pairMag a ≤ pairMag (xs.foldl withMag a) ∧ ∀ x ∈ xs, x.mag ≤ pairMag (xs.foldl withMag a) := by
  induction xs generalizing a with
  | nil => simp
  | cons y ys ih =>
    obtain ⟨hinit, hall⟩ := ih (withMag a y)
    rw [pairMag_withMag] at hinit
    exact ⟨(le_max_left _ _).trans hinit, List.forall_mem_cons.mpr ⟨(le_max_right _ _).trans hinit, hall⟩⟩

theorem pairMag_foldl_attained (xs : List Num) (a : Nat × Int) :
    pairMag (xs.foldl withMag a) = pairMag a ∨ ∃ x ∈ xs, x.mag = pairMag (xs.foldl withMag a) := by
  induction xs generalizing a with
  | nil => exact .inl rfl
  | cons y ys ih =>
    rw [List.foldl_cons, List.exists_mem_cons_iff]
    rcases ih (withMag a y) with heq | hex
    · rw [heq, pairMag_withMag]
      exact (max_choice _ _).imp_right fun h => .inl h.symm
    · exact .inr (.inr hex)

def largestMag (xs : List Num) : Nat × Int := xs.foldl withMag (0, 0)

theorem mag_le_largestMag {xs : List Num} {x : Num} (h : x ∈ xs) : x.mag ≤ pairMag (largestMag xs) := (le_pairMag_foldl xs _).2 x h

/-- The largest magnitude is one of the set's, unless it is zero. -/
theorem exists_mag_eq_largestMag {xs : List Num} (h : (largestMag xs).1 ≠ 0) : ∃ x ∈ xs, x.mag = pairMag (largestMag xs) :=
  (pairMag_foldl_attained xs _).resolve_left fun heq => h ((pairMag_eq_zero_iff _).mp (heq.trans ((pairMag_eq_zero_iff _).mpr rfl)))

theorem largestMag_eq_zero_iff (xs : List Num) : (largestMag xs).1 = 0 ↔ ∀ x ∈ xs, x.mag = 0 := by
  refine ⟨fun h x hx => ?_, fun h => ?_⟩
  · exact le_antisymm ((mag_le_largestMag hx).trans_eq ((pairMag_eq_zero_iff _).mpr h)) x.mag_nonneg
  · by_contra hne
    obtain ⟨x, hx, hmag⟩ := exists_mag_eq_largestMag hne
    exact hne ((pairMag_eq_zero_iff _).mp (hmag.symm.trans (h x hx)))

/-! ### The smallest exponent -/

/-- The exponent that `k8Scale` gives a magnitude. -/
def k8Exp (p : Nat × Int) : Int :=
  let e0 : Int := (bitLen p.1 : Int) + p.2 - 7
  if leDy p.1 p.2 127 e0 then e0 else e0 + 1

/-- It is the smallest exponent of which 127 units hold the magnitude. -/
theorem k8Exp_spec {p : Nat × Int} (h : p.1 ≠ 0) : pairMag p ≤ 127 * (2 : ℚ) ^ k8Exp p ∧ 127 * (2 : ℚ) ^ (k8Exp p - 1) < pairMag p := by
  have hhigh := natCast_mul_two_zpow_lt (m := p.1) Nat.lt_log2_self p.2
  have hlow := two_zpow_le_natCast_mul (m := p.1) (Nat.log2_self_le h) p.2
  set k : Int := (Nat.log2 p.1 : Int) + p.2 - 6 with hk
  have he0 : (bitLen p.1 : Int) + p.2 - 7 = k := by
    rw [bitLen, if_neg h]
    omega
  have h7 : (2 : ℚ) ^ (((Nat.log2 p.1 + 1 : Nat) : Int) + p.2) = 128 * 2 ^ k := by
    rw [show ((Nat.log2 p.1 + 1 : Nat) : Int) + p.2 = 7 + k by omega, zpow_add₀ two_ne_zero]
    norm_num
  have h6 : (2 : ℚ) ^ ((Nat.log2 p.1 : Int) + p.2) = 128 * 2 ^ (k - 1) := by
    rw [show (Nat.log2 p.1 : Int) + p.2 = 7 + (k - 1) by omega, zpow_add₀ two_ne_zero]
    norm_num
  have hpos : (0 : ℚ) < 2 ^ k := zpow_pos two_pos _
  have hpos' : (0 : ℚ) < 2 ^ (k - 1) := zpow_pos two_pos _
  have hdouble : (2 : ℚ) ^ (k + 1) = 2 ^ k * 2 := zpow_add_one₀ two_ne_zero k
  rw [k8Exp, he0, pairMag]
  split
  next hle =>
    rw [leDy_iff] at hle
    exact ⟨hle, by linarith⟩
  next hgt =>
    rw [leDy_iff, not_le] at hgt
    rw [add_sub_cancel_right, hdouble]
    exact ⟨by linarith, hgt⟩

/-! ### The scale -/

/-- An infinity or a NaN. -/
def Num.notFinite : Num → Bool
  | .fin _ _ _ => false
  | _ => true

theorem any_notFinite_iff (xs : List Num) : xs.any Num.notFinite = true ↔ ¬∀ x ∈ xs, ∃ n m e, x = .fin n m e := by
  have hx (x : Num) : x.notFinite = true ↔ ¬∃ n m e, x = .fin n m e := by cases x <;> simp [Num.notFinite]
  simp only [List.any_eq_true, hx, not_forall, exists_prop]

theorem k8Scale_eq (xs : List Num) : k8Scale xs = if xs.any Num.notFinite then 255
    else if (largestMag xs).1 = 0 then 0 else (max (k8Exp (largestMag xs)) (-127) + 127).toNat := rfl

section Finite

variable {xs : List Num} (hfin : ∀ x ∈ xs, ∃ n m e, x = .fin n m e)
include hfin

theorem k8Scale_zero (h : ∀ x ∈ xs, x.mag = 0) : k8Scale xs = 0 := by
  rw [k8Scale_eq, if_neg (mt (any_notFinite_iff xs).mp (not_not.mpr hfin)), if_pos ((largestMag_eq_zero_iff xs).mpr h)]

/-- The scale of a set of finite values, not all zero, is the smallest exponent of which 127 units hold them, from −127 up. -/
theorem k8Scale_smallest (h : ∃ x ∈ xs, x.mag ≠ 0) : ∃ e : Int, (k8Scale xs : Int) = e + 127 ∧ -127 ≤ e ∧ (∀ x ∈ xs, x.mag ≤ 127 * (2 : ℚ) ^ e) ∧
    (e = -127 ∨ ∃ x ∈ xs, 127 * (2 : ℚ) ^ (e - 1) < x.mag) := by
  have hne : (largestMag xs).1 ≠ 0 := fun hzero => by
    obtain ⟨x, hx, hmag⟩ := h
    exact hmag ((largestMag_eq_zero_iff xs).mp hzero x hx)
  obtain ⟨hholds, hleast⟩ := k8Exp_spec hne
  refine ⟨max (k8Exp (largestMag xs)) (-127), ?_, le_max_right _ _, fun x hx => ?_, ?_⟩
  · rw [k8Scale_eq, if_neg (mt (any_notFinite_iff xs).mp (not_not.mpr hfin)), if_neg hne, Int.toNat_of_nonneg (by omega)]
  · exact (mag_le_largestMag hx).trans (hholds.trans
      (mul_le_mul_of_nonneg_left (zpow_le_zpow_right₀ one_le_two (le_max_left _ _)) (by norm_num)))
  · rcases le_total (k8Exp (largestMag xs)) (-127) with hle | hge
    · exact .inl (max_eq_right hle)
    · obtain ⟨x, hx, hmag⟩ := exists_mag_eq_largestMag hne
      rw [max_eq_left hge]
      exact .inr ⟨x, hx, hleast.trans_eq hmag.symm⟩

/-- Values below 2^128 have a scale of at most 249. -/
theorem k8Scale_le (h : ∀ x ∈ xs, x.mag < (2 : ℚ) ^ (128 : Int)) : k8Scale xs ≤ 249 := by
  by_cases hzero : ∀ x ∈ xs, x.mag = 0
  · rw [k8Scale_zero hfin hzero]
    omega
  · push Not at hzero
    obtain ⟨e, hscale, -, -, hleast⟩ := k8Scale_smallest hfin hzero
    rcases hleast with rfl | ⟨x, hx, hmag⟩
    · omega
    · have hlt : (2 : ℚ) ^ (e + 5) < 2 ^ (128 : Int) := by
        refine lt_trans ?_ (hmag.trans (h x hx))
        rw [show e + 5 = (e - 1) + 6 by omega, zpow_add₀ two_ne_zero, mul_comm]
        exact mul_lt_mul_of_pos_right (by norm_num) (zpow_pos two_pos _)
      have := (zpow_lt_zpow_iff_right₀ one_lt_two).mp hlt
      omega

end Finite

theorem mag_decode_lt_of_mem {ty : Fmt} (h : ty ∈ [Fmt.f32, .f16, .bf16]) (b : Nat) : ((floatFmt ty).decode b).mag < (2 : ℚ) ^ (128 : Int) := by
  have hty : (floatFmt ty).HasFields ∧ ((floatFmt ty).topExp : Int) + 1 - (floatFmt ty).bias ≤ 128 := by
    unfold FloatFmt.HasFields
    revert ty
    decide
  exact (FloatFmt.mag_decode_lt hty.1 b).trans_le (zpow_le_zpow_right₀ one_le_two hty.2)

end Sys2Proof.Machine

open Sys2Proof Sys2Proof.Machine Sys2Proof.Claims

/-- Settles O33: the scale is that of the largest magnitude, by its length in bits. -/
theorem k8BlockScale : Obligations.K8BlockScale := by
  intro xs mag finite
  have hmag : mag = Num.mag := funext fun x => by cases x <;> rfl
  rw [hmag]
  refine ⟨fun h => ?_, k8Scale_zero, k8Scale_smallest, fun ty hty hxs hfin => k8Scale_le hfin fun x hx => ?_⟩
  · rw [k8Scale_eq, if_pos ((any_notFinite_iff xs).mpr h)]
  · obtain ⟨b, -, rfl⟩ := hxs x hx
    exact mag_decode_lt_of_mem hty b

end

section
/-! Conversions of the lanes (R145 to R152). -/

namespace Sys2Proof.Machine

open Sys2Proof Sys2Proof.Claims

/-- An s32 source converts to f32 by one rounding of its signed value (R147). -/
theorem cvtThread_s32_f32 {r : Conv} (hty : r.ty = .f32) (hnf : r.nf = .s32) (j a : Nat) (seed : W32) :
    cvtThread r j a seed = fmtF32.round r.rm r.sat false seed (2 * j) (numOfInt (BitVec.ofNat 32 a).toInt) := by
  have hval : intVal .s32 (a % 2 ^ 32) = (BitVec.ofNat 32 a).toInt := by
    rw [intVal_of_signedFmt rfl]
    exact congrArg BitVec.toInt (BitVec.eq_of_toNat_eq (by simp [Fmt.bits]))
  rw [← hval]
  simp [cvtThread, hty, hnf, Fmt.isPaired, elemBits, elemNum, Fmt.isFloat, ftzOf, Fmt.isBf, floatFmt, Fmt.bits]

theorem cvt_gives {s : State} {r : Conv} (hb : s.me.budgetOk r.cvtRegs = true) : Gives (.cvt r) s (fun t =>
    LaneWrote s t (s.me.execSet r.m) r.d.toNat (if r.ty.is64 ∨ r.ty = .f32 ∧ r.nf.isPaired then 2 else 1) (fun j =>
      cvtThread r j (s.src s.cur j (if r.ty.isPaired && r.nf == .f32 then .z64 else r.nf) r.imm r.a) (s.src32 s.cur j r.imm r.b))) := by
  have hn : (if r.ty.is64 ∨ r.ty = .f32 ∧ r.nf.isPaired then 2 else 1) = if r.ty.is64 || (r.ty == .f32 && r.nf.isPaired) then 2 else 1 := by
    simp only [Bool.or_eq_true, Bool.and_eq_true, beq_iff_eq]
  rw [hn]
  exact laneIssue_gives (written := fun _ s j => cvtThread r j (s.src s.cur j (if r.ty.isPaired && r.nf == .f32 then .z64 else r.nf) r.imm r.a)
    (s.src32 s.cur j r.imm r.b)) rfl (fun _ _ => rfl) hb

end Sys2Proof.Machine

open Sys2Proof Sys2Proof.Machine Sys2Proof.Claims

/-- Settles O34: each instruction writes its thread's value; that of s32 to f32 is the conversion's own value with the formats put in. -/
theorem laneConversions : Obligations.LaneConversions := by
  intro s r x w32 wide put
  refine ⟨cvt_gives, laneIssue_gives rfl fun _ _ => rfl, laneIssue_gives rfl fun _ _ => rfl, fun hb => ?_, fun hty hnf hb => ?_⟩
  · refine laneIssue_gives (written := fun x s _ =>
      let xs := ((threadsIn x).map (fun j => elemsOf r.ty r.ftz (s.src s.cur j r.ty r.imm r.a))).flatten
      if r.nf == .k8 then k8Scale xs else n4Scale xs (fmtF32.decode (s.src32 s.cur ((threadsIn x).headD 0) r.imm r.b).toNat)) rfl (fun j _ => ?_) hb
    simp only [beq_iff_eq]
    rfl
  · have h := cvt_gives hb
    simpa [hty, hnf, Fmt.is64, Fmt.isPaired, cvtThread_s32_f32 hty hnf, numOfInt] using h

end

section
/-! A chunk that fills a granule of an earlier chunk (R169, R319, R323). -/

namespace Sys2Proof.Machine

open Sys2Proof Sys2Proof.Claims

/-- A chart of one element. -/
def oneElement : Chart := { words := [], va := 0 }

/-- A scatter of two elements. Its first chunk has written granule 0 of core 0's scratchpad, which its second might have written too; the second,
in progress, has read an index outside its table, and writes nothing (R330). -/
def scatterAtLastChunk : Copy :=
  { id := 0, seq := 0, core := 0, strand := 0, gang := 0, vd := 0, pc := 0, bound := 0, kind := .scatter oneElement oneElement oneElement 0 2,
    cb := none, next := 2, busy := [(1, 2)], redo := [], parked := [], ended := false, wps := [], done := [], idx := [(1, 1)],
    late := [spadKey 0 0 / 16], stood := [], eng := 0 }

/-- An access of one byte that waits on granule 0 of core 0's scratchpad: a `.take` load or a `.wfill` store (R168). -/
def waitsOnGranule (id : Nat) (kind : ReqKind) (data : Nat) : Flight :=
  { id, strand := 0, lane := true, inst := 0, bound := 0, thread := 0, kind, va := 0, key := spadKey 0 0, bytes := 1, data, qual := .two, ord := .rlx,
    scope := .strand, ev := 0, sx := false, dest := .none, stage := .waiting, value := 0, vec := [], watch := false, pc := 0, orphan := false,
    entry := 0, tag := 0, granted := true, pbase := 0, plog := 0, agent := none }

/-- The scatter on engine 0 of die 0, the granule empty, and at its port a `.take` load ahead of a `.wfill` store. -/
def lateGranuleWaited : State :=
  { State.reset.setEngine 0 0 [scatterAtLastChunk] with flights := [waitsOnGranule 0 .lds 0, waitsOnGranule 1 .sts 0x55] }

/-- The last chunk ends without a write. -/
theorem lateGranuleWaited_runs : ∃ res u,
    ((lateGranuleWaited.startChunks scatterAtLastChunk 4).1.putCopy 0 0 (lateGranuleWaited.startChunks scatterAtLastChunk 4).2).runChunk
      (lateGranuleWaited.startChunks scatterAtLastChunk 4).2 (1, 2) = (res, u) ∧
    res.stop = none ∧ res.keys = [] ∧ u.byte (spadKey 0 0) = 0 := ⟨_, _, rfl, rfl, rfl, rfl⟩

/-- With the end of the chunk the granule becomes full, the load takes it, and the store writes. -/
theorem exec_copyChunkComplete_lateGranuleWaited :
    ∃ t, exec (.copyChunkComplete 0 0 0 0) lateGranuleWaited = .next t ∧ t.byte (spadKey 0 0) = 0x55 := ⟨_, rfl, rfl⟩

end Sys2Proof.Machine

open Sys2Proof Sys2Proof.Machine Sys2Proof.Claims

/-- Refutes O44: the end of a chunk also fills the granules of earlier chunks (`late`, R323), and a store that waits on one of those then writes
its bytes; the statement excludes waiting accesses only on the granules of the chunk's own writes. -/
theorem not_engineSteps : ¬ Obligations.EngineSteps := by
  intro h
  obtain ⟨res, u, hrun, hstop, hkeys, hbefore⟩ := lateGranuleWaited_runs
  obtain ⟨t, hexec, hafter⟩ := exec_copyChunkComplete_lateGranuleWaited
  obtain ⟨-, hchunk⟩ := h.2 lateGranuleWaited u 0 0 0 0 scatterAtLastChunk [] (1, 2) res
  obtain ⟨t', hexec', hbytes, -⟩ := hchunk rfl rfl hrun hstop rfl rfl (by simp [hkeys])
  obtain rfl : t = t' := Host.Outcome.next.inj (hexec.symm.trans hexec')
  exact absurd ((hbytes _).symm.trans hafter) (by rw [hbefore]; decide)

end

section

/-! ## The form of memory

The word-granular memory and the full/empty bits are lists that leave out the default value; `State.memOk` says that both are in that form.
Every operation on the state keeps it, so every meaning and every turn does (O59). Operations that leave memory alone have an equivalence, operations
that write it an implication; both are simp lemmas, one for each operation, in the order of the model's text. -/

namespace Sys2Proof.Machine

/-- An optional state, where there is one, has memory in canonical form. -/
def MemOkOpt (o : Option State) : Prop := ∀ t, o = some t → t.memOk

@[simp] theorem memOkOpt_some {t : State} : MemOkOpt (some t) ↔ t.memOk := ⟨fun h => h t rfl, fun h _ e => Option.some.inj e ▸ h⟩

@[simp] theorem memOkOpt_none : MemOkOpt none := nofun

@[simp] theorem memOkOpt_ite {c : Prop} [Decidable c] {a b : Option State} : MemOkOpt (if c then a else b) ↔ if c then MemOkOpt a else MemOkOpt
    b := by
  split <;> rfl

@[simp] theorem memOkOpt_map {α : Type} {o : Option α} {f : α → State} (h : ∀ a, o = some a → (f a).memOk) : MemOkOpt (o.map f) := by
  cases o with
  | none => exact memOkOpt_none
  | some a => exact memOkOpt_some.mpr (h a rfl)

/-- A next state has memory in canonical form. -/
def MemOkOut (o : Out) : Prop := ∀ t, o = .next t → t.memOk

@[simp] theorem memOkOut_next {t : State} : MemOkOut (.next t) ↔ t.memOk := ⟨fun h => h t rfl, fun h _ e => Host.Outcome.next.inj e ▸ h⟩

@[simp] theorem memOkOut_ite {c : Prop} [Decidable c] {a b : Out} : MemOkOut (if c then a else b) ↔ if c then MemOkOut a else MemOkOut b := by
  split <;> rfl

namespace State

/-- `simp` looks for a rule for the outermost operation and does not enter the state. -/
@[congr] theorem memOk_closed {s : State} : s.memOk = s.memOk := rfl

@[simp] theorem memOk_mk {x : State} : State.memOk (State.mk x.mem x.fe a1 a2 a3 a4 a5 a6 a7 a8 a9 b1 b2 b3 b4 b5 b6 b7 b8 b9 c1 c2 c3 c4 c5 c6 c7
    c8 c9 d1 d2 d3 d4 d5 d6 d7 d8 d9 e1 e2 e3 e4) ↔ x.memOk := Iff.rfl

@[simp] theorem memOk_ite {c : Prop} [Decidable c] {a b : State} : (if c then a else b).memOk ↔ if c then a.memOk else b.memOk := by
  split <;> rfl

@[simp] theorem memOk_getD {o : Option State} {s : State} (ho : MemOkOpt o) (h : s.memOk) : (o.getD s).memOk := by
  cases o with
  | none => exact h
  | some t => exact ho t rfl

@[simp] theorem memOk_foldl_iff {α : Type} {f : State → α → State} {l : List α} {s : State} (hf : ∀ s a, (f s a).memOk ↔ s.memOk) :
    (l.foldl f s).memOk ↔ s.memOk := by
  induction l generalizing s with
  | nil => rfl
  | cons a l ih => rw [List.foldl_cons, ih, hf]

@[simp] theorem memOk_foldl {α : Type} {f : State → α → State} {l : List α} {s : State} (hf : ∀ s a, s.memOk → (f s a).memOk)
    (h : s.memOk) : (l.foldl f s).memOk := foldl_inv State.memOk f hf l s h

section
variable {s : State} {k g n i j key core die vd fn pa off : Nat} {va : W64} {lane : Bool} {f : Flight} {d : SReg}

/-! ### The parts of a state -/

@[simp] theorem memOk_setStrand {u : Strand} : (s.setStrand k u).memOk ↔ s.memOk := Iff.rfl
@[simp] theorem memOk_setMe {u : Strand} : (s.setMe u).memOk ↔ s.memOk := Iff.rfl
@[simp] theorem memOk_scalarResult {r : SReg} {v : W64} : (s.scalarResult r v).memOk ↔ s.memOk := Iff.rfl
@[simp] theorem memOk_withdrawWaiting : (s.withdrawWaiting k).2.memOk ↔ s.memOk := Iff.rfl
@[simp] theorem memOk_setDie {d : Die} : (s.setDie k d).memOk ↔ s.memOk := Iff.rfl
@[simp] theorem memOk_logEntry {e : LogEntry} : (s.logEntry die e).memOk ↔ s.memOk := Iff.rfl
@[simp] theorem memOk_log {r : Report} : (s.log die r).memOk ↔ s.memOk := Iff.rfl
@[simp] theorem memOk_setGang {g : Gang} : (s.setGang k g).memOk ↔ s.memOk := Iff.rfl
@[simp] theorem memOk_keepVec {v : SMap 32} : (s.keepVec g v).memOk ↔ s.memOk := Iff.rfl
@[simp] theorem memOk_applyAll : s.applyAll.memOk ↔ s.memOk := Iff.rfl
@[simp] theorem memOk_invalidate {line : Nat} : (s.invalidate core line).memOk ↔ s.memOk := by unfold State.invalidate; simp

/-! ### Connections -/

@[simp] theorem memOk_setConHi (h : s.memOk) {w : W64} : (s.setConHi pa w).memOk := memOk_invalidate.mpr (memOk_putBytes h ..)
@[simp] theorem memOk_leaveCon (h : s.memOk) {m : Member} : (s.leaveCon k m).memOk := by unfold State.leaveCon; simp [h]
@[simp] theorem memOk_withdraw : (s.withdraw k).memOk ↔ s.memOk := Iff.rfl

@[simp] theorem memOk_endStrand (h : s.memOk) : (s.endStrand k).memOk :=
  memOk_setStrand.mpr (memOk_mk.mpr (memOk_mk.mpr (memOk_withdraw.mpr (memOk_foldl (fun _ _ hs => memOk_leaveCon hs) (memOk_keepVec.mpr h)))))

@[simp] theorem memOk_endGang (h : s.memOk) {status : Nat} : (s.endGang g status).memOk :=
  memOk_setGang.mpr (memOk_foldl (fun _ _ hs => memOk_endStrand hs) h)

@[simp] theorem memOk_doubleTrap (h : s.memOk) {r : TrapReq} : (s.doubleTrap k r).memOk := by unfold State.doubleTrap; simp [h]

/-! ### Scratchpad blocks and trap entry -/

@[simp] theorem memOk_takeBlock (h : s.memOk) {gang blk : Nat} : (s.takeBlock gang blk).memOk := by
  unfold State.takeBlock
  dsimp only
  split
  · exact ⟨SMap.wf_clear h.1 _ _, SMap.wf_clear h.2 _ _⟩
  · exact h

@[simp] theorem memOk_spadAccess (h : s.memOk) {gang : Nat} {viaWindow write sup : Bool} :
    MemOkOpt (s.spadAccess k gang key n viaWindow write sup) := by
  unfold State.spadAccess
  dsimp only
  split
  · simp
  · split
    · split <;> simp [h]
    · simp [h]

theorem memOk_framePage {t : State} (h : s.memOk) {write : Bool} (e : s.framePage k va write = some (key, t)) : t.memOk := by
  unfold State.framePage at e
  dsimp only at e
  split at e
  · split at e
    · obtain ⟨u, hu, hpair⟩ := Option.map_eq_some_iff.mp e
      exact (Prod.mk.inj hpair).2 ▸ memOk_spadAccess h u hu
    · exact (Prod.mk.inj (Option.some.inj e)).2 ▸ h
  · cases e

@[simp] theorem memOk_recall {line : Nat} : (s.recall core line).memOk ↔ s.memOk := Iff.rfl
@[simp] theorem memOk_setCore {c : Core} : (s.setCore k c).memOk ↔ s.memOk := Iff.rfl

@[simp] theorem memOk_trapEnter (h : s.memOk) {r : TrapReq} : (s.trapEnter k r).memOk := by
  unfold State.trapEnter
  dsimp only
  split
  · exact memOk_doubleTrap h
  · split
    · exact memOk_doubleTrap h
    · next k0 s0 e0 =>
      have h0 := memOk_writePage (memOk_framePage h e0)
      split
      · exact memOk_doubleTrap (h0 ..)
      · next k1 s1 e1 =>
        have h1 := memOk_writePage (memOk_framePage (h0 ..) e1)
        simp [h1]

@[simp] theorem memOk_raise (h : s.memOk) {r : TrapReq} : (s.raise k r).memOk := by unfold State.raise; simp [h]
@[simp] theorem memOk_raiseScalar (h : s.memOk) {code : Nat} : (s.raiseScalar code va).memOk := by unfold State.raiseScalar; simp [h]

/-! ### Requests on their way -/

@[simp] theorem memOk_sendEntry : (s.sendEntry f).memOk ↔ s.memOk := Iff.rfl

@[simp] theorem memOk_sendAll {wc : Bool} : (s.sendAll k wc).memOk ↔ s.memOk :=
  memOk_foldl_iff fun s g => by
    split
    · simp
    · rfl

@[simp] theorem memOk_sendWc : (s.sendWc f).memOk ↔ s.memOk :=
  memOk_foldl_iff fun s g => by
    split
    · simp
    · rfl

@[simp] theorem memOk_makeRoom : (s.makeRoom f).memOk ↔ s.memOk := by
  unfold State.makeRoom
  dsimp only
  split
  · rfl
  · split <;> simp

@[simp] theorem memOk_tidyWc : (s.tidyWc f).memOk ↔ s.memOk := by
  unfold State.tidyWc
  refine iteInduction (motive := fun t => State.memOk t ↔ s.memOk) (fun _ => ?_) fun _ => ?_
  · split <;> simp
  · split <;> split <;> simp

@[simp] theorem memOk_dropFlight {id : Nat} : (s.dropFlight id).memOk ↔ s.memOk := Iff.rfl
@[simp] theorem memOk_moveFlight : (s.moveFlight f).memOk ↔ s.memOk := Iff.rfl
@[simp] theorem memOk_setFlight : (s.setFlight f).memOk ↔ s.memOk := Iff.rfl
@[simp] theorem memOk_sendBin {home : Nat} : (s.sendBin die home).memOk ↔ s.memOk := Iff.rfl
@[simp] theorem memOk_enterBin : (s.enterBin f).memOk ↔ s.memOk := by unfold State.enterBin; simp

@[simp] theorem memOk_launchFlight {st : Stage} : (s.launchFlight f st).memOk ↔ s.memOk := by
  unfold State.launchFlight
  dsimp only
  split <;> simp

@[simp] theorem memOk_tlbFill {units : List Nat} {pte : W64} : (s.tlbFill core units vd va pte).memOk ↔ s.memOk := Iff.rfl

@[simp] theorem memOk_loadMicro : (s.loadMicro k lane va).memOk ↔ s.memOk := by
  unfold State.loadMicro
  dsimp only
  split
  · split <;> simp
  · rfl

@[simp] theorem memOk_launchAcc {f : AccForm} {a : Acc} {key : Option Nat} : (s.launchAcc k lane f a key).memOk ↔ s.memOk := by
  unfold State.launchAcc
  simp

@[simp] theorem memOk_joinLines {inst : Nat} : (s.joinLines k inst).memOk ↔ s.memOk := Iff.rfl

/-! ### Faults, parking and the accesses of an instruction -/

@[simp] theorem memOk_setPart {p : Part} : (s.setPart k p).memOk ↔ s.memOk := Iff.rfl
@[simp] theorem memOk_takeFid {p : Nat} : (s.takeFid p).2.memOk ↔ s.memOk := Iff.rfl
@[simp] theorem memOk_endWfe {v : W64} : (s.endWfe k d v).memOk ↔ s.memOk := Iff.rfl
@[simp] theorem memOk_seeWfe {mask : Nat} : (s.seeWfe k mask pa).memOk ↔ s.memOk := Iff.rfl

@[simp] theorem memOk_wakeWfe {pick : Nat → Nat → Nat → Bool} : (s.wakeWfe pick).memOk ↔ s.memOk :=
  memOk_foldl_iff fun s c => by
    split
    · simp
    · rfl

@[simp] theorem memOk_patchL1 {a ev : Nat} {vec : SMap 32} {bs : List Byte} : (s.patchL1 core a ev vec bs).memOk ↔ s.memOk := by
  unfold State.patchL1
  dsimp only
  split <;> simp

@[simp] theorem memOk_overlayL1 {line : Nat} : (s.overlayL1 core line).memOk ↔ s.memOk :=
  memOk_foldl_iff fun _ _ => memOk_patchL1

@[simp] theorem memOk_fqWrite (h : s.memOk) {p : Nat} {e : LogEntry} : MemOkOpt (s.fqWrite die p e) := by
  unfold State.fqWrite
  dsimp only
  split
  · simp
  · split
    · simp [memOk_write, h]
    · simp

@[simp] theorem memOk_faultEntry (h : s.memOk) {p : Nat} {e : LogEntry} : (s.faultEntry die p e).memOk := by unfold State.faultEntry; simp [h]

@[simp] theorem memOk_parkStrand (h : s.memOk) {xkind : Nat} {pc : W64} {wr fetch : Bool} {tmaskf : W32} :
    (s.parkStrand k va xkind wr fetch lane tmaskf pc).memOk := by
  unfold State.parkStrand
  simp [h]

@[simp] theorem memOk_haltStack {n : Bool} : (s.haltStack g n).memOk ↔ s.memOk := by unfold State.haltStack; simp

@[simp] theorem memOk_debugStop (h : s.memOk) {pc : W64} : (s.debugStop k pc).memOk := by
  unfold State.debugStop
  simp [h]

@[simp] theorem memOk_settle (h : s.memOk) {f : AccForm} {r : List (Acc × Checked)} {done : State → State}
    (hdone : ∀ s, s.memOk → (done s).memOk) : (s.settle k lane f r done).memOk := by
  unfold State.settle
  dsimp only
  split
  · exact memOk_raise h
  · split
    · simp [h]
    · split
      · simp [h]
      · exact hdone s h

@[simp] theorem memOk_issueAccs (h : s.memOk) {i : Instr} {f : AccForm} {accs : List Acc} {done : State → State}
    (hdone : ∀ s, s.memOk → (done s).memOk) : (s.issueAccs k lane i f accs done).memOk := by
  unfold State.issueAccs
  dsimp only
  split
  · simp [h]
  · refine memOk_settle ?_ hdone
    have hlaunch (t : State) (x : Acc × Checked) (f : AccForm) : (match x.2 with
        | .pass key => t.launchAcc k lane f x.1 (some key)
        | .err => t.launchAcc k lane f x.1 none
        | _ => t).memOk ↔ t.memOk := by split <;> simp
    have hall (t : State) (ht : t.memOk) (f : AccForm) (l : List (Acc × Checked)) := (memOk_foldl_iff (s := t) (l := l) (hlaunch · · f)).mpr ht
    cases lane with
    | true => exact memOk_joinLines.mpr (hall _ (by split <;> simp [h]) _ _)
    | false => exact hall _ (by split <;> simp [h]) _ _

/-! ### Waiting, homes and addresses -/

@[simp] theorem memOk_logError {pc : W64} {wr fetch : Bool} {tmaskf : W32} : (s.logError k va pc wr fetch tmaskf).memOk ↔ s.memOk := Iff.rfl
@[simp] theorem memOk_statusError {wr : Bool} : (s.statusError d va wr).memOk ↔ s.memOk := Iff.rfl

@[simp] theorem memOk_afterDrain (h : s.memOk) {go : State → State} (hgo : ∀ s, s.memOk → (go s).memOk) : (s.afterDrain go).memOk := by
  unfold State.afterDrain
  simp [h, hgo]

@[simp] theorem memOk_afterRelease (h : s.memOk) {sc : Scope} {go : State → State} (hgo : ∀ s, s.memOk → (go s).memOk) :
    (s.afterRelease sc go).memOk :=
  memOk_afterDrain h fun t ht => by
    split
    · exact hgo t ht
    · exact ht

@[simp] theorem memOk_recallAll {a : Nat} : (s.recallAll a n).memOk ↔ s.memOk := by unfold State.recallAll; simp
@[simp] theorem memOk_sawHome : (s.sawHome k pa).memOk ↔ s.memOk := Iff.rfl

@[simp] theorem memOk_atHome (h : s.memOk) {go : State → State} (hgo : ∀ s, s.memOk → (go s).memOk) : (s.atHome key go).memOk := by
  unfold State.atHome
  simp [h, hgo]

@[simp] theorem memOk_arriveCon (h : s.memOk) {m : Member} {done : State → State} (hdone : ∀ s, s.memOk → (done s).memOk) :
    (s.arriveCon m done).memOk := by
  unfold State.arriveCon
  refine memOk_afterRelease h fun t ht => ?_
  dsimp only
  split
  · exact ht
  · exact memOk_atHome ht fun u hu => hdone _ (by simp [hu])

@[simp] theorem memOk_acquireAt {sc : Scope} : (s.acquireAt k sc).memOk ↔ s.memOk := by unfold State.acquireAt; simp
@[simp] theorem memOk_pendCause {r : TrapReq} : (s.pendCause k r).memOk ↔ s.memOk := by unfold State.pendCause; simp
@[simp] theorem memOk_deferredError {wr : Bool} : (s.deferredError va wr).memOk ↔ s.memOk := by unfold State.deferredError; simp

@[simp] theorem memOk_withAddr (h : s.memOk) {x : W32} {i : Instr} {f : AccForm} {ok : State → Nat → State} {err : State → State}
    (hok : ∀ s k, s.memOk → (ok s k).memOk) (herr : ∀ s, s.memOk → (err s).memOk) : (s.withAddr lane x i f va ok err).memOk := by
  unfold State.withAddr
  dsimp only
  split
  · simp [h]
  · exact hok _ _ h
  · exact herr _ h
  · exact memOk_settle (by simpa using h) fun _ => id

@[simp] theorem memOk_withVa (h : s.memOk) {i : Instr} {f : AccForm} {ok : State → Nat → State} {err : State → State}
    (hok : ∀ s k, s.memOk → (ok s k).memOk) (herr : ∀ s, s.memOk → (err s).memOk) : (s.withVa i f va ok err).memOk :=
  memOk_withAddr h hok herr

/-! ### Barriers, task records, locks and futures -/

@[simp] theorem memOk_countArrival {v : Nat} : (s.countArrival v n).2.memOk ↔ s.memOk := by
  unfold State.countArrival
  dsimp only
  split
  · split <;> rfl
  · rfl

@[simp] theorem memOk_engineSees : (s.engineSees key).memOk ↔ s.memOk := by unfold State.engineSees; simp
@[simp] theorem memOk_satisfy : (s.satisfy key).memOk ↔ s.memOk := by unfold State.satisfy; simp

@[simp] theorem memOk_arriveCount (h : s.memOk) : (s.arriveCount key n).memOk := by
  unfold State.arriveCount
  simp [memOk_storeSpad, h]

@[simp] theorem memOk_clearWait : s.clearWait.memOk ↔ s.memOk := Iff.rfl

@[simp] theorem memOk_setRecWord (h : s.memOk) {w : W64} : (s.setRecWord vd n i w).memOk := by
  unfold State.setRecWord
  split
  · exact memOk_writeLE h ..
  · exact h

@[simp] theorem memOk_setRecField (h : s.memOk) {m lo v : Nat} : (s.setRecField vd m i lo n v).memOk := by unfold State.setRecField; simp [h]
@[simp] theorem memOk_setRecState (h : s.memOk) {st : Nat} : (s.setRecState vd n st).memOk := by unfold State.setRecState; simp [h]
@[simp] theorem memOk_settleTask (h : s.memOk) : (s.settleTask g).memOk := by unfold State.settleTask; simp [h]
@[simp] theorem memOk_parkOn (h : s.memOk) {kind bva owner : Nat} : (s.parkOn k kind bva owner).memOk := by unfold State.parkOn; simp [h]

@[simp] theorem memOk_lockStep (h : s.memOk) : (s.lockStep d va key).memOk := by
  unfold State.lockStep
  simp [h, memOk_writeLE]

@[simp] theorem memOk_answer (h : s.memOk) {v : W64} : (s.answer k d v).memOk := by unfold State.answer; simp [h]

@[simp] theorem memOk_handOff (h : s.memOk) {abandoned : Bool} : (s.handOff pa abandoned).memOk := by
  unfold State.handOff
  dsimp only
  split
  · split <;> simp [memOk_writeLE, h]
  · exact memOk_writeLE h ..

@[simp] theorem memOk_setJob {j : Job} : (s.setJob k j).memOk ↔ s.memOk := Iff.rfl
@[simp] theorem memOk_takeValid {jk cn : Nat} : (s.takeValid jk cn).memOk ↔ s.memOk := Iff.rfl
@[simp] theorem memOk_joinEntry (h : s.memOk) {cn : Nat} : MemOkOpt (s.joinEntry k cn) := by unfold State.joinEntry; simp [h]
@[simp] theorem memOk_launchScalar (h : s.memOk) {f : AccForm} {a : Acc} : (s.launchScalar f a key).memOk := by unfold State.launchScalar; simp [h]

/-! ### Ports and messages -/

@[simp] theorem memOk_spadGranules (h : s.memOk) {write : Bool} : MemOkOpt (s.spadGranules k key write n) := by
  induction n generalizing s with
  | zero => exact memOkOpt_some.mpr h
  | succ n ih =>
    unfold State.spadGranules
    split
    · next t e => exact ih (memOk_spadAccess h t e)
    · simp

@[simp] theorem memOk_setCluster {c : Cluster} : (s.setCluster k c).memOk ↔ s.memOk := Iff.rfl

@[simp] theorem memOk_changeFe (h : s.memOk) {full : Bool} : (s.changeFe key full).memOk := by
  unfold State.changeFe
  simp [memOk_setFull, h]

@[simp] theorem memOk_atPort (h : s.memOk) : (s.atPort f).memOk := by
  unfold State.atPort
  split <;> simp [h, memOk_storeSpad]

@[simp] theorem memOk_serveGranule (h : s.memOk) : (s.serveGranule key n).memOk := by
  induction n generalizing s with
  | zero => exact h
  | succ n ih =>
    unfold State.serveGranule
    split
    · exact ih (memOk_atPort h)
    · exact h

@[simp] theorem memOk_serve (h : s.memOk) : (s.serve key).memOk := by unfold State.serve; simp [h]
@[simp] theorem memOk_setFe (h : s.memOk) {full : Bool} : (s.setFe key full).memOk := by unfold State.setFe; simp [h]

@[simp] theorem memOk_putPayload (h : s.memOk) {m : Msg} : MemOkOpt (s.putPayload k key m) := by
  unfold State.putPayload
  refine memOkOpt_map fun t e => memOk_foldl (fun u i hu => ?_) (memOk_storeSpad (memOk_spadGranules h t e) ..)
  simp [hu]

@[simp] theorem memOk_received (h : s.memOk) {p : Posted} {m : Msg} : (s.received p m).memOk := by
  unfold State.received
  dsimp only
  split
  · split
    · next t e => simp [memOk_putPayload h t e]
    · simp [h]
  · exact h

@[simp] theorem memOk_enqueueRun {pc : W64} {count : Nat} : (s.enqueueRun pc count).memOk ↔ s.memOk := by unfold State.enqueueRun; simp

@[simp] theorem memOk_fence (h : s.memOk) {o : Ord} {sc : Scope} {done : State → State} (hdone : ∀ s, s.memOk → (done s).memOk) :
    (s.fence lane o sc done).memOk := by
  unfold State.fence
  dsimp only
  split
  · exact hdone _ (by simp [h])
  · simp [h]

@[simp] theorem memOk_writeYielddl {v : W64} : (s.writeYielddl k v).memOk ↔ s.memOk := Iff.rfl
@[simp] theorem memOk_writeCr {v : W64} : (s.writeCr k n v).memOk ↔ s.memOk := by unfold State.writeCr; simp
@[simp] theorem memOk_collect {cause : Nat} : (s.collect g cause).memOk ↔ s.memOk := Iff.rfl
@[simp] theorem memOk_setVd {v : Vd} : (s.setVd k v).memOk ↔ s.memOk := Iff.rfl

/-! ### Contexts -/

@[simp] theorem memOk_reserveCtx (h : s.memOk) : MemOkOpt (s.reserveCtx g) := by unfold State.reserveCtx; simp [h]

@[simp] theorem memOk_reserveAll (h : s.memOk) {l : List Nat} : MemOkOpt (s.reserveAll l) := by
  induction l generalizing s with
  | nil => exact memOkOpt_some.mpr h
  | cons g l ih =>
    unfold State.reserveAll
    split
    · next t e => exact ih (memOk_reserveCtx h t e)
    · exact memOkOpt_none

@[simp] theorem memOk_preempt (h : s.memOk) {cause : Nat} : MemOkOpt (s.preempt g cause) :=
  memOkOpt_map fun t e => by simp [memOk_reserveAll h t e]

@[simp] theorem memOk_ctxError : (s.ctxError g).memOk ↔ s.memOk := Iff.rfl
@[simp] theorem memOk_taskError : (s.taskError d n).memOk ↔ s.memOk := by unfold State.taskError; simp
@[simp] theorem memOk_mapCopies {f : Copy → Option Copy} : (s.mapCopies f).memOk ↔ s.memOk := Iff.rfl
@[simp] theorem memOk_forgetParties {gang : Nat} : (s.forgetParties gang).memOk ↔ s.memOk := by unfold State.forgetParties; simp
@[simp] theorem memOk_strandDone (h : s.memOk) {status : W64} : (s.strandDone k status).memOk := by unfold State.strandDone; simp [h]

@[simp] theorem memOk_discardParties (h : s.memOk) {gang : Nat} {which : Parked → Bool} : (s.discardParties gang which).memOk := by
  refine memOk_foldl (fun s k hs => ?_) (memOk_mapCopies.mpr h)
  simp [hs]

@[simp] theorem memOk_setBook {q : Nat} {b : QueueBook} : (s.setBook core q b).memOk ↔ s.memOk := Iff.rfl
@[simp] theorem memOk_setDesc (h : s.memOk) {q d : Nat} : (s.setDesc core q d).memOk := memOk_putBytes h ..
@[simp] theorem memOk_queueStatus {thread : Nat} {r : QOp} {status : Nat} : (s.queueStatus k thread r status).memOk ↔ s.memOk := Iff.rfl

theorem memOk_queueOp {t : State} (h : s.memOk) {thread status : Nat} {r : QOp} {pop : Bool} (e : s.queueOp k thread r pop = .done status t) :
    t.memOk := by
  unfold State.queueOp at e
  dsimp only at e
  split at e
  · cases e; simp [h]
  · split at e
    · split at e
      · cases e
      · cases e; simp [h]
    · split at e
      · cases e
      · cases e; simp [memOk_putBytes, h]

@[simp] theorem memOk_serveQueue (h : s.memOk) {q fuel : Nat} : (s.serveQueue core q fuel).memOk := by
  induction fuel generalizing s with
  | zero => exact h
  | succ fuel ih =>
    unfold State.serveQueue
    dsimp only
    split
    · exact h
    · split
      · split
        · exact h
        · next status t e => exact ih (by simp [memOk_queueOp h e])
      · exact ih (by simpa using h)

@[simp] theorem memOk_queueCancel {r : QOp} : (s.queueCancel k r).memOk ↔ s.memOk := Iff.rfl

@[simp] theorem memOk_cancelWait (h : s.memOk) : (s.cancelWait k).memOk := by
  have htail (s : State) (h : s.memOk) (core gang : Nat) : (match (s.strand k).laneWait with
      | .queue r _ _ =>
        let q := r.q.toNat
        let b := s.book core q
        let s := s.setBook core q { b with waits := b.waits.filter (fun w => w.1 != k) }
        ((s.queueCancel k r).serveQueue core q 64).settleTask gang
      | _ => { s with flights := s.flights.filter (fun f => !(f.strand == k && f.lane && f.unperformed &&
            (match f.kind with | .fewait _ => true | _ => false))) }).memOk := by
    split
    · simp [h]
    · exact h
  unfold State.cancelWait
  refine htail _ ?_ _ _
  dsimp only
  split
  · simp [h]
  · simp [h]
  · split <;> simp [h]
  · simp [h]
  · exact h

@[simp] theorem memOk_cancelWaits (h : s.memOk) {jk : Nat} : (s.cancelWaits core jk).memOk := by
  unfold State.cancelWaits
  refine memOk_foldl (fun s c hs => ?_) (memOk_foldl (fun s g hs => ?_) h)
  · simp [hs]
  · simp [hs]

@[simp] theorem memOk_releaseHalt (h : s.memOk) : (s.releaseHalt g).memOk := by
  refine memOk_foldl (fun s x hs => ?_) h
  dsimp only
  split <;> split <;> simp [hs]

@[simp] theorem memOk_readable (h : s.memOk) : MemOkOpt (s.readable k key n va) := by unfold State.readable; simp [h]
@[simp] theorem memOk_startWfe {mask ticks : Nat} : (s.startWfe d mask ticks pa).memOk ↔ s.memOk := by unfold State.startWfe; simp

/-! ### Waits on a word, and requests sent again -/

@[simp] theorem memOk_wfeWord (h : s.memOk) {mask ticks : Nat} : (s.wfeWord d va mask ticks key).memOk := by
  unfold State.wfeWord
  split
  · simp [h]
  · next t e =>
    have ht := memOk_readable h t e
    split
    · simp [ht]
    · exact memOk_atHome ht fun u hu => by simp [hu]

@[simp] theorem memOk_recheck : (s.recheck k f).2.memOk ↔ s.memOk := by
  unfold State.recheck
  dsimp only
  generalize s.check (s.strand k).core _ _ f.need f.va = c
  cases c with
  | miss =>
    dsimp only
    generalize (s.walkVa (s.strand k).die _ f.va true).fin = w
    cases w <;> rfl
  | _ => rfl

@[simp] theorem memOk_sendHeld (h : s.memOk) {l : List Flight} : (s.sendHeld k l).memOk := by
  induction l generalizing s with
  | nil => exact h
  | cons f l ih =>
    have hcheck : (s.recheck k f).2.memOk := memOk_recheck.mpr h
    unfold State.sendHeld
    refine iteInduction (motive := State.memOk) (fun _ => ih h) fun _ => ?_
    generalize s.recheck k f = r at hcheck
    obtain ⟨c, t⟩ := r
    cases c with
    | fault x => exact iteInduction (motive := State.memOk) (fun _ => memOk_parkStrand (memOk_setStrand.mpr hcheck)) fun _ => ih hcheck
    | _ => exact ih hcheck

@[simp] theorem memOk_trapReturn (h : s.memOk) : (s.trapReturn k).memOk := by
  unfold State.trapReturn
  dsimp only
  split
  · split <;> simp [h]
  · exact memOk_doubleTrap h

@[simp] theorem memOk_dropAsks {p : Flight → Asker → Bool} : (s.dropAsks p).memOk ↔ s.memOk := Iff.rfl

@[simp] theorem memOk_failParty (h : s.memOk) {x : Party} : (s.failParty x).memOk := by
  unfold State.failParty
  split <;> simp [h]

@[simp] theorem memOk_changeStrand (h : s.memOk) {f : Strand → Strand} : (s.changeStrand k f).memOk := by
  unfold State.changeStrand
  dsimp only
  split
  · exact memOk_write (memOk_setStrand.mpr h) ..
  · exact h

@[simp] theorem memOk_endCopy {e : Nat} {c : Copy} {code : Nat} : (s.endCopy die e c code va).memOk ↔ s.memOk := by unfold State.endCopy; simp

@[simp] theorem memOk_endParked (h : s.memOk) {c : Copy} : (s.endParked c va).1.memOk :=
  memOk_foldl (fun _ _ hs => memOk_setFe hs) (by simpa using h)

@[simp] theorem memOk_deliverFault (h : s.memOk) {x : Party} : (s.deliverFault x).memOk := by
  unfold State.deliverFault
  split
  · simp [h]
  · split
    · exact h
    · simp [h]

@[simp] theorem memOk_restartParty (h : s.memOk) {x : Party} : (s.restartParty x).memOk := by
  unfold State.restartParty
  split <;> simp [h]

@[simp] theorem memOk_resumeSteps (h : s.memOk) {fid act : Nat} : (s.resumeSteps d fid act).memOk := by
  unfold State.resumeSteps
  dsimp only
  refine iteInduction (motive := State.memOk) (fun _ => ?_) fun _ => ?_
  · exact memOk_foldl (fun _ _ hs => memOk_failParty hs) h
  · refine memOk_scalarResult.mpr (memOk_foldl (fun s x hs => ?_) h)
    simp [hs]

/-! ### Context images -/

@[simp] theorem memOk_pageOpen (h : s.memOk) {write : Bool} : MemOkOpt (s.pageOpen key n va write) := by
  unfold State.pageOpen
  split
  · simp [h]
  · split
    · simp
    · split
      · split <;> simp [h]
      · simp [h]

@[simp] theorem memOk_withPages (h : s.memOk) {write : Bool} {ok : State → List (Nat × Nat) → State} {err : State → State}
    (hok : ∀ s keys, s.memOk → (ok s keys).memOk) (herr : ∀ s, s.memOk → (err s).memOk) {pages : List (W64 × Nat)} {keys : List (Nat × Nat)} :
    (s.withPages write ok err pages keys).memOk := by
  induction pages generalizing s keys with
  | nil => exact hok s keys h
  | cons p pages ih =>
    unfold State.withPages
    dsimp only
    split
    · split
      · next t e => exact ih (memOk_pageOpen h t e)
      · exact herr s h
    · exact herr s h
    · exact memOk_settle h fun _ => id

@[simp] theorem memOk_csaveStep (h : s.memOk) : (s.csaveStep d n va).memOk := by
  unfold State.csaveStep
  split
  · simp [h]
  · exact memOk_withPages h (fun t keys ht => by simp [memOk_writeAreas, ht]) fun t ht => by simp [ht]

@[simp] theorem memOk_writePool (h : s.memOk) {bs : List Byte} : (s.writePool g bs).memOk := by
  unfold State.writePool
  split
  · exact memOk_writeAreas h ..
  · exact h

theorem memOk_strandsFrom {t : State} (h : s.memOk) {l : List Nat} {bs rest : List Byte} (e : s.strandsFrom l bs = some (t, rest)) : t.memOk := by
  induction l generalizing s bs with
  | nil =>
    cases e
    exact h
  | cons k l ih =>
    unfold State.strandsFrom at e
    dsimp only at e
    split at e
    · exact ih (s := s.setStrand k _) h e
    · cases e

@[simp] theorem memOk_restoreBody (h : s.memOk) {bs : List Byte} : MemOkOpt (s.restoreBody g bs) :=
  memOkOpt_map fun r e => memOk_setGang.mpr (memOk_strandsFrom (rest := r.2) h e)

@[simp] theorem memOk_restoreImage (h : s.memOk) {bs : List Byte} : MemOkOpt (s.restoreImage g bs) := by
  unfold State.restoreImage
  dsimp only
  split
  · simp
  · exact memOkOpt_map fun t e => memOk_writePool (memOk_restoreBody h t e)

@[simp] theorem memOk_crstrStep (h : s.memOk) : (s.crstrStep d n va).memOk := by
  unfold State.crstrStep
  split
  · simp [h]
  · refine memOk_withPages h (fun t keys ht => ?_) fun t ht => by simp [ht]
    split
    · simp [ht]
    · refine memOk_withPages ht (fun u keys hu => ?_) fun u hu => by simp [hu]
      split
      · next v e => simp [memOk_restoreImage hu v e]
      · simp [hu]

/-! ### Commands to the matrix unit and the copy engines -/

@[simp] theorem memOk_refuseCmd : (s.refuseCmd d va).memOk ↔ s.memOk := Iff.rfl
@[simp] theorem memOk_acceptCmd {op : MOp} : (s.acceptCmd d op).memOk ↔ s.memOk := Iff.rfl

@[simp] theorem memOk_command {named : Option Nat} {bad : State → Option W64} {op : State → MOp} : (s.command d named bad op).memOk ↔ s.memOk := by
  unfold State.command
  split
  · simp
  · split
    · rfl
    · split <;> simp

@[simp] theorem memOk_clearChart {gang e : Nat} : (s.clearChart gang e).memOk ↔ s.memOk := Iff.rfl
@[simp] theorem memOk_mma {form : MmaForm} {a b : SReg} : (s.mma form d a b).memOk ↔ s.memOk := memOk_command

@[simp] theorem memOk_copyFront (h : s.memOk) {named : List Nat} {go : State → State} (hgo : ∀ s, s.memOk → (go s).memOk) :
    (s.copyFront d named go).memOk := by
  unfold State.copyFront
  simp [h, hgo]

@[simp] theorem memOk_acceptCopy {ra : W64} {kind : CopyKind} : (s.acceptCopy d ra kind).memOk ↔ s.memOk := Iff.rfl

@[simp] theorem memOk_tcopyAccept {ra rb : W64} {ext sorg dorg : List Nat} : (s.tcopyAccept d ra rb ext sorg dorg).memOk ↔ s.memOk := by
  unfold State.tcopyAccept
  split <;> simp

@[simp] theorem memOk_withBytes (h : s.memOk) {x : W32} {i : Instr} {align : Nat} {ok : State → List Byte → State} {err : State → State}
    (hok : ∀ s bs, s.memOk → (ok s bs).memOk) (herr : ∀ s, s.memOk → (err s).memOk) : (s.withBytes lane x i align va n ok err).memOk := by
  unfold State.withBytes
  refine memOk_withAddr h (fun t k0 ht => memOk_withAddr ht (fun u k1 hu => ?_) herr) herr
  split
  · exact herr u hu
  · next v e =>
    have hv := memOk_readable hu v e
    split
    · exact herr v hv
    · next w e' =>
      have hw := memOk_readable hv w e'
      dsimp only
      split
      · exact hw
      · exact hok _ _ (by simp [hw])

/-! ### Task queues and spawning -/

@[simp] theorem memOk_setQueueAt {p : QPlace} {l : List QEntry} : (s.setQueueAt p l).memOk ↔ s.memOk := by
  cases p <;> rfl

@[simp] theorem memOk_setLoc (h : s.memOk) {unit lvl : Nat} : (s.setLoc vd n die unit lvl).memOk := by unfold State.setLoc; simp [h]

@[simp] theorem memOk_setLocAt (h : s.memOk) {p : QPlace} : (s.setLocAt vd n p).memOk := by
  cases p <;> exact memOk_setLoc h

@[simp] theorem memOk_addEntry (h : s.memOk) {p : QPlace} {e : QEntry} : (s.addEntry p e).memOk := by unfold State.addEntry; simp [h]

@[simp] theorem memOk_moveBlock (h : s.memOk) {src dst : QPlace} {block : List QEntry} : (s.moveBlock src dst block).memOk :=
  memOk_foldl (fun _ _ hs => memOk_addEntry hs) (memOk_setQueueAt.mpr h)

@[simp] theorem memOk_roomFor (h : s.memOk) {p : QPlace} {fuel : Nat} : MemOkOpt (s.roomFor p n fuel) := by
  induction fuel generalizing s p n with
  | zero => exact memOkOpt_none
  | succ fuel ih =>
    unfold State.roomFor
    split
    · simp [h]
    · split
      · simp
      · split
        · simp
        · next t e => simp [ih h t e]

@[simp] theorem memOk_releaseTo {v : SMap 32} : (s.releaseTo g v).memOk ↔ s.memOk := Iff.rfl
@[simp] theorem memOk_addLive : (s.addLive j).memOk ↔ s.memOk := Iff.rfl
@[simp] theorem memOk_addWait : (s.addWait j).memOk ↔ s.memOk := Iff.rfl
@[simp] theorem memOk_setNowhere (h : s.memOk) : (s.setNowhere vd n).memOk := by unfold State.setNowhere; simp [h]

theorem memOk_spawnRecord {t : State} (h : s.memOk) {w : Spawner} {m : Option Image} {ready : Bool} (e : s.spawnRecord w n m = some (ready, t)) :
    t.memOk := by
  have hrec (f : State → Nat → W64) (v : SMap 32) :
      (((List.range 16).foldl (fun s i => s.setRecWord w.vd n i (f s i)) s).releaseTo (gangKeyOf w.vd n) v).memOk :=
    memOk_releaseTo.mpr (memOk_foldl (fun _ _ hs => memOk_setRecWord hs) h)
  unfold State.spawnRecord at e
  dsimp only at e
  split at e
  · cases e
  · obtain ⟨-, rfl⟩ := Prod.mk.inj (Option.some.inj e)
    refine iteInduction (motive := State.memOk) (fun _ => ?_) fun _ => ?_
    · exact memOk_addLive.mpr (hrec _ _)
    · exact memOk_addWait.mpr (memOk_setNowhere (hrec _ _))

@[simp] theorem memOk_spawnAt (h : s.memOk) {p : QPlace} {w : Spawner} {m : Option Image} {slot : Bool} : MemOkOpt (s.spawnAt p w n m slot) := by
  unfold State.spawnAt
  split
  · next t e => simp [memOk_spawnRecord h e]
  · next t e => split <;> simp [memOk_spawnRecord h e]
  · simp

@[simp] theorem memOk_spawnSteps (h : s.memOk) {a b : SReg} : (s.spawnSteps d a b).memOk := by
  unfold State.spawnSteps
  dsimp only
  split
  · simp [h]
  · split
    · simp [h]
    · next t e =>
      have ht := memOk_roomFor h t e
      have hspawn (u : State) (hu : u.memOk) (m : Option Image) (w : Spawner) (n : Nat) : (match u.spawnAt (.core s.me.core) w n m false with
          | some s => s.scalarResult d 0
          | none => u.statusError d (u.handleVa w.vd n)).memOk := by
        split
        · next v e => exact memOk_spawnAt hu v e
        · exact hu
      split
      · split
        · exact ht
        · exact memOk_atHome ht fun u hu => hspawn u hu none (t.spawnerOf t.cur) _
      · refine memOk_withBytes ht (fun u bs hu => ?_) fun _ hu => hu
        split
        · exact hu
        · exact memOk_atHome hu fun v hv => hspawn v hv _ (u.spawnerOf u.cur) _

@[simp] theorem memOk_batchArg (h : s.memOk) : (s.batchArg vd key).memOk := by unfold State.batchArg; simp [h]

@[simp] theorem memOk_endRecord (h : s.memOk) {st : Nat} : (s.endRecord vd n st).memOk := by
  unfold State.endRecord
  exact memOk_setNowhere (memOk_setRecWord (memOk_setRecWord h))

@[simp] theorem memOk_closeBatch (h : s.memOk) : (s.closeBatch key).memOk := by
  unfold State.closeBatch
  simp [h, memOk_writeLE]

@[simp] theorem memOk_launchBatch (h : s.memOk) : MemOkOpt (s.launchBatch vd key) := by
  have hb : (s.batchArg vd key).memOk := memOk_batchArg h
  refine memOkOpt_map fun t e => memOk_closeBatch ?_
  split at e
  · cases e
    exact memOk_endRecord hb
  · split at e
    · cases e
    · next u eu =>
      cases e
      have hu := memOk_roomFor hb u eu
      exact memOk_getD (memOk_spawnAt hu) (memOk_log.mpr hu)

@[simp] theorem memOk_binAppend (h : s.memOk) {bs : List Byte} : (s.binAppend d key bs).memOk := by
  have htail (t : State) (ht : t.memOk) (c : Bool) (vd : Nat) : (if c then
      match t.launchBatch vd key with
      | some s => s.scalarResult d 0
      | none => s
    else t.scalarResult d 0).memOk := by
    split
    · split
      · next u e => simp [memOk_launchBatch ht u e]
      · exact h
    · simp [ht]
  unfold State.binAppend
  dsimp only
  split
  · simp [h]
  · next ks _ =>
    have hfilled (g : Nat) (v : SMap 32) (w : Nat) : (((s.writeAreas 999 ks bs).releaseTo g v).writeLE 999 key 8 w).memOk :=
      memOk_writeLE (memOk_releaseTo.mpr (memOk_writeAreas h ..)) ..
    refine htail _ ?_ _ _
    split
    · exact memOk_writeLE (hfilled ..) ..
    · exact hfilled ..

@[simp] theorem memOk_binStep (h : s.memOk) {i : Instr} {src : W64} : (s.binStep i d va src key).memOk := by
  unfold State.binStep
  dsimp only
  split
  · simp [h]
  · split
    · simp [h]
    · exact memOk_withBytes h (fun _ _ ht => memOk_binAppend ht) fun t ht => by simp [ht]

/-! ### Futures and jobs -/

@[simp] theorem memOk_fillFuture (h : s.memOk) {value : W64} {cancel : Bool} : MemOkOpt (s.fillFuture pa value cancel) := by
  unfold State.fillFuture
  dsimp only
  refine iteInduction (motive := MemOkOpt) (fun _ => memOkOpt_none) fun _ => memOkOpt_some.mpr (memOk_foldl (fun s w hs => ?_) (memOk_writeLE h ..))
  split <;> simp [hs]

@[simp] theorem memOk_waitStep (h : s.memOk) {nb : Bool} : (s.waitStep d va key nb).memOk := by unfold State.waitStep; simp [h]

@[simp] theorem memOk_endJob (h : s.memOk) : (s.endJob j).memOk := by
  have hirq (t : State) (ht : t.memOk) (c : Bool) : (if c then { t with irqs := t.irqs ++ [(j / 65536 + 1, 0)] } else t).memOk := by
    split <;> exact ht
  unfold State.endJob
  refine hirq _ ?_ _
  split
  · simp [h]
  · split
    · split <;> simp [h]
    · simp [h]

@[simp] theorem memOk_jobCheck (h : s.memOk) : (s.jobCheck j).memOk := by unfold State.jobCheck; simp [h]
@[simp] theorem memOk_cancelJob : (s.cancelJob j).memOk ↔ s.memOk := by unfold State.cancelJob; simp
@[simp] theorem memOk_raiseLane (h : s.memOk) {code : Nat} {tmaskf : W32} : (s.raiseLane code va tmaskf).memOk := by unfold State.raiseLane; simp [h]

/-! ### Lane instructions -/

@[simp] theorem memOk_laneIssue (h : s.memOk) {regs : List (Nat × Nat)} {m : Mask} {body : W32 → State → State}
    (hbody : ∀ x s, s.memOk → (body x s).memOk) : (s.laneIssue regs m body).memOk := by
  unfold State.laneIssue
  simp [h, hbody]

@[simp] theorem memOk_laneWrite {x : W32} {d : Nat} {val : Nat → Nat} : (s.laneWrite x d n val).memOk ↔ s.memOk := Iff.rfl
@[simp] theorem memOk_laneCompare {x : W32} {kd : BitVec 3} {f : Nat → Bool} : (s.laneCompare x kd f).memOk ↔ s.memOk := Iff.rfl

/-! ### Slices, walks and prefetches -/

@[simp] theorem memOk_touchSlice {ev : Nat} : (s.touchSlice vd pa ev).memOk ↔ s.memOk := by
  unfold State.touchSlice
  dsimp only
  split
  · simp
  · split
    · rfl
    · split <;> simp

@[simp] theorem memOk_charge {a : Arbiter} : (s.charge a vd n).memOk ↔ s.memOk := by unfold State.charge; simp
@[simp] theorem memOk_sliceGrant {ev : Nat} : (s.sliceGrant pa vd ev).memOk ↔ s.memOk := memOk_touchSlice.trans memOk_charge
@[simp] theorem memOk_keepWalks {ws : List WalkEntry} : (s.keepWalks die ws).memOk ↔ s.memOk := by unfold State.keepWalks; simp

@[simp] theorem memOk_afterWalk {w : Walk} : (s.afterWalk die vd w).memOk ↔ s.memOk := by
  unfold State.afterWalk
  simp

@[simp] theorem memOk_prefetch {ev : Nat} : (s.prefetch k va ev).memOk ↔ s.memOk := by
  unfold State.prefetch
  dsimp only
  generalize s.check (s.strand k).core _ _ needR va = c
  cases c with
  | key => simp
  | miss =>
    refine iteInduction (motive := fun t => State.memOk t ↔ _) (fun _ => Iff.rfl) fun _ => ?_
    generalize (s.walkVa (s.strand k).die _ va).fin = w
    cases w with
    | leaf => simp
    | _ => exact memOk_afterWalk
  | _ => rfl

@[simp] theorem memOk_sendUsed {g : TlbRange} {cores : List Nat} : (s.sendUsed g cores).memOk ↔ s.memOk :=
  memOk_foldl_iff fun s f => by
    split
    · simp
    · rfl

@[simp] theorem memOk_dropWalks {g : TlbRange} : (s.dropWalks g die).memOk ↔ s.memOk := Iff.rfl
@[simp] theorem memOk_dropTranslations {g : TlbRange} : (s.dropTranslations g core).memOk ↔ s.memOk := by unfold State.dropTranslations; simp

/-! ### Queues, and spawning by thread -/

@[simp] theorem memOk_queueWait (h : s.memOk) {thread : Nat} {r : QOp} {pop : Bool} : (s.queueWait thread r pop).memOk := by
  unfold State.queueWait
  simp [h]

@[simp] theorem memOk_queueThreads (h : s.memOk) {r : QOp} {pop : Bool} {l : List Nat} : (s.queueThreads r pop l).memOk := by
  induction l generalizing s with
  | nil => exact h
  | cons th l ih =>
    unfold State.queueThreads
    split
    · next status t e => exact ih (memOk_serveQueue (memOk_queueStatus.mpr (memOk_queueOp h e)))
    · split
      · exact ih (memOk_queueStatus.mpr h)
      · exact memOk_queueWait h

@[simp] theorem memOk_spawnThread (h : s.memOk) {r : SpawnV} {m : Option (Option Image)} {thread : Nat} : (s.spawnThread r va m thread).memOk := by
  unfold State.spawnThread
  dsimp only
  split
  · simp [h]
  · next t e => simp [memOk_roomFor h t e]
  · next t m e =>
    have ht := memOk_roomFor h t e
    split
    · next u e' => exact memOk_setMe.mpr (memOk_spawnAt ht u e')
    · simp [ht]

/-! ### Answers -/

@[simp] theorem memOk_setPort {p : Port} : (s.setPort k p).memOk ↔ s.memOk := Iff.rfl

@[simp] theorem memOk_sendFlit {type : Nat} {f : Flit} : (s.sendFlit k type f).memOk ↔ s.memOk := by
  unfold State.sendFlit
  dsimp only
  split
  · exact memOk_charge
  · rfl

@[simp] theorem memOk_sendFlits {type : Nat} {f : Flit} : (s.sendFlits k type f).memOk ↔ s.memOk :=
  memOk_foldl_iff fun _ _ => memOk_sendFlit

@[simp] theorem memOk_answerPeer {port : Nat} {q : Flit} : (s.answerPeer port q f).memOk ↔ s.memOk := by
  unfold State.answerPeer
  simp

@[simp] theorem memOk_answerWith (h : s.memOk) {strand : State → Flight → State} (hs : ∀ s f, s.memOk → (strand s f).memOk) :
    (s.answerWith strand f).memOk := by
  unfold State.answerWith
  split
  · exact hs s f h
  · simp [h]
  · simp [h]

@[simp] theorem memOk_reportEnded : (s.reportEnded f).memOk ↔ s.memOk := Iff.rfl
@[simp] theorem memOk_supersede : (s.supersede f).memOk ↔ s.memOk := by unfold State.supersede; simp

@[simp] theorem memOk_reportWatch (h : s.memOk) {bit bytes : Nat} {pc : W64} {r : TrapReq} : (s.reportWatch k bit va bytes pc r).memOk := by
  unfold State.reportWatch
  simp [h]

@[simp] theorem memOk_reply (h : s.memOk) : (s.reply f).memOk := by unfold State.reply; simp [h]

@[simp] theorem memOk_errorReply (h : s.memOk) : (s.errorReply f).memOk := by
  have hacquired (t : State) (ht : t.memOk) (b : Bool) (k : Nat) (sc : Scope) : (if b then t.acquireAt k sc else t).memOk := by
    split <;> simp [ht]
  have hstart (die : Bool) (k : Nat) (sc : Scope) (a b : W64) (c : Bool) (d : W32) :
      (if die then ((s.dropFlight f.id).logError f.strand a b c false d).acquireAt k sc else (s.dropFlight f.id).logError f.strand a b c false
          d).memOk :=
    hacquired _ (by simp [h]) ..
  unfold State.errorReply
  refine iteInduction (motive := State.memOk) (fun _ => hstart ..) fun _ => ?_
  refine iteInduction (motive := State.memOk) (fun _ => ?_) fun _ => ?_
  · split
    · exact memOk_setStrand.mpr (hstart ..)
    · exact hstart ..
  · exact memOk_pendCause.mpr (memOk_setStrand.mpr (hstart ..))

/-! ### Requests of agents, and their walks -/

@[simp] theorem memOk_takeTag : (s.takeTag f).2.memOk ↔ s.memOk := by
  unfold State.takeTag
  dsimp only
  refine iteInduction (motive := fun r => State.memOk (Prod.snd r) ↔ _) (fun _ => Iff.rfl) fun _ => ?_
  split <;> rfl

@[simp] theorem memOk_launchAgent : (s.launchAgent f).memOk ↔ s.memOk := memOk_takeTag

@[simp] theorem memOk_askPeer {a : Agent} {kind : ReqKind} {bytes data ev thread : Nat} :
    (s.askPeer a kind key bytes data ev thread).2.memOk ↔ s.memOk := by
  unfold State.askPeer
  dsimp only
  split
  · split <;> rfl
  · simp

@[simp] theorem memOk_walkAsk : (s.walkAsk die vd pa).memOk ↔ s.memOk := memOk_askPeer

@[simp] theorem memOk_walkSends {w : Walk} : (s.walkSends die vd w).memOk ↔ s.memOk := by
  unfold State.walkSends
  split
  · exact memOk_walkAsk
  · rfl

@[simp] theorem memOk_walkOne {unit : Nat} : (s.walkOne core vd unit va).2.memOk ↔ s.memOk := by
  unfold State.walkOne
  dsimp only
  generalize (s.walkVa (core / 32) vd va).fin = w
  cases w <;> exact memOk_afterWalk

@[simp] theorem memOk_walkAll (h : s.memOk) {unit : Nat} {vas : List W64} : (s.walkAll core vd unit vas).2.memOk :=
  foldl_inv (fun r : List (Nat × Nat) × State => r.2.memOk) _ (fun _ _ hr => memOk_walkOne.mpr hr) vas ([], s) h

/-! ### A gang is saved -/

theorem memOk_heldWrite {t : State} (h : s.memOk) {before held rest : List (Nat × LogEntry)} (e : s.heldWrite die before held = some (t, rest)) :
    t.memOk := by
  induction held generalizing before with
  | nil => cases e
  | cons x held ih =>
    unfold State.heldWrite at e
    split at e
    · exact ih e
    · split at e
      · next u eu =>
        cases e
        exact memOk_fqWrite h _ eu
      · exact ih e

@[simp] theorem memOk_preemptStack (h : s.memOk) {root : Nat} : MemOkOpt (s.preemptStack root) :=
  memOkOpt_map fun t e => by simp [memOk_reserveAll h t e]

@[simp] theorem memOk_reloadStack : (s.reloadStack g).memOk ↔ s.memOk := by unfold State.reloadStack; simp
@[simp] theorem memOk_saveStrand : (s.saveStrand k).memOk ↔ s.memOk := by unfold State.saveStrand; simp
@[simp] theorem memOk_releaseEngine : (s.releaseEngine core g).memOk ↔ s.memOk := by unfold State.releaseEngine; simp
@[simp] theorem memOk_saveEngines : (s.saveEngines g).memOk ↔ s.memOk := by unfold State.saveEngines; simp

@[simp] theorem memOk_unbindQueues (h : s.memOk) : (s.unbindQueues g).memOk := by
  unfold State.unbindQueues
  refine memOk_setGang.mpr (memOk_foldl (fun s q hs => ?_) h)
  exact memOk_setCore.mpr (memOk_setDesc (memOk_clear hs _ _))

@[simp] theorem memOk_freeBlocks : (s.freeBlocks g).memOk ↔ s.memOk := Iff.rfl
@[simp] theorem memOk_saveImage (h : s.memOk) : (s.saveImage g).memOk := memOk_writePool h

@[simp] theorem memOk_saveGang (h : s.memOk) {place : GangPlace} {adopted : Bool} : (s.saveGang g place adopted).memOk := by
  unfold State.saveGang
  refine memOk_setRecWord (memOk_saveImage (memOk_setGang.mpr (memOk_unbindQueues ?_)))
  simp [h]

@[simp] theorem memOk_enter (h : s.memOk) {p : QPlace} {e : QEntry} : MemOkOpt (s.enter p e) :=
  memOkOpt_map fun t et => memOk_addEntry (memOk_roomFor h t et)

/-! ### A gang starts -/

@[simp] theorem memOk_recallVa : (s.recallVa vd n va).memOk ↔ s.memOk := by
  unfold State.recallVa
  split <;> simp

@[simp] theorem memOk_bindQueue (h : s.memOk) {base : Nat} {e : W64} : (s.bindQueue core g e base).memOk := by
  unfold State.bindQueue
  simp [h]

@[simp] theorem memOk_newStrand {p : Placed} : (s.newStrand g core p).memOk ↔ s.memOk := Iff.rfl
@[simp] theorem memOk_joinCon (h : s.memOk) {cn : Nat} : MemOkOpt (s.joinCon k cn) := by unfold State.joinCon; simp [h]

@[simp] theorem memOk_joinAll (h : s.memOk) {l : List Nat} : (s.joinAll k l).memOk := by
  induction l generalizing s with
  | nil => exact h
  | cons cn l ih =>
    unfold State.joinAll
    split
    · next t e => exact ih (memOk_joinCon h t e)
    · simp [h]

@[simp] theorem memOk_startAt (h : s.memOk) {adopter : Option Nat} {plan : List Placed × List (Nat × Nat) × List W64} :
    (s.startAt core vd n adopter plan).memOk := by
  have htail (t : State) (ht : t.memOk) (c : Bool) (u : Core) (f : State → Placed → State) (hf : ∀ s p, s.memOk → (f s p).memOk) :
      ((plan.1.foldl f (plan.1.foldl (fun s p => s.newStrand (gangKeyOf vd n) core p)
        ((plan.2.2.zip plan.2.1).foldl (fun s e => s.bindQueue core (gangKeyOf vd n) e.1 e.2.2) (if c then t.setCore core u else t))))).memOk := by
    refine memOk_foldl hf ((memOk_foldl_iff fun _ _ => memOk_newStrand).mpr (memOk_foldl (fun _ _ hs => memOk_bindQueue hs) ?_))
    split <;> exact ht
  unfold State.startAt
  refine (memOk_foldl_iff fun _ _ => memOk_acquireAt).mpr (htail _ ?_ _ _ _ fun s p hs => ?_)
  · exact memOk_setGang.mpr (memOk_setLoc (memOk_setRecWord (memOk_recallVa.mpr h)))
  · simp [hs]

@[simp] theorem memOk_startGang (h : s.memOk) {adopter : Option Nat} : MemOkOpt (s.startGang core vd n adopter) := by unfold State.startGang; simp [h]
@[simp] theorem memOk_enterResume (h : s.memOk) : MemOkOpt (s.enterResume core g) := memOk_enter (memOk_setGang.mpr h)

/-! ### A gang goes on -/

@[simp] theorem memOk_leaveStack (h : s.memOk) {cause : Nat} : MemOkOpt (s.leaveStack g cause) := by
  unfold State.leaveStack
  dsimp only
  split
  · simp [h]
  · split <;> simp [h]

@[simp] theorem memOk_finishSave (h : s.memOk) {cause : Nat} : MemOkOpt (s.finishSave g cause) := by
  unfold State.finishSave
  refine iteInduction (motive := MemOkOpt) (fun _ => ?_) fun _ => ?_
  · have hs : (s.saveGang g .beneath (s.gang g).adopter.isSome).memOk := memOk_saveGang h
    dsimp only
    split
    · simp [hs]
    · split
      · simp [hs]
      · split
        · next t e => exact memOkOpt_some.mpr (memOk_startGang (memOk_setGang.mpr hs) t e)
        · simp [hs]
  · dsimp only
    split
    · next t e => exact memOk_enterResume (memOk_leaveStack (memOk_setGang.mpr (memOk_saveGang h)) t e)
    · simp

@[simp] theorem memOk_readBack (h : s.memOk) : (s.readBack g).memOk := by
  unfold State.readBack
  split <;> simp [h]

@[simp] theorem memOk_restoreBlock (h : s.memOk) {b : Nat × SMap 8 × SMap 1} : (s.restoreBlock core g b).memOk := by
  unfold State.restoreBlock
  refine memOk_foldl (f := fun s e => s.setFull _ _) (fun _ _ hs => memOk_setFull hs ..) ?_
  refine memOk_foldl (f := fun s e => s.setByte _ _) (fun _ _ hs => memOk_setByte hs ..) ?_
  exact ⟨SMap.wf_clear h.1 _ _, SMap.wf_clear h.2 _ _⟩

@[simp] theorem memOk_restoreRing (h : s.memOk) {q base : Nat} {bytes : SMap 8} : (s.restoreRing core q base bytes).memOk :=
  memOk_foldl (fun _ _ hs => memOk_setByte hs ..) (memOk_setDesc h)

@[simp] theorem memOk_rewait (h : s.memOk) : (s.rewait k).memOk := by
  unfold State.rewait
  split
  · simp [h]
  · split <;> simp [h]
  · exact h

@[simp] theorem memOk_resumeAt (h : s.memOk) {plan : List (Nat × Placed) × List (Nat × Nat)} : (s.resumeAt core g plan).memOk := by
  unfold State.resumeAt
  refine memOk_settleTask (iteInduction (motive := State.memOk) (fun _ => memOk_discardParties ?_) fun _ => ?_)
  all_goals
    refine memOk_foldl (fun s p hs => memOk_rewait (memOk_sendHeld (by simp [hs]))) ?_
    refine (memOk_foldl_iff fun _ _ => memOk_setStrand).mpr (memOk_setCore.mpr ((memOk_foldl_iff fun _ _ => memOk_setBook).mpr ?_))
    refine memOk_foldl (fun s q hs => ?_) (memOk_foldl (fun _ _ hs => memOk_restoreBlock hs) ?_)
    · split
      · exact memOk_restoreRing hs
      · exact hs
    · exact memOk_setGang.mpr (memOk_setLoc (memOk_setRecState (memOk_setVd.mpr (memOk_readBack h))))

@[simp] theorem memOk_resumeGang (h : s.memOk) : MemOkOpt (s.resumeGang core g) := by unfold State.resumeGang; simp [h]

/-! ### Dispatch -/

@[simp] theorem memOk_dropEntry {e : QEntry} : (s.dropEntry core e).memOk ↔ s.memOk := Iff.rfl
@[simp] theorem memOk_subLive : (s.subLive j).memOk ↔ s.memOk := Iff.rfl
@[simp] theorem memOk_discard (h : s.memOk) {e : QEntry} : (s.discard core e).memOk := by unfold State.discard; simp [h]
@[simp] theorem memOk_startEntry (h : s.memOk) {e : QEntry} : MemOkOpt (s.startEntry core e) := by unfold State.startEntry; simp [h]
@[simp] theorem memOk_passOver {passed : List QEntry} : (s.passOver core passed).memOk ↔ s.memOk := Iff.rfl

@[simp] theorem memOk_tryEntries (h : s.memOk) {es passed : List QEntry} : MemOkOpt (s.tryEntries core es passed) := by
  induction es generalizing passed with
  | nil => exact memOkOpt_none
  | cons e es ih =>
    unfold State.tryEntries
    split
    · simp [h]
    · split
      · simp [h]
      · split
        · exact ih
        · split
          · next t et => simp [memOk_startEntry h t et]
          · split
            · simp
            · exact ih

@[simp] theorem memOk_dispatch (h : s.memOk) : MemOkOpt (s.dispatch core) := by
  unfold State.dispatch
  split
  · simp
  · split
    · split
      · next t e => exact memOkOpt_some.mpr (memOk_resumeGang h t e)
      · simp [h]
    · simp [h]

@[simp] theorem memOk_pushBlock (h : s.memOk) {p : QPlace} : (s.pushBlock p).memOk := by
  unfold State.pushBlock
  split
  · split
    · split
      · next t e => exact memOk_moveBlock (memOk_roomFor h t e)
      · exact h
    · exact h
  · exact h

@[simp] theorem memOk_takeBlockOf (h : s.memOk) {p u : QPlace} : (s.takeBlockOf p u).memOk := by unfold State.takeBlockOf; simp [h]

/-! ### Balancing -/

@[simp] theorem memOk_addStrand (h : s.memOk) {role : Nat} : MemOkOpt (s.addStrand g role) := by
  unfold State.addStrand
  dsimp only
  split
  · simp
  · split <;> simp [h]

@[simp] theorem memOk_cutStrand (h : s.memOk) {role : Nat} : MemOkOpt (s.cutStrand g role) := by unfold State.cutStrand; simp [h]

@[simp] theorem memOk_rebalanceQueue (h : s.memOk) {q : Nat} {changed : List Nat} : (s.rebalanceQueue g q changed).1.memOk := by
  have hchanged (o : Option State) (c : Prop) [Decidable c] (ho : MemOkOpt o) : MemOkOpt (if c then none else o) := by
    split
    · simp
    · exact ho
  have hattempt (add cut : Nat) : State.memOk (match (if changed.contains add then none else s.addStrand g add) with
      | some s => (s, changed ++ [add])
      | none => match (if changed.contains cut then none else s.cutStrand g cut) with
        | some s => (s, changed ++ [cut])
        | none => (s, changed) : State × List Nat).1 := by
    split
    · next t e => exact hchanged _ _ (memOk_addStrand h) t e
    · split
      · next t e => exact hchanged _ _ (memOk_cutStrand h) t e
      · exact h
  unfold State.rebalanceQueue
  refine iteInduction (motive := fun r : State × List Nat => r.1.memOk) (fun _ => hattempt ..) fun _ => ?_
  exact iteInduction (motive := fun r : State × List Nat => r.1.memOk) (fun _ => hattempt ..) fun _ => h

/-! ### A task retires -/

@[simp] theorem memOk_failJob : (s.failJob j).memOk ↔ s.memOk := by unfold State.failJob; simp
@[simp] theorem memOk_subWait : (s.subWait j).memOk ↔ s.memOk := Iff.rfl

theorem memOk_decrement {t : State} (h : s.memOk) (e : s.decrement core vd n = .ok t) : t.memOk := by
  unfold State.decrement at e
  dsimp only at e
  split at e
  · cases e
  · split at e
    · split at e
      · cases e
        exact memOk_jobCheck (memOk_subWait.mpr (memOk_setRecState (memOk_setRecField h)))
      · split at e
        · next u eu =>
          cases e
          exact memOk_enter (memOk_addLive.mpr (memOk_subWait.mpr (memOk_setRecState (memOk_setRecField h)))) _ eu
        · cases e
    · cases e
      exact memOk_setRecField h

@[simp] theorem memOk_releaseSuccs (h : s.memOk) {x : Gang} {logged : W64} {l : List Nat} : (s.releaseSuccs x logged l).2.2.memOk := by
  induction l generalizing s with
  | nil => exact h
  | cons n l ih =>
    unfold State.releaseSuccs
    dsimp only
    split
    · simp [h]
    · split
      · exact h
      · exact ih (memOk_log.mpr h)
      · next t e => exact ih (memOk_decrement (memOk_releaseTo.mpr h) e)

@[simp] theorem memOk_allSuccs (h : s.memOk) {r : Retiring} : (s.allSuccs r).2.memOk := by
  unfold State.allSuccs
  dsimp only
  have hinline : (s.releaseSuccs r.gang (s.recordVa r.gang.vd r.gang.handle) r.inline).2.2.memOk := memOk_releaseSuccs h
  generalize s.releaseSuccs r.gang (s.recordVa r.gang.vd r.gang.handle) r.inline = x at hinline
  split
  · exact hinline
  · exact hinline
  · next t =>
    split
    · exact memOk_failJob.mpr (memOk_log.mpr hinline)
    · next listed l _ =>
      have hlisted (va : W64) (hs : List Nat) := memOk_releaseSuccs hinline (x := r.gang) (logged := va) (l := hs)
      split
      · next e => exact (congrArg (fun x => State.memOk x.2.2) e).mp (hlisted ..)
      · next e => exact (congrArg (fun x => State.memOk x.2.2) e).mp (hlisted ..)

@[simp] theorem memOk_releaseBin (h : s.memOk) : (s.releaseBin vd n).memOk := by
  unfold State.releaseBin
  dsimp only
  split
  · exact h
  · split
    · exact h
    · exact iteInduction (motive := State.memOk) (fun _ => memOk_writeLE h ..) fun _ => h

@[simp] theorem memOk_endRetire (h : s.memOk) {job : Nat} : (s.endRetire vd n job).memOk := by unfold State.endRetire; simp [h]

@[simp] theorem memOk_retireOn (h : s.memOk) {r : Retiring} : (s.retireOn r).memOk := by
  have hdone (t : State) (ht : t.memOk) : (match t.allSuccs r with
      | (some r, s) => { s with retiring := s.retiring ++ [r] }
      | (none, s) => s.endRetire r.gang.vd r.gang.handle r.gang.job).memOk := by
    have hall : (t.allSuccs r).2.memOk := memOk_allSuccs ht
    generalize t.allSuccs r = x at hall
    split
    · exact hall
    · exact memOk_endRetire hall
  unfold State.retireOn
  refine hdone _ ?_
  split
  · exact (memOk_foldl_iff fun _ _ => memOk_recallVa).mpr h
  · exact h

@[simp] theorem memOk_forgetReleased : (s.forgetReleased g).memOk ↔ s.memOk := Iff.rfl

@[simp] theorem memOk_abandonLocks (h : s.memOk) : (s.abandonLocks g).memOk :=
  memOk_setGang.mpr (memOk_foldl (fun _ _ hs => memOk_handOff hs) h)

@[simp] theorem memOk_dropGang (h : s.memOk) : (s.dropGang g).memOk := by
  unfold State.dropGang
  have hf : (((s.abandonLocks g).unbindQueues g).freeBlocks g).memOk := memOk_freeBlocks.mpr (memOk_unbindQueues (memOk_abandonLocks h))
  simp [hf]

@[simp] theorem memOk_retire (h : s.memOk) : (s.retire g).memOk := by
  unfold State.retire
  have hend (n vd st : Nat) : (((s.dropGang g).forgetReleased g).endRecord n vd st).memOk := memOk_endRecord
      (memOk_forgetReleased.mpr (memOk_dropGang h))
  refine iteInduction (motive := State.memOk) (fun _ => memOk_retireOn (hend ..)) fun _ => memOk_endRetire ?_
  split <;> simp [hend]

/-! ### Helping -/

@[simp] theorem memOk_adoptFrom (h : s.memOk) {take : State → Option State} (htake : ∀ s, s.memOk → MemOkOpt (take s)) {e : QEntry} :
    (s.adoptFrom g core vd n take e).memOk := by
  unfold State.adoptFrom
  split
  · split
    · next t et => exact memOk_startAt (htake s h t et)
    · exact h
  · split
    · split
      · next t et =>
        split
        · next u eu => simp [htake t (memOk_reserveCtx h t et) u eu]
        · exact h
      · simp [h]
    · exact h

@[simp] theorem memOk_takeBatch (h : s.memOk) : MemOkOpt (s.takeBatch vd key) := by
  unfold State.takeBatch
  split
  · next t e => simp [memOk_spawnRecord (memOk_batchArg h) e]
  · simp

@[simp] theorem memOk_helpFrom (h : s.memOk) {fuel : Nat} : (s.helpFrom g core n fuel).memOk := by
  induction fuel generalizing n with
  | zero => exact h
  | succ fuel ih =>
    unfold State.helpFrom
    dsimp only
    split
    · exact h
    · split
      · split
        · exact memOk_adoptFrom h fun _ ht => memOk_takeBatch ht
        · exact h
      · split
        · exact h
        · split
          · split
            · split
              · exact h
              · exact memOk_adoptFrom h fun _ ht => by simp [ht]
            · exact h
          · split
            · exact ih
            · exact h

/-! ### Cancellation, and messages delivered -/

@[simp] theorem memOk_doom {jk unit : Nat} : (s.doom jk unit).memOk ↔ s.memOk := by unfold State.doom; simp

@[simp] theorem memOk_ackCancel : (s.ackCancel j).memOk ↔ s.memOk :=
  memOk_foldl_iff fun s c => by
    split
    · simp
    · rfl

@[simp] theorem memOk_sent {m : Msg} {ok : Bool} : (s.sent m ok).memOk ↔ s.memOk := by
  unfold State.sent
  split
  · rfl
  · dsimp only
    split <;> simp

@[simp] theorem memOk_overflowFault (h : s.memOk) {m : Msg} : (s.overflowFault m).memOk := by
  unfold State.overflowFault
  split
  · exact memOk_faultEntry (memOk_takeFid.mpr h)
  · exact memOk_faultEntry (memOk_setStrand.mpr (memOk_takeFid.mpr (memOk_logError.mpr h)))

@[simp] theorem memOk_deliverMsg (h : s.memOk) {m : Msg} : (s.deliverMsg m).memOk := by
  unfold State.deliverMsg
  refine iteInduction (motive := State.memOk) (fun _ => ?_) fun _ => iteInduction (motive := State.memOk) (fun _ => memOk_sent.mpr h) fun _ => ?_
  · exact iteInduction (motive := State.memOk) (fun _ => memOk_sent.mpr (memOk_mk.mpr h)) fun _ => memOk_overflowFault (memOk_mk.mpr h)
  · dsimp only
    split
    · simp [h]
    · split <;> simp [h]

/-! ### What the engines read -/

@[simp] theorem memOk_dropCmd {id : Nat} : (s.dropCmd core id).memOk ↔ s.memOk := Iff.rfl

@[simp] theorem memOk_settleFrees : (s.settleFrees core n).memOk ↔ s.memOk := by
  induction n generalizing s with
  | zero => rfl
  | succ n ih =>
    unfold State.settleFrees
    dsimp only
    split
    · rw [ih]; simp
    · rfl

@[simp] theorem memOk_matrixError {m : MCmd} {code tile slot chart : Nat} : (s.matrixError core m code va tile slot chart).memOk ↔ s.memOk := Iff.rfl
@[simp] theorem memOk_engineFill {units : List Nat} {pte : W64} : (s.engineFill core units vd va pte).memOk ↔ s.memOk := Iff.rfl

@[simp] theorem memOk_engineCheck {x : EngAccess} {need : Nat} : (s.engineCheck x need va).2.memOk ↔ s.memOk := by
  unfold State.engineCheck
  dsimp only
  generalize s.checkWith x.core need va _ = c
  cases c with
  | miss =>
    refine iteInduction (motive := fun r : Trans × State => r.2.memOk ↔ _) (fun _ => Iff.rfl) fun _ => ?_
    generalize (s.walkVa (x.core / 32) _ va).fin = w
    cases w with
    | leaf => simp
    | ask => simp
    | _ => exact memOk_afterWalk
  | _ => rfl

@[simp] theorem memOk_engineKey (h : s.memOk) {x : EngAccess} {need : Nat} : (s.engineKey x need n va).2.memOk := by
  have hcheck : (s.engineCheck x need va).2.memOk := memOk_engineCheck.mpr h
  unfold State.engineKey
  dsimp only
  generalize s.engineCheck x need va = c at hcheck
  obtain ⟨c, t⟩ := c
  cases c with
  | key k =>
    refine iteInduction (motive := fun r : EngRes × State => r.2.memOk) (fun _ => ?_) fun _ => ?_
    · split
      · next u e => exact memOk_spadAccess hcheck u e
      · exact hcheck
    · split
      · exact hcheck
      · refine iteInduction (motive := fun r : EngRes × State => r.2.memOk) (fun _ => hcheck) fun _ => ?_
        split <;> exact hcheck
      · split <;> exact hcheck
  | _ => exact hcheck

@[simp] theorem memOk_reached {line : Nat} : (s.reached line).memOk ↔ s.memOk := Iff.rfl

@[simp] theorem memOk_engineGrant (h : s.memOk) {x : EngAccess} : MemOkOpt (s.engineGrant x k n) := by
  unfold State.engineGrant
  dsimp only
  split
  · refine memOkOpt_some.mpr (memOk_foldl (fun s l hs => ?_) h)
    split <;> simp [hs]
  · simp

@[simp] theorem memOk_askLines (h : s.memOk) {a : Agent} {ev thread : Nat} : (s.askLines a key n ev thread).2.memOk := by
  refine foldl_inv (fun r : Asked × State => r.2.memOk) _ (fun r i hr => ?_) _ (.answer, s) h
  exact memOk_askPeer.mpr hr

@[simp] theorem memOk_engineRead (h : s.memOk) {x : EngAccess} : (s.engineRead x n va).2.memOk := by
  have hkey : (s.engineKey x needR n va).2.memOk := memOk_engineKey h
  unfold State.engineRead
  generalize s.engineKey x needR n va = r at hkey
  obtain ⟨r, t⟩ := r
  cases r with
  | ok k =>
    have hlines : (t.askLines (t.engineAgent x) k n 4 x.thr).2.memOk := memOk_askLines hkey
    refine iteInduction (motive := fun r : EngRes × State => r.2.memOk) (fun _ => hkey) fun _ => ?_
    refine iteInduction (motive := fun r : EngRes × State => r.2.memOk) (fun _ => ?_) fun _ => ?_
    · refine iteInduction (motive := fun r : EngRes × State => r.2.memOk) (fun _ => ?_) fun _ => hkey
      split <;> exact hkey
    · refine iteInduction (motive := fun r : EngRes × State => r.2.memOk) (fun _ => ?_) fun _ => ?_
      · split
        · next u e => exact memOk_recallAll.mpr (memOk_engineGrant hkey u e)
        · exact hkey
      · generalize t.askLines (t.engineAgent x) k n 4 x.thr = a at hlines
        split <;> exact hlines
  | _ => exact hkey

@[simp] theorem memOk_waitingAs {t : State} : (s.waitingAs t).memOk ↔ t.memOk := Iff.rfl

/-! ### Matrix commands -/

@[simp] theorem memOk_killGang (h : s.memOk) : MemOkOpt (s.killGang g) := by
  unfold State.killGang
  dsimp only
  have hended (c : Core) : (((s.strandsOf g).foldl State.endStrand s).setCore (s.gang g).core c).memOk :=
    memOk_setCore.mpr (memOk_foldl (fun _ _ hs => memOk_endStrand hs) h)
  refine iteInduction (motive := MemOkOpt) (fun _ => ?_) fun _ => ?_
  · exact memOk_enter (memOk_setRecState (memOk_endRecord (memOk_setRecField (memOk_dropGang (memOk_mk.mpr (hended _))))))
  · refine memOkOpt_some.mpr (memOk_jobCheck (memOk_subLive.mpr (memOk_failJob.mpr (memOk_forgetReleased.mpr ?_))))
    exact memOk_endRecord (memOk_dropGang (memOk_mk.mpr (hended _)))

@[simp] theorem memOk_operandFault (h : s.memOk) {m : MCmd} {xkind : Nat} : MemOkOpt (s.operandFault core m xkind va) := by
  unfold State.operandFault
  simp [h]

@[simp] theorem memOk_keepPanel {w kind : Nat} {vals : List (Nat × Nat)} : (s.keepPanel core w kind vals).memOk ↔ s.memOk := by
  unfold State.keepPanel
  simp

@[simp] theorem memOk_fillSlot {w : Nat} {sl : Slot} : (s.fillSlot core w sl).memOk ↔ s.memOk := Iff.rfl

@[simp] theorem memOk_readPanel (h : s.memOk) {kind : Nat} {m : MCmd} {rs : List PanelRead} : (s.readPanel core m kind rs).2.memOk := by
  unfold State.readPanel
  dsimp only
  generalize hr : List.foldl _ (PanelRes.got [], s) rs = r
  have hread : r.2.memOk := by
    rw [← hr]
    refine foldl_inv (fun r : PanelRes × State => r.2.memOk) _ (fun r x hr => ?_) _ _ h
    obtain ⟨r, t⟩ := r
    split
    · exact hr
    · split
      · exact hr
      · exact hr
      · next va _ _ =>
        have hva := memOk_engineRead hr (x := cmdAccess core m) (n := x.bytes) (va := va)
        split <;> next e => exact (congrArg (fun y => State.memOk y.2) e).mp hva
  split <;> exact hread

@[simp] theorem memOk_readGranules (h : s.memOk) {m : MCmd} {l : List Nat} : (s.readGranules core m l).2.memOk := by
  induction l generalizing s with
  | nil => exact h
  | cons g l ih =>
    unfold State.readGranules
    refine iteInduction (motive := fun r : GranRes × State => r.2.memOk) (fun _ => ih h) fun _ => ?_
    split
    · exact h
    · next t e =>
      have ht := memOk_spadAccess h t e
      exact iteInduction (motive := fun r : GranRes × State => r.2.memOk) (fun _ => ih (memOk_setCore.mpr ht)) fun _ => ht

@[simp] theorem memOk_mmaFail {code : Nat} {m : MCmd} : (s.mmaFail core m code va).memOk ↔ s.memOk := by
  unfold State.mmaFail
  split <;> simp

@[simp] theorem memOk_awaitGranule : (s.awaitGranule core g).memOk ↔ s.memOk := by unfold State.awaitGranule; simp

@[simp] theorem memOk_passMma (h : s.memOk) {w ascale amask : Nat} {m : MCmd} {form : MmaForm} {af : Fmt} {r : MmaRun} :
    (s.passMma core m form w af ascale amask r).memOk := by
  unfold State.passMma
  refine iteInduction (motive := State.memOk) (fun _ => h) fun _ => iteInduction (motive := State.memOk) (fun _ => ?_) fun _ =>
    iteInduction (motive := State.memOk) (fun _ => h) fun _ => ?_
  · split <;> simp [h]
  · generalize passGranules core form af _ ascale amask r.pass = gs
    have hread : (s.readGranules core m gs).2.memOk := memOk_readGranules h
    generalize s.readGranules core m gs = g at hread
    split
    · exact memOk_mmaFail.mpr hread
    · exact memOk_awaitGranule.mpr hread
    · dsimp only
      split
      · exact memOk_mmaFail.mpr hread
      · exact hread

@[simp] theorem memOk_startMma {m : MCmd} {form : MmaForm} {u w : Nat} {af : Fmt} : (s.startMma core m form u w af).memOk ↔ s.memOk := by
  unfold State.startMma
  simp

/-! ### Copies -/

@[simp] theorem memOk_setEngine {e : Nat} {l : List Copy} : (s.setEngine die e l).memOk ↔ s.memOk := Iff.rfl

@[simp] theorem memOk_copyRead (h : s.memOk) {c : Copy} {lo : Nat} {ch : Chart} {idx : List Nat} : (s.copyRead c lo ch idx).2.2.memOk := by
  unfold State.copyRead
  refine iteInduction (motive := fun r : EngRes × W64 × State => r.2.2.memOk) (fun _ => h) fun _ => ?_
  have hread : (s.engineRead (s.copyAccess c lo) (elemBytes ch.fmt) (ch.addr (ch.offset idx))).2.memOk := memOk_engineRead h
  dsimp only
  generalize s.engineRead (s.copyAccess c lo) (elemBytes ch.fmt) (ch.addr (ch.offset idx)) = r at hread
  split <;> exact hread

@[simp] theorem memOk_cutFrom (h : s.memOk) {c : Copy} {lo first fuel counted : Nat} {index table : Chart} :
    (s.cutFrom c lo index table first fuel n counted).1.memOk := by
  induction fuel generalizing s c n counted with
  | zero => exact h
  | succ fuel ih =>
    unfold State.cutFrom
    split
    · exact h
    · split
      · exact ih h
      · have hread : (s.copyRead c lo index [first + n]).2.2.memOk := memOk_copyRead h
        generalize s.copyRead c lo index [first + n] = r at hread
        split
        · exact ih hread
        · exact hread

@[simp] theorem memOk_cutChunk (h : s.memOk) {c : Copy} {lo : Nat} : (s.cutChunk c lo).1.memOk := by
  unfold State.cutChunk
  split
  · exact memOk_cutFrom h
  · exact h

@[simp] theorem memOk_recut (h : s.memOk) {c : Copy} : (s.recut c).1.memOk := by
  unfold State.recut
  split
  · exact memOk_cutChunk h
  · exact h

@[simp] theorem memOk_startMore (h : s.memOk) {c : Copy} {fuel : Nat} : (s.startMore c fuel).1.memOk := by
  induction fuel generalizing s c with
  | zero => exact h
  | succ fuel ih =>
    unfold State.startMore
    split
    · exact h
    · split
      · exact ih h
      · split
        · exact ih (memOk_cutChunk h)
        · exact h

@[simp] theorem memOk_startChunks (h : s.memOk) {c : Copy} {fuel : Nat} : (s.startChunks c fuel).1.memOk := memOk_startMore (memOk_recut h)
@[simp] theorem memOk_putCopy {e : Nat} {c : Copy} : (s.putCopy die e c).memOk ↔ s.memOk := Iff.rfl
@[simp] theorem memOk_dropLine {line : Nat} : (s.dropLine line).memOk ↔ s.memOk := Iff.rfl
@[simp] theorem memOk_recordTag {src home tag reply : Nat} : (s.recordTag src home tag reply).memOk ↔ s.memOk := Iff.rfl
@[simp] theorem memOk_tagWrite {src : Nat} : (s.tagWrite src pa).memOk ↔ s.memOk := Iff.rfl

@[simp] theorem memOk_engineWrite (h : s.memOk) {x : EngAccess} {v : Nat} : (s.engineWrite x n v va).2.memOk := by
  have hkey : (s.engineKey x needW n va).2.memOk := memOk_engineKey h
  unfold State.engineWrite
  generalize s.engineKey x needW n va = r at hkey
  obtain ⟨r, t⟩ := r
  cases r with
  | ok k =>
    refine iteInduction (motive := fun r : EngRes × State => r.2.memOk) (fun _ => memOk_satisfy.mpr (memOk_storeSpad hkey ..)) fun _ => ?_
    refine iteInduction (motive := fun r : EngRes × State => r.2.memOk) (fun _ => hkey) fun _ => ?_
    refine iteInduction (motive := fun r : EngRes × State => r.2.memOk) (fun _ => ?_) fun _ => ?_
    · have hask : (t.askPeer (t.engineAgent x) .store k n v 4 x.thr).2.memOk := memOk_askPeer.mpr hkey
      generalize t.askPeer (t.engineAgent x) .store k n v 4 x.thr = a at hask
      split <;> exact hask
    · refine iteInduction (motive := fun r : EngRes × State => r.2.memOk) (fun _ => hkey) fun _ => ?_
      split
      · exact hkey
      · next u e => exact memOk_wakeWfe.mpr (memOk_tagWrite.mpr (memOk_dropLine.mpr
            (memOk_storeBytes (memOk_recallAll.mpr (memOk_engineGrant hkey u e)) ..)))
  | _ => exact hkey

@[simp] theorem memOk_copyWrite (h : s.memOk) {c : Copy} {unit v : Nat} : (s.copyWrite c unit n v va).2.memOk := by
  have hwrite : (s.engineWrite (s.copyAccess c unit) n v va).2.memOk := memOk_engineWrite h
  unfold State.copyWrite
  generalize s.engineWrite (s.copyAccess c unit) n v va = r at hwrite
  split <;> exact hwrite

@[simp] theorem memOk_copyPairWrite (h : s.memOk) {c : Copy} {unit v w : Nat} {dst : Chart} {e : Int} :
    (s.copyPairWrite c unit dst e v w).2.memOk := by
  unfold State.copyPairWrite
  refine iteInduction (motive := fun r : UnitRes × State => r.2.memOk) (fun _ => memOk_copyWrite h) fun _ => ?_
  have hkey : (s.engineKey (s.copyAccess c unit) needW 1 (dst.addr e)).2.memOk := memOk_engineKey h
  dsimp only
  generalize s.engineKey (s.copyAccess c unit) needW 1 (dst.addr e) = r at hkey
  obtain ⟨r, t⟩ := r
  cases r with
  | ok k =>
    dsimp only
    generalize t.readLE k 1 % 16 + _ = b
    have hwrite : (t.copyWrite c unit 1 b (dst.addr e)).2.memOk := memOk_copyWrite hkey
    generalize t.copyWrite c unit 1 b (dst.addr e) = q at hwrite
    obtain ⟨q, t⟩ := q
    cases q with
    | wrote a =>
      have hkey : (t.engineKey (t.copyAccess c unit) needW 1 (dst.addr (e + 1))).2.memOk := memOk_engineKey hwrite
      dsimp only
      generalize t.engineKey (t.copyAccess c unit) needW 1 (dst.addr (e + 1)) = r at hkey
      obtain ⟨r, t⟩ := r
      cases r with
      | ok k =>
        dsimp only
        generalize t.readLE k 1 / 16 * 16 + _ = b
        have hwrite : (t.copyWrite c unit 1 b (dst.addr (e + 1))).2.memOk := memOk_copyWrite hkey
        generalize t.copyWrite c unit 1 b (dst.addr (e + 1)) = q at hwrite
        obtain ⟨q, t⟩ := q
        cases q <;> exact hwrite
      | _ => exact hkey
    | stop => exact hwrite
  | _ => exact hkey

@[simp] theorem memOk_copyIndex (h : s.memOk) {c : Copy} {lo first : Nat} {index : Chart} : (s.copyIndex c lo n index first).2.2.memOk := by
  unfold State.copyIndex
  split
  · exact h
  · exact memOk_copyRead h

@[simp] theorem memOk_copyUnit (h : s.memOk) {c : Copy} {lo : Nat} : (s.copyUnit c lo n).2.memOk := by
  have hread {t : State} (ht : t.memOk) {ch : Chart} {idx : List Nat} {r : EngRes} {va : W64} {u : State} (e : t.copyRead c lo ch idx = (r, va, u))
      : u.memOk :=
    (congrArg (fun x => State.memOk x.2.2) e).mp (memOk_copyRead ht)
  have hindex {index : Chart} {first : Nat} {r : EngRes} {va : W64} {u : State} (e : s.copyIndex c lo n index first = (r, va, u)) : u.memOk :=
    (congrArg (fun x => State.memOk x.2.2) e).mp (memOk_copyIndex h)
  unfold State.copyUnit
  split
  · dsimp only
    split
    · next e =>
      split
      · split
        · next e' => exact memOk_copyPairWrite (hread (hread h e) e')
        · next e' => exact hread (hread h e) e'
      · exact memOk_copyWrite (hread h e)
    · next e => exact hread h e
  · split
    · next e =>
      split
      · next e' => exact memOk_copyWrite (hread (hindex e) e')
      · next e' => exact hread (hindex e) e'
    · next e => exact hindex e
  · split
    · next e =>
      split
      · split
        · next e' => exact memOk_copyWrite (hread (hindex e) e')
        · next e' => exact hread (hindex e) e'
      · exact hindex e
    · next e => exact hindex e

@[simp] theorem memOk_runChunk (h : s.memOk) {c : Copy} {range : Nat × Nat} : (s.runChunk c range).2.memOk := by
  unfold State.runChunk
  refine foldl_inv (fun r : ChunkRes × State => r.2.memOk) _ (fun r i hr => ?_) _ _ h
  split
  · exact hr
  · split
    · exact hr
    · have hunit : (r.2.copyUnit c range.1 (range.1 + i)).2.memOk := memOk_copyUnit hr
      split <;> next e => exact (congrArg (fun y => State.memOk y.2) e).mp hunit

@[simp] theorem memOk_copyWatch (h : s.memOk) {e : Nat} {c : Copy} {halts : Bool} : (s.copyWatch die e c halts va).memOk := by
  unfold State.copyWatch
  simp [h]

@[simp] theorem memOk_fillGranules (h : s.memOk) {c : Copy} {range left : Nat × Nat} {keys : List Nat} :
    (s.fillGranules c range left keys).1.memOk :=
  memOk_foldl (fun _ _ hs => memOk_setFe hs) h

@[simp] theorem memOk_dropChunk {c : Copy} {range : Nat × Nat} : (s.dropChunk c range).memOk ↔ s.memOk := Iff.rfl

@[simp] theorem memOk_parkCopy (h : s.memOk) {e xkind : Nat} {c : Copy} {range : Nat × Nat} {r : ChunkRes} {wr : Bool} :
    (s.parkCopy die e c range r xkind wr va).memOk :=
  memOk_faultEntry (memOk_putCopy.mpr (memOk_dropChunk.mpr (memOk_takeFid.mpr h)))

@[simp] theorem memOk_copyArrive (h : s.memOk) {c : Copy} : MemOkOpt (s.copyArrive c n) := by
  unfold State.copyArrive
  split
  · simp [h]
  · split
    · simp [h]
    · next va _ _ =>
      have hkey : (s.engineKey (s.copyAccess c 0) needW 16 va).2.memOk := memOk_engineKey h
      generalize s.engineKey (s.copyAccess c 0) needW 16 va = r at hkey
      split
      · split
        · exact memOkOpt_some.mpr (memOk_arriveCount hkey)
        · simp
      · simp

@[simp] theorem memOk_completeChunk (h : s.memOk) {e : Nat} {c : Copy} {range : Nat × Nat} : (s.completeChunk die e c range).memOk := by
  have hreport (t : State) (ht : t.memOk) (b halts : Bool) (va : W64) : (if b then t else t.copyWatch die e c halts va).memOk := by
    split <;> simp [ht]
  have hends (t : State) (ht : t.memOk) (left : Nat × Nat) (keys : List Nat) (code : Nat) (va : W64) (d : Copy) :
      ((((t.fillGranules c range left keys).1.endCopy die e (t.fillGranules c range left keys).2 code va).dropChunk
        (t.fillGranules c range left keys).2 range).putCopy die e d).memOk :=
    memOk_putCopy.mpr (memOk_dropChunk.mpr (memOk_endCopy.mpr (memOk_fillGranules ht)))
  unfold State.completeChunk
  have hrun : (s.runChunk c range).2.memOk := memOk_runChunk h
  dsimp only
  split
  · exact hrun
  · have hcharged (n : Nat) : ((s.runChunk c range).2.charge (copyArbiter die) c.vd n).memOk := memOk_charge.mpr hrun
    split
    · exact iteInduction (motive := State.memOk) (fun _ => memOk_parkCopy (hreport _ (hcharged _) ..)) fun _ => hends _ (hreport _ (hcharged _) ..) ..
    · exact hends _ (hreport _ (hcharged _) ..) ..
    · split
      · next t e => exact memOk_putCopy.mpr (memOk_copyArrive (memOk_dropChunk.mpr (hreport _ (memOk_fillGranules (hcharged _)) ..)) t e)
      · exact memOk_putCopy.mpr (memOk_endCopy.mpr (memOk_dropChunk.mpr (hreport _ (memOk_fillGranules (hcharged _)) ..)))

@[simp] theorem memOk_chunkStep (h : s.memOk) {engine slot chunk : Nat} : (s.chunkStep die engine slot chunk).memOk := by
  have hdrop (t : State) (ht : t.memOk) (c : Bool) (p : Flight → Asker → Bool) (b : List Nat) :
      ({ (if c then t else t.dropAsks p) with burst := b } : State).memOk := memOk_mk.mpr (by split <;> exact ht)
  unfold State.chunkStep
  split
  · exact h
  · next c _ =>
    have hstart : ((s.startChunks c 4).1.putCopy die engine (s.startChunks c 4).2).memOk := memOk_putCopy.mpr (memOk_startChunks h)
    refine hdrop _ ?_ _ _ _
    split
    · exact hstart
    · exact memOk_completeChunk hstart

/-! ### Launches -/

@[simp] theorem memOk_sendIrq {vector : Nat} : (s.sendIrq fn vector).memOk ↔ s.memOk := Iff.rfl
@[simp] theorem memOk_refuseLaunch {w : W64} : (s.refuseLaunch vd w).memOk ↔ s.memOk := by unfold State.refuseLaunch; simp
@[simp] theorem memOk_launchWrite {w : W64} : (s.launchWrite vd w).memOk ↔ s.memOk := by unfold State.launchWrite; simp

@[simp] theorem memOk_pushLeft (h : s.memOk) {jk : Nat} : (s.pushLeft jk).memOk := by
  unfold State.pushLeft
  refine memOk_setJob.mpr (foldl_inv (fun r : State × List (Nat × Nat) => r.1.memOk) _ (fun r e hr => ?_) _ (s, []) h)
  split
  · exact memOk_addEntry hr
  · exact hr

@[simp] theorem memOk_clearTable (h : s.memOk) : (s.clearTable key).memOk :=
  memOk_foldl (fun _ _ hs => memOk_invalidate.mpr (memOk_clear hs _ _)) h

@[simp] theorem memOk_launchSpawn (h : s.memOk) {jk m : Nat} {place : Nat → Nat} : (s.launchSpawn jk m place n).2.memOk := by
  unfold State.launchSpawn
  dsimp only
  split
  · next e => exact memOk_setJob.mpr (memOk_spawnRecord h e)
  · next e => exact memOk_spawnRecord h e
  · exact h

@[simp] theorem memOk_spawnChunk (h : s.memOk) {jk : Nat} {m t : Image} : (s.spawnChunk jk m t i).memOk :=
  memOk_launchSpawn (memOk_foldl (fun _ _ hs => memOk_setRecWord hs) h)

@[simp] theorem memOk_acceptLaunch (h : s.memOk) {w : W64} {m : Image} : (s.acceptLaunch vd w m).memOk := by
  have hclear (t : State) (ht : t.memOk) (pages : List Nat) : (pages.foldl State.clearTable t).memOk :=
    memOk_foldl (fun _ _ hs => memOk_clearTable hs) ht
  unfold State.acceptLaunch
  refine memOk_jobCheck (memOk_pushLeft (iteInduction (motive := State.memOk) (fun _ => ?_) fun _ => ?_))
  · refine memOk_foldl (fun _ _ hs => memOk_spawnChunk hs) (memOk_setJob.mpr (hclear _ ?_ _))
    simp [h]
  · refine foldl_inv (fun r : Nat × State => r.2.memOk) _ (fun _ _ hr => memOk_launchSpawn hr) _ (0, _) (memOk_setJob.mpr (hclear _ ?_ _))
    simp [h]

@[simp] theorem memOk_checkLaunch (h : s.memOk) {w : W64} : (s.checkLaunch vd w).memOk := by
  unfold State.checkLaunch
  split
  · simp [h]
  · exact iteInduction (motive := State.memOk) (fun _ => by simp [h]) fun _ => memOk_acceptLaunch (by simp [h])

/-! ### Fences -/

@[simp] theorem memOk_loseRecord (h : s.memOk) : (s.loseRecord vd n).memOk :=
  memOk_jobCheck (memOk_subLive.mpr (memOk_failJob.mpr (memOk_endRecord h)))

@[simp] theorem memOk_loseHomed (h : s.memOk) {d : Nat} : (s.loseHomed d).memOk := by
  unfold State.loseHomed
  refine memOk_foldl (fun _ _ hs => memOk_loseRecord hs) (memOk_mk.mpr (memOk_foldl (fun t q ht => ?_) h))
  split
  · exact memOk_setQueueAt.mpr ht
  · exact ht

@[simp] theorem memOk_relaunch (h : s.memOk) : (s.relaunch vd n).memOk := by
  unfold State.relaunch
  refine iteInduction (motive := State.memOk) (fun _ => ?_) fun _ => ?_
  · exact memOk_jobCheck (memOk_subLive.mpr (memOk_failJob.mpr (memOk_endRecord h)))
  · exact memOk_setJob.mpr (memOk_setNowhere (memOk_setRecState h))

@[simp] theorem memOk_failWaiters (h : s.memOk) {d : Nat} : (s.failWaiters d).memOk := by
  unfold State.failWaiters
  refine memOk_foldl (fun s w hs => ?_) (memOk_mk.mpr h)
  dsimp only
  split <;> simp [hs]

@[simp] theorem memOk_loseStarted (h : s.memOk) : (s.loseStarted g).memOk := by
  unfold State.loseStarted
  have hended (c : Core) (f : Copy → Option Copy) :
      (((((s.strandsOf g).foldl State.endStrand s).setCore (s.gang g).core c).mapCopies f).dropGang g).memOk :=
    memOk_dropGang (memOk_mapCopies.mpr (memOk_setCore.mpr (memOk_foldl (fun _ _ hs => memOk_endStrand hs) h)))
  refine iteInduction (motive := State.memOk) (fun _ => ?_) fun _ => ?_
  · exact memOk_relaunch (memOk_endRecord (memOk_setRecField (hended ..)))
  · exact memOk_jobCheck (memOk_subLive.mpr (memOk_failJob.mpr (memOk_endRecord (hended ..))))

@[simp] theorem memOk_loseEntry (h : s.memOk) {e : QEntry} : (s.loseEntry e).memOk := by
  unfold State.loseEntry
  simp [h]

@[simp] theorem memOk_loseUnits (h : s.memOk) {cores : List Nat} {queues : List QPlace} : (s.loseUnits cores queues).memOk := by
  unfold State.loseUnits
  refine memOk_foldl (fun s j hs => ?_) ?_
  · have hleft := memOk_pushLeft hs (jk := j.1)
    exact iteInduction (motive := State.memOk) (fun _ => memOk_ackCancel.mpr hleft) fun _ => hleft
  · refine (memOk_foldl_iff fun _ _ => memOk_setCore).mpr ?_
    refine memOk_foldl (fun _ _ hs => memOk_loseEntry hs) (memOk_foldl (fun _ _ hs => memOk_loseStarted hs) (memOk_mk.mpr ?_))
    exact (memOk_foldl_iff fun _ _ => memOk_setQueueAt).mpr h

@[simp] theorem memOk_fenceDie (h : s.memOk) {d : Nat} : (s.fenceDie d).memOk := by
  unfold State.fenceDie
  refine iteInduction (motive := State.memOk) (fun _ => h) fun _ => ?_
  refine memOk_foldl (fun _ _ hs => memOk_jobCheck (memOk_failJob.mpr (memOk_log.mpr hs))) (memOk_mk.mpr (memOk_loseUnits (memOk_failWaiters ?_)))
  exact memOk_foldl (fun _ _ hs => memOk_relaunch hs) (memOk_mk.mpr (memOk_setDie.mpr (memOk_loseHomed h)))

/-! ### Resets -/

@[simp] theorem memOk_resetQueues {p : Nat} : (s.resetQueues p).memOk ↔ s.memOk := Iff.rfl
@[simp] theorem memOk_dropSliceLines {p : Nat → SliceLine → Bool} : (s.dropSliceLines p).memOk ↔ s.memOk := Iff.rfl

@[simp] theorem memOk_resetInks (h : s.memOk) {p : Nat} : (s.resetInks p).memOk :=
  memOk_dropSliceLines.mpr (memOk_mk.mpr (memOk_foldl (fun _ _ hs => memOk_write hs ..) h))

@[simp] theorem memOk_resetCores (h : s.memOk) {p : Nat} : (s.resetCores p).memOk := by
  refine memOk_mk.mpr (memOk_mk.mpr (memOk_foldl (fun s c hs => ?_) h))
  exact ⟨SMap.wf_clear hs.1 _ _, SMap.wf_clear hs.2 _ _⟩

@[simp] theorem memOk_resetPackets {p : Nat} : (s.resetPackets p).memOk ↔ s.memOk := Iff.rfl
@[simp] theorem memOk_dropLaunches : (s.dropLaunches vd).memOk ↔ s.memOk := by unfold State.dropLaunches; simp

@[simp] theorem memOk_resetTasks (h : s.memOk) {p : Nat} : (s.resetTasks p).memOk := by
  unfold State.resetTasks
  refine (memOk_foldl_iff fun _ _ => memOk_dropLaunches).mpr (memOk_mk.mpr ((memOk_foldl_iff fun s j => ?_).mpr ?_))
  · exact (iteInduction (motive := fun t => State.memOk t ↔ _) (fun _ => Iff.rfl) fun _ => Iff.rfl)
  · refine memOk_mk.mpr ((memOk_foldl_iff fun _ _ => memOk_setGang).mpr (memOk_foldl (fun s g hs => ?_) h))
    exact memOk_mapCopies.mpr (memOk_foldl (fun _ _ ht => memOk_endStrand ht) hs)

@[simp] theorem memOk_resetPart (h : s.memOk) {p : Nat} : (s.resetPart p).memOk := by
  unfold State.resetPart
  refine iteInduction (motive := State.memOk) (fun _ => h) fun _ => ?_
  exact memOk_resetQueues.mpr (memOk_resetInks (memOk_resetCores (memOk_resetPackets.mpr (memOk_resetTasks (memOk_setPart.mpr h)))))

/-! ### Control registers -/

@[simp] theorem memOk_csError : (s.csError pa).memOk ↔ s.memOk := Iff.rfl

@[simp] theorem memOk_writePart (h : s.memOk) {p : Nat} {w : W64} : (s.writePart p off w).memOk := by
  unfold State.writePart
  refine iteInduction (motive := State.memOk) (fun _ => h) fun _ => iteInduction (motive := State.memOk) (fun _ => h) fun _ => ?_
  refine iteInduction (motive := State.memOk) (fun _ => memOk_resetPart ?_) fun _ => ?_ <;> split <;> exact h

@[simp] theorem memOk_rebase {share : Share} {newDepth : Nat} : (s.rebase share vd newDepth).memOk ↔ s.memOk := Iff.rfl
@[simp] theorem memOk_logRates {v : Nat} : (s.logRates v).memOk ↔ s.memOk := by unfold State.logRates; simp

@[simp] theorem memOk_writeVd {v : Nat} {w : W64} : (s.writeVd v off w).memOk ↔ s.memOk := by
  have hset (t : State) (c : Bool) (x : Vd) : (if c then (t.setVd v x).logRates v else t.setVd v x).memOk ↔ t.memOk := by split <;> simp
  unfold State.writeVd
  dsimp only
  refine iteInduction (motive := fun t => State.memOk t ↔ _) (fun _ => Iff.rfl) fun _ => ?_
  refine iteInduction (motive := fun t => State.memOk t ↔ _) (fun _ => Iff.rfl) fun _ => ?_
  refine iteInduction (motive := fun t => State.memOk t ↔ _) (fun _ => memOk_launchWrite) fun _ => ?_
  refine iteInduction (motive := fun t => State.memOk t ↔ _) (fun _ => Iff.rfl) fun _ => ?_
  refine iteInduction (motive := fun t => State.memOk t ↔ _) (fun _ => Iff.rfl) fun _ => ?_
  refine (hset _ _ _).trans ?_
  split <;> rfl

@[simp] theorem memOk_renumber (h : s.memOk) {n : BitVec 4} : (s.renumber n).memOk :=
  ⟨foldl_inv (fun m : SMap 8 => SMap.wf m = true) _ (fun _ _ hm => SMap.wf_set hm _ _) _ _
    ((SMap.wf_iff _).mpr (((SMap.wf_iff _).mp h.1).filter _)), h.2⟩

@[simp] theorem memOk_writeDie {d : Nat} {w : W64} : (s.writeDie d off w).memOk ↔ s.memOk := by unfold State.writeDie; simp

@[simp] theorem memOk_writePackage (h : s.memOk) {w : W64} : (s.writePackage off w).memOk := by
  unfold State.writePackage
  split
  · refine memOk_mk.mpr (iteInduction (motive := State.memOk) (fun _ => h) fun _ => ?_)
    exact iteInduction (motive := State.memOk) (fun _ => h) fun _ => memOk_renumber (memOk_mk.mpr h)
  · exact h
  · exact h
  · exact h

@[simp] theorem memOk_writeControl (h : s.memOk) {a : Nat} {w : W64} : (s.writeControl a w).memOk := by
  unfold State.writeControl
  split
  · exact h
  · split
    · dsimp only
      split <;> simp [h]
    · simp [h]

/-! ### Links and peers -/

@[simp] theorem memOk_resetLink : (s.resetLink k).memOk ↔ s.memOk := Iff.rfl

@[simp] theorem memOk_replayLink : (s.replayLink k).memOk ↔ s.memOk := by
  unfold State.replayLink
  exact iteInduction (motive := fun t => State.memOk t ↔ _) (fun _ => Iff.rfl) fun _ => iteInduction (motive := fun t => State.memOk t ↔ _)
      (fun _ => Iff.rfl) fun _ => Iff.rfl

@[simp] theorem memOk_ackLink {f : Flit} : (s.ackLink k f).memOk ↔ s.memOk := by
  unfold State.ackLink
  dsimp only
  split
  · rfl
  · simp

@[simp] theorem memOk_takeFlit (h : s.memOk) {type : Nat} {f : Flit} {act : State → Flit → State} (hact : ∀ s f, s.memOk → (act s f).memOk) :
    (s.takeFlit k type f act).memOk :=
  iteInduction (motive := State.memOk) (fun _ => h) fun _ => hact _ _ h

@[simp] theorem memOk_peerAccess {q : Flit} : (s.peerAccess k q).memOk ↔ s.memOk := by unfold State.peerAccess; simp
@[simp] theorem memOk_refuse : (s.refuse f).memOk ↔ s.memOk := by unfold State.refuse; simp

@[simp] theorem memOk_peerBytes (h : s.memOk) {a : Nat} {d : List Byte} : (s.peerBytes a d).memOk :=
  iteInduction (motive := State.memOk) (fun _ => h) fun _ => memOk_write h ..

/-! ### A request is performed at its home -/

@[simp] theorem memOk_ackWith : (s.ackWith f).memOk ↔ s.memOk := Iff.rfl
@[simp] theorem memOk_replyWith {v : Nat} : (s.replyWith f v).memOk ↔ s.memOk := Iff.rfl

@[simp] theorem memOk_fillL1 {a ev : Nat} {vec : SMap 32} {owned : Bool} : (s.fillL1 core a ev vec owned).memOk ↔ s.memOk := by
  unfold State.fillL1
  exact iteInduction (motive := fun t => State.memOk t ↔ _) (fun _ => Iff.rfl) fun _ => memOk_overlayL1

@[simp] theorem memOk_noteTag {reply : Nat} : (s.noteTag f reply).memOk ↔ s.memOk := by unfold State.noteTag; simp
@[simp] theorem memOk_noteVec {a : Nat} {vec : SMap 32} : (s.noteVec core a vec).memOk ↔ s.memOk := by unfold State.noteVec; simp

@[simp] theorem memOk_storeLine (h : s.memOk) {a : Nat} {bs : List Byte} : (s.storeLine core a bs).memOk :=
  memOk_wakeWfe.mpr (memOk_noteVec.mpr (memOk_invalidate.mpr (memOk_storeBytes (memOk_recall.mpr h) ..)))

@[simp] theorem memOk_touchL1 {a ev : Nat} : (s.touchL1 core a ev).memOk ↔ s.memOk := memOk_patchL1
@[simp] theorem memOk_takeLine {ev : Nat} : (s.takeLine core pa ev).memOk ↔ s.memOk := memOk_fillL1

@[simp] theorem memOk_atomPlace {ev : Nat} {watch : Bool} : (s.atomPlace core pa ev watch).memOk ↔ s.memOk := by
  have hcounted (c : Bool) (x : Core) : (if c then s.setCore core x else s).memOk ↔ s.memOk := by split <;> rfl
  unfold State.atomPlace
  refine iteInduction (motive := fun t => State.memOk t ↔ _) (fun _ => hcounted _ _) fun _ => ?_
  split
  · refine iteInduction (motive := fun t => State.memOk t ↔ _) (fun _ => memOk_touchL1.trans (hcounted _ _)) fun _ => ?_
    exact iteInduction (motive := fun t => State.memOk t ↔ _) (fun _ => memOk_takeLine.trans (hcounted _ _)) fun _ => hcounted _ _
  · exact iteInduction (motive := fun t => State.memOk t ↔ _) (fun _ => memOk_takeLine.trans (hcounted _ _)) fun _ => hcounted _ _

@[simp] theorem memOk_inkFetch (h : s.memOk) : (s.inkFetch pa).2.memOk := by
  unfold State.inkFetch
  dsimp only
  split
  · exact h
  · refine memOk_mk.mpr ?_
    refine iteInduction (motive := fun r : List InkCell × State => r.2.memOk) (fun _ => h) fun _ => ?_
    split
    · exact h
    · dsimp only
      exact memOk_write h ..

@[simp] theorem memOk_inkPut {c : InkCell} : (s.inkPut c).memOk ↔ s.memOk := Iff.rfl

@[simp] theorem memOk_performHome (h : s.memOk) : (s.performHome f).memOk := by
  have hfill (b : Bool) (core a ev : Nat) (vec : SMap 32) : (if b then s.fillL1 core a ev vec false else s).memOk := by split <;> simp [h]
  have hink (pa : Nat) (c : InkCell) (v : Nat) : ((((s.inkFetch pa).2.inkPut c).noteTag f v).memOk) := memOk_noteTag.mpr
      (memOk_inkPut.mpr (memOk_inkFetch h))
  unfold State.performHome
  dsimp only
  split
  iterate 6 exact memOk_replyWith.mpr (hfill ..)
  · exact iteInduction (motive := State.memOk) (fun _ => memOk_dropFlight.mpr (hfill ..)) fun _ => memOk_replyWith.mpr h
  iterate 3 exact memOk_ackWith.mpr (memOk_noteTag.mpr (memOk_storeLine h))
  · next op ty cmp ret _ =>
    have hwritten (b : Bool) (v : List Byte) : (if b then s.write (s.flightCore f) f.key v else s).memOk := by
      split
      · exact memOk_write h ..
      · exact h
    have hplaced (t : State) (ht : t.memOk) (b : Bool) (core : Nat) : (if b then t else t.atomPlace core f.key f.ev f.watch).memOk := by
      split <;> simp [ht]
    refine iteInduction (motive := State.memOk) (fun _ => ?_) fun _ => ?_
    · exact memOk_replyWith.mpr (memOk_noteTag.mpr (hplaced _ (hwritten _ _) ..))
    · exact memOk_ackWith.mpr (memOk_noteTag.mpr (hplaced _ (hwritten _ _) ..))
  · exact memOk_ackWith.mpr (hink ..)
  · exact memOk_replyWith.mpr (hink ..)
  · exact memOk_ackWith.mpr (hink ..)

/-! ### Peers and ports -/

@[simp] theorem memOk_peerDone (h : s.memOk) {d : List Byte} : (s.peerDone f d).memOk := by
  unfold State.peerDone
  split <;> simp [h]

@[simp] theorem memOk_peerReply (h : s.memOk) {r : Flit} : (s.peerReply r).memOk := by
  have hbytes (b : Bool) (a : Nat) : (if b then s.peerBytes a r.data else s).memOk := by split <;> simp [h]
  unfold State.peerReply
  refine iteInduction (motive := State.memOk) (fun _ => (memOk_foldl_iff fun _ _ => memOk_refuse).mpr h) fun _ => ?_
  exact iteInduction (motive := State.memOk) (fun _ => h) fun _ => memOk_foldl (fun _ _ hs => memOk_peerDone hs) (hbytes ..)

@[simp] theorem memOk_leaveRoutes : (s.leaveRoutes k).memOk ↔ s.memOk := by unfold State.leaveRoutes; simp
@[simp] theorem memOk_reportPort : (s.reportPort k).memOk ↔ s.memOk := Iff.rfl
@[simp] theorem memOk_sendAgain : (s.sendAgain k).memOk ↔ s.memOk := Iff.rfl
@[simp] theorem memOk_owesSteps {f : Nat → Nat} : (s.owesSteps f).memOk ↔ s.memOk := Iff.rfl

/-! ### The host and the mailboxes -/

@[simp] theorem memOk_hostAsks (h : s.memOk) {wr : Bool} {data : List Byte} {ps : List (Nat × Nat × Nat)} : (s.hostAsks fn wr data ps).2.memOk := by
  refine foldl_inv (fun r : Asked × State => r.2.memOk) _ (fun r p hr => ?_) _ (.answer, s) h
  exact memOk_askPeer.mpr hr

@[simp] theorem memOk_hostAbort {va : Nat} {wr : Bool} : (s.hostAbort fn va wr).memOk ↔ s.memOk := Iff.rfl

@[simp] theorem memOk_hostWrite (h : s.memOk) {keys : List (Nat × Nat)} {data : List Byte} : (s.hostWrite keys data).memOk :=
  (memOk_foldl_iff fun _ _ => memOk_tagWrite).mpr (memOk_writeAreas h ..)

@[simp] theorem memOk_boxIrq : (s.boxIrq fn).memOk ↔ s.memOk := Iff.rfl
@[simp] theorem memOk_setBox {b : Mailbox} : (s.setBox fn b).memOk ↔ s.memOk := Iff.rfl
@[simp] theorem memOk_finish_done {resp : List Byte} : (State.finish fn (.done resp s)).memOk ↔ s.memOk := Iff.rfl
@[simp] theorem memOk_finish_error {code : Nat} : (State.finish fn (.error code s)).memOk ↔ s.memOk := Iff.rfl
@[simp] theorem memOk_finish_busy : (State.finish fn (.busy s)).memOk ↔ s.memOk := Iff.rfl

@[simp] theorem memOk_runCommand (h : s.memOk) {go : State → Answer} (hgo : ∀ s, s.memOk → (State.finish fn (go s)).memOk) :
    (s.runCommand fn go).memOk := by
  have hdone := hgo s h
  unfold State.runCommand
  split
  · next e => rw [e] at hdone; exact hdone
  · exact iteInduction (motive := State.memOk) (fun _ => hdone) fun _ => memOk_mk.mpr hdone

@[simp] theorem memOk_refuseBell {w : W64} {e : Nat} : (s.refuseBell fn w e).memOk ↔ s.memOk := Iff.rfl
@[simp] theorem memOk_ring {w : W64} : (s.ring fn w).memOk ↔ s.memOk := by unfold State.ring; simp

@[simp] theorem memOk_mailCommand (h : s.memOk) {code : Nat} {seq : BitVec 16} {req : List Byte} {go : State → Answer}
    (hgo : ∀ s, s.memOk → (State.finish fn (go s)).memOk) : (s.mailCommand fn code seq req go).memOk := by
  have hring (b : Mailbox) (w : W64) : ((s.setBox fn b).ring fn w).memOk := memOk_ring.mpr (memOk_setBox.mpr h)
  unfold State.mailCommand
  refine iteInduction (motive := State.memOk) (fun _ => ?_) fun _ => iteInduction (motive := State.memOk) (fun _ => h) fun _ => ?_
  · exact iteInduction (motive := State.memOk) (fun _ => memOk_runCommand h hgo) fun _ => h
  · refine iteInduction (motive := State.memOk) (fun _ => memOk_refuseBell.mpr h) fun _ => ?_
    exact iteInduction (motive := State.memOk) (fun _ => memOk_runCommand (hring ..) hgo) fun _ => hring ..

/-! ### Units lost -/

@[simp] theorem memOk_disableCores (h : s.memOk) {d : Nat} {cs cluster : List Nat} : (s.disableCores d cs cluster).memOk :=
  memOk_mk.mpr (memOk_loseUnits (memOk_setDie.mpr h))

@[simp] theorem memOk_fenceUnit (h : s.memOk) {kind unit : Nat} : MemOkOpt (s.fenceUnit kind unit) := by
  unfold State.fenceUnit
  split <;> simp [h]

@[simp] theorem memOk_trainPort : (s.trainPort k).memOk ↔ s.memOk := by unfold State.trainPort; simp
@[simp] theorem memOk_trainPorts : s.trainPorts.memOk ↔ s.memOk := by unfold State.trainPorts; simp

@[simp] theorem memOk_applyFence {w : W64} : (s.applyFence w).memOk ↔ s.memOk := by
  unfold State.applyFence
  dsimp only
  split <;> simp

@[simp] theorem memOk_applyDefect {w : W64} : (s.applyDefect w).memOk ↔ s.memOk := by unfold State.applyDefect; simp
@[simp] theorem memOk_leaveBehind : (s.leaveBehind f).memOk ↔ s.memOk := by unfold State.leaveBehind; simp

@[simp] theorem memOk_answerAgain {v : Nat} : (s.answerAgain f v).memOk ↔ s.memOk := by
  unfold State.answerAgain
  split <;> simp

@[simp] theorem memOk_perform (h : s.memOk) : (s.perform f).memOk := by unfold State.perform; simp [h]

/-! ### A request goes on -/

@[simp] theorem memOk_performGroup (h : s.memOk) : (s.performGroup f).memOk := by
  have hgrant (b : Bool) (pa vd ev : Nat) : (if b then s else s.sliceGrant pa vd ev).memOk := by split <;> simp [h]
  unfold State.performGroup
  split
  · exact h
  · refine iteInduction (motive := State.memOk) (fun _ => h) fun _ => memOk_leaveBehind.mpr (memOk_foldl (fun s g hs => ?_) (hgrant ..))
    split
    · refine iteInduction (motive := State.memOk) (fun _ => ?_) fun _ => hs
      split <;> simp [hs]
    · exact hs

@[simp] theorem memOk_sendPeer : (s.sendPeer f).memOk ↔ s.memOk := by
  unfold State.sendPeer
  split
  · simp
  · rfl
  · exact iteInduction (motive := fun t => State.memOk t ↔ _) (fun _ => memOk_leaveBehind.trans memOk_sendFlits) fun _ => Iff.rfl

@[simp] theorem memOk_portTakes (h : s.memOk) : MemOkOpt (s.portTakes f) := by unfold State.portTakes; simp [h]

@[simp] theorem memOk_leaveCore (h : s.memOk) : (s.leaveCore f).memOk := by
  unfold State.leaveCore
  refine iteInduction (motive := State.memOk) (fun _ => ?_) fun _ => iteInduction (motive := State.memOk) (fun _ => memOk_refuse.mpr h) fun _ => ?_
  · dsimp only
    split
    · next t e => exact memOk_portTakes h t e
    · exact h
  · exact iteInduction (motive := State.memOk) (fun _ => memOk_patchL1.mpr (memOk_moveFlight.mpr (memOk_takeTag.mpr h))) fun _ =>
      memOk_moveFlight.mpr (memOk_takeTag.mpr h)

@[simp] theorem memOk_bindL1 {l : L1Line} : (s.bindL1 f l).memOk ↔ s.memOk := by
  unfold State.bindL1
  simp

@[simp] theorem memOk_lookL1 : (s.lookL1 f).memOk ↔ s.memOk := by
  unfold State.lookL1
  split <;> simp

@[simp] theorem memOk_performSpad (h : s.memOk) : (s.performSpad f).memOk := by unfold State.performSpad; simp [h]

@[simp] theorem memOk_arrivePort (h : s.memOk) : MemOkOpt (s.arrivePort f) := by
  have htaken (t : State) (e : (if f.granted then some s else s.portTakes f) = some t) : t.memOk := by
    split at e
    · exact Option.some.inj e ▸ h
    · exact memOk_portTakes h t e
  unfold State.arrivePort
  refine iteInduction (motive := MemOkOpt) (fun _ => memOkOpt_none) fun _ => ?_
  dsimp only
  split
  · simp [h]
  · next t e => simp [h, htaken t e]

@[simp] theorem memOk_performControl : (s.performControl f).memOk ↔ s.memOk := by
  unfold State.performControl
  refine iteInduction (motive := fun t => State.memOk t ↔ _) (fun _ => ?_) fun _ => memOk_refuse
  split <;> rfl

@[simp] theorem memOk_leg (h : s.memOk) : MemOkOpt (s.leg f) := by
  unfold State.leg
  split
  · simp [h]
  · simp [h]
  · simp [h]
  · refine iteInduction (motive := MemOkOpt) (fun _ => memOk_arrivePort h) fun _ => iteInduction (motive := MemOkOpt) (fun _ => by simp [h])
        fun _ => ?_
    refine iteInduction (motive := MemOkOpt) (fun _ => by simp [h]) fun _ => iteInduction (motive := MemOkOpt) (fun _ => memOkOpt_none) fun _ => ?_
    exact memOkOpt_some.mpr (memOk_moveFlight.mpr (iteInduction (motive := fun r : Flight × State => r.2.memOk) (fun _ => h) fun _ =>
        memOk_takeTag.mpr h))
  · simp [h]
  · exact memOkOpt_none

@[simp] theorem memOk_arrive (h : s.memOk) : (s.arrive f).memOk := by
  unfold State.arrive
  refine iteInduction (motive := State.memOk) (fun _ => memOk_performGroup h) fun _ => iteInduction (motive := State.memOk)
      (fun _ => memOk_sendPeer.mpr h) fun _ => ?_
  have hlegs (fs : List Flight) : (fs.foldl (fun s g => match s.flight? g.id with
      | some h => if h.stage == f.stage then (s.leg h).getD s else s
      | none => s) s).memOk := by
    refine memOk_foldl (fun t g ht => ?_) h
    split
    · exact iteInduction (motive := State.memOk) (fun _ => memOk_getD (memOk_leg ht) ht) fun _ => ht
    · exact ht
  exact iteInduction (motive := State.memOk) (fun _ => memOk_leaveBehind.mpr (hlegs _)) fun _ => hlegs _

@[simp] theorem memOk_acknowledge (h : s.memOk) : (s.acknowledge f).memOk := by unfold State.acknowledge; simp [h]
@[simp] theorem memOk_fetchFault (h : s.memOk) {pc : W64} {xkind : Nat} : (s.fetchFault k lane pc xkind).memOk := by unfold State.fetchFault; simp [h]
@[simp] theorem memOk_keepLine {l : ILine} : (s.keepLine core lane l).memOk ↔ s.memOk := Iff.rfl

/-! ### Turns -/

@[simp] theorem memOk_keepLoop {w : Nat} : (s.keepLoop k w).memOk ↔ s.memOk := by unfold State.keepLoop; simp
@[simp] theorem memOk_noteTags {i : Instr} : (s.noteTags k lane i).memOk ↔ s.memOk := by unfold State.noteTags; simp
@[simp] theorem memOk_noteIssue {cycles : Nat} : (s.noteIssue k lane cycles).memOk ↔ s.memOk := by unfold State.noteIssue; simp
@[simp] theorem memOk_stepDie {d mult : Nat} : (s.stepDie d mult).memOk ↔ s.memOk := by unfold State.stepDie; simp
@[simp] theorem memOk_takeStep {d : Nat} : (s.takeStep d).memOk ↔ s.memOk := by unfold State.takeStep; simp
@[simp] theorem memOk_pass : (s.pass die n).memOk ↔ s.memOk := by unfold State.pass; simp

@[simp] theorem memOk_outsideWrite (h : s.memOk) {data : List Byte} : (s.outsideWrite pa data).memOk :=
  iteInduction (motive := State.memOk) (fun _ => memOk_write h ..) fun _ => h

@[simp] theorem memOk_resend {id : Nat} : (s.resend id).memOk ↔ s.memOk := by
  unfold State.resend
  split
  · refine iteInduction (motive := fun t => State.memOk t ↔ _) (fun _ => ?_) fun _ => Iff.rfl
    split
    · simp
    · rfl
  · rfl

/-! ### Turns of the host, and what runs ahead -/

@[simp] theorem memOk_complete {data : List Byte} : (s.complete fn data).memOk ↔ s.memOk := Iff.rfl

@[simp] theorem memOk_doorbell {w : W64} : (s.doorbell fn w).memOk ↔ s.memOk := by
  unfold State.doorbell
  refine iteInduction (motive := fun t => State.memOk t ↔ _) (fun _ => Iff.rfl) fun _ => iteInduction (motive := fun t => State.memOk t ↔ _)
      (fun _ => memOk_refuseBell) fun _ => ?_
  split <;> simp

@[simp] theorem memOk_boxWrite {data : List Byte} : (s.boxWrite fn off data).memOk ↔ s.memOk :=
  memOk_foldl_iff fun s e => by split <;> rfl

@[simp] theorem memOk_boxAccess {wr : Bool} {data : List Byte} : (s.boxAccess fn off wr data).memOk ↔ s.memOk := by
  unfold State.boxAccess
  refine iteInduction (motive := fun t => State.memOk t ↔ _) (fun _ => memOk_complete) fun _ => ?_
  exact iteInduction (motive := fun t => State.memOk t ↔ _) (fun _ => memOk_doorbell) fun _ => memOk_boxWrite

@[simp] theorem memOk_bar0Mgmt (h : s.memOk) {wr : Bool} {data : List Byte} : (s.bar0Mgmt off wr data).memOk := by
  unfold State.bar0Mgmt
  split
  · simp [h]
  · refine iteInduction (motive := State.memOk) (fun _ => memOk_csError.mpr h) fun _ => iteInduction (motive := State.memOk)
        (fun _ => memOk_writeControl h) fun _ => ?_
    split
    · exact h
    · exact h
    · exact memOk_csError.mpr h

theorem memOk_outState (h : s.memOk) {o : Out} (ho : MemOkOut o) : (outState s o).memOk := by
  unfold outState
  split
  · exact ho _ rfl
  · exact h

@[simp] theorem memOk_bar0Virtual {wr : Bool} {data : List Byte} : (s.bar0Virtual fn off wr data).memOk ↔ s.memOk := by
  unfold State.bar0Virtual
  refine iteInduction (motive := fun t => State.memOk t ↔ _) (fun _ => memOk_boxAccess) fun _ => iteInduction
      (motive := fun t => State.memOk t ↔ _) (fun _ => ?_) fun _ => memOk_complete
  exact iteInduction (motive := fun t => State.memOk t ↔ _) (fun _ => memOk_launchWrite) fun _ => Iff.rfl

@[simp] theorem memOk_storeFenceList {units : List W64} : (s.storeFenceList units).memOk ↔ s.memOk := Iff.rfl

@[simp] theorem memOk_elementAhead (h : s.memOk) {e slot chunk unit : Nat} : (s.elementAhead die e slot chunk unit).memOk := by
  unfold State.elementAhead
  split
  · exact h
  · split
    · exact h
    · next c _ _ r _ =>
      refine iteInduction (motive := State.memOk) (fun _ => h) fun _ => ?_
      have hunit : (s.copyUnit c r.1 unit).2.memOk := memOk_copyUnit h
      generalize s.copyUnit c r.1 unit = x at hunit
      split
      · exact memOk_mk.mpr (memOk_putCopy.mpr hunit)
      · exact hunit
      · exact h

@[simp] theorem memOk_mgmtFailure : (s.mgmtFailure fn).memOk ↔ s.memOk :=
  iteInduction (motive := fun t => State.memOk t ↔ _) (fun _ => Iff.rfl) fun _ => Iff.rfl

@[simp] theorem memOk_panelAhead (h : s.memOk) {position : Nat} : (s.panelAhead core position).memOk := by
  unfold State.panelAhead
  split
  · exact h
  · next m _ =>
    split
    · refine iteInduction (motive := State.memOk) (fun _ => h) fun _ => ?_
      split
      · exact h
      · next x _ =>
        have hread : (s.readPanel core m (position / 2 ^ 20) [x]).2.memOk := memOk_readPanel h
        generalize s.readPanel core m (position / 2 ^ 20) [x] = r at hread
        split
        · exact memOk_mk.mpr (memOk_keepPanel.mpr hread)
        · exact hread
        · exact h
    · exact h

@[simp] theorem memOk_granuleAhead (h : s.memOk) : (s.granuleAhead core i).memOk := by
  unfold State.granuleAhead
  split
  · exact h
  · next m _ =>
    dsimp only
    split
    · split
      · exact h
      · next g _ =>
        have hread : (s.readGranules core m [g]).2.memOk := memOk_readGranules h
        generalize s.readGranules core m [g] = r at hread
        split
        · exact memOk_setCore.mpr hread
        · exact h
    · exact h

@[simp] theorem memOk_readAhead (h : s.memOk) {position : Nat} : (s.readAhead core position).memOk :=
  iteInduction (motive := State.memOk) (fun _ => memOk_panelAhead h) fun _ => memOk_granuleAhead h

@[simp] theorem memOk_rotate : s.rotate.memOk ↔ s.memOk := by
  unfold State.rotate
  refine iteInduction (motive := fun t => State.memOk t ↔ _) (fun _ => Iff.rfl) fun _ => ?_
  dsimp only
  split
  · rfl
  · exact memOk_mk.trans (memOk_foldl_iff fun _ _ => memOk_pass)

end

end State

/-! ### Operations with an outcome of their own -/

/-- What the halt operation leaves has memory in canonical form. -/
def Halting.MemOk : Halting → Prop
  | .done s | .wait s | .error s => s.memOk

theorem State.memOk_haltOp {s : State} (h : s.memOk) {g op : Nat} : (s.haltOp g op).MemOk := by
  unfold State.haltOp
  split
  · exact iteInduction (motive := Halting.MemOk) (fun _ => memOk_haltStack.mpr h) fun _ => memOk_haltStack.mpr h
  · exact memOk_releaseHalt h
  · dsimp only
    split
    · exact h
    · exact h
    · exact h
    · split
      · next t e => exact memOk_preempt h t e
      · exact memOk_ctxError.mpr h
  · exact h

/-- What a port leaves of a flit's arrival has memory in canonical form. -/
def Received.MemOk : Received → Prop
  | .accepted s | .dropped s => s.memOk

theorem State.memOk_receive {s : State} (h : s.memOk) {k type : Nat} {room : Bool} {f : Flit} : (s.receive k type room f).MemOk := by
  unfold State.receive
  refine iteInduction (motive := Received.MemOk) (fun _ => h) fun _ => iteInduction (motive := Received.MemOk) (fun _ => ?_) fun _ => ?_
  · exact iteInduction (motive := Received.MemOk) (fun _ => h) fun _ => memOk_ackLink.mpr h
  · refine iteInduction (motive := Received.MemOk) (fun _ => h) fun _ => ?_
    exact iteInduction (motive := Received.MemOk) (fun _ => memOk_sendFlit.mpr h) fun _ => h

/-! ### The meanings -/

namespace State

theorem memOkOut_privileged {s : State} (h : s.memOk) {go : State → State} (hgo : ∀ s, s.memOk → (go s).memOk) : MemOkOut (s.privileged go) := by
  unfold State.privileged
  simp [h, hgo]

theorem memOkOut_onFlight {s : State} (h : s.memOk) {id : Nat} {ok : Flight → Bool} {f : State → Flight → State}
    (hf : ∀ s x, s.memOk → (f s x).memOk) : MemOkOut (s.onFlight id ok f) := by
  unfold State.onFlight
  split
  · exact memOkOut_next.mpr (iteInduction (motive := State.memOk) (fun _ => hf _ _ h) fun _ => h)
  · exact memOkOut_next.mpr h

theorem memOkOut_laneAccess {s : State} (h : s.memOk) {i : Instr} {regs : List (Nat × Nat)} {m : Mask} {f : AccForm} {acc : Nat → Acc} :
    MemOkOut (s.laneAccess i regs m f acc) :=
  memOkOut_next.mpr (memOk_laneIssue h fun _ _ hs => memOk_issueAccs hs fun _ => id)

theorem memOkOut_queueInstr {s : State} (h : s.memOk) {r : QOp} {pop : Bool} : MemOkOut (s.queueInstr r pop) := by
  refine memOkOut_next.mpr (memOk_laneIssue h fun x s hs => ?_)
  refine iteInduction (motive := State.memOk) (fun _ => memOk_queueCancel.mpr hs) fun _ => ?_
  refine iteInduction (motive := State.memOk) (fun _ => memOk_sendAll.mpr hs) fun _ => memOk_queueThreads ?_
  split <;> simp [hs]

theorem memOkOut_fwait {s : State} (h : s.memOk) {i : Instr} {d a : SReg} {nb : Bool} : MemOkOut (s.fwait i d a nb) := by
  refine memOkOut_next.mpr (iteInduction (motive := State.memOk) (fun _ => h) fun _ => ?_)
  refine memOk_withVa h (fun t key ht => ?_) fun _ => id
  exact iteInduction (motive := State.memOk) (fun _ => memOk_atHome ht fun _ hu => memOk_waitStep hu) fun _ => ht

theorem memOkOut_ffill {s : State} (h : s.memOk) {i : Instr} {d a : SReg} {value : W64} {cancel : Bool} : MemOkOut (s.ffill i d a value cancel) := by
  refine memOkOut_next.mpr (memOk_afterRelease h fun t ht => memOk_withVa ht (fun u key hu => ?_) fun _ => id)
  refine iteInduction (motive := State.memOk) (fun _ => hu) fun _ => memOk_atHome hu fun v hv => ?_
  split
  · next w e => exact memOk_fillFuture hv w e
  · exact hv

theorem memOkOut_halt {s : State} (h : s.memOk) {d a b : SReg} : MemOkOut (s.halt d a b) := by
  refine memOkOut_privileged h fun s hs => iteInduction (motive := State.memOk) (fun _ => hs) fun _ => ?_
  split
  · exact memOk_taskError.mpr hs
  · next g _ =>
    have hop (t : State) (ht : t.memOk) (op : Nat) := memOk_haltOp ht (g := g) (op := op)
    refine iteInduction (motive := State.memOk) (fun _ => ?_) fun _ => ?_
    · have hfirst := hop s hs (s.me.s b).toNat
      split
      · next e => exact (congrArg Halting.MemOk e).mp hfirst
      · have hagain := hop (s.scalarResult d 0) hs (s.me.s b).toNat
        split <;> next e => exact (congrArg Halting.MemOk e).mp hagain
    · have hfirst := hop s hs (s.me.s b).toNat
      split <;> next e => exact (congrArg Halting.MemOk e).mp hfirst

end State

theorem memOkOut_execBar {s : State} (h : s.memOk) {d a : SReg} : MemOkOut (execBar d a s) := by
  refine memOkOut_next.mpr (iteInduction (motive := State.memOk) (fun _ => h) fun _ => ?_)
  split
  · exact h
  · refine iteInduction (motive := State.memOk) (fun _ => State.memOk_arriveCon h fun _ => id) fun _ => ?_
    refine iteInduction (motive := State.memOk) (fun _ => h) fun _ => State.memOk_atHome h fun _ ht => ?_
    simp [ht]

theorem memOkOut_execArrive {s : State} (h : s.memOk) {d a : SReg} : MemOkOut (execArrive d a s) := by
  refine memOkOut_next.mpr (iteInduction (motive := State.memOk) (fun _ => h) fun _ => ?_)
  split
  · exact h
  · exact State.memOk_arriveCon h fun _ => id

theorem memOkOut_execArriveCb {s : State} (h : s.memOk) {a b : SReg} : MemOkOut (execArriveCb a b s) := by
  have hfails (t : State) (ht : t.memOk) (va : W64) : ((t.deferredError va true).setMe (t.deferredError va true).me.advance).memOk := by simp [ht]
  refine memOkOut_next.mpr (State.memOk_afterRelease h fun t ht => State.memOk_withVa ht (fun u key hu => ?_) fun u hu => hfails u hu _)
  refine iteInduction (motive := State.memOk) (fun _ => hu) fun _ => ?_
  split
  · next v e => exact State.memOk_setMe.mpr (State.memOk_arriveCount (State.memOk_spadAccess hu v e))
  · exact hfails u hu _

theorem memOkOut_execLock {s : State} (h : s.memOk) {d a : SReg} : MemOkOut (execLock d a s) := by
  refine memOkOut_next.mpr (iteInduction (motive := State.memOk) (fun _ => h) fun _ => State.memOk_withVa h (fun t key ht => ?_) fun _ => id)
  exact iteInduction (motive := State.memOk) (fun _ => State.memOk_atHome ht fun _ hu => State.memOk_lockStep hu) fun _ => ht

theorem memOkOut_execUnlock {s : State} (h : s.memOk) {a : SReg} : MemOkOut (execUnlock a s) := by
  have hfails (t : State) (ht : t.memOk) (va : W64) : ((t.deferredError va true).setMe (t.deferredError va true).me.advance).memOk := by simp [ht]
  refine memOkOut_next.mpr (State.memOk_afterRelease h fun t ht => State.memOk_withVa ht (fun u key hu => ?_) fun u hu => hfails u hu _)
  refine iteInduction (motive := State.memOk) (fun _ => hfails u hu _) fun _ => State.memOk_atHome hu fun v hv => ?_
  refine iteInduction (motive := State.memOk) (fun _ => hfails v hv _) fun _ => State.memOk_setMe.mpr (State.memOk_handOff ?_)
  exact hv

theorem memOkOut_execJoin {s : State} (h : s.memOk) {d a : SReg} : MemOkOut (execJoin d a s) := by
  refine memOkOut_next.mpr (State.memOk_afterDrain h fun t ht => State.memOk_atHome ht fun u hu => ?_)
  dsimp only
  split
  · next v e => exact State.memOk_joinEntry (State.memOk_takeValid.mpr hu) v e
  · exact hu

theorem memOkOut_execLeave {s : State} (h : s.memOk) {d a : SReg} : MemOkOut (execLeave d a s) := by
  refine memOkOut_next.mpr (State.memOk_afterDrain h fun t ht => State.memOk_atHome ht fun u hu => ?_)
  split
  · exact State.memOk_leaveCon hu
  · exact hu

theorem memOkOut_execMsend {s : State} (h : s.memOk) {d a b : SReg} : MemOkOut (execMsend d a b s) := by
  refine memOkOut_next.mpr (State.memOk_afterRelease h fun t ht => State.memOk_withVa ht (fun u key hu => ?_) fun _ => id)
  refine iteInduction (motive := State.memOk) (fun _ => hu) fun _ => ?_
  split
  · exact hu
  · next v e => exact State.memOk_mk.mpr (State.memOk_spadGranules hu v e)

theorem memOkOut_execMrecv {s : State} (h : s.memOk) {d a b : SReg} : MemOkOut (execMrecv d a b s) := by
  refine memOkOut_next.mpr (iteInduction (motive := State.memOk) (fun _ => h) fun _ => State.memOk_withVa h (fun t key ht => ?_) fun _ => id)
  refine iteInduction (motive := State.memOk) (fun _ => ht) fun _ => ?_
  split
  · exact ht
  · next u e =>
    have hu := State.memOk_spadGranules ht u e
    dsimp only
    split
    · exact State.memOk_received (State.memOk_setMe.mpr (State.memOk_setCluster.mpr hu))
    · exact iteInduction (motive := State.memOk) (fun _ => hu) fun _ => hu

theorem memOkOut_execLrunr {s : State} (h : s.memOk) {a b : SReg} : MemOkOut (execLrunr a b s) := by
  unfold execLrunr
  refine iteInduction (motive := MemOkOut) (fun _ => by simp [h]) fun _ => iteInduction (motive := MemOkOut) (fun _ => by simp [h]) fun _ => ?_
  refine iteInduction (motive := MemOkOut) (fun _ => by simp [h]) fun _ => iteInduction (motive := MemOkOut) (fun _ => by simp [h]) fun _ => ?_
  dsimp only
  split <;> simp [h]

theorem memOkOut_execRft {s : State} (h : s.memOk) : MemOkOut (execRft s) := by
  refine iteInduction (motive := MemOkOut) (fun _ => by simp [h]) fun _ => memOkOut_next.mpr (State.memOk_afterDrain h fun t ht => ?_)
  simp [ht]

theorem memOkOut_execGcopy {s : State} (h : s.memOk) {d a b : SReg} : MemOkOut (execGcopy d a b s) := by
  refine memOkOut_next.mpr (State.memOk_copyFront h fun t ht => ?_)
  split <;> exact ht

theorem memOkOut_execNodeput {s : State} (h : s.memOk) {d a b : SReg} : MemOkOut (execNodeput d a b s) := by
  refine memOkOut_next.mpr (State.memOk_afterRelease h fun t ht => ?_)
  refine iteInduction (motive := State.memOk) (fun _ => ht) fun _ => State.memOk_withVa ht (fun u key hu => ?_) fun _ => id
  exact iteInduction (motive := State.memOk) (fun _ => hu) fun _ => State.memOk_atHome hu fun _ hv => State.memOk_binStep hv

theorem memOkOut_execSpawnv {s : State} (h : s.memOk) {r : SpawnV} : MemOkOut (execSpawnv r s) := by
  have hgo (t : State) (ht : t.memOk) (l : List Nat) (va : W64) (m : Option (Option Image)) :
      ((l.foldl (fun s i => s.spawnThread r va m i) t).setMe (l.foldl (fun s i => s.spawnThread r va m i) t).me.laneAdvance).memOk :=
    State.memOk_setMe.mpr (State.memOk_foldl (fun _ _ hs => State.memOk_spawnThread hs) ht)
  refine memOkOut_next.mpr (State.memOk_laneIssue h fun x s hs => ?_)
  have hsent : (s.sendAll s.cur).memOk := State.memOk_sendAll.mpr hs
  refine iteInduction (motive := State.memOk) (fun _ => hsent) fun _ => iteInduction (motive := State.memOk) (fun _ => by simp [hs]) fun _ => ?_
  refine iteInduction (motive := State.memOk) (fun _ => hgo _ hsent ..) fun _ => ?_
  exact State.memOk_withBytes hsent (fun _ _ ht => hgo _ ht ..) fun _ ht => hgo _ ht ..

theorem memOkOut_reissue {s : State} (h : s.memOk) {i : Instr} : MemOkOut (reissue i s) := by
  cases i with
  | lrunr => exact memOkOut_execLrunr h
  | ld | st | ldx | stNt | lds | sts | atom | red | inkAdd | inkRead | inkClr => exact State.memOkOut_laneAccess h
  | ldl => exact memOkOut_next.mpr (State.memOk_laneIssue h fun _ _ hs => State.memOk_issueAccs hs fun _ => id)
  | fewait =>
    refine memOkOut_next.mpr (State.memOk_laneIssue h fun _ _ hs => ?_)
    exact iteInduction (motive := State.memOk) (fun _ => hs) fun _ => State.memOk_issueAccs hs fun _ => id
  | ldb | ldh | ldw | ldd | ldbs | ldhs | ldws | stb | sth | stw | std => exact memOkOut_next.mpr (State.memOk_issueAccs h fun _ => id)
  | _ => exact memOkOut_next.mpr h

theorem memOkOut_execPageWalk {s : State} (h : s.memOk) {party : Nat} : MemOkOut (execPageWalk party s) := by
  unfold execPageWalk
  dsimp only
  split
  · next i vas unit _ =>
    refine iteInduction (motive := MemOkOut) (fun _ => ?_) fun _ => ?_
    · exact memOkOut_next.mpr ((State.memOk_foldl_iff fun _ _ => State.memOk_walkSends).mpr h)
    · have hwalked (k core vd : Nat) (t : Strand) : ((s.walkAll core vd unit vas).2.setStrand k t).memOk := State.memOk_setStrand.mpr
          (State.memOk_walkAll h)
      refine iteInduction (motive := MemOkOut) (fun _ => ?_) fun _ => memOkOut_next.mpr (hwalked ..)
      generalize hr : reissue i _ = o
      have ho : MemOkOut o := hr ▸ memOkOut_reissue (State.memOk_mk.mpr (hwalked ..))
      split
      · exact memOkOut_next.mpr (State.memOk_mk.mpr (ho _ rfl))
      · exact ho
  · exact memOkOut_next.mpr h

theorem memOkOut_execFaultQueueHeldWrite {s : State} (h : s.memOk) {die : Nat} : MemOkOut (execFaultQueueHeldWrite die s) := by
  unfold execFaultQueueHeldWrite
  split
  · next e => exact memOkOut_next.mpr (State.memOk_setDie.mpr (State.memOk_heldWrite h e))
  · exact memOkOut_next.mpr h

theorem memOkOut_execTrapEntry {s : State} (h : s.memOk) {strand : Nat} : MemOkOut (execTrapEntry strand s) := by
  unfold execTrapEntry
  refine iteInduction (motive := MemOkOut) (fun _ => memOkOut_next.mpr h) fun _ => ?_
  split <;> simp [h]

theorem memOkOut_execDeadlineExpiry {s : State} (h : s.memOk) {gang : Nat} : MemOkOut (execDeadlineExpiry gang s) := by
  unfold execDeadlineExpiry
  refine iteInduction (motive := MemOkOut) (fun _ => memOkOut_next.mpr h) fun _ => ?_
  refine iteInduction (motive := MemOkOut) (fun _ => ?_) fun _ => memOkOut_next.mpr (State.memOk_reloadStack.mpr h)
  split
  · next t e => exact memOkOut_next.mpr (State.memOk_preemptStack h t e)
  · simp [h]

theorem memOkOut_execRebalanceEpoch {s : State} (h : s.memOk) {gang : Nat} : MemOkOut (execRebalanceEpoch gang s) := by
  refine iteInduction (motive := MemOkOut) (fun _ => memOkOut_next.mpr ?_) fun _ => memOkOut_next.mpr h
  exact foldl_inv (fun r : State × List Nat => r.1.memOk) _ (fun _ _ hr => State.memOk_rebalanceQueue hr) _ (s, []) h

theorem memOkOut_execChartDescriptorRead {s : State} (h : s.memOk) {core : Nat} : MemOkOut (execChartDescriptorRead core s) := by
  have hdone (t : State) (ht : t.memOk) (m : MCmd) : MemOkOut (.next ((t.dropCmd core m.id).settleFrees core Config.matrixDepth)) := by simp [ht]
  unfold execChartDescriptorRead
  split
  · exact memOkOut_next.mpr h
  · next m _ =>
    split
    · next e va _ =>
      refine iteInduction (motive := MemOkOut) (fun _ => memOkOut_next.mpr h) fun _ => ?_
      have hread : (s.engineRead (cmdAccess core m) 256 va).2.memOk := State.memOk_engineRead h
      dsimp only
      split
      · refine iteInduction (motive := MemOkOut) (fun _ => hdone _ ?_ m) fun _ => hdone _ ?_ m <;> simp [hread]
      · simp [hread]
      · refine hdone _ ?_ m
        simp [hread]
    · exact memOkOut_next.mpr h

theorem memOkOut_execWloadExecute {s : State} (h : s.memOk) {core : Nat} : MemOkOut (execWloadExecute core s) := by
  unfold execWloadExecute
  split
  · exact memOkOut_next.mpr h
  · next m _ =>
    have hpanel {t : State} (ht : t.memOk) {kind : Nat} {rs : List PanelRead} {p : PanelRes} {u : State}
        (e : t.readPanel core m kind rs = (p, u)) : u.memOk := (congrArg (fun r => State.memOk r.2) e).mp (State.memOk_readPanel ht)
    split
    · refine iteInduction (motive := MemOkOut) (fun _ => memOkOut_next.mpr h) fun _ => ?_
      extract_lets old spent stop
      have hspent (t : State) (ht : t.memOk) : (spent t).memOk := State.memOk_mk.mpr (State.memOk_dropAsks.mpr ht)
      have hstop (t : State) (ht : t.memOk) (kind : Nat) (vals : List (Nat × Nat)) (r : EngRes) (va : W64) : MemOkOut (stop t kind vals r va) := by
        cases r with
        | fault x =>
          dsimp only [stop]
          split
          · next u e => exact memOkOut_next.mpr (State.memOk_operandFault (hspent t ht) u e)
          · exact memOkOut_next.mpr (hspent t ht)
        | wait => exact memOkOut_next.mpr (State.memOk_mk.mpr (State.memOk_keepPanel.mpr ht))
        | _ => exact memOkOut_next.mpr (State.memOk_dropCmd.mpr (State.memOk_matrixError.mpr (State.memOk_fillSlot.mpr (hspent t ht))))
      split
      · next e => exact hstop _ (hpanel h e) _ _ _ _
      · next e =>
        have h0 := hpanel h e
        split
        · next e => exact hstop _ (State.memOk_keepPanel.mpr (hpanel h0 e)) _ _ _ _
        · next e =>
          have h1 := hpanel h0 e
          split
          · next e => exact hstop _ (State.memOk_keepPanel.mpr (State.memOk_keepPanel.mpr (hpanel h1 e))) _ _ _ _
          · next e => exact memOkOut_next.mpr (State.memOk_dropCmd.mpr (State.memOk_fillSlot.mpr (hspent _ (hpanel h1 e))))
    · exact memOkOut_next.mpr h

theorem memOkOut_execMmaPass {s : State} (h : s.memOk) {core : Nat} : MemOkOut (execMmaPass core s) := by
  unfold execMmaPass
  split
  · exact memOkOut_next.mpr h
  · split
    · refine memOkOut_next.mpr ?_
      split
      · exact State.memOk_passMma h
      · refine iteInduction (motive := State.memOk) (fun _ => h) fun _ => ?_
        dsimp only
        split
        · exact State.memOk_passMma (State.memOk_startMma.mpr h)
        · exact State.memOk_startMma.mpr h
    · exact memOkOut_next.mpr h

theorem memOkOut_execMmaClose {s : State} (h : s.memOk) {core : Nat} : MemOkOut (execMmaClose core s) := by
  unfold execMmaClose
  split
  · exact memOkOut_next.mpr h
  · split
    · refine iteInduction (motive := MemOkOut) (fun _ => memOkOut_next.mpr h) fun _ => ?_
      exact iteInduction (motive := MemOkOut) (fun _ => memOkOut_next.mpr (State.memOk_mmaFail.mpr h)) fun _ => memOkOut_next.mpr h
    · exact memOkOut_next.mpr h

theorem memOkOut_execMzeroExecute {s : State} (h : s.memOk) {core : Nat} : MemOkOut (execMzeroExecute core s) := by
  unfold execMzeroExecute
  split
  · exact memOkOut_next.mpr h
  · split
    · exact iteInduction (motive := MemOkOut) (fun _ => memOkOut_next.mpr h) fun _ => memOkOut_next.mpr h
    · exact memOkOut_next.mpr h

theorem memOkOut_execLaunchCheck {s : State} (h : s.memOk) {vd : Nat} : MemOkOut (execLaunchCheck vd s) := by
  have hleft (l : List Nat) : (l.foldl State.pushLeft s).memOk := State.memOk_foldl (fun _ _ hs => State.memOk_pushLeft hs) h
  unfold execLaunchCheck
  dsimp only
  split
  · refine iteInduction (motive := MemOkOut) (fun _ => memOkOut_next.mpr (State.memOk_checkLaunch ?_)) fun _ => memOkOut_next.mpr (hleft _)
    exact State.memOk_mk.mpr (hleft _)
  · exact memOkOut_next.mpr (hleft _)

theorem memOkOut_execLinkRequestFlit {s : State} (h : s.memOk) {port : Nat} {f : Flit} : MemOkOut (execLinkRequestFlit port f s) := by
  have hreceive := State.memOk_receive h (k := port) (type := 1) (room := true) (f := f)
  unfold execLinkRequestFlit
  generalize s.receive port 1 true f = r at hreceive
  cases r with
  | dropped => exact memOkOut_next.mpr hreceive
  | accepted => exact memOkOut_next.mpr (State.memOk_takeFlit hreceive fun _ _ ht => State.memOk_peerAccess.mpr ht)

theorem memOkOut_execLinkReplyFlit {s : State} (h : s.memOk) {port : Nat} {f : Flit} : MemOkOut (execLinkReplyFlit port f s) := by
  unfold execLinkReplyFlit
  generalize decide ((s.port port).replay.length < 1024) = room
  have hreceive := State.memOk_receive h (k := port) (type := 2) (room := room) (f := f)
  generalize s.receive port 2 room f = r at hreceive
  cases r with
  | dropped => exact memOkOut_next.mpr hreceive
  | accepted =>
    refine memOkOut_next.mpr (iteInduction (motive := State.memOk) (fun _ => hreceive) fun _ => State.memOk_sendFlit.mpr ?_)
    exact State.memOk_takeFlit hreceive fun _ _ ht => State.memOk_peerReply ht

theorem memOkOut_execLinkAckFlit {s : State} (h : s.memOk) {port : Nat} {f : Flit} : MemOkOut (execLinkAckFlit port f s) := by
  have hreceive := State.memOk_receive h (k := port) (type := 3) (room := true) (f := f)
  unfold execLinkAckFlit
  generalize s.receive port 3 true f = r at hreceive
  cases r <;> exact memOkOut_next.mpr hreceive

theorem memOkOut_execLinkIdleFlit {s : State} (h : s.memOk) {port : Nat} {f : Flit} : MemOkOut (execLinkIdleFlit port f s) := by
  have hreceive := State.memOk_receive h (k := port) (type := 0) (room := true) (f := f)
  unfold execLinkIdleFlit
  generalize s.receive port 0 true f = r at hreceive
  cases r <;> exact memOkOut_next.mpr hreceive

theorem memOkOut_execHostBar2Access {s : State} (h : s.memOk) {fn va : Nat} {wr : Bool} {data : List Byte} : MemOkOut
    (execHostBar2Access fn va wr data s) := by
  unfold execHostBar2Access
  refine iteInduction (motive := MemOkOut) (fun _ => memOkOut_next.mpr h) fun _ => ?_
  dsimp only
  split
  · next keys _ =>
    refine iteInduction (motive := MemOkOut) (fun _ => memOkOut_next.mpr h) fun _ => ?_
    generalize (linePieces keys).filter (fun p => !isSpad p.1 && pkgOf p.1 != s.pkgnum.toNat) = far
    have hasks : (s.hostAsks fn wr data far).2.memOk := State.memOk_hostAsks h
    generalize s.hostAsks fn wr data far = r at hasks
    have hsettled (b : Bool) (p : Flight → Asker → Bool) : (if b then r.2 else r.2.dropAsks p).memOk := by
      split
      · exact hasks
      · exact State.memOk_dropAsks.mpr hasks
    have hgranted (l : List (Nat × Nat × Nat)) (b : Bool) (p : Flight → Asker → Bool) (vd : Nat) :
        (l.foldl (fun s p => s.sliceGrant p.1 vd 0) (if b then r.2 else r.2.dropAsks p)).memOk :=
      (State.memOk_foldl_iff fun _ _ => State.memOk_sliceGrant).mpr (hsettled ..)
    split
    · exact memOkOut_next.mpr hasks
    · exact memOkOut_next.mpr (State.memOk_hostAbort.mpr (hsettled ..))
    · refine iteInduction (motive := MemOkOut) (fun _ => memOkOut_next.mpr ?_) fun _ => memOkOut_next.mpr ?_
      · exact State.memOk_mk.mpr (State.memOk_hostWrite (hgranted ..))
      · exact State.memOk_mk.mpr ((State.memOk_foldl_iff fun _ _ => State.memOk_recallAll).mpr (hgranted ..))
  · exact memOkOut_next.mpr (State.memOk_hostAbort.mpr h)

theorem memOkOut_execCommitStagedImage {s : State} (h : s.memOk) {fn : Nat} {seq : BitVec 16} : MemOkOut (execCommitStagedImage fn seq s) := by
  refine memOkOut_next.mpr (State.memOk_mailCommand h fun t ht => ?_)
  dsimp only
  split
  · exact ht
  · split <;> exact ht

theorem memOkOut_execFenceUnit {s : State} (h : s.memOk) {fn : Nat} {seq : BitVec 16} {kind : BitVec 8} {unit : Nat} : MemOkOut
    (execFenceUnit fn seq kind unit s) := by
  refine memOkOut_next.mpr (State.memOk_mailCommand h fun t ht => ?_)
  split
  · next u e => exact State.memOk_fenceUnit ht u e
  · exact ht

theorem memOkOut_execHaltOperation {s : State} (h : s.memOk) {fn : Nat} {seq : BitVec 16} {handle : BitVec 32} {vd : Nat} {op : BitVec 2} :
    MemOkOut (execHaltOperation fn seq handle vd op s) := by
  refine memOkOut_next.mpr (State.memOk_mailCommand h fun t ht => ?_)
  unfold State.mgmtHalt
  dsimp only
  split
  · exact ht
  · have hop := State.memOk_haltOp ht (g := gangKeyOf vd handle.toNat) (op := op.toNat)
    split <;> next e => exact (congrArg Halting.MemOk e).mp hop

theorem memOkOut_execPackageReset {s : State} (h : s.memOk) : MemOkOut (execPackageReset s) := by
  refine memOkOut_next.mpr (State.memOk_trainPorts.mpr ((State.memOk_foldl_iff fun _ _ => State.memOk_applyDefect).mpr
    ((State.memOk_foldl_iff fun _ _ => State.memOk_applyFence).mpr ⟨?_, rfl⟩)))
  exact foldl_inv (fun m : SMap 8 => SMap.wf m = true) _ (fun _ _ hm => SMap.wf_set hm _ _) _ _
    ((SMap.wf_iff _).mpr (((SMap.wf_iff _).mp h.1).filter _))

theorem memOkOut_execEccError {s : State} (h : s.memOk) {die addr : Nat} {correctable : Bool} {unit : Option (BitVec 8 × Nat)} :
    MemOkOut (execEccError die addr correctable unit s) := by
  refine iteInduction (motive := MemOkOut) (fun _ => memOkOut_next.mpr h) fun _ => ?_
  split
  · exact memOkOut_next.mpr h
  · exact memOkOut_next.mpr (State.memOk_getD (State.memOk_fenceUnit (State.memOk_mk.mpr (State.memOk_log.mpr h)))
        (State.memOk_mk.mpr (State.memOk_log.mpr h)))

theorem memOkOut_execFetchMissLineArrival {s : State} (h : s.memOk) {strand : Nat} {lane : Bool} : MemOkOut
    (execFetchMissLineArrival strand lane s) := by
  delta execFetchMissLineArrival
  extract_lets t vd pc need failed drop arrive w kept
  have hfailed (u : State) (hu : u.memOk) : MemOkOut (failed u) := memOkOut_next.mpr (State.memOk_fetchFault (State.memOk_logError.mpr hu))
  have harrive (u : State) (hu : u.memOk) (pte : W64) : MemOkOut (arrive u pte) := by
    refine iteInduction (motive := MemOkOut) (fun _ => by simp [hu]) fun _ => iteInduction (motive := MemOkOut) (fun _ => hfailed u hu) fun _ => ?_
    refine iteInduction (motive := MemOkOut) (fun _ => ?_) fun _ => ?_
    · exact iteInduction (motive := MemOkOut) (fun _ => memOkOut_next.mpr hu) fun _ => by simp [hu]
    · extract_lets a
      have ha : a.2.memOk := State.memOk_askPeer.mpr hu
      split
      · exact memOkOut_next.mpr ha
      · exact memOkOut_next.mpr (State.memOk_keepLine.mpr (State.memOk_dropAsks.mpr ha))
      · exact hfailed _ (State.memOk_dropAsks.mpr ha)
  refine iteInduction (motive := MemOkOut) (fun _ => memOkOut_next.mpr h) fun _ => iteInduction (motive := MemOkOut) (fun _ => by simp [h])
      fun _ => ?_
  refine iteInduction (motive := MemOkOut) (fun _ => by simp [h]) fun _ => ?_
  split
  · exact harrive _ (State.memOk_loadMicro.mpr h) _
  · refine iteInduction (motive := MemOkOut) (fun _ => memOkOut_next.mpr h) fun _ => ?_
    have hkept : kept.memOk := State.memOk_afterWalk.mpr h
    cases w.fin with
    | leaf pte => exact harrive _ (State.memOk_tlbFill.mpr hkept) pte
    | error pa => exact hfailed kept hkept
    | notMapped | malformed => exact memOkOut_next.mpr (State.memOk_fetchFault hkept)
    | wait => exact memOkOut_next.mpr h
    | ask => exact memOkOut_next.mpr (State.memOk_walkAsk.mpr h)

theorem State.memOk_hostAccess {s : State} (h : s.memOk) {fn off : Nat} {bar2 wr : Bool} {data : List Byte} :
    (s.hostAccess fn bar2 off wr data).memOk := by
  unfold State.hostAccess
  refine iteInduction (motive := State.memOk) (fun _ => h) fun _ => iteInduction (motive := State.memOk) (fun _ => ?_) fun _ => ?_
  · exact iteInduction (motive := State.memOk) (fun _ => memOk_boxAccess.mpr h) fun _ => memOk_bar0Mgmt h
  · exact iteInduction (motive := State.memOk) (fun _ => memOk_outState h (memOkOut_execHostBar2Access h)) fun _ => memOk_bar0Virtual.mpr h

theorem State.memOkOut_resume {s : State} (h : s.memOk) {d a b : SReg} : MemOkOut (s.resume d a b) :=
  State.memOkOut_privileged h fun _ hs => State.memOk_afterRelease hs fun t ht => by simp [ht]

theorem State.memOkOut_control {s : State} (h : s.memOk) {trap : Bool} {t : Strand} : MemOkOut (s.control trap t) := memOkOut_next.mpr (by simp [h])

theorem memOkOut_execCsave {s : State} (h : s.memOk) {d a b : SReg} : MemOkOut (execCsave d a b s) := by
  refine State.memOkOut_privileged h fun t ht => State.memOk_afterRelease ht fun u hu => ?_
  exact State.memOk_csaveStep hu

theorem memOkOut_execCrstr {s : State} (h : s.memOk) {d a b : SReg} : MemOkOut (execCrstr d a b s) := by
  refine State.memOkOut_privileged h fun t ht => State.memOk_afterRelease ht fun u hu => ?_
  exact State.memOk_crstrStep hu

theorem memOkOut_execYield {s : State} (h : s.memOk) : MemOkOut (execYield s) := by
  have hgone (g : Gang) : ((s.setMe s.me.advance).setGang s.me.gang g).memOk := h
  refine iteInduction (motive := MemOkOut) (fun _ => by simp [h]) fun _ => memOkOut_next.mpr
      (iteInduction (motive := State.memOk) (fun _ => ?_) fun _ => hgone _)
  exact State.memOk_getD (State.memOk_preempt (hgone _)) (State.memOk_ctxError.mpr (hgone _))

theorem memOkOut_execCbwait {s : State} (h : s.memOk) {d a b : SReg} : MemOkOut (execCbwait d a b s) := by
  refine memOkOut_next.mpr (iteInduction (motive := State.memOk) (fun _ => h) fun _ => State.memOk_withVa h (fun t key ht => ?_) fun _ => id)
  simp [ht]

theorem memOkOut_execWfe {s : State} (h : s.memOk) {d a b : SReg} : MemOkOut (execWfe d a b s) := by
  refine memOkOut_next.mpr (iteInduction (motive := State.memOk) (fun _ => h) fun _ => iteInduction (motive := State.memOk) (fun _ => ?_) fun _ => ?_)
  · exact State.memOk_withVa h (fun _ _ ht => State.memOk_wfeWord ht) fun _ => id
  · exact State.memOk_startWfe.mpr h

theorem memOkOut_execMwait {s : State} (h : s.memOk) {d : SReg} : MemOkOut (execMwait d s) := by
  refine memOkOut_next.mpr ?_
  split <;> simp [h]

theorem memOkOut_execTcopy {s : State} (h : s.memOk) {d a b : SReg} : MemOkOut (execTcopy d a b s) := by
  refine memOkOut_next.mpr (State.memOk_copyFront h fun t ht => iteInduction (motive := State.memOk) (fun _ => State.memOk_tcopyAccept.mpr ht)
      fun _ => ?_)
  exact State.memOk_withBytes ht (fun _ _ hu => State.memOk_tcopyAccept.mpr hu) fun _ hu => State.memOk_refuseCmd.mpr hu

theorem memOkOut_execFget {s : State} (h : s.memOk) {d a : SReg} : MemOkOut (execFget d a s) := by
  have hfails (t : State) (ht : t.memOk) (va : W64) : ((t.deferredError va).scalarResult d 0).memOk := by simp [ht]
  refine memOkOut_next.mpr (State.memOk_withVa h (fun t key ht => ?_) fun t ht => hfails t ht _)
  refine iteInduction (motive := State.memOk) (fun _ => hfails t ht _) fun _ => State.memOk_atHome ht fun u hu => ?_
  simp [hu]

theorem memOkOut_execFeed {s : State} (h : s.memOk) {r : Feed} : MemOkOut (execFeed r s) :=
  memOkOut_next.mpr (State.memOk_laneIssue h fun x s hs => by simp [hs])

theorem memOkOut_execDrain {s : State} (h : s.memOk) {r : Drain} : MemOkOut (execDrain r s) :=
  memOkOut_next.mpr (State.memOk_laneIssue h fun x s hs => by simp [hs])

theorem memOkOut_execTlbsync {s : State} (h : s.memOk) {r : TlbSync} : MemOkOut (execTlbsync r s) := by
  refine iteInduction (motive := MemOkOut) (fun _ => by simp [h]) fun _ => memOkOut_next.mpr (State.memOk_laneIssue h fun x s hs => ?_)
  refine iteInduction (motive := State.memOk) (fun _ => by simp [hs]) fun _ => ?_
  simp [hs]

theorem memOkOut_execQueueBlockMove {s : State} (h : s.memOk) {m : QMove} : MemOkOut (execQueueBlockMove m s) := by
  refine memOkOut_next.mpr ?_
  split <;> simp [h]

theorem memOkOut_execTaskRetire {s : State} (h : s.memOk) {gang : Nat} : MemOkOut (execTaskRetire gang s) := by
  refine memOkOut_next.mpr ?_
  split <;> simp [h]

theorem memOkOut_execLineRecall {s : State} (h : s.memOk) {core line : Nat} : MemOkOut (execLineRecall core line s) :=
  iteInduction (motive := MemOkOut) (fun _ => memOkOut_next.mpr h) fun _ =>
    memOkOut_next.mpr ((State.memOk_foldl_iff fun _ _ => State.memOk_setCore).mpr h)

theorem memOkOut_execCancelStateArrival {s : State} (h : s.memOk) {job unit : Nat} : MemOkOut (execCancelStateArrival job unit s) := by
  have hreached (j : Job) : (if unit < 288 then ((s.setJob job j).doom job unit).cancelWaits unit job else (s.setJob job j).doom job unit).memOk := by
    split <;> simp [h]
  refine iteInduction (motive := MemOkOut) (fun _ => memOkOut_next.mpr (State.memOk_jobCheck ?_)) fun _ => memOkOut_next.mpr h
  exact iteInduction (motive := State.memOk) (fun _ => State.memOk_ackCancel.mpr (hreached _)) fun _ => hreached _

/-- Every instruction keeps the canonical form of memory. -/
theorem memOkOut_exec {s : State} (h : s.memOk) (i : Instr) : MemOkOut (exec i s) := by
  have hissued : MemOkOut (reissue i s) := memOkOut_reissue h
  cases i with
  | bar => exact memOkOut_execBar h
  | arrive => exact memOkOut_execArrive h
  | arriveCb => exact memOkOut_execArriveCb h
  | cbwait => exact memOkOut_execCbwait h
  | lock => exact memOkOut_execLock h
  | unlock => exact memOkOut_execUnlock h
  | join => exact memOkOut_execJoin h
  | leave => exact memOkOut_execLeave h
  | msend => exact memOkOut_execMsend h
  | mrecv => exact memOkOut_execMrecv h
  | yield => exact memOkOut_execYield h
  | rft => exact memOkOut_execRft h
  | haltInPlace | haltRelease | haltAndSuspend => exact State.memOkOut_halt h
  | resumeRestart | resumePage | resumeDeliverFault | resumeFailTask => exact State.memOkOut_resume h
  | csave => exact memOkOut_execCsave h
  | crstr => exact memOkOut_execCrstr h
  | wfe => exact memOkOut_execWfe h
  | mwait => exact memOkOut_execMwait h
  | tcopy => exact memOkOut_execTcopy h
  | gcopy => exact memOkOut_execGcopy h
  | nodeput => exact memOkOut_execNodeput h
  | fget => exact memOkOut_execFget h
  | ffill | ffillCancel => exact State.memOkOut_ffill h
  | fwait | fwaitNb => exact State.memOkOut_fwait h
  | spawn => exact memOkOut_next.mpr (State.memOk_afterRelease h fun _ ht => State.memOk_spawnSteps ht)
  | tdone => exact memOkOut_next.mpr (State.memOk_afterDrain h fun _ ht => State.memOk_strandDone ht)
  | spawnv => exact memOkOut_execSpawnv h
  | qpush | qpop => exact State.memOkOut_queueInstr h
  | feed => exact memOkOut_execFeed h
  | drain => exact memOkOut_execDrain h
  | elsem | endif | endloop =>
    dsimp only [exec, execElsem, execEndif, execEndloop]
    split <;> exact State.memOkOut_control h
  | fence => exact memOkOut_next.mpr (State.memOk_laneIssue h fun _ _ hs => State.memOk_fence hs fun _ => id)
  | tlbsync => exact memOkOut_execTlbsync h
  | lrunr | ld | st | ldl | ldx | stNt | lds | sts | atom | red | inkAdd | inkRead | inkClr | fewait | ldb | ldh | ldw | ldd | ldbs | ldhs | ldws |
        stb | sth | stw | std =>
    exact hissued
  | pageWalk => exact memOkOut_execPageWalk h
  | loadReply => exact State.memOkOut_onFlight h fun _ _ hs => State.memOk_answerWith hs fun _ _ ht => State.memOk_reply ht
  | errorResponse => exact State.memOkOut_onFlight h fun _ _ hs => State.memOk_answerWith hs fun _ _ ht => State.memOk_errorReply ht
  | writeAcknowledgement => exact State.memOkOut_onFlight h fun _ _ hs => State.memOk_answerWith hs fun _ _ ht => State.memOk_acknowledge ht
  | coalescingEntrySend => exact State.memOkOut_onFlight h fun _ _ hs => State.memOk_sendEntry.mpr hs
  | requestAtHomeSlice => exact State.memOkOut_onFlight h fun _ _ hs => State.memOk_arrive hs
  | faultQueueHeldWrite => exact memOkOut_execFaultQueueHeldWrite h
  | trapEntry => exact memOkOut_execTrapEntry h
  | lineRecall => exact memOkOut_execLineRecall h
  | deadlineExpiry => exact memOkOut_execDeadlineExpiry h
  | rebalanceEpoch => exact memOkOut_execRebalanceEpoch h
  | queueBlockMove => exact memOkOut_execQueueBlockMove h
  | taskRetire => exact memOkOut_execTaskRetire h
  | cancelStateArrival => exact memOkOut_execCancelStateArrival h
  | chartDescriptorRead => exact memOkOut_execChartDescriptorRead h
  | wloadExecute => exact memOkOut_execWloadExecute h
  | mmaPass => exact memOkOut_execMmaPass h
  | mmaClose => exact memOkOut_execMmaClose h
  | mzeroExecute => exact memOkOut_execMzeroExecute h
  | launchCheck => exact memOkOut_execLaunchCheck h
  | linkRequestFlit => exact memOkOut_execLinkRequestFlit h
  | linkReplyFlit => exact memOkOut_execLinkReplyFlit h
  | linkAckFlit => exact memOkOut_execLinkAckFlit h
  | linkIdleFlit => exact memOkOut_execLinkIdleFlit h
  | hostBar2Access => exact memOkOut_execHostBar2Access h
  | attestationReport | stageFirmwareImage =>
    refine memOkOut_next.mpr (State.memOk_mailCommand h fun t ht => ?_)
    split <;> exact ht
  | commitStagedImage => exact memOkOut_execCommitStagedImage h
  | fenceUnit => exact memOkOut_execFenceUnit h
  | haltOperation => exact memOkOut_execHaltOperation h
  | packageReset => exact memOkOut_execPackageReset h
  | eccError => exact memOkOut_execEccError h
  | fetchMissLineArrival => exact memOkOut_execFetchMissLineArrival h
  -- Meanings that choose between next states.
  | jalr | sfence | bkpt | cancel | cancelJob | prio | strandMove | linkTrainTimeout | powerWindow | thermalTrip | linkRetrainComplete =>
    simp +contextual [exec, execJalr, execSfence, execBkpt, execCancel, execCancelJob, State.cancelInstr, execPrio, execStrandMove,
      execLinkTrainTimeout, execPowerWindow, execThermalTrip, execLinkRetrainComplete, h]
  | mfc | mtc | invalidationApply | contextSave | dieQueueSteal | helping | binTimerExpiry | messageArrival | matrixWatchdog | copyCommandStart |
    clockRelockEnd | wfeTimeout =>
    dsimp only [exec, execMfc, execMtc, execInvalidationApply, execContextSave, execDieQueueSteal, execHelping, execBinTimerExpiry,
      execMessageArrival, execMatrixWatchdog, execCopyCommandStart, execClockRelockEnd, execWfeTimeout]
    split <;> simp [h]
  -- Meanings that are one next state.
  | _ => exact memOkOut_next.mpr (by simp [h])

/-! ### The turns -/

/-- The state of a choice has memory in canonical form. -/
def Choice.MemOk : Choice → Prop
  | .run _ s | .rest s => s.memOk
  | .absent => True

theorem memOkOut_outcome {c : Choice} (h : c.MemOk) : MemOkOut c.outcome := by
  cases c with
  | run i s => exact memOkOut_exec h i
  | rest s => exact memOkOut_next.mpr h
  | absent => exact nofun

namespace State

theorem memOk_badSlot {s : State} (h : s.memOk) {k w : Nat} : (s.badSlot k w).MemOk :=
  iteInduction (motive := Choice.MemOk) (fun _ => memOk_setStrand.mpr h) fun _ => memOk_raise h

theorem memOk_laneTurn {s : State} (h : s.memOk) {k : Nat} : (s.laneTurn k).MemOk := by
  unfold State.laneTurn
  refine iteInduction (motive := Choice.MemOk) (fun _ => h) fun _ => iteInduction (motive := Choice.MemOk) (fun _ => memOk_setStrand.mpr h)
      fun _ => ?_
  split
  · exact h
  · exact memOk_badSlot h
  · split
    · exact memOk_badSlot h
    · refine iteInduction (motive := Choice.MemOk) (fun _ => memOk_setStrand.mpr h) fun _ => ?_
      exact iteInduction (motive := Choice.MemOk) (fun _ => memOk_keepLoop.mpr h) fun _ => h

theorem memOk_scalarTurn {s : State} (h : s.memOk) {k : Nat} : (s.scalarTurn k).MemOk := by
  unfold State.scalarTurn
  refine iteInduction (motive := Choice.MemOk) (fun _ => h) fun _ => iteInduction (motive := Choice.MemOk) (fun _ => memOk_raise h) fun _ => ?_
  split
  · exact h
  · exact h
  · split
    · exact memOk_raise h
    · exact iteInduction (motive := Choice.MemOk) (fun _ => h) fun _ => h

theorem memOk_issueOf {s : State} (h : s.memOk) {lane : Bool} {c : Choice} (hc : c.MemOk) : (s.issueOf lane c).MemOk := by
  cases c with
  | run i t =>
    refine iteInduction (motive := Choice.MemOk) (fun _ => hc) fun _ => ?_
    exact iteInduction (motive := Choice.MemOk) (fun _ => memOk_noteTags.mpr (memOk_noteIssue.mpr hc)) fun _ => h
  | _ => exact hc

theorem memOk_turn {s : State} (h : s.memOk) {lane : Bool} : (s.turn lane).MemOk := by
  unfold State.turn
  refine iteInduction (motive := Choice.MemOk) (fun _ => trivial) fun _ => iteInduction (motive := Choice.MemOk) (fun _ => h) fun _ => ?_
  refine iteInduction (motive := Choice.MemOk) (fun _ => ?_) fun _ => iteInduction (motive := Choice.MemOk)
      (fun _ => memOk_issueOf h (memOk_laneTurn h)) fun _ => ?_
  · exact iteInduction (motive := Choice.MemOk) (fun _ => h) fun _ => h
  · exact iteInduction (motive := Choice.MemOk) (fun _ => h) fun _ => memOk_issueOf h (memOk_scalarTurn h)

theorem memOk_autoTurn {s : State} (h : s.memOk) : s.autoTurn.MemOk := by
  have hturn := memOk_turn h (lane := s.stream)
  unfold State.autoTurn
  split
  · exact h
  · exact hturn

theorem memOkOut_once {s : State} (h : s.memOk) : MemOkOut s.once := by
  unfold State.once
  split
  · exact memOkOut_exec (memOk_mk.mpr h) _
  · exact memOkOut_outcome (memOk_turn (memOk_mk.mpr h))
  · exact memOkOut_next.mpr (memOk_pass.mpr h)
  · exact memOkOut_next.mpr (memOk_outsideWrite (memOk_mk.mpr h))
  · exact memOkOut_next.mpr h
  · exact memOkOut_next.mpr h
  · exact memOkOut_next.mpr (memOk_resend.mpr h)
  · exact memOkOut_next.mpr (memOk_hostAccess (memOk_mk.mpr h))
  · exact memOkOut_next.mpr h
  · exact memOkOut_next.mpr h
  · exact memOkOut_next.mpr (memOk_elementAhead (memOk_mk.mpr h))
  · exact memOkOut_next.mpr (memOk_mgmtFailure.mpr h)
  · exact memOkOut_next.mpr (memOk_readAhead (memOk_mk.mpr h))
  · split
    · exact memOkOut_exec h _
    · have hauto := memOkOut_outcome (memOk_autoTurn h)
      generalize s.autoTurn.outcome = o at hauto
      split
      · exact memOkOut_next.mpr (memOk_rotate.mpr (hauto _ rfl))
      · exact hauto

theorem memOkOut_step {s : State} (h : s.memOk) : MemOkOut (step s) := by
  have honce := memOkOut_once h
  unfold step
  generalize s.once = o at honce
  split
  · exact memOkOut_next.mpr (iteInduction (motive := State.memOk) (fun _ => honce _ rfl) fun _ => memOk_mk.mpr (honce _ rfl))
  · exact honce

end State

end Sys2Proof.Machine

open Sys2Proof Sys2Proof.Machine Sys2Proof.Claims

/-- Settles O59: every turn is made of operations that keep the canonical form. -/
theorem stepKeepsMemoryForm : Obligations.StepKeepsMemoryForm :=
  fun _ t hmem hfe hstep => State.memOkOut_step ⟨hmem, hfe⟩ t hstep

end

section
/-! Lane memory accesses (R162, R163, R171 to R177, R213 to R221, R233): the requests that an instruction starts, one for each access, whatever
window, line or bin they enter. -/

namespace Sys2Proof.Machine

open Sys2Proof Sys2Proof.Claims

/-! ### Requests that go on to another stage -/

/-- The requests in flight stand at other stages, or in other entries, and nothing else has changed. -/
def State.Restaged (s t : State) : Prop :=
  { t with flights := s.flights } = s ∧
    ∃ move : Flight → Flight, (∀ f ∈ s.flights, { move f with stage := f.stage, entry := f.entry } = f) ∧ ∀ g, g ∈ t.flights ↔ g ∈ s.flights.map move

namespace State.Restaged

theorem refl (s : State) : s.Restaged s := ⟨rfl, id, fun _ _ => rfl, fun g => by rw [List.map_id]⟩

theorem trans {s t u : State} (h : s.Restaged t) (k : t.Restaged u) : s.Restaged u := by
  obtain ⟨hframe, move, hmove, hmem⟩ := h
  obtain ⟨kframe, move', kmove, kmem⟩ := k
  refine ⟨(congrArg (fun x : State => { x with flights := s.flights }) kframe).trans hframe, move' ∘ move, fun f hf => ?_, fun g => ?_⟩
  · have hsame := kmove (move f) ((hmem _).mpr (List.mem_map_of_mem hf))
    exact (congrArg (fun x : Flight => { x with stage := f.stage, entry := f.entry }) hsame).trans (hmove f hf)
  · simp only [kmem, List.mem_map, hmem, Function.comp_apply]
    exact ⟨fun ⟨_, ⟨f, hf, e⟩, e'⟩ => ⟨f, hf, e ▸ e'⟩, fun ⟨f, hf, e⟩ => ⟨_, ⟨f, hf, rfl⟩, e⟩⟩

theorem of_map {s : State} {move : Flight → Flight} (h : ∀ f ∈ s.flights, { move f with stage := f.stage, entry := f.entry } = f) :
    s.Restaged { s with flights := s.flights.map move } := ⟨rfl, move, h, fun _ => Iff.rfl⟩

theorem foldl {α : Type} {f : State → α → State} (h : ∀ s a, State.Restaged s (f s a)) (l : List α) (s : State) : s.Restaged (l.foldl f s) :=
  List.foldlRecOn l f (refl s) fun t ht a _ => ht.trans (h t a)

theorem ite {c : Prop} [Decidable c] {s t u : State} (ht : s.Restaged t) (hu : s.Restaged u) : s.Restaged (if c then t else u) := by
  split
  · exact ht
  · exact hu

theorem sendEntry (s : State) (f : Flight) : s.Restaged (s.sendEntry f) := of_map fun g _ => by split <;> rfl

theorem sendHead (s : State) (l : List Flight) : s.Restaged (match l with | g :: _ => s.sendEntry g | [] => s) := by
  cases l with
  | nil => exact refl s
  | cons g _ => exact sendEntry s g

/-- One step of a walk over requests that sends the entries of those that are still due. -/
theorem sendDue (s : State) (due : Flight → Bool) (id : Nat) :
    s.Restaged (match s.flight? id with | some h => if due h then s.sendEntry h else s | none => s) := by
  cases s.flight? id with
  | some h => exact ite (sendEntry s h) (refl s)
  | none => exact refl s

theorem sendAll (s : State) (k : Nat) (wc : Bool) : s.Restaged (s.sendAll k wc) := by
  unfold State.sendAll
  exact foldl (fun t (g : Flight) => sendDue t (fun g => g.stage == .window || (wc && g.stage == .wc)) g.id) _ s

theorem sendWc (s : State) (f : Flight) : s.Restaged (s.sendWc f) := by
  unfold State.sendWc
  exact foldl (fun t (g : Flight) => sendDue t (fun g => g.stage == .wc) g.id) _ s

theorem makeRoom (s : State) (f : Flight) : s.Restaged (s.makeRoom f) := ite (refl s) (sendHead s _)

theorem tidyWc (s : State) (f : Flight) : s.Restaged (s.tidyWc f) :=
  trans (ite (sendEntry s f) (refl s)) (ite (refl _) (sendHead _ _))

theorem sendBin (s : State) (die home : Nat) : s.Restaged (s.sendBin die home) := of_map fun g _ => by split <;> rfl

theorem joinLines (s : State) (k inst : Nat) : s.Restaged (s.joinLines k inst) := of_map fun g _ => by split <;> rfl

theorem nextId {s t : State} (h : s.Restaged t) : t.nextId = s.nextId := (congrArg State.nextId h.1 :)

/-- Each request came from one that stood before. -/
theorem from_old {s t : State} (h : s.Restaged t) {g : Flight} (hg : g ∈ t.flights) :
    ∃ f ∈ s.flights, { g with stage := f.stage, entry := f.entry } = f := by
  obtain ⟨-, move, hmove, hmem⟩ := h
  obtain ⟨f, hf, rfl⟩ := List.mem_map.mp ((hmem g).mp hg)
  exact ⟨f, hf, hmove f hf⟩

/-- Each request that stood before is still there. -/
theorem stays {s t : State} (h : s.Restaged t) {f : Flight} (hf : f ∈ s.flights) :
    ∃ g ∈ t.flights, { g with stage := f.stage, entry := f.entry } = f := by
  obtain ⟨-, move, hmove, hmem⟩ := h
  exact ⟨move f, (hmem _).mpr (List.mem_map_of_mem hf), hmove f hf⟩

/-- The numbers in flight stay. -/
theorem fresh {s t : State} (h : s.Restaged t) (hs : ∀ f ∈ s.flights, f.id < s.nextId) : ∀ g ∈ t.flights, g.id < t.nextId := by
  intro g hg
  obtain ⟨f, hf, e⟩ := h.from_old hg
  have hid : g.id = f.id := (congrArg Flight.id e :)
  rw [h.nextId, hid]
  exact hs f hf

/-- A request that has just joined those in flight, with a number of its own, enters its bin. -/
theorem enterBin {s : State} {f : Flight} (hf : f.id = s.nextId) (hs : ∀ g ∈ s.flights, g.id < s.nextId) :
    (s.withRequest f).Restaged ((s.withRequest f).enterBin f) := by
  have hne {g : Flight} (hg : g ∈ s.flights) : g.id ≠ f.id := hf ▸ (hs g hg).ne
  -- Whichever way it goes, the new request alone takes another stage.
  have hmoved (u : State) (st : Stage) (hu : { u with flights := (s.withRequest f).flights } = s.withRequest f)
      (hmem : ∀ g, g ∈ u.flights ↔ g ∈ s.flights ∨ g = { f with stage := st }) : (s.withRequest f).Restaged u := by
    refine ⟨hu, fun g => if g.id = f.id then { g with stage := st } else g, fun g _ => by dsimp only; split <;> rfl, fun g => ?_⟩
    have hold : s.flights.map (fun g => if g.id = f.id then { g with stage := st } else g) = s.flights :=
      (List.map_congr_left fun g hg => if_neg (hne hg)).trans (List.map_id _)
    rw [hmem, State.withRequest, List.map_append, hold]
    simp
  have hdrop (st : Stage) : (s.withRequest f).Restaged ((s.withRequest f).moveFlight { f with stage := st }) := by
    refine hmoved _ st rfl fun g => ?_
    have hold : (s.flights ++ [f]).filter (fun g => g.id != f.id) = s.flights := by
      rw [List.filter_append, List.filter_eq_self.mpr fun g hg => by simpa using hne hg]
      simp
    simp [State.moveFlight, State.dropFlight, State.withRequest, hold]
  refine ite (hdrop .home) (ite (hmoved _ .held rfl fun g => ?_) (ite ((hdrop .bin).trans (sendBin _ _ _)) (hdrop .bin)))
  have hold : s.flights.map (fun g => if g.id == f.id then { f with stage := .held } else g) = s.flights :=
    (List.map_congr_left fun g hg => if_neg (by simpa using hne hg)).trans (List.map_id _)
  rw [State.setFlight, State.withRequest, List.map_append, hold]
  simp

end State.Restaged

/-! ### A request starts -/

/-- A request takes its number and joins those in flight, some of which go on before and after it. -/
theorem State.launchFlight_restages (s : State) (f : Flight) (st : Stage) (hs : ∀ g ∈ s.flights, g.id < s.nextId) :
    ∃ u g, s.Restaged u ∧ { g with stage := f.stage } = { f with id := s.nextId } ∧ (u.withRequest g).Restaged (s.launchFlight f st) := by
  have hbefore (g : Flight) : s.Restaged (if st == .window then (if g.kind.writes && st != .wc then s.sendWc g else s).makeRoom g
      else if g.kind.writes && st != .wc then s.sendWc g else s) := by
    have hwc : s.Restaged (if g.kind.writes && st != .wc then s.sendWc g else s) := .ite (.sendWc s g) (.refl s)
    exact .ite (hwc.trans (.makeRoom _ g)) hwc
  let g : Flight := { f with id := s.nextId, stage := if st == .home then ({ f with id := s.nextId } : Flight).firstStage else st }
  refine ⟨_, g, hbefore g, rfl, ?_⟩
  cases st with
  | wc => exact .tidyWc _ _
  | bin => exact .enterBin (hbefore g).nextId.symm ((hbefore g).fresh hs)
  | _ => exact .refl _

/-- A request without what its number and its place in the streams and on its way say of it. -/
def Flight.blank (g : Flight) : Flight :=
  { g with id := 0, inst := 0, bound := 0, stage := .home, value := 0, vec := [], watch := false, pc := 0, entry := 0, tag := 0, granted := false,
           pbase := 0, plog := 0, agent := none }

/-- The request of one access of a lane instruction. -/
def AccForm.request (f : AccForm) (k : Nat) (a : Acc) (key : Nat) : Flight :=
  { id := 0, strand := k, lane := true, inst := 0, bound := 0, thread := a.thread, kind := a.kind, va := a.va, key, bytes := f.bytes, data := a.data,
    qual := f.qual, ord := f.ord, scope := f.scope, ev := f.ev, sx := f.sx, dest := a.dest, stage := .home, value := 0, vec := [], watch := false,
    pc := 0, orphan := false, entry := 0, tag := 0, granted := false, pbase := 0, plog := 0, agent := none }

/-- A request in flight serves an access of a lane instruction. -/
def Flight.Serves (g : Flight) (f : AccForm) (k : Nat) (a : Acc) (key : Nat) : Prop := g.blank = f.request k a key

/-- A request serves its access at whatever stage, and in whatever entry, it stands. -/
theorem Flight.Serves.of_same {g g' : Flight} {f : AccForm} {k : Nat} {a : Acc} {key : Nat} (h : g.Serves f k a key) {st : Stage} {e : Nat}
    (hg : { g' with stage := st, entry := e } = { g with stage := st, entry := e }) : g'.Serves f k a key :=
  (congrArg Flight.blank hg :).trans h

/-- Since `s`, one request has started for each access of a list, and a core may have taken translations. -/
structure State.Started (k : Nat) (f : AccForm) (key : Acc → Nat) (s : State) (accs : List Acc) (t : State) : Prop where
  frame : { t with cores := s.cores, flights := s.flights, nextId := s.nextId } = s
  cores : ∀ c, { t.core c with tlb := (s.core c).tlb } = s.core c
  nextId : t.nextId = s.nextId + accs.length
  fresh : ∀ g ∈ t.flights, g.id < t.nextId
  serves : ∀ a ∈ accs, ∃ g ∈ t.flights, s.nextId ≤ g.id ∧ g.Serves f k a (key a)
  only : ∀ g ∈ t.flights, s.nextId ≤ g.id → ∃ a ∈ accs, g.Serves f k a (key a)

namespace State.Started

variable {k : Nat} {f : AccForm} {key : Acc → Nat} {s t u : State} {accs : List Acc}

theorem refl (hs : ∀ g ∈ s.flights, g.id < s.nextId) : State.Started k f key s [] s :=
  ⟨rfl, fun _ => rfl, rfl, hs, nofun, fun g hg hle => absurd hle (hs g hg).not_ge⟩

theorem restaged (h : State.Started k f key s accs t) (hu : t.Restaged u) : State.Started k f key s accs u where
  frame := (congrArg (fun x : State => { x with cores := s.cores, flights := s.flights, nextId := s.nextId }) hu.1 :).trans h.frame
  cores c := (show { t.core c with tlb := (s.core c).tlb } = s.core c from h.cores c) ▸
    (congrArg (fun x : State => { x.core c with tlb := (s.core c).tlb }) hu.1 :)
  nextId := hu.nextId.trans h.nextId
  fresh := hu.fresh h.fresh
  serves a ha := by
    obtain ⟨g, hg, hle, hserves⟩ := h.serves a ha
    obtain ⟨g', hg', e⟩ := hu.stays hg
    exact ⟨g', hg', (congrArg Flight.id e :) ▸ hle, hserves.of_same e⟩
  only g hg hle := by
    obtain ⟨g', hg', e⟩ := hu.from_old hg
    obtain ⟨a, ha, hserves⟩ := h.only g' hg' ((congrArg Flight.id e :) ▸ hle)
    exact ⟨a, ha, hserves.of_same e⟩

theorem tlbFill (h : State.Started k f key s accs t) (core vd : Nat) (units : List Nat) (va pte : W64) :
    State.Started k f key s accs (t.tlbFill core units vd va pte) where
  frame := h.frame
  cores c := by
    unfold State.tlbFill
    dsimp only
    rw [State.core_setCore]
    by_cases hc : c = core
    · rw [if_pos hc, ← hc]
      exact h.cores c
    · rw [if_neg hc]
      exact h.cores c
  nextId := h.nextId
  fresh := h.fresh
  serves := h.serves
  only := h.only

theorem loadMicro (h : State.Started k f key s accs t) (j : Nat) (lane : Bool) (va : W64) : State.Started k f key s accs (t.loadMicro j lane va) := by
  unfold State.loadMicro
  dsimp only
  split
  · split
    · exact h.tlbFill _ _ _ _ _
    · exact h
  · exact h

theorem withRequest (h : State.Started k f key s accs t) {g : Flight} {a : Acc} (hid : g.id = t.nextId) (hg : g.Serves f k a (key a)) :
    State.Started k f key s (accs ++ [a]) (t.withRequest g) where
  frame := h.frame
  cores := h.cores
  nextId := by rw [List.length_append]; exact congrArg (· + 1) h.nextId
  fresh x hx := by
    rcases List.mem_append.mp hx with hx | hx
    · exact Nat.lt_succ_of_lt (h.fresh x hx)
    · rw [List.mem_singleton.mp hx, hid]; exact Nat.lt_succ_self _
  serves b hb := by
    rcases List.mem_append.mp hb with hb | hb
    · obtain ⟨x, hx, hrest⟩ := h.serves b hb
      exact ⟨x, List.mem_append_left _ hx, hrest⟩
    · rw [List.mem_singleton.mp hb]
      exact ⟨g, List.mem_append_right _ (List.mem_singleton_self g), by rw [hid, h.nextId]; exact Nat.le_add_right _ _, hg⟩
  only x hx hle := by
    rcases List.mem_append.mp hx with hx | hx
    · obtain ⟨b, hb, hrest⟩ := h.only x hx hle
      exact ⟨b, List.mem_append_left _ hb, hrest⟩
    · exact ⟨a, List.mem_append_right _ (List.mem_singleton_self a), List.mem_singleton.mp hx ▸ hg⟩

theorem launchAcc (h : State.Started k f key s accs t) (a : Acc) : State.Started k f key s (accs ++ [a]) (t.launchAcc k true f a (some (key a))) := by
  have hmicro := h.loadMicro k true a.va
  obtain ⟨u, g, hu, hg, hlaunch⟩ := State.launchFlight_restages _ _ _ hmicro.fresh
  refine ((hmicro.restaged hu).withRequest ?_ ?_).restaged hlaunch
  · exact (congrArg Flight.id hg :).trans hu.nextId.symm
  · exact (congrArg Flight.blank hg :)

theorem foldl_launchAcc (h : State.Started k f key s accs t) (l : List Acc) :
    State.Started k f key s (accs ++ l) (l.foldl (fun s a => s.launchAcc k true f a (some (key a))) t) := by
  induction l generalizing accs t with
  | nil => rw [List.append_nil]; exact h
  | cons a l ih => rw [List.append_cons]; exact ih (h.launchAcc a)

/-- Requests serve their accesses whatever stage the form names. -/
theorem stage_iff {st : Stage} : State.Started k { f with stage := st } key s accs t ↔ State.Started k f key s accs t :=
  ⟨fun h => ⟨h.frame, h.cores, h.nextId, h.fresh, h.serves, h.only⟩, fun h => ⟨h.frame, h.cores, h.nextId, h.fresh, h.serves, h.only⟩⟩

end State.Started

/-! ### A lane instruction whose accesses all pass -/

/-- The strand whose lane instruction has counted itself, with nothing that it waits for. -/
def Strand.countInst (t : Strand) : Strand := { t with insts := t.insts + 1, laneWait := .none }

/-- Where no access fails, what is to follow does. -/
theorem State.settle_all_pass (s : State) (k : Nat) (lane : Bool) (f : AccForm) (accs : List Acc) (key : Acc → Nat) (done : State → State) :
    s.settle k lane f (accs.map (fun a => (a, .pass (key a)))) done = done s := by
  have hnone (p : Checked → Bool) (hp : ∀ x, p (.pass x) = false) :
      (accs.map (fun a => (a, Checked.pass (key a)))).find? (fun x => p x.2) = none := by
    simp [List.find?_map, List.find?_eq_none, hp]
  unfold State.settle
  dsimp only
  rw [hnone Checked.isTrap fun _ => rfl, hnone Checked.isPark fun _ => rfl, hnone (· == .watch) fun _ => rfl]

/-- Where the check of each access passes, each access starts, and what is to follow does. -/
theorem State.issueAccs_lane_pass {s : State} {i : Instr} {f : AccForm} {accs : List Acc} {done : State → State} {key : Acc → Nat}
    (hc : ∀ a ∈ accs, s.checkAcc s.cur true f a = .pass (key a)) (hs : ∀ g ∈ s.flights, g.id < s.nextId) :
    ∃ u, State.Started s.cur f key (s.setMe s.me.countInst) accs u ∧ s.issueAccs s.cur true i f accs done = done u := by
  have hchecked : accs.map (fun a => (a, s.checkAcc s.cur true f a)) = accs.map (fun a => (a, .pass (key a))) :=
    List.map_congr_left fun a ha => by rw [hc a ha]
  have hmissing : (accs.map (fun a => (a, Checked.pass (key a)))).filter (fun x => x.2 == .miss) = [] := by simp
  have hcounted : State.Started s.cur f key (s.setMe s.me.countInst) [] (s.setMe s.me.countInst) := .refl hs
  have hsent := hcounted.restaged (.ite (c := f.ord == .rlx) (.refl _) (.sendAll _ s.cur f.ord.isRel))
  unfold State.issueAccs
  dsimp only
  rw [hchecked, hmissing]
  refine ⟨_, ?_, State.settle_all_pass ..⟩
  rw [List.foldl_map]
  refine State.Started.restaged ?_ (.joinLines _ _ _)
  split
  · exact State.Started.stage_iff.mp ((State.Started.stage_iff (st := .home)).mpr hsent |>.foldl_launchAcc accs)
  · exact hsent.foldl_launchAcc accs

/-! ### The strand goes on -/

/-- The lane stream goes on from a strand that has counted its instruction. -/
theorem laneWent_of_countInst {s t : State} (ht : t.me = s.me.countInst.laneAdvance) : LaneWent s t := by
  have h := laneWent_laneAdvance (s := s.setMe s.me.countInst) (u := s.me.countInst) (by rw [State.me_setMe])
  rw [LaneWent, State.me_setMe, State.me_setMe] at h
  rw [LaneWent, ht]
  exact h

/-- The lane stream goes on, whatever it waited for. -/
theorem laneWent_endWait (s : State) : LaneWent s (s.setMe { s.me.laneAdvance with laneWait := .none }) := by
  have h := laneWent_laneAdvance (s := s) (u := s.me) rfl
  rw [LaneWent, State.me_setMe] at h ⊢
  exact h

/-- What a request says of the access it serves. -/
theorem Flight.Serves.fields {g : Flight} {f : AccForm} {k : Nat} {a : Acc} {key : Nat} (h : g.Serves f k a key) :
    (g.strand = k ∧ g.lane = true ∧ g.orphan = false ∧ g.thread = a.thread) ∧
      (g.va = a.va ∧ g.key = key ∧ g.bytes = f.bytes ∧ g.kind = a.kind ∧ g.data = a.data ∧ g.dest = a.dest) ∧
      g.sx = f.sx ∧ g.qual = f.qual ∧ g.ord = f.ord ∧ g.scope = f.scope ∧ g.ev = f.ev := by
  simp only [Flight.Serves, Flight.blank, AccForm.request, Flight.mk.injEq] at h
  simp [h]

/-- What stands when the accesses have started and the strand has gone on. -/
theorem State.Started.gone {s u : State} {f : AccForm} {key : Acc → Nat} {accs : List Acc}
    (h : State.Started s.cur f key (s.setMe s.me.countInst) accs u) :
    LaneWent s (u.setMe u.me.laneAdvance) ∧ (∀ a, (u.setMe u.me.laneAdvance).byte a = s.byte a) ∧
      (∀ k, k ≠ s.cur → (u.setMe u.me.laneAdvance).strand k = s.strand k) ∧
      (u.setMe u.me.laneAdvance).me.withStream s.me = { s.me with insts := s.me.insts + 1, laneWait := .none } ∧
      { u.setMe u.me.laneAdvance with strands := s.strands, cores := s.cores, flights := s.flights, nextId := s.nextId } = s := by
  have hcur : u.cur = s.cur := (congrArg State.cur h.frame :)
  have hstrand (k : Nat) : u.strand k = (s.setMe s.me.countInst).strand k := (congrArg (fun x : State => x.strand k) h.frame :)
  have hme : u.me = s.me.countInst := by rw [State.me, hcur, hstrand]; exact State.me_setMe ..
  refine ⟨laneWent_of_countInst ?_, fun a => ?_, fun k hk => ?_, ?_, ?_⟩
  · rw [State.me_setMe, hme]
  · exact (congrArg (fun x : State => x.byte a) h.frame :)
  · rw [State.setMe, State.strand_setStrand, if_neg (hcur ▸ hk), hstrand, State.setMe, State.strand_setStrand, if_neg hk]
  · rw [State.me_setMe, hme]
    exact Strand.laneAdvance_withStream _ _
  · exact (congrArg (fun x : State => { x with strands := s.strands }) h.frame :)

/-! ### The instructions -/

/-- An access passes where it is aligned, in the aperture if it must be, translated and, if matches trap, unwatched. -/
theorem State.checkAcc_key {s : State} {k : Nat} {f : AccForm} {a : Acc} {key : Nat} (halign : a.va.toNat % f.align = 0)
    (hink : f.ink = true → a.va.toNat % 4096 ≤ 3712) (hspad : f.spadOnly = true → inAperture a.va = true)
    (hkey : s.translate k true f.need a.va = .key key)
    (hwatch : f.precise = true → (s.strand k).exempt true = true ∨ (s.strand k).watched f.wp a.va f.bytes = false) :
    s.checkAcc k true f a = .pass key := by
  have hin : (f.ink && decide (3712 < a.va.toNat % 4096)) = false := by
    cases h : f.ink with
    | false => rfl
    | true => simp [hink h]
  have hap : (f.spadOnly && fieldOf a.va 56 8 == 0 && !inAperture a.va) = false := by
    cases h : f.spadOnly with
    | false => rfl
    | true => simp [hspad h]
  have hit : (f.precise && !(s.strand k).exempt true && (s.strand k).watched f.wp a.va f.bytes) = false := by
    cases h : f.precise with
    | false => rfl
    | true => rcases hwatch h with h | h <;> simp [h]
  unfold State.checkAcc
  simp [halign, hin, hap, hkey, hit]

/-- A lane instruction whose accesses all pass starts one request for each executing thread. -/
theorem laneIssue_asked {s : State} {i : Instr} {regs : List (Nat × Nat)} {m : Mask} {f : AccForm} {acc : Nat → Acc} {key : Nat → Nat}
    {body : W32 → State → State} {P : Nat → Flight → Prop} (hexec : exec i s = .next (s.laneIssue regs m body))
    (hbody : ∀ x, body x s = s.issueAccs s.cur true i f ((threadsIn x).map acc) (fun t => t.setMe t.me.laneAdvance))
    (hs : FreshIds s) (hb : s.me.budgetOk regs = true) (hthread : ∀ j, (acc j).thread = j)
    (hc : ∀ j < 32, (s.me.execSet m).getLsbD j = true → s.checkAcc s.cur true f (acc j) = .pass (key j))
    (hP : ∀ g j, g.Serves f s.cur (acc j) (key j) → P j g) : Gives i s (fun t => LaneAsked s t (s.me.execSet m) P) := by
  refine ⟨_, hexec, ?_⟩
  by_cases hx : s.me.execSet m = 0
  · rw [State.laneIssue_pass _ _ _ _ hb hx, hx]
    obtain ⟨hothers, hbytes, hframe⟩ := onlyMe_setMe s s.me.laneAdvance
    refine ⟨fun j _ hbit => by simp at hbit, fun g hg hle => absurd hle (hs.1 g hg).not_ge, by simp [threadsIn], laneWent_laneAdvance rfl, hbytes,
      hothers, ?_, fun _ => rfl, congrArg (fun t : State => { t with cores := s.cores, flights := s.flights, nextId := s.nextId }) hframe⟩
    rw [State.me_setMe]
    exact congrArg (fun t : Strand => { t with insts := s.me.insts, laneWait := s.me.laneWait }) s.me.laneAdvance_frame
  · rw [State.laneIssue_run _ _ _ _ hb hx, hbody]
    have hpass : ∀ a ∈ (threadsIn (s.me.execSet m)).map acc, s.checkAcc s.cur true f a = .pass (key a.thread) := by
      intro a ha
      obtain ⟨j, hj, rfl⟩ := List.mem_map.mp ha
      obtain ⟨hlt, hbit⟩ := (mem_threadsIn _ j).mp hj
      rw [hthread]
      exact hc j hlt hbit
    obtain ⟨u, hu, hdone⟩ := State.issueAccs_lane_pass (i := i) (done := fun t => t.setMe t.me.laneAdvance) hpass hs.1
    obtain ⟨hwent, hbytes, hothers, hme, hframe⟩ := hu.gone
    rw [hdone]
    refine ⟨fun j hj hbit => ?_, fun g hg hle => ?_, ?_, hwent, hbytes, hothers, ?_, hu.cores, hframe⟩
    · obtain ⟨g, hg, hle, hserves⟩ := hu.serves _ (List.mem_map_of_mem ((mem_threadsIn _ j).mpr ⟨hj, hbit⟩))
      rw [hthread] at hserves
      obtain ⟨⟨hstrand, hlane, horphan, hth⟩, -⟩ := hserves.fields
      exact ⟨g, hg, hle, hstrand, hlane, horphan, hth.trans (hthread j), hP g j hserves⟩
    · obtain ⟨a, ha, hserves⟩ := hu.only g hg hle
      obtain ⟨j, hj, rfl⟩ := List.mem_map.mp ha
      obtain ⟨⟨-, -, -, hth⟩, -⟩ := hserves.fields
      rw [hth, hthread]
      exact ⟨hu.fresh g hg, ((mem_threadsIn _ j).mp hj).2⟩
    · exact hu.nextId.trans (by rw [List.length_map]; rfl)
    · exact (congrArg (fun t : Strand => { t with insts := s.me.insts, laneWait := s.me.laneWait }) hme :)

section

variable {s : State} {i : Instr} {key : Nat → Nat} {stage : Stage} {ev : Nat} {spad : Bool} (hs : FreshIds s)

include hs

/-- Loads (R173, R174, R176). -/
theorem laneLoad_asked {m : LaneMem} {kind : ReqKind} (hexec : exec i s = s.laneLoad i m { memForm m false spad .home ev with stage } kind)
    (hb : s.me.budgetOk (m.vregs true false) = true) {va : Nat → W64} (hva : va = fun j => s.laneEa s.cur j m.base m.off m.scale.toNat m.imm)
    (h : ∀ j < 32, (s.me.execSet m.m).getLsbD j = true → (va j).toNat % m.width.bytes = 0 ∧ s.translate s.cur true needR (va j) = .key (key j) ∧
      LaneUnwatched s wpLd (va j) m.width.bytes ∧ (spad = true → inAperture (va j) = true)) :
    Gives i s (fun t => LaneAsked s t (s.me.execSet m.m) (fun j f => f.va = va j ∧ f.key = key j ∧ f.bytes = m.width.bytes ∧ f.kind = kind ∧
      f.dest = .v m.d m.width.regs ∧ f.sx = m.sx ∧ f.qual = m.qual ∧ f.ord = m.ord ∧ f.scope = m.scope ∧ f.ev = ev)) := by
  subst hva
  refine laneIssue_asked (key := key) hexec (fun _ => rfl) hs hb (fun _ => rfl) (fun j hj hx => ?_) fun g j hg => ?_
  · obtain ⟨halign, hkey, hwatch, hspad⟩ := h j hj hx
    exact State.checkAcc_key halign nofun hspad hkey fun _ => hwatch
  · obtain ⟨-, ⟨hva, hkey, hbytes, hkind, -, hdest⟩, hsx, hqual, hord, hscope, hev⟩ := hg.fields
    exact ⟨hva, hkey, hbytes, hkind, hdest, hsx, hqual, hord, hscope, hev⟩

/-- Stores (R173, R177). -/
theorem laneStore_asked {m : LaneMem} {kind : ReqKind} (hexec : exec i s = s.laneStore i m { memForm m true spad .home ev with stage } kind)
    (hb : s.me.budgetOk (m.vregs false true) = true) {va : Nat → W64} (hva : va = fun j => s.laneEa s.cur j m.base m.off m.scale.toNat m.imm)
    (h : ∀ j < 32, (s.me.execSet m.m).getLsbD j = true → (va j).toNat % m.width.bytes = 0 ∧ s.translate s.cur true needW (va j) = .key (key j) ∧
      LaneUnwatched s wpSt (va j) m.width.bytes ∧ (spad = true → inAperture (va j) = true)) :
    Gives i s (fun t => LaneAsked s t (s.me.execSet m.m) (fun j f => f.va = va j ∧ f.key = key j ∧ f.bytes = m.width.bytes ∧ f.kind = kind ∧
      f.data = s.laneData s.cur j m.width.bytes m.data ∧ f.dest = .none ∧ f.qual = m.qual ∧ f.ord = m.ord ∧ f.scope = m.scope ∧ f.ev = ev)) := by
  subst hva
  refine laneIssue_asked (key := key) hexec (fun _ => rfl) hs hb (fun _ => rfl) (fun j hj hx => ?_) fun g j hg => ?_
  · obtain ⟨halign, hkey, hwatch, hspad⟩ := h j hj hx
    exact State.checkAcc_key halign nofun hspad hkey fun _ => hwatch
  · obtain ⟨-, ⟨hva, hkey, hbytes, hkind, hdata, hdest⟩, -, hqual, hord, hscope, hev⟩ := hg.fields
    exact ⟨hva, hkey, hbytes, hkind, hdata, hdest, hqual, hord, hscope, hev⟩

/-- ATOM and RED (R213 to R216). -/
theorem laneAtomic_asked {q : Atomic} {ret : Bool} (hexec : exec i s = s.laneAtomic i q ret) (hb : s.me.budgetOk (q.vregs ret) = true)
    {va : Nat → W64} (hva : va = fun j => s.laneEa s.cur j q.base q.off q.scale.toNat q.imm)
    (h : ∀ j < 32, (s.me.execSet q.m).getLsbD j = true → (va j).toNat % (q.ty.bits / 8) = 0 ∧ s.translate s.cur true needRW (va j) = .key (key j)) :
    Gives i s (fun t => LaneAsked s t (s.me.execSet q.m) (fun j f => f.va = va j ∧ f.key = key j ∧ f.bytes = q.ty.bits / 8 ∧
      f.kind = .atom q.op q.ty (s.casComparand s.cur j q) ret ∧ f.data = s.laneData s.cur j (q.ty.bits / 8) q.data ∧
      f.dest = (if ret then .v q.d q.ty.regs else .none) ∧ f.ord = q.ord ∧ f.scope = q.scope)) := by
  subst hva
  refine laneIssue_asked (key := key) hexec (fun _ => rfl) hs hb (fun _ => rfl) (fun j hj hx => ?_) fun g j hg => ?_
  · obtain ⟨halign, hkey⟩ := h j hj hx
    exact State.checkAcc_key halign nofun nofun hkey nofun
  · obtain ⟨-, ⟨hva, hkey, hbytes, hkind, hdata, hdest⟩, -, -, hord, hscope, -⟩ := hg.fields
    exact ⟨hva, hkey, hbytes, hkind, hdata, hdest, hord, hscope⟩

/-- The inkwell instructions (R217 to R221): what a thread's access carries and where its answer goes are theirs to say. -/
theorem ink_asked {k : Ink} {need : Nat} {kind : ReqKind} {regs : List (Nat × Nat)} {data : Nat → Nat} {dest : Dest}
    (hexec : exec i s = s.laneAccess i regs k.m (inkForm k need) (fun j =>
      { thread := j, va := s.laneEa s.cur j k.base k.off 0 k.imm, kind, data := data j, dest }))
    (hb : s.me.budgetOk regs = true) {va : Nat → W64} (hva : va = fun j => s.laneEa s.cur j k.base k.off 0 k.imm)
    (h : ∀ j < 32, (s.me.execSet k.m).getLsbD j = true → (va j).toNat % 128 = 0 ∧ s.translate s.cur true need (va j) = .key (key j) ∧
      (va j).toNat % 4096 ≤ 3712) {P : Nat → Flight → Prop} (hP : ∀ g j, g.data = data j → g.dest = dest → P j g) :
    Gives i s (fun t => LaneAsked s t (s.me.execSet k.m) (fun j f => f.va = va j ∧ f.key = key j ∧ f.bytes = 384 ∧ f.kind = kind ∧ f.ord = k.ord ∧
      f.scope = k.scope ∧ P j f)) := by
  subst hva
  refine laneIssue_asked (key := key) hexec (fun _ => rfl) hs hb (fun _ => rfl) (fun j hj hx => ?_) fun g j hg => ?_
  · obtain ⟨halign, hkey, hpage⟩ := h j hj hx
    exact State.checkAcc_key halign (fun _ => hpage) nofun hkey nofun
  · obtain ⟨-, ⟨hva, hkey, hbytes, hkind, hdata, hdest⟩, -, -, hord, hscope, -⟩ := hg.fields
    exact ⟨hva, hkey, hbytes, hkind, hord, hscope, hP g j hdata hdest⟩

/-- FEWAIT outside the cancel state (R233). -/
theorem fewait_asked {w : FeWait} (hc : s.cancelled s.cur = false) (hb : s.me.budgetOk w.vregs = true) {va : Nat → W64}
    (hva : va = fun j => s.laneEa s.cur j w.base w.off w.scale.toNat w.imm)
    (h : ∀ j < 32, (s.me.execSet w.m).getLsbD j = true → (va j).toNat % 16 = 0 ∧ s.translate s.cur true needR (va j) = .key (key j) ∧
      LaneUnwatched s wpNone (va j) 16 ∧ inAperture (va j) = true) :
    Gives (.fewait w) s (fun t => LaneAsked s t (s.me.execSet w.m) (fun j f => f.va = va j ∧ f.key = key j ∧ f.bytes = 16 ∧
      f.kind = .fewait w.full ∧ f.dest = .none ∧ f.ord = w.ord ∧ f.scope = w.scope)) := by
  subst hva
  refine laneIssue_asked (key := key)
    (f := { bytes := 16, align := 16, need := needR, spadOnly := true, wp := wpNone, ord := w.ord, scope := w.scope })
    rfl (fun _ => if_neg (by simp [hc])) hs hb (fun _ => rfl) (fun j hj hx => ?_) fun g j hg => ?_
  · obtain ⟨halign, hkey, hwatch, hspad⟩ := h j hj hx
    exact State.checkAcc_key halign nofun (fun _ => hspad) hkey fun _ => hwatch
  · obtain ⟨-, ⟨hva, hkey, hbytes, hkind, -, hdest⟩, -, -, hord, hscope, -⟩ := hg.fields
    exact ⟨hva, hkey, hbytes, hkind, hdest, hord, hscope⟩

/-- LDL (R175): one access for all the threads. -/
theorem ldl_started {m : LaneMem} {va : W64} {key : Nat} (hva : va = s.laneEa s.cur 0 m.base m.off m.scale.toNat m.imm)
    (hb : s.me.budgetOk (m.vregs true false) = true) (hx : s.me.execSet m.m ≠ 0) (halign : va.toNat % 128 = 0)
    (hkey : s.translate s.cur true needR va = .key key) (hwatch : LaneUnwatched s wpLd va 128) :
    Gives (.ldl m) s (fun t => LaneWent s t ∧ (∀ a, t.byte a = s.byte a) ∧ t.nextId = s.nextId + 1 ∧
      ∃ f ∈ t.flights, f.id = s.nextId ∧ f.strand = s.cur ∧ f.kind = .line ∧ f.va = va ∧ f.key = key ∧ f.bytes = 128 ∧
        f.data = (s.me.execSet m.m).toNat ∧ f.dest = .v m.d 1) := by
  subst hva
  refine ⟨_, congrArg Host.Outcome.next (State.laneIssue_run _ _ _ _ hb hx), ?_⟩
  obtain ⟨u, hu, hdone⟩ := State.issueAccs_lane_pass (s := s) (i := .ldl m) (key := fun _ => key) (done := fun t => t.setMe t.me.laneAdvance)
    (f := { memForm m false false .home m.ev.toNat with bytes := 128, align := 128 })
    (accs := [{ thread := (threadsIn (s.me.execSet m.m)).headD 0, also := s.me.execSet m.m,
                va := s.laneEa s.cur 0 m.base m.off m.scale.toNat m.imm, kind := .line, data := (s.me.execSet m.m).toNat, dest := .v m.d 1 }])
    (fun a ha => List.mem_singleton.mp ha ▸ State.checkAcc_key halign nofun nofun hkey fun _ => hwatch) hs.1
  obtain ⟨hwent, hbytes, -⟩ := hu.gone
  obtain ⟨g, hg, hle, hserves⟩ := hu.serves _ (List.mem_singleton_self _)
  obtain ⟨⟨hstrand, -⟩, ⟨hva, hkey, hwidth, hkind, hdata, hdest⟩, -⟩ := hserves.fields
  have hlt : g.id < s.nextId + 1 := hu.nextId ▸ hu.fresh g hg
  dsimp only
  rw [hdone]
  exact ⟨hwent, hbytes, hu.nextId, g, hg, le_antisymm (Nat.le_of_lt_succ hlt) hle, hstrand, hkind, hva, hkey, hwidth, hdata, hdest⟩

end

/-- FEWAIT in the cancel state (R224). -/
theorem fewait_cancelled {s : State} {w : FeWait} (hc : s.cancelled s.cur = true) (hb : s.me.budgetOk w.vregs = true) :
    Gives (.fewait w) s (fun t => OnlyMe s t ∧ LaneWent s t ∧ { t.me.withStream s.me with laneWait := s.me.laneWait } = s.me) := by
  have hframe : { s.me.laneAdvance.withStream s.me with laneWait := s.me.laneWait } = s.me :=
    congrArg (fun t : Strand => { t with laneWait := s.me.laneWait }) s.me.laneAdvance_frame
  refine ⟨_, rfl, ?_⟩
  by_cases hx : s.me.execSet w.m = 0
  · rw [State.laneIssue_pass _ _ _ _ hb hx]
    refine ⟨onlyMe_setMe s _, laneWent_laneAdvance rfl, ?_⟩
    rw [State.me_setMe]
    exact hframe
  · rw [State.laneIssue_run _ _ _ _ hb hx, if_pos hc]
    refine ⟨onlyMe_setMe s _, laneWent_endWait s, ?_⟩
    rw [State.me_setMe]
    exact hframe

end Sys2Proof.Machine

open Sys2Proof Sys2Proof.Machine Sys2Proof.Claims

/-- Settles O37: the accesses pass their check one by one, and each starts with the next number. -/
theorem laneAccessesStart : Obligations.LaneAccessesStart := by
  intro s m q k w key hs
  refine ⟨fun hb h => laneLoad_asked hs rfl hb rfl h, fun hb h => laneLoad_asked hs rfl hb rfl h, fun hb h => laneLoad_asked hs rfl hb rfl h,
    fun hb h => laneStore_asked hs rfl hb rfl h, fun hb h => laneStore_asked hs rfl hb rfl h, fun hb h => laneStore_asked hs rfl hb rfl h,
    fun hb h => laneAtomic_asked hs rfl hb rfl fun j hj hx => ?_, fun hb h => laneAtomic_asked hs rfl hb rfl fun j hj hx => ?_,
    fun hb h => ink_asked hs rfl hb rfl h fun _ _ hdata _ => hdata, fun hb h => ink_asked hs rfl hb rfl h fun _ _ _ hdest => hdest,
    fun hb h => ink_asked hs rfl hb rfl h fun _ _ _ hdest => hdest, fewait_cancelled, fun hc hb h => fewait_asked hs hc hb rfl h,
    fun hb hx halign hkey hwatch => ldl_started hs rfl hb hx halign hkey hwatch⟩
  all_goals
    obtain ⟨halign, hkey, -⟩ := h j hj hx
    exact ⟨halign, hkey⟩

end

section
/-! PREF and the lines of other cores (R178): a prefetch whose walk reads a line that another core holds in ownership recalls it, and the recall drops
every line of that number. -/

namespace Sys2Proof.Machine

open Sys2Proof

/-- A prefetch by all threads from address 0. -/
def prefetchAtZero : LaneMem :=
  { width := .w32, sx := false, qual := .plain, ord := .rlx, scope := .strand, ev := 4, scale := 0, d := 0, base := 0, off := .s 0, data := .s 0,
    m := noMask, imm := 0 }

/-- Line 0 as core 1 holds it. -/
def lineZero (owned : Bool) : L1Line := { line := 0, bytes := List.replicate 128 0, ev := 4, owned, served := 0, vec := [] }

/-- A strand of core 0 with one run, whose page table has its root at 0 and maps nothing. Core 1 holds the line of the entry that a walk reads
twice: once in ownership, once not. -/
def walksPastTwins : State :=
  { State.reset with
    strands := [(0, { Strand.zero with live := true, budget := 16, runs := [{ seq := 0, pc := 0x2000, left := 2, bound := 0 }], nextRun := 1 })],
    cores := [(0, Core.zero), (1, { Core.zero with l1 := [lineZero true, lineZero false] })] }

theorem budgetOk_walksPastTwins : walksPastTwins.me.budgetOk (prefetchAtZero.vregs false false) = true := rfl

theorem lineZero_mem_walksPastTwins : lineZero false ∈ (walksPastTwins.core 1).l1 := List.mem_cons_of_mem _ (List.mem_singleton_self _)

/-- The prefetch leaves core 1 neither line. -/
theorem exec_pref_walksPastTwins : ∃ t, exec (.pref prefetchAtZero) walksPastTwins = .next t ∧ (t.core 1).l1 = [] :=
  ⟨_, rfl, by decide +kernel⟩

end Sys2Proof.Machine

open Sys2Proof Sys2Proof.Machine Sys2Proof.Claims

/-- Refutes O38: where a core's list holds a line twice, once in ownership and once not, the recall of a PREF's walk drops both; the statement
lets a PREF drop lines in ownership alone, and does not ask that a core holds each line once. -/
theorem not_prefetchFenceTlbsync : ¬ Obligations.PrefetchFenceTlbsync := by
  intro h
  obtain ⟨hpref, -⟩ := h walksPastTwins prefetchAtZero { scope := .strand, ev := 4, base := 0, data := 0, m := noMask, imm := 0 } .rlx .strand 0 noMask
  obtain ⟨t, hexec, -, -, -, -, hcores, -⟩ := hpref budgetOk_walksPastTwins
  obtain ⟨u, hexec', hgone⟩ := exec_pref_walksPastTwins
  obtain rfl : t = u := Host.Outcome.next.inj (hexec.symm.trans hexec')
  obtain ⟨-, hdropped⟩ := hcores 1
  exact absurd (hdropped _ lineZero_mem_walksPastTwins (by rw [hgone]; exact List.not_mem_nil)) (by decide)

end
